-- ==== Sys2Proof/Word.lean ====
section
/-! DEFINITION. The words of the machine and the one container the state is built from: a finite map keyed by numbers, held as a list with rising keys. -/

namespace Sys2Proof

/-- A byte, the unit of memory (R91). -/
abbrev Byte := BitVec 8
/-- A 16-bit half of a register. -/
abbrev Half := BitVec 16
/-- A register of 32 bits (R120). -/
abbrev Word := BitVec 32
/-- A pair of registers (R100). -/
abbrev DWord := BitVec 64
/-- A run of four registers (R100). -/
abbrev QWord := BitVec 128
/-- The 128 bytes of one line (R254). -/
abbrev LineData := BitVec 1024
/-- One bit per byte of a line (R252). -/
abbrev LineMask := BitVec 128

/-- A finite map from numbers to values: pairs in rising order of their keys. -/
abbrev SMap (α : Type) := List (Nat × α)

namespace SMap

variable {α : Type}

/-- The value stored at key `k`, if there is one. -/
def get? (k : Nat) : SMap α → Option α
  | [] => none
  | (k', v) :: t => if k = k' then some v else get? k t

/-- Stores `v` at key `k`, in the place the rising order gives it. -/
def put (k : Nat) (v : α) : SMap α → SMap α
  | [] => [(k, v)]
  | (k', v') :: t =>
    if k < k' then (k, v) :: (k', v') :: t
    else if k = k' then (k, v) :: t
    else (k', v') :: put k v t

/-- Removes key `k`. -/
def del (k : Nat) : SMap α → SMap α
  | [] => []
  | (k', v') :: t => if k = k' then del k t else (k', v') :: del k t

/-- The value at `k`, where an unlisted key holds `d`. -/
def get (d : α) (k : Nat) (m : SMap α) : α := (get? k m).getD d

/-- Stores `v` at `k` in a map whose unlisted keys hold `d`: storing `d` removes the entry. -/
def set [DecidableEq α] (d : α) (k : Nat) (v : α) (m : SMap α) : SMap α :=
  if v = d then del k m else put k v m

/-- Changes the value stored at `k`, and does nothing where there is none. -/
def modify (k : Nat) (f : α → α) : SMap α → SMap α
  | [] => []
  | (k', v) :: t => if k = k' then (k', f v) :: t else (k', v) :: modify k f t

/-- The values, in order of their keys. -/
def values (m : SMap α) : List α := m.map Prod.snd

/-- The keys, in order. -/
def keys (m : SMap α) : List Nat := m.map Prod.fst

/-- Keys rise strictly from above `lo`. -/
def risingFrom : Nat → SMap α → Bool
  | _, [] => true
  | lo, (k, _) :: t => decide (lo ≤ k) && risingFrom (k + 1) t

/-- The canonical form: keys rise strictly and no entry equals the value of an unlisted key. -/
def canonical [DecidableEq α] (d : α) (m : SMap α) : Bool :=
  risingFrom 0 m && m.all (fun e => decide (e.2 ≠ d))

end SMap

/-- A finite set of numbers, in rising order without repeats. -/
abbrev NSet := List Nat

namespace NSet

/-- Adds a member. -/
def add (k : Nat) : NSet → NSet
  | [] => [k]
  | k' :: t => if k < k' then k :: k' :: t else if k = k' then k' :: t else k' :: add k t

/-- Removes a member. -/
def drop (k : Nat) (m : NSet) : NSet := m.filter (fun x => x ≠ k)

/-- Membership. -/
def has (k : Nat) (m : NSet) : Bool := m.contains k

end NSet

/-- Bits `hi` down to `lo` of a number. -/
def bitsOf (x hi lo : Nat) : Nat := (x >>> lo) % 2 ^ (hi + 1 - lo)

/-- The bytes of a number, lowest first (R91, R100). -/
def bytesOf (x : Nat) : Nat → List Byte
  | 0 => []
  | n + 1 => BitVec.ofNat 8 x :: bytesOf (x >>> 8) n

/-- The number a list of bytes holds, the first byte lowest. -/
def numOf : List Byte → Nat
  | [] => 0
  | b :: t => b.toNat + 256 * numOf t

/-- The first member of a list that satisfies `p`, with its place. -/
def findPlace {α : Type} (p : α → Bool) : List α → Option Nat
  | [] => none
  | a :: t => if p a then some 0 else (findPlace p t).map (· + 1)

/-- Replaces the member at place `n`. -/
def setPlace {α : Type} (n : Nat) (a : α) (l : List α) : List α := l.set n a

/-- Removes the first member that satisfies `p`. -/
def dropFirst {α : Type} (p : α → Bool) : List α → List α
  | [] => []
  | a :: t => if p a then t else a :: dropFirst p t

/-- The numbers of `0 .. n-1` whose bit is set in a mask. -/
def bitsSet (n : Nat) (m : Nat) : List Nat := (List.range n).filter (fun i => m.testBit i)

/-- The mask whose set bits are the members of a list. -/
def maskOf (l : List Nat) : Nat := l.foldl (fun m i => m ||| (1 <<< i)) 0

end Sys2Proof
end

