-- ==== Sys2Proof/Config.lean ====
section
/-! DEFINITION. What the spec fixes for the module, what it leaves to an implementation, and the free values: constants without a body, of which nothing can be proved but what the spec says. -/

namespace Sys2Proof.Config

/-! ## The module (R5, R11 to R14) -/

/-- Reticles of the wafer (R5, R6): 7 columns and 6 rows. -/
def reticles : Nat := 42
def reticleColumns : Nat := 7
/-- Cores of a reticle (R11): 8 columns and 6 rows. -/
def coresPerReticle : Nat := 48
def cores : Nat := 2016
/-- Caldera banks of a reticle (R254). -/
def banksPerReticle : Nat := 128
/-- Ways and sets of a bank (R254). -/
def bankWays : Nat := 16
def bankSets : Nat := 1536
/-- L1 lines, ways and sets of a core (R252). -/
def l1Ways : Nat := 8
def l1Sets : Nat := 256
/-- Entries of a conflict table (R305). -/
def conflictEntries : Nat := 1024
/-- Victim tags of a quadrant (R48). -/
def victimTags : Nat := 256
/-- Entries of a TLB, of a translation cache (R398) and of a monitor table (R405). -/
def tlbEntries : Nat := 64
def cacheEntries : Nat := 16384
def monitorEntries : Nat := 64
/-- Channels, and those that participate at shipment (R267). -/
def channels : Nat := 1536
def participating : Nat := 1528

/-! ## Free values -/

/-- Whether a read before delivery of a class-F result gives the old value (R109): by draw and place. DESIGN CHOICE, log entry 8. -/
opaque earlyOld : Nat → Nat → Bool
/-- Whether a write before delivery of a class-F result is lost to that result (R109). -/
opaque earlyLost : Nat → Nat → Bool
/-- Whether a fetched word is the one the instruction cache holds, where memory has changed (R93). DESIGN CHOICE, log entry 9. -/
opaque fetchOld : Nat → Bool
/-- Which member of an unequal CONTIG group translates an access (R397). DESIGN CHOICE, log entry 10. -/
opaque contigMember : Nat → Nat
/-- The set of a translation cache for an entry: tenant, number of its page, size (R398 names 8 ways and no index). DESIGN CHOICE, log entry 40. -/
opaque cacheSet : Nat → Nat → Nat → Nat
/-- Where both neighbours of a K8 tie have a set bit 0 (28, between 0x43 and 0x41), RNE is left open by R69 and R70. DESIGN CHOICE, log entry 11. -/
opaque k8TieUp : Bool → Bool
/-- Directory entries an anchor tag set holds beyond the 16 that its ways need (R264 gives no number). DESIGN CHOICE, log entry 12. -/
opaque anchorTags : Nat
/-- The number of activations of a row that its limit allows beyond the first (R269 gives no number). DESIGN CHOICE, log entry 13. -/
opaque rowLimit : Nat

/-- The bank of an HBM row among its channel's, which the spec leaves open. DESIGN CHOICE, log entry 97. -/
opaque hbmBank : Nat → Nat
/-- The signed measurements that answer an SPDM request (R457). DESIGN CHOICE, log entry 14. -/
opaque spdmAnswer : List Byte → List Byte → List Byte
/-- The program image that comes with a firmware image (R456). The spec does not say where it comes from. DESIGN CHOICE, log entry 80. -/
opaque programImage : List Byte → List Byte
/-- The junction temperature trip of the hardware (R459). DESIGN CHOICE, log entry 75. -/
opaque junctionTrip : Nat
/-- The bytes of a context header (R427), for the items that it holds. DESIGN CHOICE, log entry 95. -/
opaque headerByte : List Nat → Nat → BitVec 8
/-- Round trips of the ping sweep, by bank and core (R410). DESIGN CHOICE, log entry 15. -/
opaque ping : Nat → Nat → Nat
/-- A value that the spec leaves open, by draw. DESIGN CHOICE, log entry 16. -/
opaque freeWord : Nat → Word

end Sys2Proof.Config
end

