-- ==== Sys2Proof/Machine/Number.lean ====
section
/-! DEFINITION. Number formats, rounding, saturation and flags (R62 to R78): exact values, and the one place where they are rounded. -/

namespace Sys2Proof.Machine

/-- A value read from a format: a NaN, an infinity, or (-1)^neg * m * 2^e. -/
inductive FVal where
  | nan (signalling : Bool)
  | inf (neg : Bool)
  | fin (neg : Bool) (m : Nat) (e : Int)
deriving DecidableEq, Repr

/-- The formats of R62 to R64. -/
inductive Fmt where
  | f32 | f64 | f16 | bf16 | e4m3 | e5m2 | k8 | f4 | mxint8
deriving DecidableEq, Repr

/-- Fraction bits, exponent bits and bias of the formats with an exponent field (R62, R63). -/
def Fmt.frac : Fmt → Nat
  | .f32 => 23 | .f64 => 52 | .f16 => 10 | .bf16 => 7 | .e4m3 => 3 | .e5m2 => 2 | .f4 => 1 | .k8 => 5 | .mxint8 => 6
def Fmt.expBits : Fmt → Nat
  | .f32 => 8 | .f64 => 11 | .f16 => 5 | .bf16 => 8 | .e4m3 => 4 | .e5m2 => 5 | .f4 => 2 | .k8 => 6 | .mxint8 => 1
def Fmt.bias : Fmt → Int
  | .f32 => 127 | .f64 => 1023 | .f16 => 15 | .bf16 => 127 | .e4m3 => 7 | .e5m2 => 15 | .f4 => 1 | .k8 => 0 | .mxint8 => 0

/-- Bits of an encoding. -/
def Fmt.bits : Fmt → Nat
  | .f32 => 32 | .f64 => 64 | .f16 => 16 | .bf16 => 16 | .f4 => 4 | _ => 8

/-- The format has infinities (R62, R63). -/
def Fmt.hasInf : Fmt → Bool
  | .f32 | .f64 | .f16 | .bf16 | .e5m2 => true
  | _ => false

/-- The canonical NaN (R67); FP4 and MXINT8 have none, and a NaN becomes +0 (R68). -/
def Fmt.nan : Fmt → Nat
  | .f32 => 0x7FC00000 | .f64 => 0x7FF8000000000000 | .bf16 => 0x7FC0 | .f16 => 0x7E00 | .e4m3 => 0x7F
  | .e5m2 => 0x7E | .k8 => 0x80 | .f4 => 0 | .mxint8 => 0

/-- The largest finite magnitude as an encoding (R62 to R64). -/
def Fmt.largest : Fmt → Nat
  | .f32 => 0x7F7FFFFF | .f64 => 0x7FEFFFFFFFFFFFFF | .f16 => 0x7BFF | .bf16 => 0x7F7F | .e4m3 => 0x7E
  | .e5m2 => 0x7B | .k8 => 0x40 | .f4 => 0x7 | .mxint8 => 0x7F

/-- The encoding of +infinity where there is one. -/
def Fmt.infinity (f : Fmt) : Nat := (2 ^ f.expBits - 1) <<< f.frac

/-- Puts a sign on the encoding of a magnitude. K8 has no negative zero (R64); MXINT8 is two's complement (R63). -/
def Fmt.signed (f : Fmt) (neg : Bool) (mag : Nat) : Nat :=
  match f with
  | .mxint8 => if neg then (256 - mag) % 256 else mag
  | .k8 => if neg && mag != 0 then mag + 0x80 else mag
  | _ => if neg then mag + 2 ^ (f.bits - 1) else mag

/-- K8 codes (R64): a run of `m` zeros, a marker and a fraction. -/
def k8Value (code : Nat) : FVal :=
  let s := code.testBit 7
  let d := code.testBit 6
  let b := code % 64
  if b = 0 then
    if d then .fin s 64 0 else if s then .nan false else .fin false 0 0
  else if d then .fin s b (2 * (5 - (Nat.log2 b : Int)) - 5)
  else .fin s b (-6)

/-- The value of an encoding (R62 to R64). -/
def Fmt.value (f : Fmt) (code : Nat) : FVal :=
  match f with
  | .k8 => k8Value (code % 256)
  | .mxint8 =>
    let c := code % 256
    if c < 128 then .fin false c (-6) else .fin true (256 - c) (-6)
  | _ =>
    let c := code % 2 ^ f.bits
    let neg := c.testBit (f.bits - 1)
    let ex := (c >>> f.frac) % 2 ^ f.expBits
    let fr := c % 2 ^ f.frac
    let top := ex = 2 ^ f.expBits - 1
    if f = .e4m3 ∧ top ∧ fr = 7 then .nan false
    else if f.hasInf ∧ top then
      if fr = 0 then .inf neg else .nan (f ≠ .e5m2 && !fr.testBit (f.frac - 1))
    else if ex = 0 then .fin neg fr (1 - f.bias - f.frac)
    else .fin neg (fr + 2 ^ f.frac) (ex - f.bias - f.frac)

/-! ## Rounding (R69 to R72) -/

/-- The flags of FFLAGS (R126). -/
abbrev Flags := BitVec 5
def flagNV : Flags := 0x10
def flagDZ : Flags := 0x08
def flagOF : Flags := 0x04
def flagUF : Flags := 0x02
def flagNX : Flags := 0x01

/-- A result with the flags it raises. -/
structure FRes where
  bits  : Nat
  flags : Flags := 0
deriving DecidableEq, Repr

/-- Where an exact value lies between two neighbours of a grid: on the lower one, below, on or above the midpoint. -/
inductive Rest where
  | exact | below | half | above
deriving DecidableEq, Repr

/-- The whole number of steps 2^q below m * 2^e, and the rest. -/
def steps (m : Nat) (e q : Int) : Nat × Rest :=
  if q ≤ e then (m <<< (e - q).toNat, .exact)
  else
    let k := (q - e).toNat
    let r := m % 2 ^ k
    (m >>> k, if r = 0 then .exact else if 2 * r < 2 ^ k then .below else if 2 * r = 2 ^ k then .half else .above)

/-- The rounding codes of R69; 5, 6 and 7 in MODE are RNE. `tieUp`: RNE takes the upper neighbour of a tie. -/
def roundsUp (mode : Nat) (neg tieUp : Bool) (r : Rest) : Bool :=
  match r with
  | .exact => false
  | r =>
    match mode with
    | 1 => false
    | 2 => neg
    | 3 => !neg
    | 4 => r == .half || r == .above
    | _ => r == .above || (r == .half && tieUp)

/-- floor(log2 (m * 2^e)) for a nonzero m. -/
def magnitude (m : Nat) (e : Int) : Int := (Nat.log2 m : Int) + e

/-- What an overflow delivers (R71), or R72 with saturation. -/
def overflowBits (f : Fmt) (mode : Nat) (sat neg : Bool) : Nat :=
  let toInf := match mode with
    | 1 => false
    | 2 => neg
    | 3 => !neg
    | _ => true
  if sat || !toInf then f.signed neg f.largest
  else if f.hasInf then f.signed neg f.infinity
  else match f with
    | .f4 | .mxint8 => f.signed neg f.largest
    | _ => f.nan

/-- Rounds a nonzero magnitude to a format with an exponent field (R70, R71, R76). -/
def roundIeee (f : Fmt) (mode : Nat) (sat neg : Bool) (m : Nat) (e : Int) : FRes :=
  let emin : Int := 1 - f.bias
  let qmin : Int := emin - f.frac
  let q0 : Int := magnitude m e - f.frac
  let q : Int := max q0 qmin
  let (n, r) := steps m e q
  let n' := if roundsUp mode neg (n % 2 = 1) r then n + 1 else n
  let code := (q - qmin).toNat * 2 ^ f.frac + n'
  let nx := r != .exact
  -- the tininess of R76: rounded with an unbounded exponent
  let (u, ur) := steps m e q0
  let u' := if roundsUp mode neg (u % 2 = 1) ur then u + 1 else u
  let tiny := decide (q0 < qmin) && !(decide (u' = 2 ^ (f.frac + 1)) && decide (q0 + 1 = qmin))
  if code > f.largest then
    { bits := overflowBits f mode sat neg, flags := flagOF ||| flagNX }
  else
    { bits := f.signed neg code,
      flags := (if nx then flagNX else 0) ||| (if tiny && nx then flagUF else 0) }

/-- Rounds a nonzero magnitude to K8 (R70, R71): the grid thins towards 64 and goes on above it. -/
def roundK8 (mode : Nat) (sat neg : Bool) (m : Nat) (e : Int) : FRes :=
  let x := magnitude m e
  let q : Int := if x < 0 then -6 else if x ≤ 5 then 2 * x - 5 else x
  let (n, r) := steps m e q
  -- R69: RNE takes the neighbour whose code has a clear low bit; R71: 64 is even, what lies above is odd
  let tieUp :=
    if x ≥ 6 then false
    else if x = 4 ∧ n = 3 then Config.k8TieUp neg
    else n % 2 = 1
  let up := roundsUp mode neg tieUp r
  let n' := if up then n + 1 else n
  let nx := r != .exact
  let tiny := decide (x < -6)
  if x ≥ 6 ∧ (x > 6 ∨ up) then
    { bits := overflowBits .k8 mode sat neg, flags := flagOF ||| flagNX }
  else
    let code :=
      if x < 0 then (if n' < 64 then n' else 0x60)
      else if x ≥ 6 then 0x40
      else if n' < 2 ^ ((6 - x).toNat) then 0x40 + n'
      else if x = 5 then 0x40 else 0x40 + 2 ^ ((4 - x).toNat)
    { bits := Fmt.k8.signed neg code, flags := (if nx then flagNX else 0) ||| (if tiny && nx then flagUF else 0) }

/-- Rounds a nonzero magnitude to MXINT8 (R63, R71, R181): steps of 1/64, limited to 127 of them. -/
def roundMxint8 (mode : Nat) (neg : Bool) (m : Nat) (e : Int) : FRes :=
  let (n, r) := steps m e (-6)
  let n' := if roundsUp mode neg (n % 2 = 1) r then n + 1 else n
  let nx := r != .exact
  if n' > 127 then { bits := Fmt.mxint8.signed neg 127, flags := flagOF ||| flagNX }
  else { bits := Fmt.mxint8.signed neg n',
         flags := (if nx then flagNX else 0) ||| (if nx && decide (magnitude m e < -6) then flagUF else 0) }

/-- Rounds an exact finite value to a format; `mode` is a rounding code, `sat` the saturation of R72. -/
def roundFin (f : Fmt) (mode : Nat) (sat neg : Bool) (m : Nat) (e : Int) : FRes :=
  if m = 0 then { bits := f.signed neg 0 }
  else match f with
    | .k8 => roundK8 mode sat neg m e
    | .mxint8 => roundMxint8 mode neg m e
    | _ => roundIeee f mode sat neg m e

/-- Delivers a value in a format, as a conversion does: infinities by R71 and R72, NaN by R68. -/
def convert (f : Fmt) (mode : Nat) (sat : Bool) (x : FVal) : FRes :=
  match x with
  | .nan s => { bits := f.nan, flags := if s || f == .f4 || f == .mxint8 then flagNV else 0 }
  | .inf neg =>
    if f.hasInf && !sat then { bits := f.signed neg f.infinity }
    else if sat then { bits := f.signed neg f.largest, flags := flagNV }
    else { bits := match f with
             | .f4 | .mxint8 => f.signed neg f.largest
             | _ => f.nan,
           flags := flagNV }
  | .fin neg m e => roundFin f mode sat neg m e

/-! ## Conversion to integers (R73) -/

/-- Rounds a value to an integer of `w` bits and delivers it as those bits. -/
def toInt (signed : Bool) (w mode : Nat) (sat : Bool) (x : FVal) : FRes :=
  let lo : Int := if signed then -(2 ^ (w - 1) : Nat) else 0
  let hi : Int := if signed then (2 ^ (w - 1) : Nat) - 1 else (2 ^ w : Nat) - 1
  let word (i : Int) : Nat := (i % (2 ^ w : Nat)).toNat
  let off : Nat := if signed then 2 ^ (w - 1) else 2 ^ w - 1
  match x with
  | .nan _ => { bits := if sat then 0 else off, flags := flagNV }
  | .inf neg => { bits := if sat then word (if neg then lo else hi) else off, flags := flagNV }
  | .fin neg m e =>
    let (n, r) := steps m e 0
    let n' := if roundsUp mode neg (n % 2 = 1) r then n + 1 else n
    let i : Int := if neg then -(n' : Int) else n'
    if i < lo then { bits := if sat then word lo else off, flags := flagNV }
    else if hi < i then { bits := if sat then word hi else off, flags := flagNV }
    else { bits := word i, flags := if r == .exact then 0 else flagNX }

/-- The integer that `w` bits hold. -/
def intOf (signed : Bool) (w bits : Nat) : Int :=
  let b := bits % 2 ^ w
  if signed && b.testBit (w - 1) then (b : Int) - (2 ^ w : Nat) else b

/-- An integer as an exact value. -/
def FVal.ofInt (i : Int) : FVal := .fin (i < 0) i.natAbs 0

/-! ## Exact arithmetic -/

/-- A value is a signalling NaN. -/
def FVal.isSnan : FVal → Bool
  | .nan s => s
  | _ => false

/-- The flag that signalling operands raise (R68). -/
def snanFlag (l : List FVal) : Flags := if l.any FVal.isSnan then flagNV else 0

/-- The opposite value. -/
def FVal.negate : FVal → FVal
  | .nan s => .nan s
  | .inf n => .inf (!n)
  | .fin n m e => .fin (!n) m e

/-- The exact sum of two finite values over a common power of two. -/
def addFin (n1 : Bool) (m1 : Nat) (e1 : Int) (n2 : Bool) (m2 : Nat) (e2 : Int) : Int × Int :=
  let e := min e1 e2
  let a : Int := (m1 <<< (e1 - e).toNat : Nat)
  let b : Int := (m2 <<< (e2 - e).toNat : Nat)
  ((if n1 then -a else a) + (if n2 then -b else b), e)

/-- Rounds the sum of two values to a format, with the signed zeros of IEEE 754 (R70, R86). -/
def fAdd (f : Fmt) (mode : Nat) (x y : FVal) : FRes :=
  match x, y with
  | .nan s, .nan t => { bits := f.nan, flags := if s || t then flagNV else 0 }
  | .nan s, _ => { bits := f.nan, flags := if s then flagNV else 0 }
  | _, .nan s => { bits := f.nan, flags := if s then flagNV else 0 }
  | .inf a, .inf b => if a = b then { bits := f.signed a f.infinity } else { bits := f.nan, flags := flagNV }
  | .inf a, _ => { bits := f.signed a f.infinity }
  | _, .inf b => { bits := f.signed b f.infinity }
  | .fin n1 m1 e1, .fin n2 m2 e2 =>
    let (s, e) := addFin n1 m1 e1 n2 m2 e2
    if s = 0 then
      { bits := f.signed (if m1 = 0 ∧ m2 = 0 ∧ n1 = n2 then n1 else decide (mode = 2)) 0 }
    else roundFin f mode false (s < 0) s.natAbs e

/-- The exact product of two values, and whether it is invalid. The sign of a zero product is that of the factors, also for MXINT8, which
has no -0 (R80). DESIGN CHOICE, log entry 88. -/
def mulVal (x y : FVal) : FVal × Bool :=
  match x, y with
  | .nan _, _ | _, .nan _ => (.nan false, false)
  | .inf a, .inf b => (.inf (a != b), false)
  | .inf a, .fin b m _ => if m = 0 then (.nan false, true) else (.inf (a != b), false)
  | .fin a m _, .inf b => if m = 0 then (.nan false, true) else (.inf (a != b), false)
  | .fin a m e, .fin b n g => (.fin (a != b) (m * n) (e + g), false)

/-- The rounded product. -/
def fMul (f : Fmt) (mode : Nat) (x y : FVal) : FRes :=
  let (p, bad) := mulVal x y
  let fl := snanFlag [x, y] ||| (if bad then flagNV else 0)
  match p with
  | .nan _ => { bits := f.nan, flags := fl }
  | .inf a => { bits := f.signed a f.infinity, flags := fl }
  | .fin a m e => roundFin f mode false a m e

/-- The product plus a third value, rounded once. -/
def fFma (f : Fmt) (mode : Nat) (negP : Bool) (x y z : FVal) : FRes :=
  let (p, bad) := mulVal x y
  let fl := snanFlag [x, y, z] ||| (if bad then flagNV else 0)
  let r := fAdd f mode (if negP then p.negate else p) (match z with | .nan _ => .nan false | z => z)
  { r with flags := r.flags ||| fl }

/-- The quotient, with a sticky bit below more bits than any format keeps. -/
def fDiv (f : Fmt) (x y : FVal) : FRes :=
  let fl := snanFlag [x, y]
  match x, y with
  | .nan _, _ | _, .nan _ => { bits := f.nan, flags := fl }
  | .inf _, .inf _ => { bits := f.nan, flags := flagNV }
  | .inf a, .fin b _ _ => { bits := f.signed (a != b) f.infinity }
  | .fin a _ _, .inf b => { bits := f.signed (a != b) 0 }
  | .fin a m e, .fin b n g =>
    if n = 0 then
      if m = 0 then { bits := f.nan, flags := flagNV }
      else { bits := f.signed (a != b) f.infinity, flags := flagDZ }
    else
      let k := 128 + Nat.log2 n
      let q := (m <<< k) / n
      let r := (m <<< k) % n
      roundFin f 0 false (a != b) (2 * q + (if r = 0 then 0 else 1)) (e - g - k - 1)

/-- floor(sqrt n), bit by bit from the given bit down. -/
def isqrtFrom (n : Nat) : Nat → Nat → Nat
  | 0, r => r
  | k + 1, r =>
    let t := r + 2 ^ k
    isqrtFrom n k (if t * t ≤ n then t else r)

/-- floor(sqrt n). -/
def isqrt (n : Nat) : Nat := isqrtFrom n (Nat.log2 n / 2 + 1) 0

/-- The square root, with a sticky bit. -/
def fSqrt (f : Fmt) (x : FVal) : FRes :=
  match x with
  | .nan s => { bits := f.nan, flags := if s then flagNV else 0 }
  | .inf neg => if neg then { bits := f.nan, flags := flagNV } else { bits := f.infinity }
  | .fin neg m e =>
    if m = 0 then { bits := f.signed neg 0 }
    else if neg then { bits := f.nan, flags := flagNV }
    else
      let k : Nat := 160 + (if e % 2 = 0 then 0 else 1)
      let n := m <<< k
      let r := isqrt n
      roundFin f 0 false false (2 * r + (if r * r = n then 0 else 1)) ((e - k) / 2 - 1)

/-! ## Comparison, minimum and maximum (R85, R87, R174) -/

/-- Orders two finite or infinite values, the zeros equal. -/
def cmpVal (x y : FVal) : Option Ordering :=
  match x, y with
  | .nan _, _ | _, .nan _ => none
  | .inf a, .inf b => some (if a = b then .eq else if a then .lt else .gt)
  | .inf a, _ => some (if a then .lt else .gt)
  | _, .inf b => some (if b then .gt else .lt)
  | .fin n1 m1 e1, .fin n2 m2 e2 =>
    let (s, _) := addFin n1 m1 e1 (!n2) m2 e2
    some (if s < 0 then .lt else if s = 0 then .eq else .gt)

/-- The sign of a value, of a zero as well. -/
def FVal.sign : FVal → Bool
  | .nan _ => false
  | .inf n => n
  | .fin n _ _ => n

/-- `x` comes before `y` where -0 is below +0 (R85). -/
def totalLess (x y : FVal) : Bool :=
  match cmpVal x y with
  | some .lt => true
  | some .eq => x.sign && !y.sign
  | _ => false

/-- FMIN and FMAX (R85): `bx`, `by` are the operands' bits, `nanp` the .nanp forms. -/
def fMinMax (f : Fmt) (isMax nanp : Bool) (bx byy : Nat) : FRes :=
  let x := f.value bx
  let y := f.value byy
  let fl := snanFlag [x, y]
  match x, y with
  | .nan _, .nan _ => { bits := f.nan, flags := fl }
  | .nan _, _ => { bits := if nanp then f.nan else byy, flags := fl }
  | _, .nan _ => { bits := if nanp then f.nan else bx, flags := fl }
  | _, _ => { bits := if (if isMax then totalLess x y else totalLess y x) then byy else bx, flags := fl }

/-- The larger magnitude, as .famax combines (R198). -/
def fAMax (f : Fmt) (bx byy : Nat) : FRes :=
  let half := 2 ^ (f.bits - 1)
  fMinMax f true false (bx % half) (byy % half)

/-- Atomic minimum and maximum (R87): no flag; a NaN operand leaves the memory, a NaN in memory takes the operand. -/
def fAtomicMinMax (f : Fmt) (isMax : Bool) (old x : Nat) : Nat :=
  match f.value old, f.value x with
  | .nan _, .nan _ => f.nan
  | .nan _, _ => x
  | _, .nan _ => old
  | a, b => if (if isMax then totalLess a b else totalLess b a) then x else old

end Sys2Proof.Machine
end

