-- ==== Sys2Proof/Syntax.lean ====
section
/-! DEFINITION. The instructions of Tchinu and the other steps of the part: one constructor for each row of the opcode table. -/

namespace Sys2Proof

/-- The fields of an S-form instruction (R94). Branches use `srcA` and `dst` together as the offset. -/
structure SF where
  srcA  : BitVec 8
  dst   : BitVec 8
  stall : BitVec 2
  neg   : Bool
  guard : BitVec 3
deriving DecidableEq, Repr

/-- The fields of an L-form instruction (R95), and the literal word when it is X form (R96). -/
structure LX where
  lit   : Option Word
  modi  : BitVec 12
  dst   : BitVec 8
  stall : BitVec 4
  neg   : Bool
  guard : BitVec 3
  srcA  : BitVec 8
  srcB  : BitVec 8
  srcC  : BitVec 8
deriving DecidableEq, Repr

/-- A NARROW message: the bounds and the partner an anchor decided for a region (R315, R316). -/
structure NarrowMsg where
  /-- TYPE: 1 for NARROW. -/
  type    : Nat := 1
  /-- SRC: the bank that sends. -/
  src     : Nat := 0
  region  : Nat
  partner : Nat
  pre     : Bool
  fol     : Bool
  lo      : DWord
  hi      : DWord
deriving DecidableEq, Repr

/-- A component whose protection code finds an error (R272, R386). -/
inductive ScrubTarget where
  | l1 (core : Nat)
  | scratchpad (core : Nat)
  /-- The register files of a quadrant. -/
  | registers (core quad : Nat)
  | bank (bank : Nat)
  /-- The directory entries of a bank. -/
  | directory (bank : Nat)
  | channel (channel : Nat)
  /-- The write-combining buffer of a channel. -/
  | combining (channel : Nat)
  /-- A lane of the Nyrus Link, and a CXL port: link-level retries. -/
  | lane (lane : Nat)
  | cxl (port : Nat)
deriving DecidableEq, Repr

/-- What the protection code of a read found (R272). -/
inductive ScrubFound where
  | clean
  | corrected (lasting : Bool)
  | uncorrectable (lasting : Bool) (addr : Nat)
deriving DecidableEq, Repr

/-- A request that another module sends over Nyrus (R453). -/
inductive PeerRequest where
  | read (addr bytes : Nat)
  | write (addr : Nat) (data : List Byte)
  | atomic (addr bytes op ty : Nat) (operand compare : DWord)
deriving DecidableEq, Repr

/-- What a write of a function's register carries: its value and how many bytes wide it is (R381). -/
structure RegisterData where
  bytes : Nat
  value : DWord
deriving DecidableEq, Repr

/-- What a CXL.mem request carries beside its address: the bytes of a write, none for a read, and the port it comes in by (R450). -/
structure HostTransfer where
  write : Option (List Byte)
  port : Nat
deriving DecidableEq, Repr

/-- A management command (R458). -/
structure MboxCommand where
  code  : Nat
  args  : List DWord
  signed : Bool
deriving DecidableEq, Repr

/-- What fuses and self-tests report at a bring-up (R456): cores that are fused off, and cores, banks, channels, Nyrus lanes, CXL
ports and Ethernet ports that fail; and what the test of the mesh and the check of the image find. -/
structure SelfTest where
  fused    : List Nat
  cores    : List Nat
  banks    : List Nat
  channels : List Nat
  lanes    : List Nat := []
  cxl      : List Nat := []
  ethernet : List Nat := []
  /-- Reticles whose links all fail. -/
  reticles : List Nat := []
  /-- Cores whose image has a digest that differs: once, or twice. -/
  images   : List (Nat × Bool) := []
deriving DecidableEq, Repr

/-- One step of the part: an instruction, or one of the other steps that the opcode table lists. -/
inductive Instr where
  /-- IADD_S: S-form integer add: dst := dst + srcA, type .n32 (R94) -/
  | iaddS (f : SF)
  /-- ISUB_S: S-form integer subtract: dst := dst - srcA, type .n32 (R94) -/
  | isubS (f : SF)
  /-- INEG_S: S-form negate: dst := -srcA (R94) -/
  | inegS (f : SF)
  /-- AND_S: S-form bitwise and: dst := dst and srcA (R94) -/
  | andS (f : SF)
  /-- OR_S: S-form bitwise or: dst := dst or srcA (R94) -/
  | orS (f : SF)
  /-- XOR_S: S-form bitwise xor: dst := dst xor srcA (R94) -/
  | xorS (f : SF)
  /-- NOT_S: S-form bitwise not: dst := not srcA (R94) -/
  | notS (f : SF)
  /-- MOV_S: S-form move: dst := srcA (R94) -/
  | movS (f : SF)
  /-- SHL_S: S-form shift left: dst := dst << srcA (R94) -/
  | shlS (f : SF)
  /-- SHR_S: S-form shift right: dst := dst >> srcA (R94) -/
  | shrS (f : SF)
  /-- BRA_S: S-form branch with a 16-bit word offset; splits slices; writes no record (R134) -/
  | braS (f : SF)
  /-- BEND_S: S-form end of a structured construct; updates nesting counters (R137) -/
  | bendS (f : SF)
  /-- BELSE_S: S-form else of a structured construct (R137) -/
  | belseS (f : SF)
  /-- EXIT_S: S-form exit: sets exited bits of executing lanes, retiring full slices (R142) -/
  | exitS (f : SF)
  /-- YIELD_S: S-form yield: holds its group 32 cycles beyond its stall (R143) -/
  | yieldS (f : SF)
  /-- ELECT_S: S-form elect: predicate true only in lowest-LID participant (R197) -/
  | electS (f : SF)
  /-- FMTSET_S: S-form FMTSET from a scalar register into every slice of the group (R146) -/
  | fmtsetS (f : SF)
  /-- WAITC: Holds its group until the named path counter is at or below the threshold (R297) -/
  | waitc (f : SF)
  /-- RET_S: S-form return to the address in a link pair (R136) -/
  | retS (f : SF)
  /-- NOP_S: S-form no operation beyond its stall (R440) -/
  | nopS (f : SF)
  /-- IADD: Integer add with optional saturation and carry-out predicate (R153) -/
  | iadd (f : LX)
  /-- ISUB: Integer subtract with optional saturation and no-borrow carry-out (R153) -/
  | isub (f : LX)
  /-- IADDC: Integer add or subtract with carry-in predicate (R153) -/
  | iaddc (f : LX)
  /-- IMUL: Low half of integer product (R154) -/
  | imul (f : LX)
  /-- IMULH: High half of the exact integer product (R154) -/
  | imulh (f : LX)
  /-- IMAD: Integer multiply-add modulo the width (R154) -/
  | imad (f : LX)
  /-- IMADW: 32x32 multiply added to a 64-bit pair (R154) -/
  | imadw (f : LX)
  /-- IDIV: Integer quotient on the quadrant divider, class Q (R156) -/
  | idiv (f : LX)
  /-- IREM: Integer remainder on the quadrant divider, class Q (R156) -/
  | irem (f : LX)
  /-- IMIN: Smaller of two integers of the type (R157) -/
  | imin (f : LX)
  /-- IMAX: Larger of two integers of the type (R157) -/
  | imax (f : LX)
  /-- IABS: Absolute value of a signed integer (R157) -/
  | iabs (f : LX)
  /-- INEG: Integer negation modulo the width (R157) -/
  | ineg (f : LX)
  /-- AND: Bitwise and (R158) -/
  | andL (f : LX)
  /-- OR: Bitwise or (R158) -/
  | orL (f : LX)
  /-- XOR: Bitwise exclusive or (R158) -/
  | xorL (f : LX)
  /-- ANDN: Bitwise a and not b (R158) -/
  | andn (f : LX)
  /-- NOT: Bitwise complement (R158) -/
  | notL (f : LX)
  /-- LOP3: Three-input bitwise function by an 8-bit truth table (R158) -/
  | lop3 (f : LX)
  /-- SHL: Shift left by amount modulo width (R159) -/
  | shl (f : LX)
  /-- SHR: Logical or arithmetic shift right by type (R159) -/
  | shr (f : LX)
  /-- ROTL: Rotate left (R159) -/
  | rotl (f : LX)
  /-- SHF: Funnel shift of a two-word operand left or right (R159) -/
  | shf (f : LX)
  /-- BFX: Bit-field extract with sign or zero extension (R160) -/
  | bfx (f : LX)
  /-- BFI: Bit-field insert (R160) -/
  | bfi (f : LX)
  /-- POPC: Population count (R161) -/
  | popc (f : LX)
  /-- CLZ: Count leading zeros (R161) -/
  | clz (f : LX)
  /-- CTZ: Count trailing zeros (R161) -/
  | ctz (f : LX)
  /-- BREV: Bit reversal (R161) -/
  | brev (f : LX)
  /-- PERM: Byte permutation from eight source bytes with sign-replicate option (R162) -/
  | perm (f : LX)
  /-- SEL: Select one of two operands by a predicate (R163) -/
  | selL (f : LX)
  /-- ICMP: Integer compare writing a predicate, optionally combined with another (R165) -/
  | icmp (f : LX)
  /-- PLOP: Three-predicate logic by truth table (R166) -/
  | plop (f : LX)
  /-- PPACK: Pack predicates p0-p7 into a register (R167) -/
  | ppack (f : LX)
  /-- PUNPK: Unpack register bits into predicates p1-p7 under a mask (R167) -/
  | punpk (f : LX)
  /-- MOV: Move bits unchanged (R163) -/
  | mov (f : LX)
  /-- MOVL: Build a 64-bit pair from two 32-bit sources (R163) -/
  | movl (f : LX)
  /-- LEA: Compute a 64-bit address from base, scaled index and offset (R164) -/
  | lea (f : LX)
  /-- IDOT4: Four-way byte dot product accumulate (R155) -/
  | idot4 (f : LX)
  /-- FADD: Floating add, rounded once (R172) -/
  | fadd (f : LX)
  /-- FSUB: Floating subtract, rounded once (R172) -/
  | fsub (f : LX)
  /-- FMUL: Floating multiply, rounded once (R172) -/
  | fmul (f : LX)
  /-- FFMA: Fused multiply-add with optional negations, one rounding (R172) -/
  | ffma (f : LX)
  /-- FMIN: Floating minimumNumber or minimum under .nanp (R173) -/
  | fmin (f : LX)
  /-- FMAX: Floating maximumNumber or maximum under .nanp (R173) -/
  | fmax (f : LX)
  /-- FCMP: Floating compare writing a predicate, optionally combined (R174) -/
  | fcmp (f : LX)
  /-- FCLASS: Classify a float into a one-hot mask (R175) -/
  | fclass (f : LX)
  /-- FRND: Round to an integral value in the same format (R176) -/
  | frnd (f : LX)
  /-- FSCALE: Multiply by a power of two with one rounding (R177) -/
  | fscale (f : LX)
  /-- FEXP: Extract floor(log2|a|) as a signed integer (R178) -/
  | fexp (f : LX)
  /-- CVT: Convert one value between integer, wide float and FMT element formats (R181) -/
  | cvt (f : LX)
  /-- PACK8: Convert wide elements to four packed 8-bit MX elements (R183) -/
  | pack8 (f : LX)
  /-- UNPK8: Widen four packed 8-bit elements (R184) -/
  | unpk8 (f : LX)
  /-- PACK4: Convert wide elements to eight packed FP4 elements (R183) -/
  | pack4 (f : LX)
  /-- UNPK4: Widen packed FP4 elements (R184) -/
  | unpk4 (f : LX)
  /-- QSCALE: Compute an E8M0 block scale from a block's largest magnitude (R185) -/
  | qscale (f : LX)
  /-- FMTSET: Write FMT into every slice of the executing group (R146) -/
  | fmtset (f : LX)
  /-- MODESET: Write masked MODE fields and return the old MODE (R147) -/
  | modeset (f : LX)
  /-- RCP: Correctly rounded reciprocal on the SFU (R186) -/
  | rcp (f : LX)
  /-- RSQ: Correctly rounded reciprocal square root on the SFU (R186) -/
  | rsq (f : LX)
  /-- SQRT: Correctly rounded square root on the SFU (R186) -/
  | sqrt (f : LX)
  /-- EXP2: Correctly rounded base-2 exponential on the SFU (R186) -/
  | exp2 (f : LX)
  /-- LOG2: Correctly rounded base-2 logarithm on the SFU (R186) -/
  | log2 (f : LX)
  /-- SINPI: Correctly rounded sin(pi x) on the SFU (R186) -/
  | sinpi (f : LX)
  /-- COSPI: Correctly rounded cos(pi x) on the SFU (R186) -/
  | cospi (f : LX)
  /-- TANH: Correctly rounded tanh on the SFU (R186) -/
  | tanh (f : LX)
  /-- FDIV: Correctly rounded division on the divider (R186) -/
  | fdiv (f : LX)
  /-- FSQRT: Correctly rounded square root on the divider (R186) -/
  | fsqrt (f : LX)
  /-- SHFL: Lane shuffle within segments by idx, up, down or xor (R195) -/
  | shfl (f : LX)
  /-- VOTE: Warp vote all, any, uni or ballot over participants (R196) -/
  | vote (f : LX)
  /-- REDUX: Reduce participants' values to one result (R199) -/
  | redux (f : LX)
  /-- SCAN: Inclusive or exclusive prefix operation over participants (R200) -/
  | scan (f : LX)
  /-- MATCH: Mask of participants with equal keys, with leader predicate (R201) -/
  | matchL (f : LX)
  /-- ELECT: Predicate true only in the lowest-LID participant (R197) -/
  | elect (f : LX)
  /-- RDLANE: Read one lane's vector value into a scalar (R203) -/
  | rdlane (f : LX)
  /-- WRLANE: Write a scalar value into one lane's vector register (R203) -/
  | wrlane (f : LX)
  /-- WFUSE: Check, wait for path counters, and enter the fusion latch naming a partner warp (R204) -/
  | wfuse (f : LX)
  /-- HASH: Hash a 32- or 64-bit key with a seed (R208) -/
  | hash (f : LX)
  /-- HASHC: Combine a running hash with a further column (R209) -/
  | hashc (f : LX)
  /-- PART: Partition number from a hash by radix or range (R210) -/
  | partL (f : LX)
  /-- PCOUNT: Rank or total of equal keys among participants (R202) -/
  | pcount (f : LX)
  /-- SLD: Load up to 16 string bytes per lane (R213) -/
  | sld (f : LX)
  /-- SCMP: Compare two string fragments (R214) -/
  | scmp (f : LX)
  /-- SHASH: Hash a string fragment (R215) -/
  | shash (f : LX)
  /-- SFIND: Find first or last occurrence of a byte (R216) -/
  | sfind (f : LX)
  /-- SPFX: Form a 64-bit order-preserving prefix key (R217) -/
  | spfx (f : LX)
  /-- SUTF: Scan a fragment as UTF-8 (R218) -/
  | sutf (f : LX)
  /-- SCASE: Convert ASCII case of a fragment (R219) -/
  | scase (f : LX)
  /-- MMA: Matrix multiply-accumulate of a tile, entering the matrix unit (R226) -/
  | mma (f : LX)
  /-- MMAS: Scaled matrix multiply-accumulate with MX scales (R226) -/
  | mmas (f : LX)
  /-- MMAV: Matrix multiply with A rows unfolded from a scratchpad tensor (R230) -/
  | mmav (f : LX)
  /-- GANGSET: Join, or dissolve, a gang of warps via rendezvous (R235) -/
  | gangset (f : LX)
  /-- MLDT: Load a 16-row tile from scratchpad into registers (R240) -/
  | mldt (f : LX)
  /-- MSTT: Convert and store an accumulator tile to scratchpad (R241) -/
  | mstt (f : LX)
  /-- LD: Global load, optionally acquiring (R284) -/
  | ld (f : LX)
  /-- ST: Global store, optionally releasing (R284) -/
  | st (f : LX)
  /-- LDS: Scratchpad load (R287) -/
  | lds (f : LX)
  /-- STS: Scratchpad store marking words full (R287) -/
  | sts (f : LX)
  /-- LDF: Load when full and mark empty, waiting per lane (R288) -/
  | ldf (f : LX)
  /-- STF: Store and mark full, waiting for empty under .we (R288) -/
  | stf (f : LX)
  /-- FESET: Set full/empty bits of words (R288) -/
  | feset (f : LX)
  /-- ATOM: Global atomic at the anchor bank returning the old value (R290) -/
  | atom (f : LX)
  /-- RED: Global reduction at the anchor bank (R290) -/
  | red (f : LX)
  /-- ATOMS: Scratchpad atomic at its bank (R290) -/
  | atoms (f : LX)
  /-- PREF: Prefetch lines into Caldera and optionally L1 (R291) -/
  | pref (f : LX)
  /-- FENCE: Run release and/or acquire steps at lane or system domains (R292) -/
  | fence (f : LX)
  /-- BARA: Barrier arrival with per-lane counts, returning old phase (R293) -/
  | bara (f : LX)
  /-- BARW: Park until a barrier's phase differs from the given value (R294) -/
  | barw (f : LX)
  /-- MONW: Check a line's value and park for a write notice or bound (R295) -/
  | monw (f : LX)
  /-- BARAW: Barrier arrival then wait for the phase flip (R293) -/
  | baraw (f : LX)
  /-- RGBEG: Begin or nest an atomic region, latching the abort state (R309) -/
  | rgbeg (f : LX)
  /-- RGEND: End a region level, committing at depth 1 (R318) -/
  | rgend (f : LX)
  /-- RGABT: Explicitly abort the active region (R325) -/
  | rgabt (f : LX)
  /-- RGBND: Read ALO and AHI into scalars (R326) -/
  | rgbnd (f : LX)
  /-- RGNAR: Lower the region's upper bound (R317) -/
  | rgnar (f : LX)
  /-- RGST: Read ARS or a region count (R326) -/
  | rgst (f : LX)
  /-- BRA: Branch splitting slices, optionally writing a reconvergence record (R134) -/
  | bra (f : LX)
  /-- BRX: Indexed branch through a permitted-target table (R135) -/
  | brx (f : LX)
  /-- CALL: Call, writing a link pair, without splitting (R136) -/
  | call (f : LX)
  /-- RET: Return to the address in a link pair (R136) -/
  | ret (f : LX)
  /-- BIF: Structured if, updating nesting counters (R137) -/
  | bif (f : LX)
  /-- BELSE: Structured else (R137) -/
  | belse (f : LX)
  /-- BEND: Structured end (R137) -/
  | bend (f : LX)
  /-- BBRK: Structured break from a given depth (R137) -/
  | bbrk (f : LX)
  /-- BLOOP: Structured loop back-branch while any lane is active (R137) -/
  | bloop (f : LX)
  /-- REGANG: Wait at a join and merge slice groups named by a record (R140) -/
  | regang (f : LX)
  /-- EXIT: Set exited bits and retire fully exited slices (R142) -/
  | exit (f : LX)
  /-- YIELD: Hold the group 32 cycles beyond its stall (R143) -/
  | yield (f : LX)
  /-- LEASE: Set the declared lease and mode, returning old LEASE (R144) -/
  | lease (f : LX)
  /-- FLASH: Check and wait for path counters to set a flashback point (R145) -/
  | flash (f : LX)
  /-- LAUNCH: Release and append child launch records to a queue (R367) -/
  | launch (f : LX)
  /-- QPUSH: Release and push records to a stage queue (R368) -/
  | qpush (f : LX)
  /-- QPOP: Pop records from a stage queue, or park, end or reassign (R369) -/
  | qpop (f : LX)
  /-- QCLOSE: Release and close a stage queue, waking poppers (R370) -/
  | qclose (f : LX)
  /-- XCOPY: Enqueue a tensor copy command on the copy engine (R371) -/
  | xcopy (f : LX)
  /-- XGATH: Enqueue an indexed gather command (R371) -/
  | xgath (f : LX)
  /-- XSCAT: Enqueue an indexed scatter command (R371) -/
  | xscat (f : LX)
  /-- XRED: Enqueue an element-wise reduction command (R371) -/
  | xred (f : LX)
  /-- XFILL: Enqueue a fill command (R371) -/
  | xfill (f : LX)
  /-- FCINC: Release at HOST and add to a fence counter (R372) -/
  | fcinc (f : LX)
  /-- FCWAIT: Park until a fence counter reaches a threshold (R373) -/
  | fcwait (f : LX)
  /-- TRAP: Enter the handler with cause TRAP and a code (R437) -/
  | trap (f : LX)
  /-- ERET: Return from a handler to EPC, clearing PRIV (R438) -/
  | eret (f : LX)
  /-- RDSR: Read a special register (R439) -/
  | rdsr (f : LX)
  /-- WRSR: Write a special register (R439) -/
  | wrsr (f : LX)
  /-- BKPT: Enter the handler with cause Breakpoint (R437) -/
  | bkpt (f : LX)
  /-- TLBINV_PAGE: Invalidate translations of one page on every cache (R412) -/
  | tlbinvPage (f : LX)
  /-- TLBINV_ALL: Invalidate every translation of the warp's tenant (R412) -/
  | tlbinvAll (f : LX)
  /-- TLBINV_GLOB: Invalidate every translation of a named tenant (R412) -/
  | tlbinvGlob (f : LX)
  /-- TBLRD: Read a management-space item (R412) -/
  | tblrd (f : LX)
  /-- TBLWR: Write a management-space item, completing everywhere it acts (R412) -/
  | tblwr (f : LX)
  /-- HALT: End the warp as a terminal fault (R440) -/
  | halt (f : LX)
  /-- NOP: No operation (R440) -/
  | nop (f : LX)
  /-- CCTL_ICINV: Invalidate the core's instruction cache (R411) -/
  | cctlIcinv (f : LX)
  /-- CCTL_L1WB: Write back every dirty L1 sector of the tenant (R411) -/
  | cctlL1wb (f : LX)
  /-- CCTL_L1INV: Write back then invalidate the tenant's unlocked L1 lines (R411) -/
  | cctlL1inv (f : LX)
  /-- CCTL_LINEWB: Write back and invalidate one L1 line (R411) -/
  | cctlLinewb (f : LX)
  /-- CCTL_EVICT: Write back the L1 line and evict it from Caldera (R411) -/
  | cctlEvict (f : LX)
  /-- CTXSV: Save a full warp image to memory (R441) -/
  | ctxsv (f : LX)
  /-- CTXLD: Restore a warp from a saved image (R442) -/
  | ctxld (f : LX)
  /-- DIRECTORY_PROBE: TBLWR to PROBE snapshots a line's directory entry at its anchor (R404) -/
  | directoryProbe (core slot addr : Nat)
  /-- PARTITION_WRITE: TBLWR of a partition entry moves ways and banks between quadrants (R401) -/
  | partitionWrite (core quad : Nat) (value : DWord)
  /-- LAUNCH_RECORD_TAKE: Launch unit takes one record, checks it and hands blocks to dispatchers (R346) -/
  | launchRecordTake
  /-- BLOCK_START: A waiting block instance starts once a core can reserve all its resources (R37) -/
  | blockStart (launch block core : Nat)
  /-- WARP_END: A fully retired warp ends when its path counters reach 0, releasing slot and lease (R142) -/
  | warpEnd (core slot : Nat)
  /-- LAUNCH_COMPLETION: After the last warp ends, write-back and collapses complete and fence counters increment (R350) -/
  | launchCompletion (launch : Nat)
  /-- ADMISSION_CYCLE: Each cycle the Sorrel unit removes leases, applies changes, names a head and admits warps (R43) -/
  | admissionCycle (core quad : Nat)
  /-- HEAD_QUALIFY: A warp waiting 16,384 cycles becomes head and marks warps returning (R45) -/
  | headQualify (core quad : Nat)
  /-- HEAD_WIDEN: A head unadmitted for a further 16,384 cycles returns warps of any priority (R45) -/
  | headWiden (core quad : Nat)
  /-- LEASE_DECAY: Each 4,096 instructions without a lost-locality event shrinks the measured lease (R48) -/
  | leaseDecay (core slot : Nat)
  /-- ISSUE_CYCLE: Each cycle the issue selector picks an admitted warp with a ready group, with dual issue (R50) -/
  | issueCycle (core : Nat)
  /-- CLASS_Q_RESULT: An SFU or divider operation writes its result and flags in entry order (R188) -/
  | classQResult (core quad : Nat) (divider : Bool)
  /-- ACCESS_RETURN: A class-M access returns and its path counter falls in issue order (R282) -/
  | accessReturn (core slot id : Nat)
  /-- MATRIX_OPERAND_FETCHED: Scratchpad operand fetch through the matrix port completes and MMX falls (R227) -/
  | matrixOperandFetched (core quad id : Nat)
  /-- MATRIX_START: A matrix instruction starts once sub-arrays, operands and accumulator are available (R231) -/
  | matrixStart (core quad id : Nat)
  /-- MATRIX_WRITEBACK: A matrix instruction writes its accumulator run at S + 100 (R231) -/
  | matrixWriteback (core quad id : Nat)
  /-- REGANG_TIMEOUT: The REGANG timeout expires and present groups merge (R141) -/
  | regangTimeout (core slot pc : Nat)
  /-- WFUSE_LATCH_ENTRY: After path counters reach 0 the warp enters the rendezvous latch (R204) -/
  | wfuseLatchEntry (core slot : Nat)
  /-- FLASH_LATCH: After path counters reach 0, FLASH latches the flashback point (R57) -/
  | flashLatch (core slot : Nat)
  /-- FLASHBACK_SAVE: A warp with a valid point saves its live registers and latch after in-flight accesses complete (R59) -/
  | flashbackSave (core slot : Nat)
  /-- RUNON_LIMIT: A pre-empted warp without a point is saved in full after 4,096 instructions (R60) -/
  | runonLimit (core slot : Nat)
  /-- BLOCK_RESUME: A saved block is placed, restored and its recipes started (R429) -/
  | blockResume (tenant block core : Nat)
  /-- TRAP_ENTRY: After older class-Q and matrix writes, the warp enters its handler (R417) -/
  | trapEntry (core slot : Nat)
  /-- CORE_RETIREMENT: A lasting core fault retires the core and saves its blocks elsewhere (R432) -/
  | coreRetirement (core : Nat)
  /-- CALDERA_REQUEST: An L1 miss or write-back reaches a stand-in, anchor or holding bank and is served or forwarded (R255) -/
  | calderaRequest (id : Nat)
  /-- CALDERA_FILL: A fill from HBM or host into the anchor bank completes (R255) -/
  | calderaFill (line : Nat)
  /-- MOVE_START: The anchor sets Moving and the old bank sends the line to its target (R259) -/
  | moveStart (line : Nat)
  /-- MOVE_INSTALL: The target installs the moved line and notifies the anchor (R259) -/
  | moveInstall (line : Nat)
  /-- MOVE_COMPLETE: The anchor records the new holding bank, sets Resident and replays held requests (R259) -/
  | moveComplete (line : Nat)
  /-- REPLICA_DROP_NOTICE: An evicted replica's drop notice clears its mask bit (R260) -/
  | replicaDropNotice (line reticle : Nat)
  /-- COLLAPSE: A collapse reaches the anchor, which sets Collapsing and sends invalidations (R261) -/
  | collapse (line : Nat)
  /-- REPLICA_INVALIDATION: An invalidation removes a replica and is acknowledged (R261) -/
  | replicaInvalidation (line reticle : Nat)
  /-- COLLAPSE_ACK: An acknowledgement arrives; with all in, state returns to Resident and the writer is told (R261) -/
  | collapseAck (line reticle : Nat)
  /-- ANCHOR_UNPIN: After 4,096 bank accesses without an atomic, an anchor-pinned line is unpinned (R263) -/
  | anchorUnpin (line : Nat)
  /-- BANK_RETIREMENT: A retired bank writes back, evicts its anchored lines and passes anchor duties on (R265) -/
  | bankRetirement (bank : Nat)
  /-- FORCED_UNIT: A passed-over class reaches its span and runs a forced unit (R266) -/
  | forcedUnit (bank cls : Nat)
  /-- WC_BUFFER_DRAIN: A channel's write-combining buffer drains whole-row bursts updating parity (R267) -/
  | wcBufferDrain (channel : Nat)
  /-- CHANNEL_RETIREMENT: A lasting channel fault enters degraded mode and starts re-interleave (R268) -/
  | channelRetirement (channel : Nat)
  /-- REINTERLEAVE_UNIT: A class-4 unit copies granules and advances the watermark (R268) -/
  | reinterleaveUnit
  /-- ROW_COOLDOWN_RELEASE: A throttled row request leaves the cool-down lane when the activation limit allows (R269) -/
  | rowCooldownRelease (channel : Nat)
  /-- WRITE_NOTICE: A write notice reaches a registered core and wakes MONW waiters (R296) -/
  | writeNotice (core line : Nat)
  /-- MONW_BOUND_EXPIRY: A MONW bound expires and the warp wakes with false (R295) -/
  | monwBoundExpiry (core slot : Nat)
  /-- TLB_WALK: A page walk completes and returns a translation or fault to waiting cores (R398) -/
  | tlbWalk (core tenant vpage : Nat)
  /-- REGION_TRACKED_READ: A region's first read of a line reaches the anchor, making a read entry (R310) -/
  | regionTrackedRead (id : Nat)
  /-- WRITE_INTENT: A region's first write to a line sends an intent that makes or widens its entry (R310) -/
  | writeIntent (id : Nat)
  /-- NARROW: A region applies an arriving NARROW to its bounds and partner list (R316) -/
  | narrowMsg (msg : NarrowMsg)
  /-- COMMIT_VISIT: A commit visit reaches an anchor bank and waits for its grant (R318) -/
  | commitVisit (region bank : Nat)
  /-- COMMIT_GRANT: A bank grants a visit, collapses replicas and returns floor and ceiling (R318) -/
  | commitGrant (region bank : Nat)
  /-- FINAL: A bank receiving FINAL publishes buffered sectors and frees entries (R319) -/
  | finalMsg (region bank p : Nat)
  /-- FINAL_AT_PARTNER: A partner receiving FINAL adjusts its bounds by direction (R320) -/
  | finalAtPartner (partner region p : Nat)
  /-- RELEASE: A RELEASE message frees a region's entries and grants at a bank (R324) -/
  | releaseMsg (region bank : Nat)
  /-- REGION_ABORT: An abort takes effect, restoring the latch and jumping to the target (R322) -/
  | regionAbort (core slot : Nat)
  /-- STAGE_PUSH: A push reserves a slot at the header's anchor bank and writes the record (R354) -/
  | stagePush (id : Nat)
  /-- STAGE_RECORD_ACK: A record write is acknowledged and READY and RSLOT advance (R354) -/
  | stageRecordAck (id : Nat)
  /-- STAGE_POP: A pop takes the record at HSLOT and advances HEAD (R354) -/
  | stagePop (id : Nat)
  /-- ENGINE_COMMAND: The copy engine carries out a command element by element (R357) -/
  | engineCommand (core quad : Nat)
  /-- ENGINE_COMMAND_DONE: A command completes and XEN falls (R355) -/
  | engineCommandDone (core quad : Nat)
  /-- NYRUS_REQUEST_LEAVE: A peer request leaves once a slot and response buffer are held (R362) -/
  | nyrusRequestLeave (core id : Nat)
  /-- PEER_TIMEOUT: An unanswered peer request times out and frees its buffer (R364) -/
  | peerTimeout (core id : Nat)
  /-- ETH_TRANSMIT: The port pops a transmit record, sends the frame and writes status (R455) -/
  | ethTransmit (port : Nat)
  /-- LAHAR_BRING_UP: Power-up or reset brings the module up: firmware check, self-test, flooding, maps, ping sweep (R456) -/
  | laharBringUp (tests : SelfTest)
  /-- WRITE_BACK_ACKNOWLEDGEMENT: Caldera's acknowledgement of a release's write-backs reaches the core and lets the held release steps go on (R283) -/
  | writeBackAcknowledgement (core slot id : Nat)
  /-- GLOBAL_OBSERVATION_RESPONSE: The host's global-observation response for a write-back to host memory arrives and completes a HOST release or releases a waiting snoop (R451) -/
  | globalObservationResponse (line : Nat)
  /-- MONW_CHECK_REPLY: The anchor's check reply to a MONW reaches the core, which then writes the predicate or parks the warp (R295) -/
  | monwCheckReply (core slot : Nat) (value : DWord)
  /-- QTAIL_WRITE: A host write of QTAIL submits records, or is ignored and counted (R345) -/
  | qtailWrite (tenant queue : Nat) (value : Word)
  /-- RESUME: A TOKEN written to RESUME replays every warp and command parked on it (R361) -/
  | resumeWrite (tenant token : Nat)
  /-- FQFAIL: A TOKEN written to FQFAIL turns that replayable fault fatal (R416) -/
  | fqfail (tenant token : Nat)
  /-- FQHEAD_WRITE: A driver write of FQHEAD frees fault-queue space for waiting faults (R361) -/
  | fqheadWrite (tenant : Nat) (value : Word)
  /-- FCVAL_WRITE: A host write replaces a fence counter and re-examines waits (R380) -/
  | fcvalWrite (tenant counter : Nat) (value : DWord)
  /-- FCADD_WRITE: A host write adds to a fence counter (R381) -/
  | fcaddWrite (tenant counter : Nat) (value : DWord)
  /-- REGISTER_WRITE: A write to a function register with no behaviour of its own (R448) -/
  | registerWrite (tenant offset : Nat) (data : RegisterData)
  /-- MBOX_COMMAND: A signed management command is checked and executed or rejected (R458) -/
  | mboxCommand (cmd : MboxCommand)
  /-- FUNCTION_LEVEL_RESET: A function-level reset disables queues, ends warps and resets registers (R449) -/
  | functionLevelReset (tenant : Nat)
  /-- FIRMWARE_RELOAD: A reload command over the management interface reloads the image and brings up (R460) -/
  | firmwareReload (image : List Byte) (signed : Bool)
  /-- SPDM_REQUEST: An SPDM request over DOE is answered with signed measurements (R457) -/
  | spdmRequest (request : List Byte)
  /-- MONITOR_SNAPSHOT: A snapshot command latches every counter of one reticle in one cycle (R391) -/
  | monitorSnapshot (reticle : Nat)
  /-- POWER_CAP_REACHED: Module power at the cap lowers the core clock in 1/16 steps (R461) -/
  | powerCapReached
  /-- THERMAL_TRIP: Junction temperature at the trip halves the core clock (R461) -/
  | thermalTrip
  /-- CRITICAL_TEMPERATURE: Critical temperature stops all warps and puts HBM in self-refresh (R461) -/
  | criticalTemperature
  /-- TEMPERATURE_BELOW_TRIP: Junction temperature falls 5  degreesC below the trip, and the halving of the core clock ends (R461) -/
  | temperatureBelowTrip
  /-- HOST_SNOOP: A host CXL.cache snoop acts on one half of a host line (R270) -/
  | hostSnoop (addr : Nat) (invalidate : Bool) (data : List Byte)
  /-- HOST_CXL_MEM_REQUEST: A host CXL.mem request enters at reticle 0 and is served by the anchor (R271) -/
  | hostCxlMemRequest (addr : Nat) (transfer : HostTransfer)
  /-- PEER_REQUEST_SERVE: A remote module serves a peer request at the line's anchor (R453) -/
  | peerRequestServe (req : PeerRequest)
  /-- NYRUS_LANE_RETIRE: A lasting lane fault retires the lane, removing the group if empty (R454) -/
  | nyrusLaneRetire (lane : Nat)
  /-- ETH_FRAME_RECEIVE: An arrived frame is pushed as a receive record or dropped (R455) -/
  | ethFrameReceive (port : Nat) (frame : List Byte) (fcsOk : Bool)
  /-- SCRUB_UNIT: A class-4 scrub unit reads protected data (R272) -/
  | scrubUnit (target : ScrubTarget) (found : ScrubFound)
  /-- PREEMPT_REQUEST: A quadrant pre-emption request stops its blocks whole (R426) -/
  | preemptRequest (core quad : Nat)
  /-- NYRUS_RESPONSE: A peer response is written and its buffer freed (R362) -/
  | nyrusResponse (core id : Nat) (data : List Byte)
  /-- BACK_INVALIDATE_RESPONSE: The host's back-invalidate response releases the waiting device access (R271) -/
  | backInvalidateResponse (addr : Nat) (data : Option (List Byte))
deriving DecidableEq, Repr

end Sys2Proof
end

