-- ==== Sys2Proof/Decode.lean ====
section
/-! DEFINITION. From words to instructions (R91 to R99, R114, R115), back again, and how each instruction uses its fields: total on any bytes. -/

namespace Sys2Proof

/-! ## Fields of words -/

/-- The S-form fields of a word (R94). -/
def sFields (w : Word) : SF :=
  { srcA := w.extractLsb' 24 8, dst := w.extractLsb' 16 8, stall := w.extractLsb' 14 2,
    neg := w.getLsbD 13, guard := w.extractLsb' 10 3 }

/-- The L-form fields of two words (R95), with the literal word of the X form (R96). -/
def lFields (w0 w1 : Word) (lit : Option Word) : LX :=
  { lit := lit, modi := w0.extractLsb' 28 4 ++ w1.extractLsb' 24 8, dst := w0.extractLsb' 20 8,
    stall := w0.extractLsb' 15 4, neg := w0.getLsbD 14, guard := w0.extractLsb' 11 3,
    srcA := w1.extractLsb' 0 8, srcB := w1.extractLsb' 8 8, srcC := w1.extractLsb' 16 8 }

/-- The S-form opcode map (R114); the reserved opcodes have no instruction. -/
def shortOp (op : Nat) (f : SF) : Option Instr :=
  match op with
  | 0x00 => some (.iaddS f)
  | 0x01 => some (.isubS f)
  | 0x02 => some (.inegS f)
  | 0x03 => some (.andS f)
  | 0x04 => some (.orS f)
  | 0x05 => some (.xorS f)
  | 0x06 => some (.notS f)
  | 0x07 => some (.movS f)
  | 0x08 => some (.shlS f)
  | 0x09 => some (.shrS f)
  | 0x10 => some (.braS f)
  | 0x11 => some (.bendS f)
  | 0x12 => some (.belseS f)
  | 0x13 => some (.exitS f)
  | 0x14 => some (.yieldS f)
  | 0x15 => some (.electS f)
  | 0x16 => some (.fmtsetS f)
  | 0x17 => some (.waitc f)
  | 0x18 => some (.retS f)
  | 0x3F => some (.nopS f)
  | _ => none

/-- The L and X opcode map (R115). TLBINV and CCTL are split by their modifier (R411). -/
def longOp (op : Nat) (f : LX) : Option Instr :=
  match op with
  | 0x000 => some (.iadd f)
  | 0x001 => some (.isub f)
  | 0x002 => some (.iaddc f)
  | 0x003 => some (.imul f)
  | 0x004 => some (.imulh f)
  | 0x005 => some (.imad f)
  | 0x006 => some (.imadw f)
  | 0x007 => some (.idiv f)
  | 0x008 => some (.irem f)
  | 0x009 => some (.imin f)
  | 0x00A => some (.imax f)
  | 0x00B => some (.iabs f)
  | 0x00C => some (.ineg f)
  | 0x00D => some (.andL f)
  | 0x00E => some (.orL f)
  | 0x00F => some (.xorL f)
  | 0x010 => some (.andn f)
  | 0x011 => some (.notL f)
  | 0x012 => some (.lop3 f)
  | 0x013 => some (.shl f)
  | 0x014 => some (.shr f)
  | 0x015 => some (.rotl f)
  | 0x016 => some (.shf f)
  | 0x017 => some (.bfx f)
  | 0x018 => some (.bfi f)
  | 0x019 => some (.popc f)
  | 0x01A => some (.clz f)
  | 0x01B => some (.ctz f)
  | 0x01C => some (.brev f)
  | 0x01D => some (.perm f)
  | 0x01E => some (.selL f)
  | 0x01F => some (.icmp f)
  | 0x020 => some (.plop f)
  | 0x021 => some (.ppack f)
  | 0x022 => some (.punpk f)
  | 0x023 => some (.mov f)
  | 0x024 => some (.movl f)
  | 0x025 => some (.lea f)
  | 0x027 => some (.idot4 f)
  | 0x040 => some (.fadd f)
  | 0x041 => some (.fsub f)
  | 0x042 => some (.fmul f)
  | 0x043 => some (.ffma f)
  | 0x044 => some (.fmin f)
  | 0x045 => some (.fmax f)
  | 0x046 => some (.fcmp f)
  | 0x047 => some (.fclass f)
  | 0x048 => some (.frnd f)
  | 0x049 => some (.fscale f)
  | 0x04A => some (.fexp f)
  | 0x050 => some (.cvt f)
  | 0x051 => some (.pack8 f)
  | 0x052 => some (.unpk8 f)
  | 0x053 => some (.pack4 f)
  | 0x054 => some (.unpk4 f)
  | 0x055 => some (.qscale f)
  | 0x056 => some (.fmtset f)
  | 0x057 => some (.modeset f)
  | 0x060 => some (.rcp f)
  | 0x061 => some (.rsq f)
  | 0x062 => some (.sqrt f)
  | 0x063 => some (.exp2 f)
  | 0x064 => some (.log2 f)
  | 0x065 => some (.sinpi f)
  | 0x066 => some (.cospi f)
  | 0x067 => some (.tanh f)
  | 0x068 => some (.fdiv f)
  | 0x069 => some (.fsqrt f)
  | 0x080 => some (.shfl f)
  | 0x081 => some (.vote f)
  | 0x082 => some (.redux f)
  | 0x083 => some (.scan f)
  | 0x084 => some (.matchL f)
  | 0x085 => some (.elect f)
  | 0x086 => some (.rdlane f)
  | 0x087 => some (.wrlane f)
  | 0x088 => some (.wfuse f)
  | 0x090 => some (.hash f)
  | 0x091 => some (.hashc f)
  | 0x092 => some (.partL f)
  | 0x093 => some (.pcount f)
  | 0x0A0 => some (.sld f)
  | 0x0A1 => some (.scmp f)
  | 0x0A2 => some (.shash f)
  | 0x0A3 => some (.sfind f)
  | 0x0A4 => some (.spfx f)
  | 0x0A5 => some (.sutf f)
  | 0x0A6 => some (.scase f)
  | 0x0C0 => some (.mma f)
  | 0x0C1 => some (.mmas f)
  | 0x0C2 => some (.mmav f)
  | 0x0C3 => some (.gangset f)
  | 0x0C4 => some (.mldt f)
  | 0x0C5 => some (.mstt f)
  | 0x100 => some (.ld f)
  | 0x101 => some (.st f)
  | 0x102 => some (.lds f)
  | 0x103 => some (.sts f)
  | 0x104 => some (.ldf f)
  | 0x105 => some (.stf f)
  | 0x106 => some (.feset f)
  | 0x107 => some (.atom f)
  | 0x108 => some (.red f)
  | 0x109 => some (.atoms f)
  | 0x10A => some (.pref f)
  | 0x10B => some (.fence f)
  | 0x10C => some (.bara f)
  | 0x10D => some (.barw f)
  | 0x10E => some (.monw f)
  | 0x10F => some (.baraw f)
  | 0x160 => some (.rgbeg f)
  | 0x161 => some (.rgend f)
  | 0x162 => some (.rgabt f)
  | 0x163 => some (.rgbnd f)
  | 0x164 => some (.rgnar f)
  | 0x165 => some (.rgst f)
  | 0x180 => some (.bra f)
  | 0x181 => some (.brx f)
  | 0x182 => some (.call f)
  | 0x183 => some (.ret f)
  | 0x184 => some (.bif f)
  | 0x185 => some (.belse f)
  | 0x186 => some (.bend f)
  | 0x187 => some (.bbrk f)
  | 0x188 => some (.bloop f)
  | 0x189 => some (.regang f)
  | 0x18B => some (.exit f)
  | 0x18C => some (.yield f)
  | 0x18D => some (.lease f)
  | 0x18E => some (.flash f)
  | 0x190 => some (.launch f)
  | 0x191 => some (.qpush f)
  | 0x192 => some (.qpop f)
  | 0x193 => some (.qclose f)
  | 0x194 => some (.xcopy f)
  | 0x195 => some (.xgath f)
  | 0x196 => some (.xscat f)
  | 0x197 => some (.xred f)
  | 0x198 => some (.xfill f)
  | 0x199 => some (.fcinc f)
  | 0x19A => some (.fcwait f)
  | 0x1C0 => some (.trap f)
  | 0x1C1 => some (.eret f)
  | 0x1C2 => some (.rdsr f)
  | 0x1C3 => some (.wrsr f)
  | 0x1C4 => some (.bkpt f)
  | 0x1C5 => match bitsOf f.modi.toNat 1 0 with
    | 0 => some (.tlbinvPage f)
    | 1 => some (.tlbinvAll f)
    | 2 => some (.tlbinvGlob f)
    | _ => none
  | 0x1C6 => some (.tblrd f)
  | 0x1C7 => some (.tblwr f)
  | 0x1C8 => some (.halt f)
  | 0x1C9 => some (.nop f)
  | 0x1CA => match bitsOf f.modi.toNat 3 0 with
    | 0 => some (.cctlIcinv f)
    | 1 => some (.cctlL1wb f)
    | 2 => some (.cctlL1inv f)
    | 3 => some (.cctlLinewb f)
    | 4 => some (.cctlEvict f)
    | _ => none
  | 0x1CB => some (.ctxsv f)
  | 0x1CC => some (.ctxld f)
  | _ => none

/-- The instruction that three consecutive words begin with: none for a reserved length (R91), a reserved opcode
(R116) or a set bit 19 (R95). -/
def decodeWords (w0 w1 w2 : Word) : Option Instr :=
  match (w0.extractLsb' 0 2).toNat with
  | 0 => shortOp (w0.extractLsb' 2 8).toNat (sFields w0)
  | 1 => if w0.getLsbD 19 then none else longOp (w0.extractLsb' 2 9).toNat (lFields w0 w1 none)
  | 2 => if w0.getLsbD 19 then none else longOp (w0.extractLsb' 2 9).toNat (lFields w0 w1 (some w2))
  | _ => none

/-- The number of bytes that the length code of a first word names (R91); a reserved code names one word. -/
def lengthOf (w0 : Word) : Nat :=
  match (w0.extractLsb' 0 2).toNat with
  | 1 => 8
  | 2 => 12
  | _ => 4

/-- The word that four bytes hold, the first byte lowest (R91). -/
def wordAt (bs : List Byte) : Word := BitVec.ofNat 32 (numOf (bs.take 4))

/-- Decodes the bytes at a program counter. A word beyond the end of the list reads as 0. -/
def decode (bs : List Byte) : Option Instr :=
  decodeWords (wordAt bs) (wordAt (bs.drop 4)) (wordAt (bs.drop 8))

/-- The instruction whose bits are `w`, numbered as the opcode table numbers them. -/
def decodeTableWord (nbits w : Nat) : Option Instr :=
  decode (bytesOf (w % 2 ^ nbits) 12)

/-! ## The encoder -/

/-- How an instruction is written in words. -/
inductive Form where
  | short (op : Nat) (f : SF)
  | long (op : Nat) (f : LX)
  /-- A step of the part that no word encodes. -/
  | event
deriving DecidableEq, Repr

/-- The opcode and the fields of each instruction (R114, R115). -/
def Instr.form : Instr → Form
  | .iaddS f => .short 0x00 f
  | .isubS f => .short 0x01 f
  | .inegS f => .short 0x02 f
  | .andS f => .short 0x03 f
  | .orS f => .short 0x04 f
  | .xorS f => .short 0x05 f
  | .notS f => .short 0x06 f
  | .movS f => .short 0x07 f
  | .shlS f => .short 0x08 f
  | .shrS f => .short 0x09 f
  | .braS f => .short 0x10 f
  | .bendS f => .short 0x11 f
  | .belseS f => .short 0x12 f
  | .exitS f => .short 0x13 f
  | .yieldS f => .short 0x14 f
  | .electS f => .short 0x15 f
  | .fmtsetS f => .short 0x16 f
  | .waitc f => .short 0x17 f
  | .retS f => .short 0x18 f
  | .nopS f => .short 0x3F f
  | .iadd f => .long 0x000 f
  | .isub f => .long 0x001 f
  | .iaddc f => .long 0x002 f
  | .imul f => .long 0x003 f
  | .imulh f => .long 0x004 f
  | .imad f => .long 0x005 f
  | .imadw f => .long 0x006 f
  | .idiv f => .long 0x007 f
  | .irem f => .long 0x008 f
  | .imin f => .long 0x009 f
  | .imax f => .long 0x00A f
  | .iabs f => .long 0x00B f
  | .ineg f => .long 0x00C f
  | .andL f => .long 0x00D f
  | .orL f => .long 0x00E f
  | .xorL f => .long 0x00F f
  | .andn f => .long 0x010 f
  | .notL f => .long 0x011 f
  | .lop3 f => .long 0x012 f
  | .shl f => .long 0x013 f
  | .shr f => .long 0x014 f
  | .rotl f => .long 0x015 f
  | .shf f => .long 0x016 f
  | .bfx f => .long 0x017 f
  | .bfi f => .long 0x018 f
  | .popc f => .long 0x019 f
  | .clz f => .long 0x01A f
  | .ctz f => .long 0x01B f
  | .brev f => .long 0x01C f
  | .perm f => .long 0x01D f
  | .selL f => .long 0x01E f
  | .icmp f => .long 0x01F f
  | .plop f => .long 0x020 f
  | .ppack f => .long 0x021 f
  | .punpk f => .long 0x022 f
  | .mov f => .long 0x023 f
  | .movl f => .long 0x024 f
  | .lea f => .long 0x025 f
  | .idot4 f => .long 0x027 f
  | .fadd f => .long 0x040 f
  | .fsub f => .long 0x041 f
  | .fmul f => .long 0x042 f
  | .ffma f => .long 0x043 f
  | .fmin f => .long 0x044 f
  | .fmax f => .long 0x045 f
  | .fcmp f => .long 0x046 f
  | .fclass f => .long 0x047 f
  | .frnd f => .long 0x048 f
  | .fscale f => .long 0x049 f
  | .fexp f => .long 0x04A f
  | .cvt f => .long 0x050 f
  | .pack8 f => .long 0x051 f
  | .unpk8 f => .long 0x052 f
  | .pack4 f => .long 0x053 f
  | .unpk4 f => .long 0x054 f
  | .qscale f => .long 0x055 f
  | .fmtset f => .long 0x056 f
  | .modeset f => .long 0x057 f
  | .rcp f => .long 0x060 f
  | .rsq f => .long 0x061 f
  | .sqrt f => .long 0x062 f
  | .exp2 f => .long 0x063 f
  | .log2 f => .long 0x064 f
  | .sinpi f => .long 0x065 f
  | .cospi f => .long 0x066 f
  | .tanh f => .long 0x067 f
  | .fdiv f => .long 0x068 f
  | .fsqrt f => .long 0x069 f
  | .shfl f => .long 0x080 f
  | .vote f => .long 0x081 f
  | .redux f => .long 0x082 f
  | .scan f => .long 0x083 f
  | .matchL f => .long 0x084 f
  | .elect f => .long 0x085 f
  | .rdlane f => .long 0x086 f
  | .wrlane f => .long 0x087 f
  | .wfuse f => .long 0x088 f
  | .hash f => .long 0x090 f
  | .hashc f => .long 0x091 f
  | .partL f => .long 0x092 f
  | .pcount f => .long 0x093 f
  | .sld f => .long 0x0A0 f
  | .scmp f => .long 0x0A1 f
  | .shash f => .long 0x0A2 f
  | .sfind f => .long 0x0A3 f
  | .spfx f => .long 0x0A4 f
  | .sutf f => .long 0x0A5 f
  | .scase f => .long 0x0A6 f
  | .mma f => .long 0x0C0 f
  | .mmas f => .long 0x0C1 f
  | .mmav f => .long 0x0C2 f
  | .gangset f => .long 0x0C3 f
  | .mldt f => .long 0x0C4 f
  | .mstt f => .long 0x0C5 f
  | .ld f => .long 0x100 f
  | .st f => .long 0x101 f
  | .lds f => .long 0x102 f
  | .sts f => .long 0x103 f
  | .ldf f => .long 0x104 f
  | .stf f => .long 0x105 f
  | .feset f => .long 0x106 f
  | .atom f => .long 0x107 f
  | .red f => .long 0x108 f
  | .atoms f => .long 0x109 f
  | .pref f => .long 0x10A f
  | .fence f => .long 0x10B f
  | .bara f => .long 0x10C f
  | .barw f => .long 0x10D f
  | .monw f => .long 0x10E f
  | .baraw f => .long 0x10F f
  | .rgbeg f => .long 0x160 f
  | .rgend f => .long 0x161 f
  | .rgabt f => .long 0x162 f
  | .rgbnd f => .long 0x163 f
  | .rgnar f => .long 0x164 f
  | .rgst f => .long 0x165 f
  | .bra f => .long 0x180 f
  | .brx f => .long 0x181 f
  | .call f => .long 0x182 f
  | .ret f => .long 0x183 f
  | .bif f => .long 0x184 f
  | .belse f => .long 0x185 f
  | .bend f => .long 0x186 f
  | .bbrk f => .long 0x187 f
  | .bloop f => .long 0x188 f
  | .regang f => .long 0x189 f
  | .exit f => .long 0x18B f
  | .yield f => .long 0x18C f
  | .lease f => .long 0x18D f
  | .flash f => .long 0x18E f
  | .launch f => .long 0x190 f
  | .qpush f => .long 0x191 f
  | .qpop f => .long 0x192 f
  | .qclose f => .long 0x193 f
  | .xcopy f => .long 0x194 f
  | .xgath f => .long 0x195 f
  | .xscat f => .long 0x196 f
  | .xred f => .long 0x197 f
  | .xfill f => .long 0x198 f
  | .fcinc f => .long 0x199 f
  | .fcwait f => .long 0x19A f
  | .trap f => .long 0x1C0 f
  | .eret f => .long 0x1C1 f
  | .rdsr f => .long 0x1C2 f
  | .wrsr f => .long 0x1C3 f
  | .bkpt f => .long 0x1C4 f
  | .tlbinvPage f => .long 0x1C5 f
  | .tlbinvAll f => .long 0x1C5 f
  | .tlbinvGlob f => .long 0x1C5 f
  | .tblrd f => .long 0x1C6 f
  | .tblwr f => .long 0x1C7 f
  | .halt f => .long 0x1C8 f
  | .nop f => .long 0x1C9 f
  | .cctlIcinv f => .long 0x1CA f
  | .cctlL1wb f => .long 0x1CA f
  | .cctlL1inv f => .long 0x1CA f
  | .cctlLinewb f => .long 0x1CA f
  | .cctlEvict f => .long 0x1CA f
  | .ctxsv f => .long 0x1CB f
  | .ctxld f => .long 0x1CC f
  | _ => .event

/-- A step of the part that no word encodes. -/
def Instr.isEvent (i : Instr) : Bool :=
  match i.form with
  | .event => true
  | _ => false

/-- The word of an S-form instruction (R94). -/
def encodeShort (op : Nat) (f : SF) : Word :=
  f.srcA ++ f.dst ++ f.stall ++ BitVec.ofBool f.neg ++ f.guard ++ BitVec.ofNat 8 op ++ 0#2

/-- Word 0 of an L-form or X-form instruction (R95). -/
def encodeLong0 (op : Nat) (f : LX) : Word :=
  f.modi.extractLsb' 8 4 ++ f.dst ++ 0#1 ++ f.stall ++ BitVec.ofBool f.neg ++ f.guard ++ BitVec.ofNat 9 op ++
    (if f.lit.isSome then 2#2 else 1#2)

/-- Word 1 of an L-form or X-form instruction (R95). -/
def encodeLong1 (f : LX) : Word := f.modi.extractLsb' 0 8 ++ f.srcC ++ f.srcB ++ f.srcA

/-- The words of an instruction; none for a step that no word encodes. -/
def encode (i : Instr) : List Word :=
  match i.form with
  | .short op f => [encodeShort op f]
  | .long op f =>
    match f.lit with
    | none => [encodeLong0 op f, encodeLong1 f]
    | some l => [encodeLong0 op f, encodeLong1 f, l]
  | .event => []

/-- The bytes of words, each word little-endian (R91). -/
def bytesOfWords : List Word → List Byte
  | [] => []
  | w :: t => bytesOf w.toNat 4 ++ bytesOfWords t

/-- The bytes of an instruction in memory. -/
def encodeBytes (i : Instr) : List Byte := bytesOfWords (encode i)

/-- The number of bytes an instruction occupies (R91). -/
def Instr.length (i : Instr) : Nat := 4 * (encode i).length

/-! ## How an instruction uses its fields (R96 to R102) -/

/-- A register operand: how many consecutive registers, of which its first must be a multiple, and what may stand there. -/
structure RegUse where
  n     : Nat
  align : Nat
  vec   : Bool := true
  scal  : Bool := true
  zero  : Bool := true
  lit   : Bool := false
  /-- Read in every lane even beside a scalar destination (R102). -/
  mix   : Bool := false
deriving DecidableEq, Repr

/-- What a field holds. -/
inductive Use where
  /-- Must hold 0xFC (R98). -/
  | unused
  /-- Any value: part of an offset (R113). -/
  | free
  /-- A predicate number (R99). -/
  | pred
  | reg (r : RegUse)
deriving DecidableEq, Repr

/-- A source of `n` registers, from any place (R99, R100). -/
def Use.src (n : Nat) : Use := .reg { n := n, align := n, lit := decide (n ≤ 2) }
/-- A source that must be scalar, zero or literal. -/
def Use.ssrc (n : Nat) : Use := .reg { n := n, align := n, vec := false, lit := decide (n ≤ 2) }
/-- A source that must be a scalar run. -/
def Use.sreg (n : Nat) : Use := .reg { n := n, align := n, vec := false }
/-- A source read in every lane even beside a scalar destination. -/
def Use.msrc (n : Nat) : Use := .reg { n := n, align := n, lit := decide (n ≤ 2), mix := true }
/-- A destination of `n` registers. -/
def Use.dst (n : Nat) : Use := .reg { n := n, align := n }
/-- A destination that must be vector, or discarded. -/
def Use.vdst (n : Nat) : Use := .reg { n := n, align := n, scal := false }
/-- A destination that must be scalar, or discarded. -/
def Use.sdst (n : Nat) : Use := .reg { n := n, align := n, vec := false }
/-- A vector run of `n` registers whose first is a multiple of `align`. -/
def Use.run (n align : Nat) : Use := .reg { n := n, align := align, scal := false, zero := false }

/-- What an instruction asks of its modifier, guard and fields. -/
structure Sig where
  modOk : Bool := true
  /-- The guard must be p0, not negated (R132, R308, R436). -/
  p0    : Bool := false
  dst   : Use := .unused
  a     : Use := .unused
  b     : Use := .unused
  c     : Use := .unused
  /-- An operand that the description rejects as Illegal Operand whatever the state. -/
  badOp : Bool := false
  /-- Needs CTL.PRIV (R123, R411, R436). -/
  priv  : Bool := false
deriving DecidableEq, Repr

/-- Bits of the modifier. -/
def LX.mb (f : LX) (hi lo : Nat) : Nat := bitsOf f.modi.toNat hi lo

/-- Registers of an operand of an integer type (R148, R149). -/
def intRegs (t : Nat) : Nat := if t = 2 ∨ t = 3 then 2 else 1

/-- Registers of an operand of a floating-point type (R169). -/
def floatRegs (t : Nat) : Nat := if t = 1 then 2 else 1

/-- Registers of a CVT operand (R179). -/
def cvtRegs (t : Nat) : Nat := if t = 2 ∨ t = 3 ∨ t = 9 then 2 else 1

/-- Registers of a load or store width (R277). -/
def widthRegs (t : Nat) : Nat := if t = 1 then 2 else if t = 2 then 4 else 1

/-- Registers of an atomic type (R289). -/
def atomRegs (t : Nat) : Nat := if t = 2 ∨ t = 3 ∨ t = 5 then 2 else 1

/-- An integer operation with the types in `ok` whose modifier bits 11:4 are `rest` (R150). -/
def intSig (f : LX) (ok : List Nat) (restOk : Bool) (d a b c : Use) : Sig :=
  { modOk := ok.contains (f.mb 3 0) && restOk, dst := d, a := a, b := b, c := c }

/-- A floating-point operation (R170): types, and the modifier bits above the type. -/
def floatSig (f : LX) (ok : List Nat) (restOk : Bool) (d a b c : Use) : Sig :=
  { modOk := ok.contains (f.mb 2 0) && restOk, dst := d, a := a, b := b, c := c }

/-- A rounding code that a modifier may hold (R69). -/
def roundOk (r : Nat) : Bool := decide (r ≠ 5 ∧ r ≠ 6)

/-- The offset positions of a branch: free in the L form, unused in the X form (R132). -/
def offsetUse (f : LX) : Use := if f.lit.isSome then .unused else .free

/-- All eight integer types. -/
def allInt : List Nat := [0, 1, 2, 3, 4, 5, 6, 7]

/-- The fields of an S-form instruction as those of the L form with two operands: `dst := dst op srcA` (R94). -/
def SF.two (f : SF) : LX :=
  { lit := none, modi := 0, dst := f.dst, stall := f.stall.setWidth 4, neg := f.neg, guard := f.guard,
    srcA := f.dst, srcB := f.srcA, srcC := 0xFC }

/-- The fields of an S-form instruction as those of the L form with one operand (R94). -/
def SF.one (f : SF) : LX :=
  { lit := none, modi := 0, dst := f.dst, stall := f.stall.setWidth 4, neg := f.neg, guard := f.guard,
    srcA := f.srcA, srcB := 0xFC, srcC := 0xFC }

/-- Types an atomic operation accepts (R289). -/
def atomOk (op ty : Nat) : Bool :=
  if op ≤ 7 then decide (ty ≤ 3) else if op ≤ 9 then decide (ty = 0 ∨ ty = 2)
  else if op ≤ 12 then decide (4 ≤ ty ∧ ty ≤ 7) else false

/-- Types a lane reduction accepts (R198). -/
def laneOpOk (op ty : Nat) : Bool :=
  if op ≤ 5 then decide (ty ≤ 3) else if op ≤ 9 then decide (ty ≤ 1) else false

/-- Row blocks of A and column blocks of B of a matrix shape (R221). -/
def shapeRA (sh : Nat) : Nat := if sh = 2 then 2 else if sh = 3 then 4 else 1
def shapeCB (sh : Nat) : Nat := if sh = 1 then 4 else if sh = 2 then 2 else 1

/-- Sub-tiles of a matrix shape (R221). -/
def shapeTiles (sh : Nat) : Nat := if sh = 0 then 1 else 4

/-- A matrix multiply (R224, R225). 0xFC names no operand run of one that is not ganged. DESIGN CHOICE, log entry 102. `desc`: srcA names a descriptor pair; `scales`: srcC holds scales. -/
def matrixSig (f : LX) (scales desc : Bool) : Sig :=
  let sh := f.mb 1 0
  -- a member of a gang leaves the fields of other roles at 0xFC (R238)
  let run (n align : Nat) : Use := .reg { n := n, align := align, scal := false, zero := decide (f.mb 6 6 = 1) }
  { modOk := f.mb 11 7 == 0 && (sh == 0 || f.mb 3 2 == 0) && !(desc && f.mb 4 4 == 1),
    dst := .reg { n := if f.mb 6 6 = 1 then 8 else 8 * shapeTiles sh, align := 8, scal := false, zero := decide (f.mb 6 6 = 1) },
    a := if desc then .sreg 2 else if f.mb 4 4 = 1 then .sreg 1 else run (24 * shapeRA sh) 8,
    b := if f.mb 5 5 = 1 then .sreg 1 else run (24 * shapeCB sh) 8,
    c := if scales then run (4 * max (shapeRA sh) (shapeCB sh)) 4 else if desc then .ssrc 1 else .unused }

/-- Width and access of a special register: pairs, P registers, and those WRSR may write (R123). -/
def specialRegs (n : Nat) : Nat := if n = 0x06 ∨ n = 0x10 ∨ n = 0x13 ∨ n = 0x14 then 2 else 1
def specialKnown (n : Nat) : Bool := decide (n ≤ 0x0D ∨ (0x10 ≤ n ∧ n ≤ 0x14) ∨ (0x18 ≤ n ∧ n ≤ 0x1F))
def specialPriv (n : Nat) : Bool := decide (0x10 ≤ n ∧ n ≤ 0x14)
def specialWritable (n : Nat) : Bool := decide (n = 0x07 ∨ n = 0x08 ∨ n = 0x09 ∨ (0x10 ≤ n ∧ n ≤ 0x14))

/-- The wide runs of PACK8, UNPK8, PACK4 and UNPK4 (R182). -/
def packRun (four : Bool) (sel : Nat) : Nat := if four then 4 else if sel = 0 then 4 else 2

/-- How each instruction uses its fields. A step without an encoding uses none. -/
def Instr.sig : Instr → Sig
  | .iaddS _ | .isubS _ | .andS _ | .orS _ | .xorS _ | .shlS _ | .shrS _ => { dst := .dst 1, a := .src 1, b := .src 1 }
  | .inegS _ | .notS _ | .movS _ => { dst := .dst 1, a := .src 1 }
  | .braS _ => { dst := .free, a := .free }
  | .belseS _ => { p0 := true, dst := .free, a := .free }
  | .bendS _ => { p0 := true }
  | .exitS _ | .yieldS _ | .nopS _ => {}
  | .electS _ => { dst := .pred }
  | .fmtsetS _ => { a := .sreg 1 }
  | .waitc f => { modOk := decide (f.dst.toNat ≤ 5), dst := .free, a := .sreg 1 }
  | .retS _ => { a := .sreg 2 }
  -- integer and logic (R150)
  | .iadd f | .isub f =>
    let w := intRegs (f.mb 3 0)
    intSig f allInt (f.mb 11 8 == 0) (.dst w) (.src w) (.src w) .unused
  | .iaddc f =>
    let w := intRegs (f.mb 3 0)
    intSig f allInt (f.mb 11 8 == 0) (.dst w) (.src w) (.src w) .pred
  | .imul f | .idiv f | .irem f | .imin f | .imax f | .andL f | .orL f | .xorL f | .andn f =>
    let w := intRegs (f.mb 3 0)
    intSig f allInt (f.mb 11 4 == 0) (.dst w) (.src w) (.src w) .unused
  | .imulh f =>
    let w := intRegs (f.mb 3 0)
    intSig f [0, 1, 2, 3] (f.mb 11 4 == 0) (.dst w) (.src w) (.src w) .unused
  | .imad f =>
    let w := intRegs (f.mb 3 0)
    intSig f allInt (f.mb 11 4 == 0) (.dst w) (.src w) (.src w) (.src w)
  | .imadw f => intSig f [0, 1] (f.mb 11 4 == 0) (.dst 2) (.src 1) (.src 1) (.src 2)
  | .iabs f =>
    let w := intRegs (f.mb 3 0)
    intSig f [1, 3, 5, 7] (f.mb 11 4 == 0) (.dst w) (.src w) .unused .unused
  | .ineg f | .notL f | .brev f | .mov f =>
    let w := intRegs (f.mb 3 0)
    intSig f allInt (f.mb 11 4 == 0) (.dst w) (.src w) .unused .unused
  | .lop3 f =>
    let w := intRegs (f.mb 3 0)
    intSig f allInt true (.dst w) (.src w) (.src w) (.src w)
  | .shl f | .shr f | .rotl f =>
    let w := intRegs (f.mb 3 0)
    intSig f allInt (f.mb 11 4 == 0) (.dst w) (.src w) (.src 1) .unused
  | .shf f =>
    let w := intRegs (f.mb 3 0)
    intSig f [0, 2] (f.mb 11 5 == 0) (.dst w) (.src w) (.src 1) (.src w)
  | .bfx f =>
    let w := intRegs (f.mb 3 0)
    intSig f [0, 1, 2, 3] (f.mb 11 4 == 0) (.dst w) (.src w) (.src 1) (.src 1)
  | .bfi f =>
    let w := intRegs (f.mb 3 0)
    intSig f [0, 1, 2, 3] (f.mb 11 4 == 0) (.dst w) (.src w) (.src w) (.src 1)
  | .popc f | .clz f | .ctz f =>
    intSig f allInt (f.mb 11 4 == 0) (.dst 1) (.src (intRegs (f.mb 3 0))) .unused .unused
  | .perm f => intSig f [0] (f.mb 11 4 == 0) (.dst 1) (.src 1) (.src 1) (.src 1)
  | .selL f =>
    let w := intRegs (f.mb 3 0)
    intSig f allInt (f.mb 11 5 == 0) (.dst w) (.src w) (.src w) .pred
  | .icmp f =>
    let w := intRegs (f.mb 3 0)
    intSig f allInt (f.mb 11 10 == 0 && decide (f.mb 6 4 ≤ 5) && !(f.mb 8 7 == 0 && f.mb 9 9 == 1))
      .pred (.src w) (.src w) (if f.mb 8 7 = 0 then .unused else .pred)
  | .plop f => intSig f [0] true .pred .pred .pred .pred
  | .ppack f => intSig f [0] (f.mb 11 4 == 0) (.dst 1) .unused .unused .unused
  | .punpk f => intSig f [0] (f.mb 4 4 == 0) .unused (.src 1) .unused .unused
  | .movl f => intSig f [0] (f.mb 11 4 == 0) (.dst 2) (.src 1) (.src 1) .unused
  | .lea f => intSig f [0, 1] (f.mb 11 7 == 0) (.dst 2) (.src 2) (.src 1) (.src 1)
  | .idot4 f => intSig f [0, 1] (f.mb 11 7 == 0) (.dst 1) (.src 1) (.src 1) (.src 1)
  -- floating point (R170, R179, R182, R185)
  | .fadd f | .fsub f | .fmul f =>
    let w := floatRegs (f.mb 2 0)
    floatSig f [0, 1, 2, 3] (f.mb 11 6 == 0 && roundOk (f.mb 5 3)) (.dst w) (.src w) (.src w) .unused
  | .ffma f =>
    let w := floatRegs (f.mb 2 0)
    floatSig f [0, 1, 2, 3] (f.mb 11 8 == 0 && roundOk (f.mb 5 3)) (.dst w) (.src w) (.src w) (.src w)
  | .fmin f | .fmax f =>
    let w := floatRegs (f.mb 2 0)
    floatSig f [0, 1, 2, 3] (f.mb 5 3 == 0 && f.mb 11 7 == 0) (.dst w) (.src w) (.src w) .unused
  | .fcmp f =>
    let w := floatRegs (f.mb 2 0)
    floatSig f [0, 1] (f.mb 11 10 == 0 && !(f.mb 8 7 == 0 && f.mb 9 9 == 1))
      .pred (.src w) (.src w) (if f.mb 8 7 = 0 then .unused else .pred)
  | .fclass f | .fexp f =>
    floatSig f [0, 1] (f.mb 11 3 == 0) (.dst 1) (.src (floatRegs (f.mb 2 0))) .unused .unused
  | .frnd f =>
    let w := floatRegs (f.mb 2 0)
    floatSig f [0, 1, 2, 3] (f.mb 11 7 == 0 && roundOk (f.mb 5 3)) (.dst w) (.src w) .unused .unused
  | .fscale f =>
    let w := floatRegs (f.mb 2 0)
    floatSig f [0, 1, 2, 3] (f.mb 11 6 == 0 && roundOk (f.mb 5 3)) (.dst w) (.src w) (.src 1) .unused
  | .cvt f =>
    let known (t : Nat) : Bool := decide (t ≤ 11 ∨ t = 15)
    let ints := decide (f.mb 3 0 ≤ 7 ∧ f.mb 7 4 ≤ 7)
    { modOk := known (f.mb 3 0) && known (f.mb 7 4) && roundOk (f.mb 10 8) && !(f.mb 10 8 == 7 && f.mb 11 11 == 1) &&
        !(ints && f.mb 10 8 != 0),
      dst := .dst (cvtRegs (f.mb 3 0)), a := .src (cvtRegs (f.mb 7 4)) }
  | .pack8 f =>
    { modOk := f.mb 11 7 == 0 && roundOk (f.mb 2 0) && !(f.mb 2 0 == 7 && f.mb 3 3 == 1) && f.mb 5 4 != 3,
      dst := .dst 1, a := .src (packRun false (f.mb 5 4)), b := if f.mb 6 6 = 1 then .src 1 else .unused }
  | .unpk8 f =>
    { modOk := f.mb 11 7 == 0 && roundOk (f.mb 2 0) && f.mb 3 3 == 0 && f.mb 5 4 != 3,
      dst := .dst (packRun false (f.mb 5 4)), a := .src 1, b := if f.mb 6 6 = 1 then .src 1 else .unused }
  | .pack4 f =>
    { modOk := f.mb 11 7 == 0 && roundOk (f.mb 2 0) && !(f.mb 2 0 == 7 && f.mb 3 3 == 1) && f.mb 5 4 != 3,
      dst := .dst 1, a := .src 4, b := if f.mb 5 4 = 0 then .src 4 else .unused,
      c := if f.mb 6 6 = 1 then .src 1 else .unused }
  | .unpk4 f =>
    { modOk := f.mb 11 8 == 0 && roundOk (f.mb 2 0) && f.mb 3 3 == 0 && f.mb 5 4 != 3,
      dst := .dst 4, a := .src 1, b := if f.mb 6 6 = 1 then .src 1 else .unused }
  | .qscale f => { modOk := f.mb 11 1 == 0, dst := .dst 1, a := .src 1 }
  | .fmtset f => { modOk := f.mb 11 0 == 0, a := .ssrc 1 }
  | .modeset f => { modOk := f.mb 11 8 == 0, dst := .sdst 1, a := .ssrc 1 }
  | .rcp f | .rsq f | .sqrt f | .exp2 f | .log2 f | .sinpi f | .cospi f | .tanh f =>
    let w := floatRegs (f.mb 2 0)
    floatSig f [0, 1] (f.mb 11 3 == 0) (.dst w) (.src w) .unused .unused
  | .fdiv f =>
    let w := floatRegs (f.mb 2 0)
    floatSig f [0, 1] (f.mb 11 3 == 0) (.dst w) (.src w) (.src w) .unused
  | .fsqrt f =>
    let w := floatRegs (f.mb 2 0)
    floatSig f [0, 1] (f.mb 11 3 == 0) (.dst w) (.src w) .unused .unused
  -- lanes, keys and strings (R194)
  | .shfl f =>
    let w := 1 + f.mb 8 8
    { modOk := f.mb 11 9 == 0 && decide (f.mb 4 2 ≤ 4), dst := .vdst w, a := .src w, b := .src 1 }
  | .vote f =>
    { modOk := f.mb 11 3 == 0, dst := if f.mb 1 0 = 3 then .dst 1 else .pred, a := .pred }
  | .redux f =>
    let w := if f.mb 3 0 ≤ 5 then intRegs (f.mb 7 4) else floatRegs (f.mb 7 4)
    { modOk := f.mb 11 8 == 0 && laneOpOk (f.mb 3 0) (f.mb 7 4), dst := .dst w, a := .msrc w }
  | .scan f =>
    let w := if f.mb 3 0 ≤ 5 then intRegs (f.mb 7 4) else floatRegs (f.mb 7 4)
    { modOk := f.mb 11 9 == 0 && laneOpOk (f.mb 3 0) (f.mb 7 4), dst := .vdst w, a := .src w }
  | .matchL f => { modOk := f.mb 11 4 == 0, dst := .vdst 1, a := .src (1 + f.mb 0 0) }
  | .elect f => { modOk := f.mb 11 0 == 0, dst := .pred }
  | .rdlane f =>
    let w := 1 + f.mb 0 0
    { modOk := f.mb 11 1 == 0, dst := .sdst w,
      a := .reg { n := w, align := w, scal := false, zero := false, mix := true }, b := .ssrc 1 }
  | .wrlane f =>
    let w := 1 + f.mb 0 0
    { modOk := f.mb 11 1 == 0, dst := .vdst w, a := .ssrc w, b := .ssrc 1 }
  | .wfuse f => { modOk := f.mb 11 0 == 0, dst := .sdst 1, a := .pred, b := .ssrc 1, c := .ssrc 1 }
  | .hash f => { modOk := f.mb 11 1 == 0, dst := .dst 1, a := .src (1 + f.mb 0 0), b := .src 1 }
  | .hashc f => { modOk := f.mb 11 0 == 0, dst := .dst 1, a := .src 1, b := .src 1 }
  | .partL f =>
    { modOk := f.mb 11 1 == 0, dst := .dst 1, a := .src 1, b := .src 1, c := if f.mb 0 0 = 1 then .unused else .src 1 }
  | .pcount f => { modOk := f.mb 11 2 == 0, dst := .vdst 1, a := .src (1 + f.mb 1 1) }
  | .sld f => { modOk := f.mb 11 2 == 0, dst := .dst 4, a := .src 2, b := .src 1 }
  | .scmp f => { modOk := f.mb 11 1 == 0, dst := .dst 1, a := .src 4, b := .src 4, c := .src 1 }
  | .shash f | .sfind f => { modOk := f.mb 11 1 == 0, dst := .dst 1, a := .src 4, b := .src 1, c := .src 1 }
  | .spfx f => { modOk := f.mb 11 1 == 0, dst := .dst 2, a := .src 4, b := .src 1 }
  | .sutf f => { modOk := f.mb 11 0 == 0, dst := .dst 1, a := .src 4, b := .src 1 }
  | .scase f => { modOk := f.mb 11 1 == 0, dst := .dst 4, a := .src 4, b := .src 1 }
  -- matrix (R224)
  | .mma f => matrixSig f false false
  | .mmas f => matrixSig f true false
  | .mmav f => matrixSig f false true
  | .gangset f => { modOk := f.mb 11 0 == 0, dst := .sdst 1, a := .ssrc 1 }
  | .mldt f =>
    { modOk := f.mb 11 1 == 0, dst := .reg { n := if f.mb 0 0 = 1 then 8 else 24, align := 8, scal := false }, a := .sreg 1, b := .ssrc 1 }
  | .mstt f =>
    { modOk := f.mb 11 6 == 0 && roundOk (f.mb 4 2) && !(f.mb 4 2 == 7 && f.mb 5 5 == 1) && !(f.mb 1 0 == 0 && f.mb 5 2 != 0),
      a := .run 8 8, b := .sreg 1, c := .ssrc 1 }
  -- memory (R276)
  | .ld f =>
    { modOk := f.mb 11 11 == 0 && f.mb 7 7 == 0 && decide (f.mb 3 0 ≤ 6), dst := .dst (widthRegs (f.mb 3 0)),
      a := .src 2, b := .src 1 }
  | .st f =>
    { modOk := f.mb 11 11 == 0 && f.mb 7 7 == 0 && [0, 1, 2, 3, 5].contains (f.mb 3 0), a := .src 2, b := .src 1,
      c := .src (widthRegs (f.mb 3 0)) }
  | .lds f =>
    { modOk := f.mb 11 11 == 0 && f.mb 7 4 == 0 && decide (f.mb 3 0 ≤ 6), dst := .dst (widthRegs (f.mb 3 0)),
      a := .src 1, b := .src 1 }
  | .sts f =>
    { modOk := f.mb 11 11 == 0 && f.mb 7 4 == 0 && [0, 1, 2, 3, 5].contains (f.mb 3 0), a := .src 1, b := .src 1,
      c := .src (widthRegs (f.mb 3 0)) }
  | .ldf f =>
    { modOk := f.mb 11 11 == 0 && f.mb 7 4 == 0 && decide (f.mb 3 0 ≤ 1), dst := .vdst (widthRegs (f.mb 3 0)),
      a := .src 1, b := .src 1 }
  | .stf f =>
    { modOk := f.mb 11 11 == 0 && f.mb 7 7 == 0 && f.mb 5 4 == 0 && decide (f.mb 3 0 ≤ 1), a := .src 1, b := .src 1,
      c := .src (widthRegs (f.mb 3 0)) }
  | .feset f =>
    { modOk := f.mb 11 11 == 0 && f.mb 7 7 == 0 && f.mb 5 4 == 0 && decide (f.mb 3 0 ≤ 1), a := .src 1, b := .src 1 }
  | .atom f =>
    { modOk := atomOk (f.mb 3 0) (f.mb 7 4), dst := .vdst (atomRegs (f.mb 7 4)), a := .src 2, b := .src 1,
      c := .src (if f.mb 3 0 = 7 then 2 * atomRegs (f.mb 7 4) else atomRegs (f.mb 7 4)) }
  | .red f =>
    { modOk := f.mb 11 11 == 0 && atomOk (f.mb 3 0) (f.mb 7 4) && f.mb 3 0 != 6 && f.mb 3 0 != 7, a := .src 2, b := .src 1,
      c := .src (atomRegs (f.mb 7 4)) }
  | .atoms f =>
    { modOk := f.mb 11 11 == 0 && atomOk (f.mb 3 0) (f.mb 7 4), dst := .vdst (atomRegs (f.mb 7 4)), a := .src 1,
      b := .src 1, c := .src (if f.mb 3 0 = 7 then 2 * atomRegs (f.mb 7 4) else atomRegs (f.mb 7 4)) }
  | .pref f => { modOk := f.mb 11 11 == 0 && f.mb 7 7 == 0 && f.mb 3 0 == 0, a := .src 2, b := .src 1 }
  | .fence f =>
    { modOk := f.mb 11 11 == 0 && f.mb 7 3 == 0 && f.mb 1 0 != 3, a := if f.mb 2 2 = 1 then .unused else .src 2,
      b := if f.mb 2 2 = 1 then .unused else .src 1 }
  | .bara f | .baraw f =>
    { modOk := f.mb 11 11 == 0 && f.mb 7 0 == 0, dst := .sdst 1, a := .ssrc 1, b := .ssrc 1, c := .msrc 1 }
  | .barw f => { modOk := f.mb 11 11 == 0 && f.mb 7 0 == 0, a := .ssrc 1, b := .ssrc 1, c := .ssrc 1 }
  | .monw f => { modOk := f.mb 11 1 == 0, dst := .pred, a := .ssrc 2, b := .ssrc (1 + f.mb 0 0), c := .ssrc 1 }
  -- regions (R308)
  | .rgbeg f => { modOk := f.mb 11 1 == 0, p0 := true, a := offsetUse f, b := offsetUse f, c := offsetUse f }
  | .rgend f => { modOk := f.mb 11 0 == 0, p0 := true, dst := .sdst 2 }
  | .rgabt f => { modOk := f.mb 11 0 == 0, a := .ssrc 1 }
  | .rgbnd f => { modOk := f.mb 11 0 == 0, dst := .sdst 4 }
  | .rgnar f => { modOk := f.mb 11 0 == 0, a := .ssrc 2 }
  | .rgst f => { modOk := f.mb 11 4 == 0 && decide (f.mb 3 0 ≤ 10), dst := .sdst 1 }
  -- control (R132)
  | .bra f => { dst := .sdst 2, a := offsetUse f, b := offsetUse f, c := offsetUse f }
  | .brx f => { modOk := f.mb 11 0 == 0, dst := .sdst 2, a := .msrc 1, b := .sreg 2 }
  | .call f => { modOk := f.mb 11 0 == 0, dst := .sdst 2, a := offsetUse f, b := offsetUse f, c := offsetUse f }
  | .ret f => { modOk := f.mb 11 0 == 0, a := .sreg 2 }
  | .bif f | .bloop f =>
    { modOk := f.mb 11 4 == 0, p0 := true, a := offsetUse f, b := offsetUse f, c := offsetUse f }
  -- a depth of 255 is not refused: it overflows the counter where a lane breaks (R139). DEDUCED, log entry 92
  | .bbrk f => { p0 := true, a := offsetUse f, b := offsetUse f, c := offsetUse f }
  | .belse f => { modOk := f.mb 11 0 == 0, p0 := true, a := offsetUse f, b := offsetUse f, c := offsetUse f }
  | .bend f => { modOk := f.mb 11 0 == 0, p0 := true }
  | .regang f => { modOk := f.mb 11 0 == 0, p0 := true, dst := .sdst 1, a := .sreg 2, b := .ssrc 1 }
  | .exit f | .yield f => { modOk := f.mb 11 0 == 0 }
  | .lease f => { modOk := f.mb 11 2 == 0 && f.mb 1 0 != 3, dst := .sdst 1, a := .ssrc 1 }
  | .flash _ => { p0 := true, a := .ssrc 1, b := .ssrc 1 }
  -- queues and engines (R365)
  | .launch f => { modOk := f.mb 11 1 == 0, dst := .sdst 1, a := .msrc 2, b := .msrc 2, c := .ssrc 1 }
  | .qpush f =>
    { modOk := f.mb 11 1 == 0, dst := .pred, a := .sreg 2,
      c := .reg { n := if f.mb 0 0 = 1 then 32 else 16, align := 8 } }
  | .qpop f =>
    { modOk := f.mb 11 10 == 0, a := .sreg 2,
      dst := .reg { n := if f.mb 0 0 = 1 then 32 else 16, align := 8, scal := false } }
  | .qclose f => { modOk := f.mb 11 0 == 0, a := .sreg 2 }
  | .xcopy f | .xgath f | .xscat f | .xred f | .xfill f =>
    { modOk := f.mb 11 2 == 0, a := .sreg 2, b := .sreg 2, c := .sreg 2 }
  | .fcinc f => { modOk := f.mb 11 0 == 0, dst := .sdst 2, a := .ssrc 1, b := .ssrc 1 }
  | .fcwait f => { modOk := f.mb 11 0 == 0, a := .ssrc 1, b := .ssrc 2 }
  -- system and tables (R411, R436)
  | .trap _ | .bkpt _ => {}
  | .eret f => { modOk := f.mb 11 0 == 0, p0 := true, priv := true }
  | .rdsr f =>
    let n := f.mb 7 0
    { modOk := f.mb 11 8 == 0, dst := if n = 0 then .vdst 1 else .sdst (specialRegs n), badOp := !specialKnown n,
      priv := specialPriv n }
  | .wrsr f =>
    let n := f.mb 7 0
    { modOk := f.mb 11 8 == 0, a := .ssrc (specialRegs n), badOp := !specialWritable n, priv := specialPriv n }
  | .tlbinvPage f => { modOk := f.mb 11 2 == 0, a := .ssrc 2, priv := true }
  | .tlbinvAll f => { modOk := f.mb 11 2 == 0, priv := true }
  | .tlbinvGlob f => { modOk := f.mb 11 2 == 0, b := .ssrc 1, priv := true }
  | .tblrd f => { modOk := f.mb 11 0 == 0, dst := .sdst 2, a := .ssrc 2, priv := true }
  | .tblwr f => { modOk := f.mb 11 0 == 0, a := .ssrc 2, b := .ssrc 2, priv := true }
  | .halt f => { modOk := f.mb 11 0 == 0, priv := true }
  | .nop f => { modOk := f.mb 11 0 == 0 }
  | .cctlIcinv f | .cctlL1wb f | .cctlL1inv f => { modOk := f.mb 11 4 == 0 }
  | .cctlLinewb f => { modOk := f.mb 11 4 == 0, a := .ssrc 2 }
  | .cctlEvict f => { modOk := f.mb 11 4 == 0, a := .ssrc 2, priv := true }
  | .ctxsv f | .ctxld f => { modOk := f.mb 11 0 == 0, a := .sreg 2, priv := true }
  | _ => {}

/-- The fields of an instruction in the L-form layout; an S-form branch keeps its two operand fields. -/
def Instr.fields : Instr → LX
  | .iaddS f | .isubS f | .andS f | .orS f | .xorS f | .shlS f | .shrS f => f.two
  | i => match i.form with
    | .short _ f => f.one
    | .long _ f => f
    | .event => { lit := none, modi := 0, dst := 0xFC, stall := 0, neg := false, guard := 0, srcA := 0xFC, srcB := 0xFC, srcC := 0xFC }

/-- A field that breaks R98: unused, but not 0xFC. -/
def Use.wrongInstr (u : Use) (code : BitVec 8) : Bool :=
  match u with
  | .unused => code != 0xFC
  | _ => false

/-- A register operand that breaks R96, R99 or R100: a wrong kind, a wrong first register, a literal where there is
none. A run that passes v191 is one, also where its first register is a multiple of its alignment. DEDUCED, log entry 102. -/
def RegUse.wrong (r : RegUse) (hasLit : Bool) (code : BitVec 8) : Bool :=
  let k := code.toNat
  if k < 192 then !r.vec || k % r.align != 0 || decide (192 < k + r.n)
  else if k < 252 then !r.scal || (k - 192) % r.align != 0 || decide (252 < k + r.n)
  else if k = 252 then !r.zero
  else if k = 255 then !(r.lit && hasLit)
  else true

/-- A field that breaks R96, R99 or R100. DEDUCED, log entry 19. -/
def Use.wrongOperand (u : Use) (hasLit : Bool) (code : BitVec 8) : Bool :=
  match u with
  | .unused | .free => false
  | .pred => decide (7 < code.toNat)
  | .reg r => r.wrong hasLit code

/-- A vector source beside a scalar destination (R102). -/
def Use.vectorBeside (u : Use) (code : BitVec 8) : Bool :=
  match u with
  | .reg r => !r.mix && decide (code.toNat < 192)
  | _ => false

/-- The destination is a scalar register. -/
def Sig.scalarDst (g : Sig) (f : LX) : Bool :=
  match g.dst with
  | .reg _ => decide (192 ≤ f.dst.toNat ∧ f.dst.toNat < 252)
  | _ => false

/-- Step 3 of R106: the modifier, the guard and the unused fields. -/
def Sig.illegalInstr (g : Sig) (f : LX) : Bool :=
  !g.modOk || (g.p0 && (f.guard != 0 || f.neg)) || g.dst.wrongInstr f.dst || g.a.wrongInstr f.srcA ||
    g.b.wrongInstr f.srcB || g.c.wrongInstr f.srcC

/-- Step 4 of R106, as far as the words alone decide it. -/
def Sig.illegalOperand (g : Sig) (f : LX) : Bool :=
  g.badOp || g.dst.wrongOperand false f.dst || g.a.wrongOperand f.lit.isSome f.srcA ||
    g.b.wrongOperand f.lit.isSome f.srcB || g.c.wrongOperand f.lit.isSome f.srcC ||
    (g.scalarDst f && (g.a.vectorBeside f.srcA || g.b.vectorBeside f.srcB || g.c.vectorBeside f.srcC))

/-- Vector registers that a field names, at or above the allocation (R101). -/
def Use.beyond (u : Use) (alloc : Nat) (code : BitVec 8) : Bool :=
  match u with
  | .reg r => decide (code.toNat < 192 ∧ alloc < code.toNat + r.n)
  | _ => false

/-- Step 5 of R106. -/
def Sig.registerRange (g : Sig) (f : LX) (alloc : Nat) : Bool :=
  g.dst.beyond alloc f.dst || g.a.beyond alloc f.srcA || g.b.beyond alloc f.srcB || g.c.beyond alloc f.srcC

/-- The operand of an X-form instruction is its displacement when no source field holds 0xFF (R96, R278). DEDUCED, log entry 18. -/
def LX.spareLit (f : LX) : Option Word :=
  if f.srcA = 0xFF ∨ f.srcB = 0xFF ∨ f.srcC = 0xFF then none else f.lit

/-- Words 0 and 1 of an instruction, as EVAL holds them (R420). -/
def Instr.evalWords (i : Instr) : DWord :=
  match encode i with
  | [w0] => w0.setWidth 64
  | w0 :: w1 :: _ => w1 ++ w0
  | [] => 0

end Sys2Proof
end

