-- ==== Sys2Proof/Machine/State.lean ====
section
/-! DEFINITION. The state of the part: everything the spec gives the machine, as plain data, and the state after reset. -/

namespace Sys2Proof.Machine

/-! ## Lanes, slices and slice groups -/

/-- One SIMT lane (R22, R120). -/
structure Lane where
  /-- v0 to v191; an unlisted register holds 0. -/
  v      : SMap Word := []
  /-- p0 to p7; bit 0 is always 1. -/
  p      : BitVec 8 := 1
  /-- The nesting counter (R24). -/
  nest   : BitVec 8 := 0
  /-- The logical lane identifier (R26). -/
  lid    : BitVec 5 := 0
  exited : Bool := false
  /-- Marks a lane of an LDF or STF.we that has completed its step (R430). -/
  done   : Bool := false
deriving DecidableEq, Repr

/-- Four lanes that share one program counter and one FMT (R22). -/
structure Slice where
  pc  : BitVec 48 := 0
  fmt : BitVec 12 := 0
deriving DecidableEq, Repr

/-- The six path counters (R376). -/
inductive Path where
  | ldg | stg | spd | xen | mmx | peer
deriving DecidableEq, Repr

/-- Why a slice group is not ready (R50), beside its stall count. -/
inductive Hold where
  | none
  /-- WAITC: the named counter stands above the threshold (R297). -/
  | counter (path : Path) (threshold : Nat)
  /-- All six path counters must be 0 (R57, R441). -/
  | counters
  /-- RGBEG: LDG, STG and PEER must be 0 (R309). -/
  | regionStart
  /-- The warp's pending class-Q writes must be fewer than `n` (R110). -/
  | interlock (n : Nat)
  /-- The SFU queue of the quadrant is full (R110). -/
  | sfuFull
  /-- The divider of the quadrant is full (R188). -/
  | dividerFull
  /-- A sub-array that the instruction needs holds two instructions already (R231): shape and sub-array. -/
  | places (shape sub : Nat)
  /-- A path counter stands at 63 (R121). -/
  | pathFull (path : Path)
  /-- Write-backs of a release are not all acknowledged (R283). -/
  | acks
  /-- The warp's outstanding collapses (R262). -/
  | collapses
  /-- WRSR of FFLAGS: older floating-point instructions must have applied their flags (R124). -/
  | flags
  /-- CTXSV, CTXLD: every group of the warp is held until the counters are 0 and older results are written (R441). -/
  | drain
  /-- The accesses that the progress lists must have returned (LD.acq, ATOM.acq; R283, R285, R290). -/
  | returns
  /-- Peer requests of the accesses that the progress lists have not all left the core (R362). -/
  | leave
  /-- REGANG's wait (R140, R141): the record's mask, the arrival cycle, the timeout and the destination. -/
  | regang (mask : BitVec 8) (arrived timeout : Nat) (dst : BitVec 8)
  /-- LAUNCH: the launch queue has no room for its records (R367). -/
  | launchRoom (queue records : Nat)
  /-- The quadrant's share of the copy-engine queue is full (R371). -/
  | engineFull
  /-- A line that the instruction works on is Moving, granted to a region, or held by the host (R258, R271, R319). -/
  | lineStops (line : Nat) (writes : Bool)
  /-- TLBINV: the accesses that the progress values name must have returned (R412). -/
  | settles
  /-- TBLWR: a write of the quadrant's partition entry has not been made (R401). -/
  | partition (core quad : Nat)
  /-- An older barrier arrival of the warp is still in its release steps: scratchpad accesses are performed in issue order (R287). -/
  | barrierAhead
  /-- Waits until an event that names this group lets it go on. -/
  | event
deriving DecidableEq, Repr

/-- How far a held instruction has come (R283 and the instructions that wait). -/
structure Progress where
  /-- 0 before the first step. -/
  stage : Nat := 0
  /-- Domains whose release steps are still to run. -/
  doms  : List Nat := []
  /-- Write-backs not yet acknowledged, or accesses that have not returned. -/
  acks  : NSet := []
  /-- A value the instruction carries from step to step. -/
  note  : Nat := 0
  /-- What the instruction read when it issued, before it waited. -/
  vals  : List Nat := []
deriving DecidableEq, Repr

/-- A set of slices that issue together (R22). -/
structure Group where
  mask    : BitVec 8
  /-- The first core cycle at which the group may issue again (R107). -/
  readyAt : Nat := 0
  hold    : Hold := .none
  prog    : Progress := {}
  /-- Held while a handler runs in another group (R417, R421). -/
  held    : Bool := false
deriving DecidableEq, Repr

/-! ## A warp -/

/-- The admission states of R130. -/
inductive Admission where
  | waiting | admitted | head | returning | parked
deriving DecidableEq, Repr

/-- Why a warp is parked (R47). -/
inductive ParkReason where
  | none
  /-- BARW or BARAW on the barrier word at an offset, until PHASE differs from `phase`. -/
  | barrier (offset : Nat) (phase : Bool)
  /-- LDF or STF.we waiting at its words (R288). -/
  | fullEmpty
  /-- MONW on a line (R295); the cycle at which the bound expires. -/
  | monitor (line : Nat) (expiry : Option Nat)
  /-- QPOP on an empty queue (R369). -/
  | queue (header : Nat)
  /-- FCWAIT (R373). -/
  | fence (counter : Nat) (least : Nat)
  /-- A replayable page fault (R423). -/
  | pageFault (token : Nat)
deriving DecidableEq, Repr

/-- The LEASE register and what Sorrel keeps with it (R41 to R50, R130). -/
structure Lease where
  decl      : Nat := 0
  meas      : Nat := 16
  fixed     : Bool := false
  prio      : Nat := 0
  st        : Admission := .waiting
  /-- The cycle at which the warp last entered the waiting state. -/
  waitFrom  : Nat := 0
  /-- The cycle at which the warp became head. -/
  headFrom  : Nat := 0
  /-- The cycle at which the warp last parked, was marked or exited. -/
  leftAt    : Nat := 0
  /-- Still counted in the admitted sum (R43 step 1). -/
  counted   : Bool := false
  /-- One more than the instructions issued since the last lost-locality event (R48). -/
  run       : Nat := 1
  /-- Selections in which the warp was ready but passed over (R50). -/
  passed    : Nat := 0
deriving DecidableEq, Repr

/-- The path counters of a warp (R120). -/
structure Paths where
  ldg  : Nat := 0
  stg  : Nat := 0
  spd  : Nat := 0
  xen  : Nat := 0
  mmx  : Nat := 0
  peer : Nat := 0
deriving DecidableEq, Repr

/-- CTL, FFLAGS and the trap registers (R123 to R126, R418 to R420). -/
structure Special where
  priv   : Bool := false
  schk   : Bool := false
  fflags : BitVec 5 := 0
  epc    : DWord := 0
  estat  : Word := 0
  ecause : Word := 0
  eval   : DWord := 0
  evec   : DWord := 0
deriving DecidableEq, Repr

/-- The predicates, counter and exited bit of a lane, as a latch keeps them (R57, R309). -/
structure LaneWord where
  p      : BitVec 8 := 1
  nest   : BitVec 8 := 0
  exited : Bool := false
deriving DecidableEq, Repr

/-- The flashback latch (R57, R122). -/
structure FlashLatch where
  valid : Bool := false
  pc    : BitVec 48 := 0
  nv    : Nat := 0
  ns    : Nat := 0
  label : Nat := 0
  fmt   : BitVec 12 := 0
  mode  : Word := 0
  lanes : List LaneWord := []
deriving DecidableEq, Repr

/-- An entry of the partner list (R306). -/
structure Partner where
  region : Nat
  fol    : Bool := false
  pre    : Bool := false
deriving DecidableEq, Repr

/-- The region registers and what a region keeps (R303 to R309, R318). -/
structure Region where
  alo      : DWord := 0
  ahi      : DWord := 0
  /-- ARS.STATE (R307). -/
  st       : Nat := 0
  rigid    : Bool := false
  depth    : Nat := 0
  reason   : Nat := 0
  detail   : Nat := 0
  epoch    : Nat := 0
  partners : List Partner := []
  /-- PART as CTXLD has left it, while there is no partner list (R442). -/
  part     : Nat := 0
  /-- The abort counts of reasons 1 to 9. -/
  aborts   : SMap Nat := []
  commits  : Nat := 0
  /-- The latch of R309. -/
  target   : BitVec 48 := 0
  latchRigid : Bool := false
  latchFmt : BitVec 12 := 0
  latch    : List LaneWord := []
  /-- The first abort cause that has arrived and not yet taken effect (R322). -/
  cause    : Option (Nat × Nat) := none
  /-- The lines that the region has read, with the bytes it read (R310), and the lines it has written. -/
  reads    : SMap LineData := []
  writes   : NSet := []
  /-- Banks still to visit, banks that have granted, and the floor and ceiling so far (R318). -/
  toVisit  : List Nat := []
  granted  : List Nat := []
  floor    : Nat := 0
  ceiling  : Nat := 0
deriving DecidableEq, Repr

/-- A class-F result that is not yet delivered (R107, R109). -/
structure Undelivered where
  /-- Operand code 0 to 191 for a vector register, 192 to 251 for a scalar one, 256 + k for predicate pk, 264 for FMT,
  512 + n for special register n. -/
  code : Nat
  /-- The lane, or the slice for FMT, or 32. -/
  lane : Nat
  old  : Nat
  due  : Nat
deriving DecidableEq, Repr

/-- What an access in flight does when it returns (R282). -/
inductive AccessKind where
  /-- A load of `bytes` bytes, sign-extended when `signed`, into a run of registers. -/
  | load (bytes : Nat) (signed : Bool)
  /-- SLD: the bytes of each lane, with its count (R213). -/
  | stringLoad
  /-- Old values of an atomic of `bytes` bytes (R290). -/
  | atomic (bytes : Nat)
  /-- MLDT: tile bytes into a register run (R240). -/
  | tile
  /-- A scalar result, as of BARA, LAUNCH or QPUSH. -/
  | result
  /-- An image, a descriptor or records that an instruction reads from another module's memory (R366, R367, R442). -/
  | image
  /-- Nothing is written. -/
  | plain
deriving DecidableEq, Repr

/-- A class-M access of a warp, from issue until its path counter falls (R111, R282). -/
structure Access where
  id     : Nat
  path   : Path
  kind   : AccessKind := .plain
  /-- First register of the destination run, and its length; 0xFC writes nothing. -/
  dst    : Nat := 0xFC
  regs   : Nat := 1
  /-- Executing lanes (physical) with their physical addresses and byte counts. -/
  parts  : List (Nat × Nat × Nat) := []
  /-- Requests and peer requests that have not been answered. -/
  needs  : NSet := []
  /-- Bytes served so far, by physical address. -/
  bytes  : SMap Byte := []
  /-- Values delivered so far, by lane (32 for the scalar path). -/
  values : SMap Nat := []
  /-- Refused an entry under R311: it writes no register. -/
  refused : Bool := false
  /-- The lower bound that a region takes when the access returns (R310). -/
  alo     : DWord := 0
  /-- Its results are written; the counter falls once every older access of its path has returned too (R111). -/
  returned : Bool := false
  /-- Lanes of an atomic: lane, physical address, operand, compare value. -/
  ops    : List (Nat × Nat × Nat × Nat) := []
  /-- The lowest-LID lane that executed the instruction (R424). -/
  firstLid : Nat := 0
  /-- Predicates that the return writes: lane, number, value (R368, R369). -/
  preds : List (Nat × Nat × Bool) := []
  /-- The slices of the group that is held at its instruction, while the access is not sent. -/
  mask  : BitVec 8 := 0
  /-- The pages of 128 KiB that it has translated (R412). -/
  pages : NSet := []
deriving DecidableEq, Repr

/-- A class-M destination that no completed WAITC covers yet (R112). -/
structure Uncovered where
  path     : Path
  access   : Nat
  code     : Nat
  regs     : Nat
  /-- The lanes that the access writes; 32 for a scalar run. -/
  lanes    : List Nat := []
  returned : Bool := false
deriving DecidableEq, Repr

/-- A fault of work that continues after its instruction (R424). -/
structure Deferred where
  path   : Path
  source : Nat
  cause  : Nat
  addr   : Nat
  lid    : Nat
  /-- Destination run of a matrix operation, empty otherwise. -/
  code   : Nat := 0
  regs   : Nat := 0
  /-- The access whose work failed. -/
  access : Nat := 0
  /-- ACCESS of ECAUSE (R419). -/
  bits   : Nat := 0
deriving DecidableEq, Repr

/-- A trap that waits for older class-Q and accumulator writes (R417). -/
structure PendingTrap where
  mask    : BitVec 8
  /-- The faulting instruction, as a fault record names it (R360). -/
  pc      : Nat
  cause   : Nat
  epc     : Nat
  eval    : DWord
  perLane : Bool
  lid     : Nat
  deferred : Bool
  source  : Nat
  access  : Nat
deriving DecidableEq, Repr

/-- A warp that waits in FLASH (R57), WFUSE (R204), GANGSET (R236) or a ganged matrix instruction (R239), with what the
instruction read when it issued. -/
structure Rendezvous where
  instr : Instr
  mask  : BitVec 8
  vals  : List Nat := []
  /-- Has entered the latch of WFUSE. -/
  entered : Bool := false
deriving DecidableEq, Repr

/-- One warp (R22, R120). -/
structure Warp where
  lanes    : List Lane
  slices   : List Slice
  /-- The slice groups in rotation order (R27). -/
  groups   : List Group
  /-- s0 to s59; an unlisted register holds 0. -/
  s        : SMap Word := []
  mode     : Word := 0
  gang     : Word := 0
  lease    : Lease := {}
  paths    : Paths := {}
  special  : Special := {}
  flash    : FlashLatch := {}
  region   : Region := {}
  /-- Vector registers allocated (R101). -/
  alloc    : Nat
  tenant   : Nat
  launch   : Nat := 0
  block    : Nat := 0
  /-- Index of the warp in its block. -/
  index    : Nat := 0
  coords   : List Word := []
  /-- Start order in the quadrant (R44). -/
  age      : Nat := 0
  park     : ParkReason := .none
  /-- What the warp also waits for while `park` holds it, the cause that came last first (R47): other groups' instructions. -/
  behind   : List ParkReason := []
  accesses : List Access := []
  uncovered : List Uncovered := []
  undelivered : List Undelivered := []
  /-- Flags of class-F results, with the cycle at which each becomes visible (R76). -/
  flagsDue : List (Nat × BitVec 5) := []
  /-- Collapses this warp's writes caused that have not completed (R262). -/
  collapses : Nat := 0
  deferred : List Deferred := []
  trap     : Option PendingTrap := none
  /-- The replayable fault on which the warp is parked, as a write to FQFAIL delivers it (R423). -/
  faulted  : Option PendingTrap := none
  /-- Ended by a terminal fault or HALT: the cause, the PC and the lowest LID of its record (R422). -/
  ending   : Option (Nat × Nat × Nat) := none
  /-- Instructions issued since a pre-emption request, while one stands (R60). -/
  preempt  : Option Nat := none
  /-- Only instructions that have issued go on, until the warp can be stopped (R59, R60, R441). -/
  drain    : Bool := false
  /-- Stopped for pre-emption: at its flashback point, with the entry of its recipe, or in full (R59, R60). -/
  saved    : Option (Option Nat) := none
  /-- The instruction at which the warp waits for its counters or for other warps. -/
  latch    : Option Rendezvous := none
  /-- Pipeline stage, and the reassignment mark of R54. -/
  stage    : Option Nat := none
  reassign : Bool := false
  nextAccess : Nat := 1
  /-- The probe window (R404). -/
  probe    : BitVec 384 := 0
deriving DecidableEq, Repr

/-! ## Quadrants and cores -/

/-- A class-Q result on its way (R188). -/
structure QResult where
  slot  : Nat
  /-- Operand code of the first register, its length; the values by lane (32 for the scalar path). -/
  code  : Nat
  regs  : Nat
  values : SMap Nat
  flags : BitVec 5
  /-- The cycle at which its unit starts it, and the one at which its latency ends. -/
  start : Nat
  due   : Nat
deriving DecidableEq, Repr

/-- A warp that takes part in a matrix instruction: a gang member, or the one warp (R238). -/
structure MatrixMember where
  slot   : Nat
  /-- Operand code of the accumulator run, 0xFC for none, and the sub-tiles it holds. -/
  acc    : Nat
  tiles  : List Nat
  /-- The access that MMX counts, where the instruction fetches from the scratchpad. -/
  access : Option Nat := none
  /-- LID of the lowest-LID executing lane (R424). -/
  lid    : Nat := 0
deriving DecidableEq, Repr

/-- Where an operand of a matrix instruction comes from. -/
inductive MatrixSource where
  /-- Rows that have been read: from registers when the instruction issued, from the window when it entered. -/
  | rows (bytes : List Byte)
  /-- Rows of 192 bytes from a window offset on. -/
  | window (offset : Nat)
  /-- Rows of MMAV: the descriptor's 256 bits, kbase and pbase. -/
  | virtual (desc kbase pbase : Nat)
deriving DecidableEq, Repr

/-- A matrix instruction in a quadrant's matrix unit (R231 to R234), or an MLDT at the port (R240). -/
structure MatrixOp where
  id      : Nat
  /-- 0 MMA, 1 MMAS, 2 MMAV, 3 MLDT. -/
  kind    : Nat
  members : List MatrixMember
  block   : Nat
  shape   : Nat := 0
  sub     : Nat := 0
  fmt     : Nat := 0
  entered : Nat
  /-- The cycle at which the port has read its last byte, until it has. -/
  fetch   : Option Nat := none
  a       : MatrixSource := .rows []
  b       : MatrixSource := .rows []
  /-- Register bytes of the scale run of SELF 0 and of SELF 1, one warp for both without a gang. -/
  scaleA  : List Byte := []
  scaleB  : List Byte := []
  /-- MLDT: offset, pitch and row bytes. -/
  tile    : Nat × Nat × Nat := (0, 0, 0)
  /-- The first poisoned byte that its fetch has met (R242). -/
  bad     : Option Nat := none
  /-- Takes C from the instruction ahead (R232). -/
  chained : Bool := false
  cancelled : Bool := false
  /-- S of R231. -/
  start   : Option Nat := none
  /-- Accumulator elements by 256 s + 16 i + j, once started. -/
  result  : List Nat := []
deriving DecidableEq, Repr

/-- A latch of a sub-array: whose block, from where, which one (R234). -/
structure MatrixLatch where
  /-- Slots of the warp or gang. -/
  owner  : List Nat
  window : Bool
  /-- Register code or window offset of the operand, and the block. -/
  place  : Nat
  block  : Nat
  bytes  : List Byte
deriving DecidableEq, Repr

/-- A quadrant of a core (R12, R14). -/
structure Quad where
  /-- The partition entry (R401): EN, TENANT, WAYS and BANKS. -/
  en     : Bool := true
  tenant : Nat := 0
  ways   : BitVec 8 := 0
  banks  : BitVec 32 := 0
  /-- Victim tags: line and owning slot, newest first (R48). -/
  victims : List (Nat × Nat) := []
  lost   : Nat := 0
  admitted : Nat := 0
  head   : Option Nat := none
  widened : Bool := false
  /-- The warp last selected at each priority (R50). -/
  last   : SMap Nat := []
  starts : Nat := 0
  sfu    : List QResult := []
  divider : List QResult := []
  matrix : List MatrixOp := []
  nextMatrix : Nat := 1
  /-- The A latch of sub-array k at key 2k, its B latch at key 2k + 1 (R234). -/
  latches : SMap MatrixLatch := []
  /-- The first cycle at which the matrix port is free (R228). -/
  portFree : Nat := 0
  pc     : List Nat := [0, 0, 0, 0]
  pcfg   : List Word := [0, 0, 0, 0]
  /-- What PC0 to PC3 held when this cycle began, and writes of this cycle, which take effect with the next one (R390). -/
  pcOld  : List Nat := [0, 0, 0, 0]
  pcSet  : List (Option Nat) := [none, none, none, none]
  pcfgSet : List (Option Word) := [none, none, none, none]
  /-- PCFG0 to PCFG3 as this cycle began, and the warps that the admission steps of the next cycle have marked as returning (R389, R390). -/
  pcfgOld : List Word := [0, 0, 0, 0]
  marked  : List Nat := []
deriving DecidableEq, Repr

/-- A line of the L1 (R252, R473). -/
structure L1Line where
  line   : Nat
  tenant : Nat
  /-- Virtual address of the line at its last access: its domain is looked up there (R253). -/
  va     : Nat := 0
  /-- Warps whose stores made it dirty: their marks. -/
  writers : NSet := []
  quad   : Nat
  /-- The way that filled it, one of its quadrant's (R252). -/
  way    : Nat := 0
  /-- The placement hint of the store that last wrote to it (R256). -/
  hint   : Nat := 0
  owner  : Nat
  valid  : LineMask := 0
  dirty  : LineMask := 0
  /-- Bytes that the core's warps have stored and that no fill has replaced (R310). -/
  stored : LineMask := 0
  data   : LineData := 0
  /-- Slot of the region that holds the line locked. -/
  lock   : Option Nat := none
deriving DecidableEq, Repr

/-- A lane waiting at a full/empty word (R288), in arrival order. -/
structure FEWaiter where
  slot   : Nat
  lane   : Nat
  access : Nat
  fill   : Bool
  offset : Nat
  bytes  : Nat
  data   : Nat
deriving DecidableEq, Repr

/-- A block instance resident on a core, with its scratchpad window (R247 to R250). -/
structure Block where
  launch  : Nat
  tenant  : Nat
  index   : Nat
  slots   : List Nat
  spad    : Nat
  barriers : Nat
  banks   : List Nat
  /-- Granules of 8 registers per lane that each warp slot reserves (R14, R37). -/
  granules : Nat := 24
  /-- Window bytes; an unlisted byte is 0. -/
  window  : SMap Byte := []
  /-- Window words that are empty; every other word is full. -/
  empty   : NSet := []
  /-- Window words that are poisoned. -/
  poison  : NSet := []
  waiters : List FEWaiter := []
  coords  : List Word := []
  /-- The pre-emption that the block stands under: its context slot (R426). -/
  saving  : Option Nat := none
  /-- Saved in full, without recipes: its core has been retired (R432). -/
  whole   : Bool := false
  /-- A register of one of its warps is uncorrectable (R432). -/
  spoilt  : Bool := false
  /-- The slot has been written; writes of the release at DEVICE that are not acknowledged (R427). -/
  flushing : Option NSet := none
deriving DecidableEq, Repr

/-- A translation held in a TLB or translation cache (R398). -/
structure TlbEntry where
  tenant : Nat
  /-- First virtual address and size of the page in bits. -/
  va     : Nat
  bits   : Nat
  pte    : DWord
deriving DecidableEq, Repr

/-- A monitor-table entry (R405). -/
structure MonitorEntry where
  /-- Its place in the table. -/
  place   : Nat
  tenant  : Nat
  line    : Nat
  waiters : Nat
deriving DecidableEq, Repr

/-- A command of the copy engine (R355, R357). -/
structure EngineCommand where
  slot   : Nat
  access : Nat
  op     : Nat
  flags  : Nat
  desc   : List Byte
  descVa : Nat
  /-- Base addresses, as the command entered the queue. -/
  src    : Nat := 0
  dst    : Nat := 0
  priv   : Bool := false
  /-- Next element to carry out. -/
  next   : Nat := 0
  /-- Set aside on a replayable fault, with its token (R359). -/
  token  : Option Nat := none
  /-- That fault was a write's. -/
  writing : Bool := false
  /-- Every element has been carried out, or a fault has ended the command. -/
  done   : Bool := false
  lid    : Nat := 0
  /-- The step of its release at which the command is, and the accesses of its warp that the release waits for. -/
  stage   : Nat := 0
  returns : NSet := []
  /-- Writes that its release waits for. -/
  acks   : NSet := []
  /-- Bytes of other modules that have come for the next element, and requests to other modules that are not answered. -/
  got    : SMap Byte := []
  peers  : NSet := []
deriving DecidableEq, Repr

/-- Whose turn the copy engine of a core serves (R355): the quadrant, the bytes left to it, the cycle. -/
structure EngineTurn where
  quad : Nat := 3
  left : Nat := 0
  cyc  : Option Nat := none
deriving DecidableEq, Repr

/-- A Nyrus request of a core (R362). -/
structure NyrusRequest where
  id     : Nat
  slot   : Nat
  access : Nat
  /-- 0 read, 1 write, 2 atomic. -/
  op     : Nat
  /-- The line. -/
  line   : Nat
  /-- The virtual address of the lowest-LID lane that touches it (R420). -/
  va     : Nat := 0
  /-- Bytes of a write, by physical address. -/
  bytes  : SMap Byte := []
  /-- Operation, type and lanes of an atomic. -/
  aop    : Nat := 0
  aty    : Nat := 0
  lanes  : List (Nat × Nat × Nat × Nat) := []
  /-- Has left the core, holding a response buffer: the cycle. -/
  sent   : Option Nat := none
  /-- The lane group on which it has left (R453). -/
  group  : Nat := 0
  /-- The copy engine's own (R357). -/
  engine : Bool := false
deriving DecidableEq, Repr

/-- One core (R11, R12). -/
structure Core where
  cyc     : Nat := 0
  quads   : List Quad :=
    [{ ways := 0x03, banks := 0xFF }, { ways := 0x0C, banks := 0xFF00 }, { ways := 0x30, banks := 0xFF0000 },
      { ways := 0xC0, banks := 0xFF000000 }]
  warps   : SMap Warp := []
  blocks  : SMap Block := []
  /-- What the scratchpad banks hold that no block reserves: byte `16384 b + 16 row + i` (R248). -/
  spads   : SMap Byte := []
  /-- The warp that each slot held last, as it ended (R446). -/
  ended   : SMap Warp := []
  /-- L1 lines, most recently used first. -/
  l1      : List L1Line := []
  /-- Instruction words, by physical address (R93). -/
  icache  : SMap Word := []
  /-- Most recently used first. -/
  tlb     : List TlbEntry := []
  monitors : List MonitorEntry := []
  engine  : List EngineCommand := []
  engineTurn : EngineTurn := {}
  nyrus   : List NyrusRequest := []
  /-- Live-core map entry (R409). -/
  st      : Nat := 0
  lnum    : Nat := 0xFFFF
  nextBlock : Nat := 1
  nextId  : Nat := 1
deriving DecidableEq, Repr

/-! ## Caldera, HBM, host memory -/

/-- The states of a directory entry (R254); a line without an entry is Absent. -/
inductive DirState where
  | resident | moving | collapsing
deriving DecidableEq, Repr

/-- A location directory entry (R404) and what the anchor and the holding bank keep with it. -/
structure DirLine where
  hold    : Nat
  rmask   : NSet := []
  st      : DirState := .resident
  pin     : Bool := false
  stream  : Bool := false
  apin    : Bool := false
  astamp  : Nat := 0
  use     : Nat := 0
  pull    : Nat := 0
  h0      : Nat := 0
  h1      : Nat := 0
  watch   : NSet := []
  mtgt    : Option Nat := none
  rpos    : DWord := 0
  wpos    : DWord := 0
  /-- Replica bytes by reticle (R260). -/
  replicas : SMap LineData := []
  /-- Reticles whose invalidation is not acknowledged (R261). -/
  unacked : NSet := []
  /-- Core and mark of the warps told when the collapse completes (R261, R262). -/
  writers : List (Nat × Nat) := []
  /-- Requests held at the anchor, in arrival order. -/
  held    : List Nat := []
  /-- Sectors of the primary copy that are dirty (R252 gives their size). -/
  dirty   : NSet := []
  /-- Halves for which a back-invalidate snoop is with the host (R271). -/
  snooped : NSet := []
deriving DecidableEq, Repr

/-- What a request to Caldera asks for (R255). -/
inductive RequestKind where
  /-- A read of one sector, filling the L1 when `fill`. -/
  | read (fill : Bool)
  /-- A write of bytes: an L1 write-back, a store written through, a release store or an engine write. -/
  | write (rel : Bool)
  /-- An atomic or a reduction: operation, type and bytes per lane. -/
  | atomic (op ty : Nat)
  /-- A prefetch into Caldera. -/
  | prefetch (l1 : Bool)
  /-- The check read of MONW (R295): address, expected value and byte count. -/
  | monitor (addr expected bytes : Nat)
  /-- A region's tracked read, or its write intent. -/
  | tracked (region : Nat) | intent (region : Nat)
deriving DecidableEq, Repr

/-- A request on its way to Caldera or held there. -/
structure Request where
  core   : Nat
  slot   : Nat
  access : Nat
  kind   : RequestKind
  tenant : Nat
  line   : Nat
  sector : Nat
  hint   : Nat := 0
  /-- Bytes to write, by physical address. -/
  bytes  : SMap Byte := []
  /-- Lanes of an atomic in order: lane, address, operand, compare value. -/
  lanes  : List (Nat × Nat × Nat × Nat) := []
  /-- A release waits for the acknowledgement. -/
  ack    : Bool := false
  /-- Marks of the warps whose stores it carries (R262). -/
  writers : NSet := []
  /-- The virtual address it was sent for (R253). -/
  va     : Nat := 0
  /-- Bounds that a region's request carries (R305). -/
  lo     : DWord := 0
  hi     : DWord := 0
  quad   : Nat := 0
  /-- The number of its arrival at the anchor that holds it; 0 while none has. -/
  arrived : Nat := 0
deriving DecidableEq, Repr

/-- An entry of a region conflict table (R305). -/
structure Conflict where
  region : Nat
  line   : Nat
  read   : Bool
  write  : Bool
  rver   : DWord
  lo     : DWord
  hi     : DWord
  grant  : Bool := false
  /-- Its place in the order in which entries are made (R311). -/
  made   : Nat := 0
deriving DecidableEq, Repr

/-- A commit visit at a bank (R318): the region and the bytes of its written lines. -/
structure Visit where
  region : Nat
  lines  : NSet
  bytes  : SMap Byte
  granted : Bool := false
deriving DecidableEq, Repr

/-- A Caldera bank (R254, R264, R305, R403). -/
structure Bank where
  listed  : Bool := true
  redir   : Bool := false
  live    : Bool := true
  target  : Nat := 0
  floor   : DWord := 0
  count   : Nat := 0
  /-- Lines held, most recently used first. -/
  lru     : List Nat := []
  /-- Lines anchored here that are present, most recently used first (R264). -/
  tags    : List Nat := []
  /-- Entries of the conflict table, the one made last first. -/
  conflicts : List Conflict := []
  visits  : List Visit := []
  /-- Is to be retired once the grants on its lines are over (R431). -/
  retiring : Bool := false
deriving DecidableEq, Repr

/-- Caldera (R254). -/
structure Caldera where
  /-- Banks that are not in the anchor list of this generation (R402). -/
  dead    : NSet := []
  banks   : SMap Bank := []
  lines   : SMap DirLine := []
  requests : SMap Request := []
  nextRequest : Nat := 1
  /-- Lines that fill, with the requests that wait for each (R255). -/
  fills : SMap (List Nat) := []
  /-- Tenants for which lines fill that an agent other than a request needs (R269). -/
  bringing : SMap Nat := []
  /-- Host lines with a write that the host has not acknowledged yet (R451): the writes, by number. -/
  observing : SMap (List (Nat × Request)) := []
  /-- Snoops that wait for such a write (R451): address, whether they invalidate, and what the host then writes. -/
  snoops : SMap (List (Nat × Bool × List Byte)) := []
  /-- Halves of HBM lines that are not here and that the host holds: their states (R271). -/
  hostHeld : SMap (Nat × Nat) := []
  /-- Units of scrub that wait at a bank, oldest first (R266): what they read, and what its code finds. -/
  scrubs : List (ScrubTarget × ScrubFound) := []
  /-- Numbers the arrivals at the anchors and the entries of conflict tables in their order (R311, R319). -/
  stamp : Nat := 1
deriving DecidableEq, Repr

/-- A channel-list entry (R406). -/
structure ChannelEntry where
  st : Nat
  ch : Nat
deriving DecidableEq, Repr

/-- A channel controller (R267, R269, R408). -/
structure Channel where
  /-- Lines in the write-combining buffer with their dirty sectors, oldest first. -/
  combine : List (Nat × NSet) := []
  /-- Lines whose requests are in the cool-down lanes of the channel's banks, oldest first. -/
  cool    : List Nat := []
  /-- Tenants of whose ingress queues the controller takes no request while a lane is full (R269). -/
  stopped : NSet := []
  /-- Activations counted by row (R269). -/
  acts    : SMap Nat := []
  /-- Row-remap copies: entry 128k + e of copy k. -/
  remap   : SMap Word := []
deriving DecidableEq, Repr

/-- The HBM as the tables show it (R406). Its data stand in `State.mem`, and parity follows from them. DEDUCED, log entry 98. -/
structure Hbm where
  list      : SMap ChannelEntry := []
  /-- The list as it stood before a re-interleave. -/
  before    : SMap ChannelEntry := []
  watermark : Nat := 0
  channels  : SMap Channel := []
  /-- Parity groups with stripes that two lasting faults have touched, each with the first such row (R268). -/
  lost : SMap Nat := []
  /-- Sectors of such stripes that have been written since. -/
  rewritten : NSet := []
  /-- Positions whose channels have been retired and not replaced yet, in the order of their retirement. -/
  retired : List Nat := []
  /-- What memory holds of a sector of which Caldera or a write-combining buffer holds newer bytes, and whether it is poisoned (R275). -/
  under : SMap (BitVec 256 × Bool) := []
  /-- What a write-combining buffer holds of a sector of which Caldera holds newer bytes. -/
  buffers : SMap (BitVec 256 × Bool) := []
deriving DecidableEq, Repr

/-! ## Tenants, launches, the module -/

/-- A launch queue (R343, R344). -/
structure LaunchQueue where
  base : DWord := 0
  ctrl : Word := 0
  head : Word := 0
  tail : Word := 0
  stat : Word := 0
deriving DecidableEq, Repr

/-- A tenant's function (R343, R381, R395, R400, R416). -/
structure Tenant where
  troot   : DWord := 0
  regions : SMap DWord := []
  queues  : SMap LaunchQueue := []
  fqBase  : DWord := 0
  fqCtrl  : Word := 0
  fqHead  : Word := 0
  fqTail  : Word := 0
  fqLost  : Word := 0
  lostSince : Nat := 0
  /-- Fault records that wait for space (R361). -/
  fqWait  : List (List Byte) := []
  tvec    : DWord := 0
  ctxArea : DWord := 0
  ctxSlots : Word := 0
  slotsUsed : NSet := []
  /-- A function-level reset is under way (R449). -/
  resetting : Bool := false
  fences  : SMap DWord := []
  poisons : Word := 0
  nextToken : Nat := 1
deriving DecidableEq, Repr

/-- A launch that has been taken (R346 to R352). -/
structure Launch where
  tenant  : Nat
  queue   : Nat
  va      : Nat
  record  : List Byte
  /-- Block instances that have not started, in order, with the reticle chosen for them. -/
  waiting : List (Nat × Option Nat) := []
  liveWarps : Nat := 0
  started : Bool := false
  failed  : Bool := false
  /-- Pipeline number, when the record starts one. -/
  pipeline : Option Nat := none
  /-- The stage table of a pipeline (R351). -/
  table   : List Byte := []
  /-- Cores that have held a block of the launch. -/
  cores   : NSet := []
  /-- The write-backs of R350 have been sent; those that are not acknowledged. -/
  flushed : Bool := false
  acks    : NSet := []
deriving DecidableEq, Repr

/-- A stream pipeline (R52 to R54, R352). -/
structure Pipeline where
  launch   : Nat
  core     : Nat
  block    : Nat
  minima   : List Nat
  entries  : List Nat
  regs     : List Nat
  /-- The slots of the pool, each with the stage whose warp it holds plus 1, or 0. -/
  pool     : List (Nat × Nat)
  /-- Slots in the order in which their warps started. -/
  order    : List Nat := []
  /-- Stages that have asked for a warp, the oldest request first. -/
  requests : List Nat := []
deriving DecidableEq, Repr

/-- A block saved by pre-emption (R427 to R429): its context slot, the resources of its header. -/
structure SavedBlock where
  tenant : Nat
  launch : Nat
  slot   : Nat
  block  : Block
  prio   : Nat
  /-- The reticle that the round of R36 has chosen. -/
  reticle : Option Nat := none
  /-- Its warps by slot: what their images do not hold. -/
  warps  : List (Nat × Warp) := []
deriving DecidableEq, Repr

/-- A queue message of a warp on its way to a stage queue's header (R354, R368 to R370). -/
structure StageMessage where
  core   : Nat
  slot   : Nat
  access : Nat
  /-- Physical addresses of the header and of its ring. -/
  header : Nat
  ring   : Nat
  /-- 0 push, 1 pop; 2 a record on its way to its slot, 3 a record that is acknowledged and not yet published. -/
  op     : Nat
  /-- The tenant's, as the instruction issued. -/
  tenant : Nat
  /-- Lanes still to serve, each with the record it pushes. -/
  lanes  : List (Nat × Nat)
  /-- The record that is on its way. -/
  bytes  : List Byte := []
  /-- Slot reserved at the header; for a pop, the records it may still take plus 1, once it has looked. -/
  place  : Nat := 0
deriving DecidableEq, Repr

/-- The launch unit (R33 to R40, R346). -/
structure LaunchUnit where
  launches  : SMap Launch := []
  nextLaunch : Nat := 1
  pipelines : SMap Pipeline := []
  nextPipeline : Nat := 1
  saved     : List SavedBlock := []
  /-- The tenant after the one served last (R346), and the next reticle of the round of R36. -/
  round     : Nat := 0
  /-- The queue of each tenant that was served last, plus 1. -/
  queueRounds : SMap Nat := []
  reticleRound : Nat := 0
  messages  : SMap StageMessage := []
  nextMessage : Nat := 1
  /-- Warps and engine commands parked on a token (R361, R423): tenant, token, core, slot. -/
  parked    : List (Nat × Nat × Nat × Nat) := []
deriving DecidableEq, Repr

/-- An Ethernet port (R455). -/
structure EthPort where
  owner   : Option Nat := none
  rxHeader : Nat := 0
  txHeader : Nat := 0
  drops   : Nat := 0
  /-- Frames sent, newest first. -/
  sent    : List (List Byte) := []
deriving DecidableEq, Repr

/-- What the module tells the physical function or the host (R268, R274, R456, R461). -/
inductive Report where
  /-- A channel stays degraded: no reserve channel is left. -/
  | degraded (channel : Nat)
  /-- The page at a physical address is to be retired. -/
  | page (addr : Nat)
  /-- The live parts are below the minima of R17. -/
  | shortfall
  /-- The firmware image has been refused. -/
  | unbooted
  /-- A CXL error message: the critical temperature. -/
  | critical
  /-- A message with a reserved TYPE has been discarded (R324). -/
  | message (type : Nat)
deriving DecidableEq, Repr

/-- The management side of the module (R448 to R461). -/
structure Module where
  booted    : Bool := false
  mgen      : Word := 0
  lmBase    : DWord := 0
  threshold : Nat := 8
  fill      : Nat := 7
  peerTimeout : Nat := 0x400000
  /-- The activation limit of an HBM row, where firmware has lowered it (R459). -/
  rowLimit  : Option Nat := none
  powerCap  : Nat := 16000
  modid     : BitVec 14 := 0
  image     : List Byte := []
  /-- The program image that the last bring-up has flooded to the live cores (R456, R457). -/
  program   : List Byte := []
  /-- Cores to which that bring-up sent it twice (R456). -/
  resent    : NSet := []
  /-- The junction temperature trip, where firmware has lowered it (R459). -/
  trip      : Option Nat := none
  /-- The image's signature is the vendor's (R456). -/
  imageOk   : Bool := true
  mbox      : SMap Byte := []
  /-- Core clock in sixteenths of full speed. -/
  clock     : Nat := 16
  halved    : Bool := false
  stopped   : Bool := false
  /-- Error counts by the word offset of R393. -/
  errors    : SMap Word := []
  lanesRetired : NSet := []
  /-- Module numbers that the firmware route table does not name (R452). DESIGN CHOICE, log entry 82. -/
  noRoute   : NSet := []
  /-- CXL ports and Ethernet ports that the last self-test found dead (R17, R456). -/
  cxlDown   : NSet := []
  ethDown   : NSet := []
  ports     : SMap EthPort := []
  /-- Counters latched by snapshots: by reticle, the cycle and the values by offset (R391). -/
  snapshots : SMap (Nat × SMap Nat) := []
  /-- Answers given to SPDM requests, the host and other modules; an empty one stands for poison or an error. -/
  answers   : List (List Byte) := []
  /-- Cores retired in the field at this generation, and those that passed one bring-up since (R435). -/
  probation : NSet := []
  passedOnce : NSet := []
  /-- Cores whose return has been approved at this generation (R458). -/
  approved  : NSet := []
  /-- Banks that have been retired: the records outlive bring-up (R386). -/
  retiredBanks : NSet := []
  /-- Retirement records of lasting faults, oldest first (R386). -/
  records : List ScrubTarget := []
  /-- The first bring-up has designated the channels. -/
  chosen    : Bool := false
  reports   : List Report := []
deriving DecidableEq, Repr

/-- A selected slice group that is to issue its next instruction (R27, R50). -/
structure Selected where
  core : Nat
  slot : Nat
  mask : BitVec 8
deriving DecidableEq, Repr

/-- The whole machine. DESIGN CHOICE, log entry 2; DESIGN CHOICE, log entry 87. -/
structure State where
  cores   : SMap Core
  /-- The primary copy of every byte of physical memory (R245, R254). -/
  mem     : List Host.Cell
  /-- Poisoned 32-byte sectors of the primary copies (R273). -/
  poison  : NSet
  caldera : Caldera
  hbm     : Hbm
  tenants : SMap Tenant
  launches : LaunchUnit
  modul   : Module
  /-- Translation caches by reticle (R398), most recently used first. -/
  caches  : SMap (List TlbEntry)
  /-- What the world outside does next, and its choice of the next agent. -/
  agenda  : List Instr
  /-- Slice groups selected to issue. -/
  sel     : List Selected
  /-- The machine's own steps that are on their way. -/
  pending : List Instr
  /-- Steps that have to wait: they are tried again with the next issue cycle. -/
  later   : List Instr
  /-- The core whose issue cycle comes next. -/
  turn    : Nat
  /-- Counts the free values drawn (the model's own field). -/
  tick    : Nat
deriving DecidableEq, Repr

/-- Why the machine stops. DESIGN CHOICE, log entry 86. -/
inductive Fault where
  /-- Raised by an instruction's meaning that is run while no slice group is selected to issue it. `step` runs an
  instruction only for a selected group, so it never raises this. Safe. -/
  | noIssuingGroup
deriving DecidableEq, Repr

/-- Why the model has no meaning for a step. -/
inductive Refusal where
  /-- Raised by an arm of `exec` whose instruction has no meaning yet. Safe. -/
  | notModelled (mnemonic : String)
deriving DecidableEq, Repr

/-- The part as power-on leaves it: no map, no warp, no line present (R275, R456). DESIGN CHOICE, log entry 3. -/
def State.reset : State :=
  { cores := [], mem := [], poison := [], caldera := {}, hbm := {}, tenants := [], launches := {}, modul := {},
    caches := [], agenda := [], sel := [], pending := [], later := [], turn := 0, tick := 0 }

end Sys2Proof.Machine
end

