-- ==== Sys2Proof/Machine/Memory.lean ====
section
/-! DEFINITION. The primary copies of physical memory, the physical map, translation through page tables and the region tables. -/

namespace Sys2Proof.Machine

/-! ## Bytes of physical memory -/

/-- What a byte that nothing has written reads as. DESIGN CHOICE: R275 leaves HBM undefined until written (log entry 1). -/
def unlistedByte : Byte := 0

/-- Memory is a map from physical addresses to bytes, in canonical form. -/
abbrev Memory := List Host.Cell

/-- The byte at a physical address. -/
def Memory.read (m : Memory) (a : Nat) : Byte := SMap.get unlistedByte a m

/-- Writes a byte; the value an unlisted address reads as removes the entry. -/
def Memory.write (m : Memory) (a : Nat) (b : Byte) : Memory := SMap.set unlistedByte a b m

/-- The canonical form: addresses rise strictly, and no entry equals what an unlisted address reads as. -/
def Memory.wf (m : Memory) : Bool := SMap.canonical unlistedByte m

/-- `n` bytes from an address, the lowest first. -/
def Memory.readBytes (m : Memory) (a : Nat) : Nat → List Byte
  | 0 => []
  | n + 1 => m.read a :: Memory.readBytes m (a + 1) n

/-- Writes bytes from an address on. -/
def Memory.writeBytes (m : Memory) (a : Nat) : List Byte → Memory
  | [] => m
  | b :: t => Memory.writeBytes (m.write a b) (a + 1) t

/-- The little-endian number of `n` bytes. -/
def Memory.readNum (m : Memory) (a n : Nat) : Nat := numOf (m.readBytes a n)

/-- Writes listed bytes, each at its own address. -/
def Memory.writeCells (m : Memory) : SMap Byte → Memory
  | [] => m
  | (a, b) :: t => Memory.writeCells (m.write a b) t

/-- The 128 bytes of a line. -/
def Memory.lineData (m : Memory) (line : Nat) : LineData := BitVec.ofNat 1024 (m.readNum (128 * line) 128)

/-! ## The physical map (R245) -/

inductive PhysKind where
  | hbm | host | peer | management | reserved
deriving DecidableEq, Repr

def hbmEnd : Nat := 0x2E400000000

def physKind (pa : Nat) : PhysKind :=
  if pa < hbmEnd then .hbm
  else if 0x100000000000000 ≤ pa ∧ pa < 0x200000000000000 then .host
  else if 0x400000000000000 ≤ pa ∧ pa < 0x800000000000000 then .peer
  else if 0x800000000000000 ≤ pa then .management
  else .reserved

/-- Memory that Caldera holds (R245). -/
def cached (pa : Nat) : Bool := physKind pa == .hbm || physKind pa == .host

/-! ## The hashes of R208 and R209 -/

/-- R208: the hash. -/
def k32 (key seed : Nat) : Nat :=
  let x := key % 2 ^ 32 ^^^ seed % 2 ^ 32
  let x := x * 0x2C1B3C6D % 2 ^ 32
  let x := x ^^^ (x / 2 ^ 12)
  let x := x * 0x297A2D39 % 2 ^ 32
  x ^^^ (x / 2 ^ 15)

/-- R209. -/
def hashc (a b : Nat) : Nat := k32 (a % 2 ^ 32 ^^^ (b * 0x9E3779B9 % 2 ^ 32)) 0

/-! ## Channels (R407) -/

/-- List position and channel offset of an HBM address. -/
def channelPlace (a : Nat) : Nat × Nat :=
  let g0 := bitsOf a 41 8
  let r := g0 / 1480
  let j := (g0 % 1480 + k32 r 0x29) % 1480
  let q := min (j / 31) 47
  let i := j - 31 * q
  let g := if q < 47 then 32 else 24
  let pm := r % g
  (32 * q + (if i < pm then i else i + 1), 256 * r + a % 256)

/-- The channel list entry at a position: as the first bring-up sets it where nothing has changed it (R406). DESIGN CHOICE, log entry 70. -/
def Hbm.entry (h : Hbm) (j : Nat) : ChannelEntry :=
  SMap.get { st := if j < Config.participating then 0 else 1, ch := j } j h.list

/-- The physical channel of an HBM address; rows at or above the watermark use the list before a re-interleave. -/
def Hbm.channelOf (h : Hbm) (a : Nat) : Nat :=
  let (pos, off) := channelPlace a
  if h.watermark ≤ off / 256 then (SMap.get (h.entry pos) pos h.before).ch else (h.entry pos).ch

def Hbm.channel (h : Hbm) (c : Nat) : Channel := SMap.get {} c h.channels
def State.modChannel (s : State) (c : Nat) (f : Channel → Channel) : State :=
  { s with hbm := { s.hbm with channels := SMap.put c (f (s.hbm.channel c)) s.hbm.channels } }

/-- A re-interleave is under way: at which position, and from which channel. -/
def Hbm.moving (h : Hbm) : Option (Nat × Nat) := (h.before.head?).map (fun e => (e.1, e.2.ch))

/-- The channel at a position has failed, and its replacement has not taken over a row yet (R268). -/
def Hbm.failedAt (h : Hbm) (pos row : Nat) : Bool :=
  decide ((h.entry pos).st = 2) || ((h.moving.map (fun m => decide (m.1 = pos))).getD false && decide (h.watermark ≤ row))

/-- Two lasting faults have touched the stripe of an HBM address: its data are poisoned until they are written anew, and where they lie on
a failed channel they cannot be written (R268). DEDUCED, log entry 71. -/
def Hbm.lostAt (h : Hbm) (a : Nat) : Bool :=
  let (pos, off) := channelPlace a
  match SMap.get? (pos / 32) h.lost with
  | some row => decide (row ≤ off / 256) && (h.failedAt pos (off / 256) || !h.rewritten.contains (a / 32))
  | none => false

/-- The dirty sectors of a line that its channel's write-combining buffer holds (R267). -/
def Hbm.buffered (h : Hbm) (line : Nat) : NSet :=
  (((h.channel (h.channelOf (128 * line))).combine.find? (fun e => e.1 = line)).map Prod.snd).getD []

/-- A sector that is not in Caldera and whose HBM data cannot be rebuilt. -/
def State.lostSector (s : State) (k : Nat) : Bool :=
  (SMap.get? (k / 4) s.caldera.lines).isNone && s.hbm.lostAt (32 * k) && !(s.hbm.buffered (k / 4)).contains k

/-- Some byte of `n` from `pa` on lies in a poisoned sector (R273). -/
def State.poisoned (s : State) (pa n : Nat) : Bool :=
  s.poison.any (fun k => decide (pa < 32 * k + 32 ∧ 32 * k < pa + n)) ||
    (!s.hbm.lost.isEmpty && decide (0 < n) && (List.range ((pa + n - 1) / 32 - pa / 32 + 1)).any (fun i => s.lostSector (pa / 32 + i)))

/-! ## Rows (R269) -/

/-- A line in the host range (R245). -/
def hostLine (line : Nat) : Bool := physKind (128 * line) == .host

/-- A row of the HBM, as the remap table and the activation limit count it. DESIGN CHOICE, log entry 97. -/
def hbmRow (a : Nat) : Nat := (channelPlace a).2 / 256

/-- The activations that a row may have: the hardware's, or what firmware has lowered them to (R269, R459). -/
def State.rowLimit (s : State) : Nat := min (Config.rowLimit + 1) (s.modul.rowLimit.getD (Config.rowLimit + 1))

/-- A row of a channel has reached its activation limit (R269). -/
def Channel.limited (c : Channel) (limit row : Nat) : Bool :=
  let n := SMap.get 0 row c.acts
  decide (n ≠ 0 ∧ limit ≤ n)

/-- The row of a line of the HBM has reached its limit. -/
def State.atLimit (s : State) (line : Nat) : Bool :=
  (s.hbm.channel (s.hbm.channelOf (128 * line))).limited s.rowLimit (hbmRow (128 * line))

/-- The channel of a line takes no request of the tenant now (R269), or the HBM is in self-refresh (R461). -/
def State.rowsStopped (s : State) (tenant line : Nat) : Bool :=
  !hostLine line && (s.modul.stopped || (s.hbm.channel (s.hbm.channelOf (128 * line))).stopped.contains tenant)

/-! ## Poison (R273) -/

/-- A write of bytes clears the poison of the sectors it covers whole (R273). -/
def clearPoison (poison : NSet) (bytes : SMap Byte) : NSet :=
  poison.filter (fun k => !(decide (32 ≤ (bytes.filter (fun e => decide (e.1 / 32 = k))).length)))

/-- Performs a write at the primary copies. -/
def State.writeMem (s : State) (bytes : SMap Byte) : State :=
  { s with mem := Memory.writeCells s.mem bytes, poison := clearPoison s.poison bytes }

/-- What the primary copies hold of a sector, and whether it is poisoned. -/
def State.sectorOf (s : State) (k : Nat) : BitVec 256 × Bool := (BitVec.ofNat 256 (Memory.readNum s.mem (32 * k) 32), s.poison.contains k)

/-- A clean sector is about to be written: what lies below it stays known (R275). -/
def State.keepUnder (s : State) (buffered : Bool) (k : Nat) : State :=
  if buffered then
    { s with hbm := { s.hbm with buffers := if (SMap.get? k s.hbm.buffers).isSome then s.hbm.buffers else SMap.put k (s.sectorOf k) s.hbm.buffers } }
  else { s with hbm := { s.hbm with under := if (SMap.get? k s.hbm.under).isSome then s.hbm.under else SMap.put k (s.sectorOf k) s.hbm.under } }

/-- A buffered sector reaches the HBM: what its buffer holds is what the HBM holds then. -/
def Hbm.drained (h : Hbm) (k : Nat) : Hbm :=
  let (pos, off) := channelPlace (32 * k)
  let h1 : Hbm :=
    match SMap.get? k h.buffers with
    | some v => { h with under := SMap.put k v h.under, buffers := SMap.del k h.buffers }
    | none => { h with under := SMap.del k h.under }
  if (SMap.get? (pos / 32) h.lost).isSome && !h.failedAt pos (off / 256) then { h1 with rewritten := NSet.add k h1.rewritten } else h1

/-- Bytes of a number as cells from an address on. -/
def cellsOf (a n x : Nat) : SMap Byte := (bytesOf x n).mapIdx (fun i b => (a + i, b))

/-! ## Region tables (R400) -/

/-- A region-table entry holds an address. -/
def regionHolds (e : DWord) (va : Nat) : Bool :=
  let n := e.toNat
  let k := bitsOf n 62 57
  n.testBit 63 && decide ((va % 2 ^ 56) / 2 ^ k = (bitsOf n 55 17 * 2 ^ 17) / 2 ^ k)

/-- The lowest-numbered valid entry whose range holds an address. -/
def regionEntry (t : Tenant) (va : Nat) : Option DWord :=
  (t.regions.find? (fun e => regionHolds e.2 va)).map Prod.snd

/-- The domains of R283, by their codes. -/
def domCore : Nat := 0
def domReticle : Nat := 1
def domDevice : Nat := 2
def domHost : Nat := 3
def domPeer : Nat := 4

/-- dom(a): DEVICE when no entry holds the address (R400). -/
def domainOf (t : Tenant) (va : Nat) : Nat :=
  match regionEntry t va with
  | some e => bitsOf e.toNat 16 14
  | none => domDevice

/-- Domain `a` is `b` or narrower (R283). -/
def domLe (a b : Nat) : Bool := decide (a = b ∨ (a < b ∧ a ≤ domDevice))

/-- The hint an access acts with (R256): the instruction's, the page's, the region's. -/
def effectiveHint (t : Tenant) (va : Nat) (pte : DWord) (hint : Nat) (isRead : Bool) : Nat :=
  let re := (regionEntry t va).getD 0
  let repl := pte.toNat.testBit 7 || re.toNat.testBit 12
  if hint ≠ 0 then hint
  else if pte.toNat.testBit 8 then 1
  else if bitsOf re.toNat 11 10 ≠ 0 then bitsOf re.toNat 11 10
  else if repl && isRead then 3
  else 0

/-! ## Translation (R395 to R398) -/

/-- What an access asks of a page. -/
inductive Perm where
  | read | write | fetch
deriving DecidableEq, Repr

/-- How a walk ends (R396). -/
inductive Walk where
  | page (pte : DWord) (bits : Nat)
  /-- An entry with V = 0. -/
  | absent
  | fatal
deriving DecidableEq, Repr

/-- One step of a walk: the entry's own faults, then a table, a page or a fault. `level` is 1, 2 or 3. -/
inductive WalkStep where
  | table (base : Nat)
  | done (w : Walk)
deriving DecidableEq, Repr

def walkEntry (level : Nat) (pte : DWord) : WalkStep :=
  let n := pte.toNat
  let leaf := n.testBit 1
  if !n.testBit 0 then .done .absent
  else if bitsOf n 63 60 ≠ 0 ∨ bitsOf n 16 10 ≠ 0 ∨ n.testBit 2 then .done .fatal
  else if (level = 1 && leaf) || (level = 3 && !leaf) || (decide (level ≤ 2) && n.testBit 9) then .done .fatal
  else if level = 2 && leaf && decide (bitsOf n 29 17 ≠ 0) then .done .fatal
  else if leaf then .done (.page pte (if level = 2 then 30 else 17))
  else .table (bitsOf n 59 17 * 2 ^ 17)

/-- The index of a virtual address at a level. -/
def walkIndex (level va : Nat) : Nat :=
  if level = 1 then bitsOf va 55 43 else if level = 2 then bitsOf va 42 30 else bitsOf va 29 17

/-- A member of a 16 MiB group: valid, with CONTIG set. -/
def contigMember (pte : Nat) : Bool := pte.testBit 0 && pte.testBit 9

/-- The entry that a level-3 lookup uses: its own, or that of a member of its 16 MiB group, with its own offset added, where members
differ (R397). -/
def contigEntry (mem : Memory) (base ix draw : Nat) (own : DWord) : DWord :=
  let first := ix / 128 * 128
  let entry (j : Nat) : Nat := mem.readNum (base + 8 * (first + j)) 8
  -- what the entry of member `j` comes to at this index; none where it is no member
  let moved (j : Nat) : Option Nat :=
    if contigMember (entry j) ∧ j * 2 ^ 17 ≤ entry j + ix % 128 * 2 ^ 17 then some (entry j + ix % 128 * 2 ^ 17 - j * 2 ^ 17) else none
  if (List.range 128).all (fun j => ((moved j).map (fun m => decide (m = own.toNat))).getD true) then own
  else ((moved (Config.contigMember draw % 128)).map (BitVec.ofNat 64)).getD own

/-- What a lookup comes to: how it ends, the entries it found, first address, size in bits, entry, and where it read them. -/
structure Walked where
  walk  : Walk
  found : List (Nat × Nat × DWord) := []
  read  : List Nat := []
deriving DecidableEq, Repr

/-- Walks from a level on, `fuel` levels at most. -/
def walkFrom (mem : Memory) (va draw : Nat) : Nat → Nat → Nat → Walked
  | 0, _, _ => { walk := .fatal }
  | fuel + 1, level, base =>
    let ix := walkIndex level va
    let at_ := base + 8 * ix
    let own := BitVec.ofNat 64 (mem.readNum at_ 8)
    let pte := if level = 3 then contigEntry mem base ix draw own else own
    let bits := if level = 1 then 43 else if level = 2 then 30 else 17
    match walkEntry level pte with
    | .done (.page p b) => { walk := .page p b, found := [(va / 2 ^ b * 2 ^ b, b, p)], read := [at_] }
    | .done w => { walk := w, read := [at_] }
    | .table b =>
      let w := walkFrom mem va draw fuel (level + 1) b
      { w with found := (va / 2 ^ bits * 2 ^ bits, bits, pte) :: w.found, read := at_ :: w.read }

/-- A cached entry covers an address of a tenant. -/
def TlbEntry.covers (e : TlbEntry) (tenant va : Nat) : Bool :=
  decide (e.tenant = tenant ∧ e.va = va / 2 ^ e.bits * 2 ^ e.bits)

/-- A leaf among cached entries. -/
def findLeaf (l : List TlbEntry) (tenant va : Nat) : Option TlbEntry :=
  l.find? (fun e => e.covers tenant va && e.pte.toNat.testBit 1)

/-- Where a walk starts: behind the deepest cached table entry, else at the root (R398). -/
def walkStart (l : List TlbEntry) (tenant va root : Nat) : Nat × Nat :=
  match l.find? (fun e => e.covers tenant va && e.bits = 30 && !e.pte.toNat.testBit 1) with
  | some e => (3, bitsOf e.pte.toNat 59 17 * 2 ^ 17)
  | none =>
    match l.find? (fun e => e.covers tenant va && e.bits = 43 && !e.pte.toNat.testBit 1) with
    | some e => (2, bitsOf e.pte.toNat 59 17 * 2 ^ 17)
    | none => (1, root)

/-- The leaf of an address: from the core's TLB, from its reticle's translation cache, or by a walk. A walk that reads a poisoned entry ends
in a fatal fault. DESIGN CHOICE, log entry 106. -/
def State.lookup (s : State) (core tenant va : Nat) : Walked :=
  let tr := ((SMap.get? tenant s.tenants).map (·.troot)).getD 0
  if !tr.toNat.testBit 0 then { walk := .fatal }
  else
    match findLeaf (((SMap.get? core s.cores).map (·.tlb)).getD []) tenant va with
    | some e => { walk := .page e.pte e.bits }
    | none =>
      let cache := SMap.get [] (core / Config.coresPerReticle) s.caches
      match findLeaf cache tenant va with
      | some e => { walk := .page e.pte e.bits, found := [(e.va, e.bits, e.pte)] }
      | none =>
        let (level, base) := walkStart cache tenant va (bitsOf tr.toNat 59 17 * 2 ^ 17)
        let w := walkFrom s.mem va s.tick (4 - level) level base
        if w.read.any (fun a => s.poisoned a 8) then { walk := .fatal, read := w.read } else w

/-- Some entry of a conflict table on a line passes a test. -/
def State.conflictsOn (s : State) (line : Nat) (f : Conflict → Bool) : Bool :=
  s.caldera.banks.any (fun b => b.2.conflicts.any (fun e => f e && decide (e.line = line)))

/-- A line at whose anchor the read of a walk waits, as any read does: Moving, granted to a region, with a half that the host may have
modified, or Absent with its fill or its row's limit to wait for (R258, R269, R271, R319). -/
def State.walkWaits (s : State) (tenant line : Nat) : Bool :=
  (match SMap.get? line s.caldera.lines with
    | some d => d.st == .moving || (!hostLine line && (d.h0.testBit 1 || d.h1.testBit 1))
    | none => (SMap.get? line s.caldera.fills).isSome || s.rowsStopped tenant line ||
        (!hostLine line && decide ((s.hbm.buffered line).length ≠ 4) && s.atLimit line)) ||
    s.conflictsOn line (·.grant)

/-- How an address translates for an access (R280, R396). -/
inductive Xlat where
  | ok (pa : Nat) (pte : DWord)
  /-- V = 0: replayable when the tenant's fault queue is enabled (R423). -/
  | absent
  | fatal
  /-- A line that the walk reads is held back. -/
  | stops (line : Nat)
deriving DecidableEq, Repr

/-- The leaf's permissions (R396). -/
def permOk (pte : DWord) (p : Perm) (priv : Bool) : Bool :=
  let n := pte.toNat
  (match p with | .read => n.testBit 3 | .write => n.testBit 4 | .fetch => n.testBit 5) && (priv || n.testBit 6)

/-- Applies a leaf to an address. -/
def leafAddr (pte : DWord) (bits va : Nat) : Nat := bitsOf pte.toNat 59 17 * 2 ^ 17 / 2 ^ bits * 2 ^ bits + va % 2 ^ bits

/-- Translates a virtual address, with the checks of R280. DEDUCED, log entry 37. -/
def State.translate (s : State) (core tenant va : Nat) (p : Perm) (priv : Bool) : Xlat :=
  if 2 ^ 56 ≤ va then .fatal
  else
    let w := s.lookup core tenant va
    match w.read.find? (fun a => s.walkWaits tenant (a / 128)), w.walk with
    | some a, _ => .stops (a / 128)
    | none, .absent => .absent
    | none, .fatal => .fatal
    | none, .page pte bits =>
      let pa := leafAddr pte bits va
      let ro := (((SMap.get? tenant s.tenants).bind (regionEntry · va)).map (fun e => e.toNat.testBit 13)).getD false
      if !permOk pte p priv then .fatal
      else if p == .write && ro then .fatal
      else match physKind pa with
        | .reserved | .management => .fatal
        | _ => .ok pa pte

/-- An entry is put in front of a list, the most recently used first. -/
def putFirst (e : TlbEntry) (l : List TlbEntry) : List TlbEntry := e :: l.filter (fun x => !(x.covers e.tenant e.va && decide (x.bits = e.bits)))

/-- Puts translations into a TLB of at most `n` entries, which loses the least recently used one (R398). -/
def insertTlb (n : Nat) (l new : List TlbEntry) : List TlbEntry := (new.foldl (fun l e => putFirst e l) l).take n

/-- The set of a translation cache in which an entry stands. The spec does not say which. DESIGN CHOICE, log entry 40. -/
def TlbEntry.set (e : TlbEntry) : Nat := Config.cacheSet e.tenant (e.va / 2 ^ e.bits) e.bits % (Config.cacheEntries / 8)

/-- Keeps the first `n` entries of those that a test picks, and every other entry. -/
def keepWays (mine : TlbEntry → Bool) : Nat → List TlbEntry → List TlbEntry
  | _, [] => []
  | 0, x :: t => if mine x then keepWays mine 0 t else x :: keepWays mine 0 t
  | n + 1, x :: t => if mine x then x :: keepWays mine n t else x :: keepWays mine (n + 1) t

/-- Puts an entry into a translation cache of 8 ways, whose set loses the least recently used one (R398). -/
def insertCache (l : List TlbEntry) (e : TlbEntry) : List TlbEntry :=
  let l1 := putFirst e l
  if l1.length ≤ 8 then l1 else keepWays (fun x => decide (x.set = e.set)) 8 l1

/-- Keeps what a lookup has found: leaves in the TLB, every entry in the translation cache. An entry that the TLB had becomes its most
recently used one (R398). -/
def State.cacheLookup (s : State) (core tenant va : Nat) : State :=
  match findLeaf (((SMap.get? core s.cores).map (·.tlb)).getD []) tenant va with
  | some e => { s with cores := SMap.modify core (fun c => { c with tlb := putFirst e c.tlb }) s.cores }
  | none =>
    let new : List TlbEntry := (s.lookup core tenant va).found.map (fun e => { tenant := tenant, va := e.1, bits := e.2.1, pte := e.2.2 })
    if new.isEmpty then s
    else
      let ret := core / Config.coresPerReticle
      let leaves := new.filter (fun e => e.pte.toNat.testBit 1)
      { s with
        cores := SMap.modify core (fun c => { c with tlb := insertTlb Config.tlbEntries c.tlb leaves }) s.cores,
        caches := SMap.put ret (new.foldl insertCache (SMap.get [] ret s.caches)) s.caches }

end Sys2Proof.Machine
end

