-- ==== Sys2Proof/Machine/Ops.lean ====
section
/-! DEFINITION. The named operations over the state: warps, groups and lanes, path counters, parking and waking, fault records, region aborts, and taking an exception with its return (R415 to R424). -/

namespace Sys2Proof.Machine

/-! ## Cores, quadrants, warps -/

def State.core? (s : State) (c : Nat) : Option Core := SMap.get? c s.cores
def State.modCore (s : State) (c : Nat) (f : Core → Core) : State := { s with cores := SMap.modify c f s.cores }
def State.warp? (s : State) (c slot : Nat) : Option Warp := (s.core? c).bind (fun k => SMap.get? slot k.warps)

/-- Replaces the warp in a slot. -/
def State.setWarp (s : State) (c slot : Nat) (w : Warp) : State :=
  s.modCore c (fun k => { k with warps := SMap.put slot w k.warps })

/-- Changes the warp in a slot, if there is one. -/
def State.modWarp (s : State) (c slot : Nat) (f : Warp → Warp) : State :=
  s.modCore c (fun k => { k with warps := SMap.modify slot f k.warps })

/-- The quadrant of a slot (R12). -/
def quadOf (slot : Nat) : Nat := slot / 16

def Core.quad (k : Core) (q : Nat) : Quad := k.quads.getD q {}
def Core.modQuad (k : Core) (q : Nat) (f : Quad → Quad) : Core := { k with quads := k.quads.modify q f }
def State.modQuad (s : State) (c q : Nat) (f : Quad → Quad) : State := s.modCore c (fun k => k.modQuad q f)

/-- The cycle count of a core (R378). -/
def State.cyc (s : State) (c : Nat) : Nat := ((s.core? c).map (·.cyc)).getD 0

def State.tenant (s : State) (t : Nat) : Tenant := SMap.get {} t s.tenants
def State.modTenant (s : State) (t : Nat) (f : Tenant → Tenant) : State :=
  { s with tenants := SMap.put t (f (s.tenant t)) s.tenants }

/-- Appends a step of the machine's own to those on their way. -/
def State.push (s : State) (e : Instr) : State := { s with pending := s.pending ++ [e] }
def State.pushAll (s : State) (l : List Instr) : State := { s with pending := s.pending ++ l }

/-- Appends a step that is not on its way already. -/
def State.pushOnce (s : State) (e : Instr) : State := if s.pending.contains e then s else s.push e

/-- A step that has to wait is tried again with the next issue cycle. -/
def State.retry (s : State) (e : Instr) : State := if s.later.contains e then s else { s with later := s.later ++ [e] }

/-- Takes a step out of those on their way: the one that is being carried out. -/
def State.taken (s : State) (e : Instr) : State := { s with pending := dropFirst (· == e) s.pending }

/-! ## Lanes and groups -/

def Warp.lane (w : Warp) (i : Nat) : Lane := w.lanes.getD i {}
def Warp.modLane (w : Warp) (i : Nat) (f : Lane → Lane) : Warp := { w with lanes := w.lanes.modify i f }
def Warp.slice (w : Warp) (k : Nat) : Slice := w.slices.getD k {}

/-- A slice belongs to a mask. -/
def inMask (mask : BitVec 8) (k : Nat) : Bool := mask.getLsbD k

/-- The lowest slice of a mask. -/
def lowSlice (mask : BitVec 8) : Nat := ((List.range 8).find? (inMask mask)).getD 0

/-- The program counter and the FMT of a group: those of its lowest slice (R22). -/
def Warp.pcOf (w : Warp) (mask : BitVec 8) : Nat := (w.slice (lowSlice mask)).pc.toNat
def Warp.fmtOf (w : Warp) (mask : BitVec 8) : BitVec 12 := (w.slice (lowSlice mask)).fmt

/-- The group with exactly these slices. -/
def Warp.group? (w : Warp) (mask : BitVec 8) : Option Group := w.groups.find? (fun g => g.mask == mask)
def Warp.modGroup (w : Warp) (mask : BitVec 8) (f : Group → Group) : Warp :=
  { w with groups := w.groups.map (fun g => if g.mask == mask then f g else g) }

/-- Sets the program counter of every slice of a mask; bits 1:0 are zero and arithmetic wraps (R91). -/
def Warp.setPc (w : Warp) (mask : BitVec 8) (pc : Nat) : Warp :=
  { w with slices := w.slices.mapIdx (fun k sl => if inMask mask k then { sl with pc := BitVec.ofNat 48 (pc / 4 * 4) } else sl) }

/-- Sets FMT of every slice of a mask. -/
def Warp.setFmt (w : Warp) (mask : BitVec 8) (x : BitVec 12) : Warp :=
  { w with slices := w.slices.mapIdx (fun k sl => if inMask mask k then { sl with fmt := x } else sl) }

/-- A slice whose four lanes are exited is retired (R142). -/
def Warp.retired (w : Warp) (k : Nat) : Bool :=
  (w.lane (4 * k)).exited && (w.lane (4 * k + 1)).exited && (w.lane (4 * k + 2)).exited && (w.lane (4 * k + 3)).exited

/-- The slices that are not retired. -/
def Warp.liveMask (w : Warp) : BitVec 8 := BitVec.ofNat 8 (maskOf ((List.range 8).filter (fun k => !w.retired k)))

/-- A warp is fully ganged when it has one slice group (R23). -/
def Warp.fullyGanged (w : Warp) : Bool := decide (w.groups.length = 1)

/-- active(L) (R24); in a handler only the exited bit counts (R421). -/
def Warp.active (w : Warp) (i : Nat) : Bool :=
  !(w.lane i).exited && (w.special.priv || (w.lane i).nest == 0)

/-- The physical lanes of a mask in ascending LID. -/
def Warp.lanesByLid (w : Warp) (mask : BitVec 8) : List Nat :=
  let phys := (List.range 32).filter (fun i => inMask mask (i / 4))
  (List.range 32).flatMap (fun l => phys.filter (fun i => (w.lane i).lid.toNat = l))

/-- pd(L, n): p0 reads true (R117). -/
def Lane.pred (l : Lane) (n : Nat) : Bool := decide (n = 0) || l.p.getLsbD n

/-- Writes a predicate; a write to p0 is discarded. -/
def Lane.setPred (l : Lane) (n : Nat) (b : Bool) : Lane :=
  if n = 0 then l
  else { l with p := BitVec.ofNat 8 (maskOf ((List.range 8).filter (fun k => if k = n then b else l.p.getLsbD k))) }

/-! ## Path counters (R376) -/

def Paths.get (p : Paths) : Path → Nat
  | .ldg => p.ldg | .stg => p.stg | .spd => p.spd | .xen => p.xen | .mmx => p.mmx | .peer => p.peer

def Paths.set (p : Paths) (q : Path) (n : Nat) : Paths :=
  match q with
  | .ldg => { p with ldg := n } | .stg => { p with stg := n } | .spd => { p with spd := n }
  | .xen => { p with xen := n } | .mmx => { p with mmx := n } | .peer => { p with peer := n }

def Paths.allZero (p : Paths) : Bool :=
  p.ldg == 0 && p.stg == 0 && p.spd == 0 && p.xen == 0 && p.mmx == 0 && p.peer == 0

/-- The path a WAITC number names (R297). -/
def pathOfNum (n : Nat) : Path :=
  match n with
  | 0 => .ldg | 1 => .stg | 2 => .spd | 3 => .xen | 4 => .mmx | _ => .peer

/-- An access still waits for something. -/
def Access.outstanding (a : Access) : Bool := !a.needs.isEmpty

/-- An access of the warp on a path that has not returned. -/
def Warp.inFlight (w : Warp) (p : Path) : Bool := w.accesses.any (fun a => a.path == p)

/-! ## Pending class-Q and accumulator writes (R110, R243) -/

/-- Class-Q results and matrix writes of a slot that have not been written. -/
def Core.pendingQ (k : Core) (slot : Nat) : List (Nat × Nat) :=
  let q := k.quad (quadOf slot)
  ((q.sfu ++ q.divider).filter (fun r => r.slot = slot)).map (fun r => (r.code, r.regs)) ++
    q.matrix.flatMap (fun m =>
      (m.members.filter (fun p => m.kind ≠ 3 ∧ p.slot = slot ∧ p.acc < 192)).map (fun p => (p.acc, 8 * p.tiles.length)))

/-- Two runs of operand codes share a register. -/
def runsMeet (a b : Nat × Nat) : Bool := decide (a.1 < b.1 + b.2 ∧ b.1 < a.1 + a.2)

/-! ## The matrix latches (R234) -/

/-- The latch holds a block of vector registers that a write of `n` registers from `code` of the warp in `slot` meets; in a gang the
first member gives A and the second B (R238). -/
def MatrixLatch.overwritten (t : MatrixLatch) (isB : Bool) (slot code n : Nat) : Bool :=
  !t.window && decide (n ≠ 0 ∧ t.owner.getD (if isB ∧ 1 < t.owner.length then 1 else 0) 64 = slot) &&
    runsMeet (t.place + 24 * t.block, 24) (code, n)

/-- A write of registers clears the tags of the latches that hold them. -/
def Quad.registersWritten (q : Quad) (slot code n : Nat) : Quad :=
  { q with latches := q.latches.filter (fun e => !e.2.overwritten (e.1 % 2 == 1) slot code n) }
def State.registersWritten (s : State) (c slot code n : Nat) : State := s.modQuad c (quadOf slot) (·.registersWritten slot code n)

/-! ## Parking and waking (R47) -/

def ParkReason.isPage : ParkReason → Bool
  | .pageFault _ => true
  | _ => false

/-- Everything that parks the warp. -/
def Warp.causes (w : Warp) : List ParkReason := if w.park = .none then [] else w.park :: w.behind

/-- The warp parks, also where it is parked already; its lease leaves the sum at step 1 of the next cycle. -/
def Warp.parkFor (w : Warp) (r : ParkReason) (cyc : Nat) : Warp :=
  { w with park := r, behind := w.causes, lease := { w.lease with st := .parked, leftAt := if w.park = .none then cyc else w.lease.leftAt } }

/-- A woken warp enters the waiting state with its age unchanged. -/
def Warp.wake (w : Warp) (cyc : Nat) : Warp :=
  { w with park := .none, behind := [], faulted := none, lease := { w.lease with st := .waiting, waitFrom := cyc } }

/-- The cause of a kind that parks a warp. -/
def Warp.parkedBy (w : Warp) (p : ParkReason → Bool) : Option ParkReason := w.causes.find? p

/-- A cause that parks the warp is over: it wakes when none is left (R47). -/
def Warp.unpark (w : Warp) (r : ParkReason) (cyc : Nat) : Warp :=
  if !w.causes.contains r then w
  else match w.causes.filter (fun q => q != r) with
    | [] => w.wake cyc
    | p :: rest => { w with park := p, behind := rest, faulted := if r.isPage then none else w.faulted }

/-- A cause that parks a warp is over. -/
def State.unparkFrom (s : State) (c slot : Nat) (r : ParkReason) : State := s.modWarp c slot (fun w => w.unpark r (s.cyc c))

/-! ## Ending a warp (R142, R422) -/

/-- A warp that is to end: every slice is retired, or a terminal fault or HALT has ended it. -/
def Warp.over (w : Warp) : Bool := w.ending.isSome || w.groups.isEmpty

/-- A warp that is over leaves its slot once its path counters are 0 and what it has issued is complete (R417, R422). -/
def Warp.atEnd (w : Warp) : Bool := w.over && w.paths.allZero && w.groups.all (fun g => g.prog.stage == 0)

/-- The end of a warp is due. -/
def State.checkEnd (s : State) (c slot : Nat) : State :=
  match s.warp? c slot with
  | some w => if w.atEnd then s.pushOnce (.warpEnd c slot) else s
  | none => s

/-- What comes due when the path counters of a warp have fallen: its end (R142), the point of a FLASH (R57), the
latch of a WFUSE (R204). -/
def State.pathsFell (s : State) (c slot : Nat) : State :=
  match s.warp? c slot with
  | none => s
  | some w =>
    if !w.paths.allZero then s
    else
      let s1 := s.checkEnd c slot
      match w.latch with
      | none => s1
      | some l =>
        match l.instr with
        | .flash _ => s1.pushOnce (.flashLatch c slot)
        | .wfuse _ => if l.entered then s1 else s1.pushOnce (.wfuseLatchEntry c slot)
        | _ => s1

/-! ## Lines at their primary copies -/

def State.dir? (s : State) (line : Nat) : Option DirLine := SMap.get? line s.caldera.lines
def State.modDir (s : State) (line : Nat) (f : DirLine → DirLine) : State :=
  { s with caldera := { s.caldera with lines := SMap.modify line f s.caldera.lines } }

/-- The half of a line that a byte lies in, and its state. -/
def DirLine.half (d : DirLine) (h : Nat) : Nat := if h = 0 then d.h0 else d.h1
def DirLine.setHalf (d : DirLine) (h x : Nat) : DirLine := if h = 0 then { d with h0 := x } else { d with h1 := x }

/-- Write notices to every core that watches a line (R296). -/
def State.notify (s : State) (line : Nat) : State :=
  match s.dir? line with
  | some d => d.watch.foldl (fun s c => s.push (.writeNotice c line)) s
  | none => s

/-- Clean sectors of a line are about to be written: what lies below them stays known (R275). -/
def State.keepBelow (s : State) (line : Nat) (sectors : List Nat) : State :=
  match s.dir? line with
  | none => s
  | some d => (sectors.filter (fun k => !d.dirty.contains k)).foldl (fun s k => s.keepUnder ((s.hbm.buffered line).contains k) k) s

/-- A write performed at the primary copy (R261, R270, R273, R296): bytes, dirty sectors, half states, write notices. -/
def State.performWrite (s : State) (line : Nat) (bytes : SMap Byte) : State :=
  let sectors := (bytes.map (fun e => e.1 / 32)).dedup
  let s1 := (s.keepBelow line sectors).writeMem bytes
  let halves := (bytes.map (fun e => (e.1 / 64) % 2)).dedup
  let s2 := s1.modDir line (fun d =>
    let d1 := { d with dirty := sectors.foldl (fun m k => NSet.add k m) d.dirty }
    if hostLine line then halves.foldl (fun d h => d.setHalf h 3) d1 else d1)
  s2.notify line

/-- A half that the host holds stops an access to an HBM line (R271). -/
def DirLine.hostStops (d : DirLine) (line : Nat) (halves : List Nat) (writes : Bool) : Bool :=
  !hostLine line && halves.any (fun h => if writes then decide (d.half h ≠ 0) else (d.half h).testBit 1)

/-- Back-invalidate snoops go to the host for the halves that stop an access, once each (R271). -/
def State.askHost (s : State) (line : Nat) (halves : List Nat) (writes : Bool) : State :=
  match s.dir? line with
  | none => s
  | some d =>
    let need := halves.filter (fun h => d.hostStops line [h] writes)
    if need.isEmpty then s else s.modDir line (fun d => { d with snooped := need.foldl (fun m h => NSet.add h m) d.snooped })

/-! ## Fault records (R360, R361) -/

/-- The types of a fault record. -/
def recReplayable : Nat := 1
def recFatal : Nat := 2
def recRejected : Nat := 3
def recEngine : Nat := 4
def recLost : Nat := 5

/-- A record that waits for space in a full queue (R361). -/
def recWaits (type : Nat) : Bool := decide (type = recReplayable ∨ type = recEngine)

/-- What a fault record says, beside what the queue itself adds. -/
structure FaultInfo where
  type   : Nat
  cause  : Nat := 0
  access : Nat := 0
  addr   : Nat := 0
  pc     : Nat := 0
  info   : Nat := 0
  core   : Nat := 0xFFFF
  slot   : Nat := 0
  lid    : Nat := 0
  cyclo  : Nat := 0
  token  : Nat := 0
deriving DecidableEq, Repr

/-- The 64 bytes of a fault record (R360). -/
def FaultInfo.bytes (r : FaultInfo) (tenant : Nat) (mgen : Word) (phase : Nat) : List Byte :=
  bytesOf (phase + tenant % 16 * 2 ^ 24 + r.type * 2 ^ 28 + r.token % 2 ^ 32 * 2 ^ 32 + r.access % 256 * 2 ^ 208 +
    r.cause % 256 * 2 ^ 216 + r.lid % 32 * 2 ^ 229 + r.slot % 64 * 2 ^ 234 + r.core % 2 ^ 16 * 2 ^ 240 +
    r.info % 2 ^ 64 * 2 ^ 256 + r.cyclo % 2 ^ 32 * 2 ^ 320 + mgen.toNat * 2 ^ 352 + r.pc % 2 ^ 48 * 2 ^ 400 +
    r.addr % 2 ^ 64 * 2 ^ 448) 64

/-- The fault queue is enabled (R343); a LOG2SIZE outside 2 to 16 counts as disabled. DESIGN CHOICE, log entry 61. -/
def Tenant.fqOn (t : Tenant) : Bool :=
  t.fqCtrl.getLsbD 0 && decide (2 ≤ bitsOf t.fqCtrl.toNat 23 20 ∧ bitsOf t.fqCtrl.toNat 23 20 ≤ 16)
def Tenant.fqSize (t : Tenant) : Nat := 2 ^ bitsOf t.fqCtrl.toNat 23 20
def Tenant.fqFull (t : Tenant) : Bool := decide ((t.fqTail - t.fqHead).toNat = t.fqSize)

/-- A saturating count of 32 bits. -/
def satInc (w : Word) : Word := if w = 0xFFFFFFFF then w else w + 1

/-- The address of the slot at FQTAIL, and the phase of the pass (R360). -/
def Tenant.fqSlot (t : Tenant) : Nat := t.fqBase.toNat + 64 * (t.fqTail.toNat % t.fqSize)
def Tenant.fqPhase (t : Tenant) : Nat := if t.fqTail.toNat / t.fqSize % 2 = 0 then 1 else 0

/-- A write of a slot at its line's primary copy can be made at once: the line is present, and neither Moving nor replicated nor named in a
conflict table, and the host holds nothing of it (R258, R261, R271, R319). -/
def State.slotOpen (s : State) (pa : Nat) : Bool :=
  ((s.dir? (pa / 128)).map (fun d => d.st == .resident && d.rmask.isEmpty && !d.hostStops (pa / 128) [pa / 64 % 2] true)).getD false &&
    !s.conflictsOn (pa / 128) (fun _ => true)

/-- What writing a record at FQTAIL comes to. -/
inductive Slot where
  | open_ (pa : Nat)
  | waits
  | lost
deriving DecidableEq, Repr

def State.slot (s : State) (t : Nat) : Slot :=
  match s.translate 0 t (s.tenant t).fqSlot .write true with
  | .ok pa _ => if !cached pa || s.slotOpen pa then .open_ pa else .waits
  | .stops _ => .waits
  | _ => .lost

/-- Writes one record at FQTAIL and advances it. -/
def State.writeRecord (s : State) (t pa : Nat) (r : FaultInfo) : State :=
  let cells := cellsOf pa 64 (numOf (r.bytes t s.modul.mgen (s.tenant t).fqPhase))
  (if cached pa then s.performWrite (pa / 128) cells else s).modTenant t (fun tn => { tn with fqTail := tn.fqTail + 1 })

/-- Counts a dropped record. -/
def State.dropRecord (s : State) (t : Nat) : State :=
  s.modTenant t (fun tn => { tn with fqLost := satInc tn.fqLost, lostSince := tn.lostSince + 1 })

/-- What became of a posted record. -/
inductive Posted where
  | written | waits | dropped
deriving DecidableEq, Repr

/-- A record of losses goes before the next record, where records have been dropped and its slot is open. -/
def State.tellLost (s : State) (t : Nat) : State :=
  let n := (s.tenant t).lostSince
  if n = 0 ∨ (s.tenant t).fqFull then s
  else match s.slot t with
    | .open_ pa => (s.writeRecord t pa { type := recLost, info := n }).modTenant t (fun tn => { tn with lostSince := 0 })
    | _ => s

/-- Posts a record (R361): a TYPE 5 record precedes the first one after a loss. A replayable record waits for space; any record waits for
its slot's line, and behind those that wait. DESIGN CHOICE, log entry 108. -/
def State.post (s : State) (t : Nat) (r : FaultInfo) : State × Posted :=
  let tn := s.tenant t
  if !tn.fqOn then (s.modTenant t (fun tn => { tn with fqLost := satInc tn.fqLost }), .dropped)
  else
    let s1 := if tn.fqWait.isEmpty then s.tellLost t else s
    let tn := s1.tenant t
    let waits : State × Posted := (s1.modTenant t (fun tn => { tn with fqWait := tn.fqWait ++ [r.bytes t s.modul.mgen 0] }), .waits)
    if decide (tn.fqSize ≤ (tn.fqTail - tn.fqHead).toNat + tn.fqWait.length) && !recWaits r.type then (s1.dropRecord t, .dropped)
    else if tn.fqFull || !tn.fqWait.isEmpty then waits
    else match s1.slot t with
      | .open_ pa => if tn.lostSince = 0 then (s1.writeRecord t pa r, .written) else waits
      | .waits => waits
      | .lost => (s1.dropRecord t, .dropped)

/-! ## Reports to the physical function -/

def State.report (s : State) (r : Report) : State := { s with modul := { s.modul with reports := s.modul.reports ++ [r] } }

/-! ## Region identities and aborts (R304, R322) -/

/-- The 24-bit identity of a region. -/
def regionId (core slot epoch : Nat) : Nat := core * 2 ^ 13 + slot * 2 ^ 7 + epoch
def regionCore (id : Nat) : Nat := id / 2 ^ 13
def regionSlot (id : Nat) : Nat := id / 2 ^ 7 % 64
def regionEpoch (id : Nat) : Nat := id % 128

/-- A region is active or committing. -/
def Region.active (r : Region) : Bool := decide (0 < r.depth)

/-- The banks that hold an entry of a region. -/
def State.banksOf (s : State) (id : Nat) : List Nat :=
  (s.caldera.banks.filter (fun b => b.2.conflicts.any (fun e => e.region = id))).map Prod.fst

/-- The warp a region identity names, if its epoch is current and its region is active (R304). DESIGN CHOICE, log entry 83. -/
def State.regionWarp? (s : State) (id : Nat) : Option Warp :=
  (s.warp? (regionCore id) (regionSlot id)).bind (fun w =>
    if w.region.epoch = regionEpoch id && w.region.active then some w else none)

/-- The abort reasons (R321). -/
def abConflict : Nat := 1
def abCapacity : Nat := 2
def abTable : Nat := 3
def abPartners : Nat := 4
def abExtern : Nat := 5
def abExplicit : Nat := 6
def abFault : Nat := 7
def abPreempt : Nat := 8
def abNest : Nat := 9

/-- Restores p1 to p7, the counters, the exited bits and FMT from a latch. -/
def Warp.restoreLatch (w : Warp) (latch : List LaneWord) (fmt : BitVec 12) : Warp :=
  { w with
    lanes := w.lanes.mapIdx (fun i l =>
      let k := latch.getD i {}
      { l with p := k.p ||| 1, nest := k.nest, exited := k.exited }),
    slices := w.slices.map (fun sl => { sl with fmt := fmt }) }

/-- What a latch keeps of every lane. -/
def Warp.laneWords (w : Warp) : List LaneWord := w.lanes.map (fun l => { p := l.p, nest := l.nest, exited := l.exited })

/-- Steps 4 and 5 of R322 at the warp: one group at the abort target, and ARS. -/
def Warp.abortRegion (w : Warp) (reason detail : Nat) : Warp :=
  let w1 := w.restoreLatch w.region.latch w.region.latchFmt
  let mask := w1.liveMask
  let w2 := w1.setPc mask w.region.target.toNat
  let n := SMap.get 0 reason w.region.aborts
  { w2 with
    groups := [{ mask := mask }], latch := none,
    region := { w.region with
      st := 4, depth := 0, partners := [], part := 0, reason := reason, detail := detail % 256, cause := none,
      aborts := SMap.set 0 reason (min (n + 1) 65535) w.region.aborts,
      reads := [], writes := [], toVisit := [], granted := [], floor := 0, ceiling := 0 } }

/-- Counts an event on the performance counters of a slot's quadrant (R387 to R389). -/
def Quad.count (q : Quad) (slot event n : Nat) : Quad :=
  let hit (p : Word) : Bool := p.getLsbD 31 && decide (bitsOf p.toNat 7 0 = event) &&
    (!p.getLsbD 15 || decide (bitsOf p.toNat 23 16 = slot % 16))
  { q with
    pc := q.pc.mapIdx (fun k v => if hit (q.pcfg.getD k 0) then (v + n) % 2 ^ 48 else v),
    pcfg := q.pcfg.mapIdx (fun k p => if hit p && decide (2 ^ 48 ≤ q.pc.getD k 0 + n) then p ||| 0x40000000 else p) }

/-- PCFG as a write leaves it: OVF stays only where it was set and is not written 0 (R388). -/
def pcfgWrite (old v : Word) : Word := (v &&& 0x80FF80FF) ||| (old &&& v &&& 0x40000000)

/-- OVF of a cycle in which its counter was written is what it was when the cycle began: the cycle's events are lost (R390). -/
def Quad.keptOvf (q : Quad) (k : Nat) (p : Word) : Word :=
  if (q.pcSet.getD k none).isSome then (p &&& 0xBFFFFFFF) ||| (q.pcfgOld.getD k 0 &&& 0x40000000) else p

/-- What was written to the counters and their configuration in the cycle before takes effect (R390). -/
def Quad.countersSet (q : Quad) : Quad :=
  let pc := q.pc.mapIdx (fun k v => (q.pcSet.getD k none).getD v)
  let pcfg := q.pcfg.mapIdx (fun k p => match q.pcfgSet.getD k none with | some v => pcfgWrite (q.keptOvf k p) v | none => q.keptOvf k p)
  { q with
    pc := pc, pcOld := pc, pcSet := [none, none, none, none], pcfg := pcfg, pcfgOld := pcfg, pcfgSet := [none, none, none, none],
    marked := [] }

/-- A cycle begins; the warps that its admission steps have marked are its own events. -/
def Quad.newCycle (q : Quad) : Quad := q.marked.foldl (fun x slot => x.count slot 0x05 1) q.countersSet

def State.count (s : State) (c slot event n : Nat) : State := s.modQuad c (quadOf slot) (fun q => q.count slot event n)

/-- An abort takes effect (R322): locked lines, the banks' entries and grants, then the warp. Of several causes the first that has
arrived is recorded. -/
def State.abortNow (s : State) (c slot reason detail : Nat) : State :=
  match s.warp? c slot with
  | none => s
  | some w =>
    if !w.region.active then s
    else
      let first := w.region.cause.getD (reason, detail)
      let id := regionId c slot w.region.epoch
      let s1 := s.modCore c (fun k => { k with l1 := k.l1.filter (fun l => l.lock ≠ some slot) })
      let s2 := s1.modWarp c slot (fun w => w.abortRegion first.1 first.2)
      ({ s2 with sel := s2.sel.filter (fun g => !(decide (g.core = c ∧ g.slot = slot))) }.count c slot 0x0F 1).pushAll
        ((s.banksOf id).map (fun b => .releaseMsg id b))

/-- An abort cause arrives at a warp: the first to arrive is recorded (R322). -/
def Warp.abortCause (w : Warp) (reason detail : Nat) : Warp :=
  if w.region.active && w.region.cause.isNone then { w with region := { w.region with cause := some (reason, detail) } } else w

/-- An abort cause arrives, and takes effect at the next boundary (R322). -/
def State.abortLater (s : State) (c slot reason detail : Nat) : State :=
  (s.modWarp c slot (·.abortCause reason detail)).pushOnce (.regionAbort c slot)

/-! ## Taking an exception (R415 to R422) -/

def causeIllegalInstr : Nat := 0x01
def causeIllegalOperand : Nat := 0x02
def causeRegisterRange : Nat := 0x03
def causePrivilege : Nat := 0x04
def causeHandle : Nat := 0x05
def causePageFault : Nat := 0x06
def causeMisaligned : Nat := 0x07
def causeNesting : Nat := 0x08
def causeStall : Nat := 0x09
def causeBounds : Nat := 0x0A
def causePoison : Nat := 0x0B
def causeNotConverged : Nat := 0x0C
def causePeerTimeout : Nat := 0x0D
def causeTrap : Nat := 0x0E
def causeBreakpoint : Nat := 0x0F

/-- ACCESS bits of a fault record (R360). -/
def accRead : Nat := 1
def accWrite : Nat := 2
def accFetch : Nat := 4
def accAtomic : Nat := 8
def accEngine : Nat := 16
def accRecord : Nat := 32

/-- What a trap carries. -/
structure Trap where
  cause    : Nat
  eval     : Nat := 0
  epc      : Nat
  perLane  : Bool := false
  lid      : Nat := 0
  deferred : Bool := false
  source   : Nat := 0
  access   : Nat := 0
deriving DecidableEq, Repr

/-- ESTAT at trap entry (R418). -/
def estatOf (mask : BitVec 8) (lid : Nat) (perLane : Bool) : Word :=
  BitVec.ofNat 32 (mask.toNat * 2 ^ 16 + lid % 32 * 2 ^ 11 + (if perLane then 2 ^ 10 else 0))

/-- ECAUSE at trap entry (R419). -/
def ecauseOf (t : PendingTrap) : Word :=
  BitVec.ofNat 32 ((if t.deferred then 2 ^ 31 else 0) + t.source % 8 * 2 ^ 28 + t.access % 256 * 2 ^ 8 + t.cause % 256)

/-- The handler's address: EVEC, else TVEC, else none (R416). -/
def handlerOf (w : Warp) (t : Tenant) : Nat := if w.special.evec ≠ 0 then w.special.evec.toNat else t.tvec.toNat

def Warp.modAccess (w : Warp) (id : Nat) (f : Access → Access) : Warp :=
  { w with accesses := w.accesses.map (fun a => if a.id = id then f a else a) }

/-- Lowers a path counter for every access that has returned and has no older one in flight on the path (R111). -/
def Warp.settlePath (w : Warp) (p : Path) : Warp :=
  let done := ((w.accesses.filter (fun a => a.path == p)).takeWhile (·.returned)).map (·.id)
  { w with
    accesses := w.accesses.filter (fun a => !done.contains a.id),
    paths := w.paths.set p (w.paths.get p - done.length),
    uncovered := w.uncovered.map (fun u => if u.path == p && done.contains u.access then { u with returned := true } else u) }

/-- An access that its instruction has not sent: 0 stands for what is to be sent. -/
def Access.unsent (a : Access) : Bool := a.needs.contains 0

/-- Takes back the accesses of instructions that will not go on: those of groups that are not among the ones that do. -/
def Warp.cancelHeld (w : Warp) (goingOn : List Group) : Warp :=
  (w.accesses.filter (fun a => a.unsent && !goingOn.any (fun g => g.mask == a.mask))).foldl (fun w a =>
    (w.modAccess a.id (fun a => { a with needs := [], returned := true })).settlePath a.path) w

/-- The groups but one whose instruction has issued and is not complete; a wait in a latch or a park ends with the warp (R417, R431). -/
def Warp.underWay (w : Warp) (mask : BitVec 8) : List Group :=
  if w.park ≠ .none then []
  else w.groups.filter (fun g => g.prog.stage != 0 && g.mask != mask && !w.latch.any (fun l => l.mask == g.mask))

/-- The warp issues nothing more (R422); what other groups than `mask` have issued completes, unless the mask is none. -/
def Warp.terminate (w : Warp) (mask : Option (BitVec 8)) (cause pc lid : Nat) : Warp :=
  let on := match mask with | some m => w.underWay m | none => []
  { w.cancelHeld on with
    ending := some (cause, pc, lid), trap := none, groups := on, park := .none, behind := [], latch := none }

/-- A group of a warp that has ended does not go on: its instruction has met a fault. -/
def Warp.dropGroup (w : Warp) (mask : BitVec 8) : Warp :=
  let on := w.groups.filter (fun g => g.mask != mask)
  { w.cancelHeld on with groups := on }

/-- Marks the launch of a warp failed. -/
def State.failLaunch (s : State) (id : Nat) : State :=
  { s with launches := { s.launches with launches := SMap.modify id (fun l => { l with failed := true }) s.launches.launches } }

/-- Drops the selections of a warp that have not issued. -/
def State.unselect (s : State) (c slot : Nat) : State :=
  { s with sel := s.sel.filter (fun g => !(decide (g.core = c ∧ g.slot = slot))) }

/-- A terminal fault or HALT (R422): the warp ends, its record is posted, its launch fails. -/
def State.endWarp (s : State) (c slot : Nat) (mask : Option (BitVec 8)) (cause pc lid addr access : Nat) : State :=
  match s.warp? c slot with
  | none => s
  | some w =>
    let lnum := ((s.core? c).map (·.lnum)).getD 0xFFFF
    let s1 := ((s.modWarp c slot (fun w => w.terminate mask cause pc lid)).unselect c slot).failLaunch w.launch
    let r : FaultInfo :=
      { type := recFatal, cause := cause, access := access, addr := addr, pc := pc, core := lnum, slot := slot, lid := lid,
        cyclo := s.cyc c }
    let s2 := (s1.post w.tenant r).1
    s2.checkEnd c slot

/-- Counts a Poison fault for the tenant that takes it (R425). -/
def State.countPoison (s : State) (t cause : Nat) : State :=
  if cause = causePoison then s.modTenant t (fun tn => { tn with poisons := satInc tn.poisons }) else s

/-- Step 5 of R417 at the warp: the saved registers, the privileged mode, the handler's address. -/
def Warp.enterHandler (w : Warp) (t : PendingTrap) (mask : BitVec 8) (epc handler : Nat) : Warp :=
  let w1 := w.setPc mask handler
  { w1 with
    trap := none,
    groups := w1.groups.map (fun g => if g.mask == mask then { g with hold := .none, prog := {}, held := false } else { g with held := true }),
    special := { w.special with
      priv := true, epc := BitVec.ofNat 64 (epc % 2 ^ 48 / 4 * 4), estat := estatOf mask t.lid t.perLane,
      ecause := ecauseOf t, eval := t.eval } }

/-- Steps 4 and 5 of R417, or R422 where the fault is terminal (R416, R421). -/
def State.enterTrap (s : State) (c slot : Nat) (t : PendingTrap) : State :=
  match s.warp? c slot with
  | none => s
  | some w0 =>
    let inRegion := w0.region.active
    let s1 := if inRegion then s.abortNow c slot abFault t.cause else s
    match s1.warp? c slot with
    | none => s1
    | some w =>
      let mask := if inRegion then w.liveMask else t.mask
      let epc := if inRegion then w0.region.target.toNat else t.epc
      let s2 := s1.countPoison w.tenant t.cause
      let handler := handlerOf w (s.tenant w.tenant)
      if w.special.priv ∨ handler = 0 then s2.endWarp c slot (some mask) t.cause t.pc t.lid t.eval.toNat t.access
      else (s2.setWarp c slot (w.enterHandler t mask epc handler)).unselect c slot

/-- Takes a trap once older class-Q and accumulator writes are done (step 2 of R417). -/
def State.raisePending (s : State) (c slot : Nat) (p : PendingTrap) : State :=
  let older := ((s.core? c).map (fun k => k.pendingQ slot)).getD []
  if older.isEmpty then s.enterTrap c slot p
  else (s.modWarp c slot (fun w => { w.abortCause abFault p.cause with trap := some p })).unselect c slot

/-- Raises a trap in a group, at the instruction at which it stands. -/
def State.raise (s : State) (c slot : Nat) (mask : BitVec 8) (t : Trap) : State :=
  s.raisePending c slot
    { mask := mask, pc := ((s.warp? c slot).map (·.pcOf mask)).getD 0, cause := t.cause, epc := t.epc, eval := BitVec.ofNat 64 t.eval,
      perLane := t.perLane, lid := t.lid, deferred := t.deferred, source := t.source, access := t.access }

/-- A pending trap enters once no older write remains: the step TRAP_ENTRY. -/
def State.trapDue (s : State) (c slot : Nat) : Bool :=
  ((s.warp? c slot).map (fun w => w.trap.isSome)).getD false && (((s.core? c).map (fun k => k.pendingQ slot)).getD []).isEmpty

/-- The return from a handler (R438), in one step: the PC of the group, PRIV clear; the held groups are released. -/
def Warp.returnFromTrap (w : Warp) (mask : BitVec 8) (pc : Nat) : Warp :=
  let w1 := w.setPc mask pc
  { w1 with special := { w1.special with priv := false }, groups := w1.groups.map (fun g => { g with held := false }) }

/-- The next token of a tenant (R423): 0 is never given out. -/
def nextToken (n : Nat) : Nat := if n + 1 < 2 ^ 32 then n + 1 else 1

/-- A replayable page fault (R423): the warp parks and one record with a token is posted; a dropped record makes it
fatal. -/
def State.raiseReplayable (s : State) (c slot : Nat) (mask : BitVec 8) (t : Trap) : State :=
  match s.warp? c slot with
  | none => s
  | some w =>
    let token := (s.tenant w.tenant).nextToken
    let lnum := ((s.core? c).map (·.lnum)).getD 0xFFFF
    let r : FaultInfo :=
      { type := recReplayable, cause := t.cause, access := t.access, addr := t.eval, pc := t.epc,
        core := lnum, slot := slot, lid := t.lid, cyclo := s.cyc c, token := token }
    match s.post w.tenant r with
    | (s1, .dropped) => s1.raise c slot mask t
    | (s1, _) =>
      let s2 := s1.modTenant w.tenant (fun tn => { tn with nextToken := nextToken tn.nextToken })
      let s3 := if w.region.active then s2.abortNow c slot abFault t.cause else s2
      let s4 := (s3.modWarp c slot (fun x =>
        { x.parkFor (.pageFault token) (s.cyc c) with
          faulted := some
            { mask := if w.region.active then x.liveMask else mask, pc := w.pcOf mask, cause := t.cause,
              epc := if w.region.active then w.region.target.toNat else t.epc, eval := BitVec.ofNat 64 t.eval,
              perLane := t.perLane, lid := t.lid, deferred := false, source := 0, access := t.access } })).unselect c slot
      { s4 with launches := { s4.launches with parked := s4.launches.parked ++ [(w.tenant, token, c, slot)] } }

/-- A data or fetch page fault: replayable when the walk found V = 0 and the fault queue is enabled; in a handler any fault is terminal
(R421, R423). -/
def State.raisePage (s : State) (c slot : Nat) (mask : BitVec 8) (absent : Bool) (t : Trap) : State :=
  let on := ((s.warp? c slot).map (fun w => (s.tenant w.tenant).fqOn && !w.special.priv)).getD false
  if absent && on then s.raiseReplayable c slot mask t else s.raise c slot mask t

/-! ## Collapses, L1 lines -/

/-- The line of a physical address. -/
def lineOf (pa : Nat) : Nat := pa / 128

/-- The mask of the bytes of a line that `n` bytes at an address take. -/
def byteMask (pa n : Nat) : LineMask := BitVec.ofNat 128 ((2 ^ n - 1) <<< (pa % 128))

/-- Bytes of a line, by physical address, chosen by a mask. -/
def lineCells (line : Nat) (mask : LineMask) (d : LineData) : SMap Byte :=
  ((List.range 128).filter (fun i => mask.getLsbD i)).map (fun i => (128 * line + i, (d.extractLsb' (8 * i) 8)))

/-- Merges cells of a line into its data. -/
def mergeCells (line : Nat) (d : LineData) : SMap Byte → LineData
  | [] => d
  | (a, b) :: t =>
    let i := a - 128 * line
    mergeCells line ((d &&& ~~~(BitVec.ofNat 1024 (0xFF <<< (8 * i)))) ||| BitVec.ofNat 1024 (b.toNat <<< (8 * i))) t

/-- The mask of cells of a line. -/
def cellsMask (line : Nat) (l : SMap Byte) : LineMask :=
  l.foldl (fun m e => m ||| BitVec.ofNat 128 (1 <<< (e.1 - 128 * line))) 0

end Sys2Proof.Machine
end

