-- ==== Sys2Proof/Machine/Operands.lean ====
section
/-! DEFINITION. Every operand form (R99 to R104), and the one front end through which every instruction issues: holds, the faults of R106 in their order, forbidden instructions of regions, then the instruction's own effect. -/

namespace Sys2Proof

/-! ## Which registers an instruction names -/

/-- The run that a field names, where it names registers. -/
def Use.runOf (u : Use) (code : BitVec 8) : List (Nat × Nat) :=
  match u with
  | .reg r => if code.toNat < 252 then [(code.toNat, r.n)] else []
  | _ => []

/-- Every register run an instruction reads or writes. -/
def Sig.runs (g : Sig) (f : LX) : List (Nat × Nat) :=
  g.dst.runOf f.dst ++ g.a.runOf f.srcA ++ g.b.runOf f.srcB ++ g.c.runOf f.srcC

/-- The predicate that a field names. -/
def Use.predOf (u : Use) (code : BitVec 8) : List Nat :=
  match u with
  | .pred => [code.toNat]
  | _ => []

/-- The predicates that an instruction reads beside its guard: those of its source fields and of its modifier (R132, R150). -/
def Instr.readPreds (i : Instr) (f : LX) : List Nat :=
  i.sig.a.predOf f.srcA ++ i.sig.b.predOf f.srcB ++ i.sig.c.predOf f.srcC ++
    (match i with
      | .ppack _ => [1, 2, 3, 4, 5, 6, 7]
      | .bif _ | .bbrk _ | .bloop _ => [f.mb 2 0]
      | _ => [])

/-- The predicates that an instruction writes: that of dst and those of its modifier (R150, R194, R365). -/
def Instr.writtenPreds (i : Instr) (f : LX) : List Nat :=
  i.sig.dst.predOf f.dst ++
    (match i with
      | .iadd _ | .isub _ | .iaddc _ => [f.mb 7 5]
      | .punpk _ => if f.mb 11 5 = 0 then [1, 2, 3, 4, 5, 6, 7] else (List.range 8).filter (fun k => f.modi.getLsbD (k + 4))
      | .shfl _ => [f.mb 7 5]
      | .matchL _ => [f.mb 3 1]
      | .qpop _ => [f.mb 3 1, f.mb 6 4, f.mb 9 7]
      | _ => [])

/-! ## Classes of instructions -/

/-- The commit instructions of R58; a store to HOST or PEER is one as well, which its addresses decide. -/
def Instr.isCommit : Instr → Bool
  | .atom _ | .red _ | .atoms _ | .ldf _ | .stf _ | .bara _ | .baraw _ | .monw _ | .qpush _ | .qpop _ | .qclose _
  | .xcopy _ | .xgath _ | .xscat _ | .xred _ | .xfill _ | .launch _ | .fcinc _ | .rgbeg _ | .rgend _ | .wfuse _ => true
  | .st f => f.mb 6 6 == 1
  | _ => false

/-- The instructions that R312 forbids in a region whatever their lanes do. -/
def Instr.forbidden : Instr → Bool
  | .rgbeg _ | .rgend _ => false
  | .fence _ | .barw _ | .fcwait _ | .exit _ | .exitS _ => true
  | .ld f => f.mb 6 6 == 1
  | i => i.isCommit

/-- Instructions of class M (R108). -/
def Instr.classM : Instr → Bool
  | .ld _ | .st _ | .lds _ | .sts _ | .ldf _ | .stf _ | .feset _ | .atom _ | .red _ | .atoms _ | .pref _ | .fence _
  | .bara _ | .barw _ | .baraw _ | .monw _ | .sld _ | .mldt _ | .mstt _ | .launch _ | .qpush _ | .qpop _ | .qclose _
  | .xcopy _ | .xgath _ | .xscat _ | .xred _ | .xfill _ | .fcinc _ | .fcwait _ => true
  | _ => false

/-- Instructions of class Q (R108). -/
def Instr.classQ : Instr → Bool
  | .rcp _ | .rsq _ | .sqrt _ | .exp2 _ | .log2 _ | .sinpi _ | .cospi _ | .tanh _ | .fdiv _ | .fsqrt _ | .idiv _
  | .irem _ | .wfuse _ | .mma _ | .mmas _ | .mmav _ => true
  | _ => false

/-- Instructions that never pair in dual issue (R27). -/
def Instr.neverPairs : Instr → Bool
  | .shfl _ | .vote _ | .redux _ | .scan _ | .matchL _ | .elect _ | .electS _ | .rdlane _ | .wrlane _ | .wfuse _
  | .mma _ | .mmas _ | .mmav _ | .gangset _ | .mldt _ | .mstt _
  | .rgbeg _ | .rgend _ | .rgabt _ | .rgbnd _ | .rgnar _ | .rgst _
  | .regang _ | .flash _ | .launch _
  | .trap _ | .eret _ | .rdsr _ | .wrsr _ | .bkpt _ | .tlbinvPage _ | .tlbinvAll _ | .tlbinvGlob _ | .tblrd _ | .tblwr _
  | .halt _ | .nop _ | .nopS _ | .cctlIcinv _ | .cctlL1wb _ | .cctlL1inv _ | .cctlLinewb _ | .cctlEvict _
  | .ctxsv _ | .ctxld _ => true
  | _ => false

end Sys2Proof

namespace Sys2Proof.Machine

/-- What an instruction sees of the machine when it issues. -/
structure Ctx where
  i     : Instr
  f     : LX
  core  : Nat
  slot  : Nat
  mask  : BitVec 8
  w     : Warp
  cyc   : Nat
  draw  : Nat
deriving DecidableEq, Repr

/-- What the issuing group's instruction sees. -/
def State.seenBy (s : State) (i : Instr) (g : Selected) (w : Warp) : Ctx :=
  { i := i, f := i.fields, core := g.core, slot := g.slot, mask := g.mask, w := w, cyc := s.cyc g.core, draw := s.tick }

/-- The place that names the scalar path where lanes are counted. -/
def scalarLane : Nat := 32

/-! ## Reading registers -/

/-- The value a read gives while a class-F result is undelivered: for each lane and register either one (R109). -/
def Warp.early (w : Warp) (cyc draw code lane value : Nat) : Nat :=
  match w.undelivered.find? (fun u => decide (u.code = code ∧ u.lane = lane ∧ cyc < u.due)) with
  | some u => if Config.earlyOld draw (64 * code + lane) then u.old else value
  | none => value

/-- One register of a lane, or a scalar register (R99). -/
def Ctx.reg (x : Ctx) (code lane : Nat) : Nat :=
  if code < 192 then x.w.early x.cyc x.draw code lane (SMap.get 0 code (x.w.lane lane).v).toNat
  else x.w.early x.cyc x.draw code scalarLane (SMap.get 0 (code - 192) x.w.s).toNat

/-- A run of registers as one number, the lowest-numbered register lowest (R100). -/
def Ctx.run (x : Ctx) (code lane : Nat) : Nat → Nat
  | 0 => 0
  | n + 1 => x.reg code lane + 2 ^ 32 * Ctx.run x (code + 1) lane n

/-- How a literal fills a pair (R100). -/
inductive LitExt where
  | zero | sign
  /-- An f32 converted exactly to f64. -/
  | float
deriving DecidableEq, Repr

/-- An f32 encoding converted exactly to f64 (R100); a NaN keeps its sign, its payload and whether it signals. DEDUCED, log entry 19. -/
def f64OfF32 (x : Nat) : Nat :=
  let sign := x / 2 ^ 31 * 2 ^ 63
  let e := x / 2 ^ 23 % 256
  let f := x % 2 ^ 23
  if e = 255 then sign + 0x7FF0000000000000 + f * 2 ^ 29
  else if e = 0 then
    if f = 0 then sign
    else
      let k := Nat.log2 f
      sign + (k + 874) * 2 ^ 52 + (f <<< (52 - k)) % 2 ^ 52
  else sign + (e + 896) * 2 ^ 52 + f * 2 ^ 29

/-- A literal read as an operand of `n` registers. -/
def litValue (l : Word) (n : Nat) (ext : LitExt) : Nat :=
  if n ≤ 1 then l.toNat
  else match ext with
    | .zero => l.toNat
    | .sign => (l.signExtend 64).toNat
    | .float => f64OfF32 l.toNat

/-- rd(L, f, t) and rds(f, t): the bits of an operand of `n` registers (R99, R100, R117). -/
def Ctx.rd (x : Ctx) (code : BitVec 8) (n lane : Nat) (ext : LitExt := .zero) : Nat :=
  let k := code.toNat
  if k < 252 then x.run k lane n
  else if k = 255 then litValue (x.f.lit.getD 0) n ext
  else 0

def Ctx.a (x : Ctx) (n lane : Nat) (ext : LitExt := .zero) : Nat := x.rd x.f.srcA n lane ext
def Ctx.b (x : Ctx) (n lane : Nat) (ext : LitExt := .zero) : Nat := x.rd x.f.srcB n lane ext
def Ctx.c (x : Ctx) (n lane : Nat) (ext : LitExt := .zero) : Nat := x.rd x.f.srcC n lane ext

/-- A predicate of a lane (R117), subject to early reads (R152). -/
def Ctx.pd (x : Ctx) (lane n : Nat) : Bool :=
  if n = 0 then true
  else x.w.early x.cyc x.draw (256 + n) lane (if (x.w.lane lane).p.getLsbD n then 1 else 0) == 1

/-- MODE and the FMT of the group as the instruction sees them (R120, R146, R147). -/
def Ctx.mode (x : Ctx) : Nat := x.w.early x.cyc x.draw 521 scalarLane x.w.mode.toNat
def Ctx.fmt (x : Ctx) : Nat := x.w.early x.cyc x.draw 264 (lowSlice x.mask) (x.w.fmtOf x.mask).toNat

/-- The guard of a lane (R104). -/
def Ctx.guard (x : Ctx) (lane : Nat) : Bool := x.pd lane x.f.guard.toNat != x.f.neg

/-- exec(L) (R117). -/
def Ctx.execs (x : Ctx) (lane : Nat) : Bool := x.w.active lane && x.guard lane

/-- lanes(): the executing lanes in ascending LID (R117). -/
def Ctx.lanes (x : Ctx) : List Nat := (x.w.lanesByLid x.mask).filter x.execs

/-- The instruction runs on the scalar path (R102). -/
def Ctx.scalarPath (x : Ctx) : Bool := x.i.sig.scalarDst x.f

/-- The places at which an instruction computes: its executing lanes, or once on the scalar path (R102, R103). -/
def Ctx.places (x : Ctx) : List Nat :=
  if x.scalarPath then (if x.lanes.isEmpty then [] else [scalarLane]) else x.lanes

/-- A predicate source at a place: on the scalar path that of the lowest-LID executing lane (R151). -/
def Ctx.pdAt (x : Ctx) (place n : Nat) : Bool :=
  x.pd (if place = scalarLane then x.lanes.headD 0 else place) n

/-- The LID of a place. -/
def Ctx.lid (x : Ctx) (lane : Nat) : Nat := (x.w.lane lane).lid.toNat

/-- The PC of the instruction and of the next one (R91). -/
def Ctx.pc (x : Ctx) : Nat := x.w.pcOf x.mask
def Ctx.next (x : Ctx) : Nat := (x.pc + x.i.length) % 2 ^ 48

/-- The displacement of an address (R278). -/
def Ctx.disp (x : Ctx) : Nat :=
  match x.f.spareLit with
  | some l => (l.signExtend 64).toNat
  | none => 0

/-- The branch offset of R113, in words, as a number modulo 2^48. -/
def Ctx.offset (x : Ctx) : Nat :=
  match x.f.lit with
  | some l => (l.signExtend 48).toNat
  | none => ((x.f.srcC ++ x.f.srcB ++ x.f.srcA : BitVec 24).signExtend 48).toNat

/-- The offset of an S-form branch (R113). -/
def shortOffset (f : SF) : Nat := ((f.srcA ++ f.dst : BitVec 16).signExtend 48).toNat

/-- PC + 4 * offset (R113). -/
def Ctx.target (x : Ctx) (offset : Nat) : Nat := (x.pc + 4 * offset) % 2 ^ 48

/-! ## The end of an instruction -/

/-- The count of instructions since the last lost-locality event, and since a pre-emption request (R48, R60). -/
def Warp.countIssue (w : Warp) : Warp :=
  { w with lease := { w.lease with run := w.lease.run + 1 }, preempt := w.preempt.map (· + 1) }

/-- The group may issue again at t + 1 + n (R107). -/
def Warp.stallGroup (w : Warp) (mask : BitVec 8) (cyc n : Nat) : Warp :=
  w.modGroup mask (fun g => { g with readyAt := cyc + 1 + n, hold := .none, prog := {} })

/-- A commit instruction ends the flashback point (R58). -/
def Warp.commitFlash (w : Warp) (commit : Bool) : Warp :=
  if commit then { w with flash := { w.flash with valid := false } } else w

/-- Steps that an issued instruction brings due: lease decay, the end of a run-on, the end of a warp that has only waited for it. -/
def Warp.dueAfter (w : Warp) (c slot : Nat) : List Instr :=
  (if w.lease.run % 4096 = 1 ∧ 1 < w.lease.run then [.leaseDecay c slot] else []) ++
    (match w.preempt with
      | some n => if 4096 ≤ n then [.runonLimit c slot] else []
      | none => []) ++
    (if w.ending.isSome then [.warpEnd c slot] else [])

/-- The progress of the issuing group. -/
def Ctx.prog (x : Ctx) : Progress := ((x.w.group? x.mask).map (·.prog)).getD {}

/-- The instruction has issued before, and its group was held at it. -/
def Ctx.goesOn (x : Ctx) : Bool := (x.w.group? x.mask).any (fun g => g.prog.stage != 0 || g.hold == .event)

/-- Event 0x01 of R389: each instruction counts once, when it issues. DEDUCED, log entry 29. -/
def State.countIssue (s : State) (x : Ctx) : State :=
  s.modQuad x.core (quadOf x.slot) (fun q => if x.goesOn then q else q.count x.slot 1 1)

/-- The vector registers that an instruction of class F writes when it completes. -/
def Ctx.writtenRun (x : Ctx) : Nat × Nat :=
  match x.i.sig.dst with
  | .reg r => if x.f.dst.toNat < 192 ∧ !x.lanes.isEmpty ∧ !x.i.classM ∧ !x.i.classQ then (x.f.dst.toNat, r.n) else (0, 0)
  | _ => (0, 0)

/-- A quadrant in which the instruction completes: it is counted, and the matrix latches of the registers it writes are cleared (R234). -/
def Quad.completes (q : Quad) (x : Ctx) : Quad :=
  (if x.goesOn then q else q.count x.slot 1 1).registersWritten x.slot x.writtenRun.1 x.writtenRun.2

/-- Completes an instruction whose group goes to `pc`: stall, counts, and what comes due. -/
def State.completeAt (s : State) (x : Ctx) (pc : Nat) : State :=
  match s.warp? x.core x.slot with
  | none => s
  | some w =>
    let w1 := (((w.setPc x.mask pc).stallGroup x.mask x.cyc x.f.stall.toNat).commitFlash x.i.isCommit).countIssue
    ((s.setWarp x.core x.slot w1).modQuad x.core (quadOf x.slot) (·.completes x)).pushAll (w1.dueAfter x.core x.slot)

/-- Completes an instruction: its group goes on at the next one. -/
def State.complete (s : State) (x : Ctx) : State := s.completeAt x x.next

/-- Holds the group at the instruction: not ready under R50 until the hold ends, then the instruction goes on. -/
def State.holdAt (s : State) (x : Ctx) (h : Hold) (p : Progress) : State :=
  (if p.stage ≠ 0 ∨ h = .event then s.countIssue x else s).modWarp x.core x.slot (fun w =>
    (w.modGroup x.mask (fun g => { g with hold := h, prog := p })).commitFlash x.i.isCommit)

/-- The number at a place of the values. -/
def valAt (l : List Nat) (n : Nat) : Nat := l.getD n 0

/-- Keeps the group at an instruction that has not issued yet. -/
def State.waitAt (s : State) (x : Ctx) (h : Hold) : State :=
  s.modWarp x.core x.slot (fun w => w.modGroup x.mask (fun g => { g with hold := h }))

/-- Parks the warp at the instruction (R47). -/
def State.parkAt (s : State) (x : Ctx) (r : ParkReason) (p : Progress) : State :=
  (s.countIssue x).modWarp x.core x.slot (fun w =>
    ((w.modGroup x.mask (fun g => { g with hold := .none, prog := p })).commitFlash x.i.isCommit).parkFor r x.cyc)

/-- Raises a warp-uniform fault (R105, R420). -/
def State.uniform (s : State) (x : Ctx) (cause eval : Nat) : State :=
  s.raise x.core x.slot x.mask { cause := cause, epc := x.pc, eval := eval }

/-- Raises a per-lane fault in a lane (R105, R420). -/
def State.laneFault (s : State) (x : Ctx) (cause addr lane access : Nat) : State :=
  s.raise x.core x.slot x.mask { cause := cause, epc := x.pc, eval := addr, perLane := true, lid := x.lid lane, access := access }

/-- Raises a page fault in a lane (R423). -/
def State.lanePage (s : State) (x : Ctx) (absent : Bool) (addr lane access : Nat) : State :=
  let t : Trap :=
    { cause := causePageFault, epc := x.pc, eval := addr, perLane := true, lid := x.lid lane, access := access }
  s.raisePage x.core x.slot x.mask absent t

/-! ## The front end -/

/-- Faults and waits of an instruction that the words alone do not decide. -/
structure Late where
  illegalInstr   : Bool := false
  illegalOperand : Bool := false
  registerRange  : Bool := false
  privilege      : Bool := false
  notConverged   : Bool := false
  /-- A Handle fault with its EVAL. -/
  handle         : Option Nat := none
  /-- Path counters it raises (R121). -/
  paths          : List Path := []
  /-- Forbidden inside a region through its lanes (R312). -/
  forbidden      : Bool := false
deriving DecidableEq, Repr

/-- The first warp-uniform fault of R106, with its EVAL (R420). -/
def Ctx.uniformFault (x : Ctx) (l : Late) : Option (Nat × Nat) :=
  let g := x.i.sig
  let words := x.i.evalWords.toNat
  if g.illegalInstr x.f || l.illegalInstr then some (causeIllegalInstr, words)
  else if g.illegalOperand x.f || l.illegalOperand then some (causeIllegalOperand, words)
  else if g.registerRange x.f x.w.alloc || l.registerRange then some (causeRegisterRange, words)
  else if (g.priv && !x.w.special.priv) || l.privilege then some (causePrivilege, words)
  else if l.notConverged then some (causeNotConverged, words)
  else l.handle.map (fun v => (causeHandle, v))

/-- Sub-tiles that a gang member of index `self` of `g` holds (R238). -/
def heldTiles (g self tiles : Nat) : List Nat :=
  if g = 2 then (List.range tiles).filter (fun s => decide (s % 2 = self))
  else if self < 2 then []
  else (List.range tiles).filter (fun s => decide (2 + s % (g - 2) = self))

/-- COUNT, SELF and a member of GANG (R129). -/
def gangCount (g : Nat) : Nat := bitsOf g 29 27
def gangSelf (g : Nat) : Nat := bitsOf g 26 24
def gangMember (g k : Nat) : Nat := bitsOf g (4 * k + 3) (4 * k)

/-- A matrix multiply. -/
def matrixMultiply : Instr → Bool
  | .mma _ | .mmas _ | .mmav _ => true
  | _ => false

/-- Every register run of the instruction: a ganged multiply holds as many sub-tiles as its member's role gives it. -/
def Ctx.runs (x : Ctx) : List (Nat × Nat) :=
  let l := x.i.sig.runs x.f
  if matrixMultiply x.i && x.f.mb 6 6 == 1 && decide (x.f.dst.toNat < 192) then
    let g := x.w.gang.toNat
    (x.f.dst.toNat, 8 * (heldTiles (gangCount g) (gangSelf g) (shapeTiles (x.f.mb 1 0))).length) :: l
  else l

/-- The sub-arrays that an instruction occupies (R221). -/
def arraysOf (shape sub : Nat) : List Nat := if shape = 0 then [sub] else [0, 1, 2, 3]
def MatrixOp.arrays (o : MatrixOp) : List Nat := arraysOf o.shape o.sub

/-- Instructions that have entered a sub-array and not written yet, the oldest first. -/
def Quad.onArray (q : Quad) (a : Nat) : List MatrixOp := q.matrix.filter (fun o => decide (o.kind ≠ 3) && o.arrays.contains a)

/-- The instruction that is ahead on all the sub-arrays that a shape needs, with the same shape (R232). -/
def Quad.ahead (q : Quad) (shape sub : Nat) : Option MatrixOp :=
  match (arraysOf shape sub).map (fun a => (q.onArray a).getLast?) with
  | some o :: t => if t.all (fun p => (p.map (·.id)) == some o.id) && decide (o.shape = shape) then some o else none
  | _ => none

/-- The accumulator run of a matrix multiply that is chained is not waited for (R232). -/
def Ctx.chains (x : Ctx) (s : State) : Bool :=
  matrixMultiply x.i &&
    (match ((s.core? x.core).map (fun k => k.quad (quadOf x.slot))).bind (·.ahead (x.f.mb 1 0) (x.f.mb 3 2)) with
      | some o => o.members.any (fun m => decide (m.slot = x.slot ∧ m.acc = x.f.dst.toNat)) && (decide (o.members.length = 1) == (x.f.mb 6 6 == 0))
      | none => false)

/-- Runs that the interlock looks at. -/
def Ctx.lockedRuns (x : Ctx) (s : State) : List (Nat × Nat) :=
  if x.chains s then x.runs.filter (fun r => decide (r.1 ≠ x.f.dst.toNat)) else x.runs

/-- The target of RDLANE and WRLANE (R203): the group's lane with the LID, its exited bit clear. -/
def Ctx.targetLane (x : Ctx) : Option Nat :=
  (x.w.lanesByLid x.mask).find? (fun l => decide (x.lid l = x.b 1 scalarLane) && !(x.w.lane l).exited)

/-- The lanes whose vector registers an instruction reads or writes, once it acts: for a tile and for a fusion all 32 (R205, R223), for
RDLANE and WRLANE the target (R203), else the executing lanes. -/
def Ctx.vectorLanes (x : Ctx) : List Nat :=
  match x.i with
  | .mma _ | .mmas _ | .mmav _ | .mldt _ | .mstt _ | .wfuse _ => List.range 32
  | .rdlane _ | .wrlane _ => x.targetLane.toList
  | _ => x.lanes

/-- The lanes in which an instruction reads its predicate sources: on the scalar path the lowest-LID executing one (R151), but VOTE
and WFUSE read theirs in every participant (R193, R204), and the structured instructions in every active lane (R137). -/
def Ctx.predLanes (x : Ctx) : List Nat :=
  match x.i with
  | .vote _ | .wfuse _ => x.lanes
  | .bif _ | .bbrk _ | .bloop _ => (x.w.lanesByLid x.mask).filter x.w.active
  | _ => if x.scalarPath then x.lanes.take 1 else x.lanes

/-- The instruction acts: in a lane, or for its group or its warp whatever the lanes do (R134, R140, R145, R204, R309, R318). -/
def Ctx.acts (x : Ctx) : Bool :=
  match x.i with
  | .regang _ | .flash _ | .rgbeg _ | .rgend _ | .wfuse _ => true
  | .bra _ | .braS _ => (x.w.lanesByLid x.mask).any x.w.active
  | _ => !x.lanes.isEmpty

/-- WFUSE reads and writes every vector register and predicate of its warp (R205). -/
def Ctx.fusing (x : Ctx) : Bool :=
  match x.i with
  | .wfuse _ => true
  | _ => false

/-- The instruction names a register by its operand code. -/
def Ctx.names (x : Ctx) (code : Nat) : Bool :=
  x.runs.any (fun r => decide (r.1 ≤ code ∧ code < r.1 + r.2)) || (x.fusing && decide (code < 192))

/-- The instruction reads or writes the register of a code (256 + k for predicate k) in a lane, or on the scalar path (R105, R112).
The guard is read in every active lane of the group, whatever it gives there. -/
def Ctx.touches (x : Ctx) (code lane : Nat) : Bool :=
  if 256 ≤ code then
    let k := code - 256
    decide (0 < k ∧ k < 8) &&
      (x.fusing || (decide (k = x.f.guard.toNat) && inMask x.mask (lane / 4) && x.w.active lane) ||
        ((x.i.readPreds x.f).contains k && x.predLanes.contains lane) ||
        ((x.i.writtenPreds x.f).contains k && x.lanes.contains lane))
  else if code < 192 then x.acts && x.names code && x.vectorLanes.contains lane
  else x.acts && x.names code && decide (lane = scalarLane)

/-- The register on which the checking scoreboard stops the instruction (R112): its operand code, or the number of a predicate.
DEDUCED, log entry 22. -/
def Ctx.stallViolation (x : Ctx) : Option Nat :=
  if !x.w.special.schk then none
  else
    let early := x.w.undelivered.find? (fun u => decide (x.cyc < u.due) && x.touches u.code u.lane)
    let open_ := (x.w.uncovered.flatMap (fun u => (List.range u.regs).flatMap (fun i => u.lanes.map (fun l => (u.code + i, l))))).find?
      (fun e => x.touches e.1 e.2)
    ((early.map (·.code)).orElse (fun _ => open_.map (·.1))).map (fun c => if 256 ≤ c then c - 256 else c)

/-- A deferred fault that this instruction delivers by reading or writing the destination run (R242, R424). -/
def Ctx.deferredAt (x : Ctx) : Option Deferred :=
  if x.acts then
    x.w.deferred.find? (fun d => d.regs ≠ 0 && (x.runs.any (runsMeet (d.code, d.regs)) || (x.fusing && decide (d.code < 192))))
  else none

/-- Delivers a deferred fault (R424): it leaves the list, and the instruction issues again after the handler. -/
def State.deliver (s : State) (x : Ctx) (d : Deferred) : State :=
  (s.modWarp x.core x.slot (fun w => { w with deferred := dropFirst (· == d) w.deferred })).raise x.core x.slot x.mask
    { cause := d.cause, epc := x.pc, eval := d.addr, perLane := true, lid := d.lid, deferred := true, source := d.source,
      access := d.bits }

/-- The instruction has scratchpad events, or reads the window (R287, R332). -/
def Ctx.inWindow (x : Ctx) (l : Late) : Bool :=
  l.paths.any (fun p => p == .spd || p == .mmx) || (match x.i with | .barw _ => !x.lanes.isEmpty | _ => false)

/-- A barrier arrival of the warp has issued and is not performed. -/
def Warp.barrierAhead (w : Warp) : Bool := w.accesses.any (fun a => a.path == .spd && a.unsent)

/-- Why an instruction does not issue yet (R110, R121, R287); it is looked at before the faults of R106. DESIGN CHOICE, log entry 26. -/
def Ctx.waits (x : Ctx) (s : State) (l : Late) : Option Hold :=
  let q := ((s.core? x.core).map (fun k => k.pendingQ x.slot)).getD []
  if (x.lockedRuns s).any (fun r => q.any (runsMeet r)) then some (.interlock q.length)
  else if x.inWindow l && x.w.barrierAhead then some .barrierAhead
  else (l.paths.find? (fun p => decide (63 ≤ x.w.paths.get p))).map .pathFull

/-- The instruction of a group that is held while a handler runs has issued before the trap: it goes on as the program's (R417). -/
def Ctx.asIssued (x : Ctx) : Ctx :=
  if (x.w.group? x.mask).any (·.held) then { x with w := { x.w with special := { x.w.special with priv := false } } } else x

/-- An instruction that has issued and was held goes on, unless its warp is parked. Where a terminal fault has ended the warp
meanwhile and the instruction meets a fault too, it ends there (R417, R422). -/
def State.proceed (s : State) (x : Ctx) (eff : Ctx → State → State) : State :=
  if x.w.park ≠ .none then s
  else
    let t := eff x.asIssued s
    if x.w.ending.isNone then t
    else
      let stopped := ((t.warp? x.core x.slot).map (fun v =>
        v.trap.isSome || v.special.priv != x.w.special.priv || v.ending != x.w.ending || v.park != .none)).getD false
      if stopped then (s.modWarp x.core x.slot (·.dropGroup x.mask)).checkEnd x.core x.slot else t

/-- The outcome of a step. -/
abbrev Result := Host.Outcome State Fault Refusal

/-- Issues an instruction for the selected group: the one front end of every instruction. `late` gives the checks that
depend on the state, `eff` the effect once every warp-uniform check has passed. An instruction that has issued and was
held goes on where it stopped. -/
def issue (i : Instr) (late : Ctx → State → Late) (eff : Ctx → State → State) (s : State) : Result :=
  match s.sel with
  | [] => .fault .noIssuingGroup
  | g :: rest =>
    let s0 := { s with sel := rest, tick := s.tick + 1 }
    match s.warp? g.core g.slot with
    | none => .next s0
    | some w =>
      let x := s.seenBy i g w
      let l := late x s
      if (w.group? g.mask).isNone then .next s0
      else if x.prog.stage ≠ 0 then .next (s0.proceed x eff)
      else match x.waits s l with
        | some h => .next (s0.waitAt x h)
        | none =>
          match x.uniformFault l with
          | some (cause, eval) => .next (s0.uniform x cause eval)
          | none =>
            if w.region.active && (i.forbidden || l.forbidden) then .next (s0.abortLater x.core x.slot abFault 0xFF)
            else match x.stallViolation with
              | some r => .next (s0.uniform x causeStall r)
              | none =>
                -- a deferred fault comes before the instruction's own per-lane faults (R431)
                match x.deferredAt with
                | some d => .next (s0.deliver x d)
                | none => .next (eff x s0)

/-- No check beyond those of the words. -/
def noLate : Ctx → State → Late := fun _ _ => {}

end Sys2Proof.Machine
end

