-- ==== Sys2Proof/Machine/Flags.lean ====
section
/-! DEFINITION. Results: writing registers, predicates and FFLAGS (R76, R107 to R110, R126, R152), and the shared shapes of class-F and class-Q instructions. -/

namespace Sys2Proof.Machine

/-! ## Writing registers -/

/-- The word that a register holds. -/
def Warp.regWord (w : Warp) (code lane : Nat) : Word :=
  if code < 192 then SMap.get 0 code (w.lane lane).v else SMap.get 0 (code - 192) w.s

/-- Writes one register at once; code 0xFC discards (R98). -/
def Warp.setReg (w : Warp) (code lane : Nat) (x : Word) : Warp :=
  if code < 192 then w.modLane lane (fun l => { l with v := SMap.set 0 code x l.v })
  else if code < 252 then { w with s := SMap.set 0 (code - 192) x w.s }
  else w

/-- Writes a run at once, the lowest-numbered register lowest (R100). -/
def Warp.setRun (w : Warp) (code lane x : Nat) : Nat → Warp
  | 0 => w
  | n + 1 => (if code < 252 then (w.setReg code lane (BitVec.ofNat 32 x)).setRun (code + 1) lane (x / 2 ^ 32) n else w)

/-- The place under which an undelivered register is listed. -/
def placeOf (code lane : Nat) : Nat := if code < 192 then lane else scalarLane

/-- A class-F write of a register at cycle `cyc`, delivered at `due`. A write before delivery of an earlier result leaves
either value (R109). -/
def Warp.deliverReg (w : Warp) (cyc draw due code lane : Nat) (x : Word) : Warp :=
  if 252 ≤ code then w
  else
    let p := placeOf code lane
    let early := w.undelivered.any (fun u => decide (u.code = code ∧ u.lane = p ∧ cyc < u.due))
    if early && Config.earlyLost draw (64 * code + p) then w
    else
      let u : Undelivered := { code := code, lane := p, old := (w.regWord code lane).toNat, due := due }
      let w1 := w.setReg code lane x
      { w1 with undelivered := u :: w.undelivered.filter (fun v => decide (cyc < v.due ∧ ¬(v.code = code ∧ v.lane = p))) }

/-- A class-F write of a run. -/
def Warp.deliverRun (w : Warp) (cyc draw due code lane x : Nat) : Nat → Warp
  | 0 => w
  | n + 1 => (w.deliverReg cyc draw due code lane (BitVec.ofNat 32 x)).deliverRun cyc draw due (code + 1) lane (x / 2 ^ 32) n

/-- A class-F write of a predicate (R152); a write to p0 is discarded. -/
def Warp.deliverPred (w : Warp) (cyc draw due n lane : Nat) (b : Bool) : Warp :=
  if n = 0 ∨ 7 < n then w
  else
    let code := 256 + n
    let early := w.undelivered.any (fun u => decide (u.code = code ∧ u.lane = lane ∧ cyc < u.due))
    if early && Config.earlyLost draw (64 * code + lane) then w
    else
      let u : Undelivered := { code := code, lane := lane, old := if (w.lane lane).p.getLsbD n then 1 else 0, due := due }
      let w1 := w.modLane lane (fun l => l.setPred n b)
      { w1 with undelivered := u :: w.undelivered.filter (fun v => decide (cyc < v.due ∧ ¬(v.code = code ∧ v.lane = lane))) }

/-- A register, predicate, FMT or MODE whose class-F result is not delivered yet takes either value when a latch reads the
whole warp (R109). -/
def Warp.pickEarly (w : Warp) (cyc draw : Nat) : Warp :=
  w.undelivered.foldl (fun w u =>
    if cyc < u.due ∧ Config.earlyOld draw (64 * u.code + u.lane) then
      if u.code < 252 then w.setReg u.code u.lane (BitVec.ofNat 32 u.old)
      else if 256 < u.code ∧ u.code < 264 then w.modLane u.lane (fun l => l.setPred (u.code - 256) (u.old == 1))
      else if u.code = 264 then w.setFmt (BitVec.ofNat 8 (1 <<< u.lane)) (BitVec.ofNat 12 u.old)
      else if u.code = 521 then { w with mode := BitVec.ofNat 32 u.old }
      else w
    else w) w

/-! ## FFLAGS (R76, R126) -/

/-- Flags whose results have been delivered join FFLAGS. -/
def Warp.settleFlags (w : Warp) (cyc : Nat) : Warp :=
  let now := (w.flagsDue.filter (fun f => decide (f.1 ≤ cyc))).foldl (fun a f => a ||| f.2) 0
  { w with
    special := { w.special with fflags := w.special.fflags ||| now },
    flagsDue := w.flagsDue.filter (fun f => decide (cyc < f.1)) }

/-- Every flag joins FFLAGS, delivered or not. -/
def Warp.settleAllFlags (w : Warp) : Warp :=
  { w with
    special := { w.special with fflags := w.flagsDue.foldl (fun a f => a ||| f.2) w.special.fflags },
    flagsDue := [] }

/-- flag(F): raises flags that become visible at `due`. -/
def Warp.raiseFlags (w : Warp) (due : Nat) (f : Flags) : Warp :=
  if f = 0 then w else { w with flagsDue := (due, f) :: w.flagsDue }

/-! ## What an instruction computes -/

/-- The results of an instruction: registers by place, first code, length and value; predicates by lane; flags. -/
structure Out where
  regs  : List (Nat × Nat × Nat × Nat) := []
  preds : List (Nat × Nat × Bool) := []
  flags : Flags := 0
deriving DecidableEq, Repr

def Out.append (a b : Out) : Out := { regs := a.regs ++ b.regs, preds := a.preds ++ b.preds, flags := a.flags ||| b.flags }

/-- Results of a list of places together. -/
def Out.ofList : List Out → Out
  | [] => {}
  | a :: t => a.append (Out.ofList t)

/-- Writes the results of a class-F instruction of latency `lat`. -/
def Warp.deliver (w : Warp) (cyc draw lat : Nat) (o : Out) : Warp :=
  let due := cyc + lat
  let w1 := o.regs.foldl (fun w r => w.deliverRun cyc draw due r.2.1 r.1 r.2.2.2 r.2.2.1) w
  let w2 := o.preds.foldl (fun w p => w.deliverPred cyc draw due p.2.1 p.1 p.2.2) w1
  (w2.settleFlags cyc).raiseFlags due o.flags

/-- A class-F instruction: every place reads its sources before any writes (R117), then the group goes on. -/
def classF (lat : Nat) (compute : Ctx → Nat → Out) (x : Ctx) (s : State) : State :=
  let o := Out.ofList (x.places.map (compute x))
  (s.modWarp x.core x.slot (fun w => w.deliver x.cyc x.draw lat o)).complete x

/-- A class-F instruction that computes over all its participants together. -/
def classFAll (lat : Nat) (compute : Ctx → Out) (x : Ctx) (s : State) : State :=
  (s.modWarp x.core x.slot (fun w => w.deliver x.cyc x.draw lat (compute x))).complete x

/-- A result of `n` registers for the instruction's destination at a place. -/
def Ctx.out (x : Ctx) (place n value : Nat) : Out := { regs := [(place, x.f.dst.toNat, n, value)] }

/-! ## Class Q (R110, R188) -/

/-- Entries of the SFU queue and of the divider (R188). -/
def sfuEntries : Nat := 8
def dividerEntries : Nat := 4

/-- Queues the results of a class-Q instruction in its quadrant. -/
def classQ (divider : Bool) (latency regs : Nat) (compute : Ctx → Nat → FRes) (x : Ctx) (s : State) : State :=
  let q := ((s.core? x.core).map (fun k => k.quad (quadOf x.slot))).getD {}
  if x.places.isEmpty then s.complete x
  else if (if divider then decide (dividerEntries ≤ q.divider.length) else decide (sfuEntries ≤ q.sfu.length)) then
    s.holdAt x (if divider then .dividerFull else .sfuFull) x.prog
  else
    let rs := x.places.map (fun p => (p, compute x p))
    -- the SFU starts one operation a cycle, the divider one when the last is done
    let start :=
      if divider then max x.cyc ((q.divider.getLast?.map (·.due)).getD 0)
      else max x.cyc ((q.sfu.getLast?.map (·.start + 1)).getD 0)
    let r : QResult :=
      { slot := x.slot, code := x.f.dst.toNat, regs := regs, values := rs.map (fun r => (r.1, r.2.bits)),
        flags := rs.foldl (fun a r => a ||| r.2.flags) 0, start := start, due := start + latency }
    (s.modQuad x.core (quadOf x.slot) (fun q =>
      if divider then { q with divider := q.divider ++ [r] } else { q with sfu := q.sfu ++ [r] })).complete x

/-- Writes a class-Q result (R188). -/
def Warp.writeResult (w : Warp) (r : QResult) : Warp :=
  let w1 := r.values.foldl (fun w v => w.setRun r.code v.1 v.2 r.regs) w
  { w1 with special := { w1.special with fflags := w1.special.fflags ||| r.flags } }

end Sys2Proof.Machine
end

