-- ==== Sys2Proof/Machine/Integer.lean ====
section
/-! DEFINITION. Integer, logic, address and predicate instructions (R148 to R168), each with its S form (R94). -/

namespace Sys2Proof.Machine

/-! ## Types (R148, R149) -/

/-- Width of an integer type. -/
def intWidth (t : Nat) : Nat :=
  match t with
  | 0 | 1 => 32
  | 2 | 3 => 64
  | 4 | 5 => 16
  | _ => 8

/-- The .i types. -/
def intSigned (t : Nat) : Bool := t % 2 = 1

/-- How a literal fills a pair of the type (R100). -/
def intExt (t : Nat) : LitExt := if intSigned t then .sign else .zero

/-- The type of an instruction of this chapter. -/
def Ctx.ty (x : Ctx) : Nat := x.f.mb 3 0

/-- An operand of the type's width, as an unsigned number. -/
def Ctx.rdInt (x : Ctx) (code : BitVec 8) (place : Nat) : Nat :=
  x.rd code (intRegs x.ty) place (intExt x.ty) % 2 ^ intWidth x.ty

/-- A result of `w` bits as it is written: narrow results are extended to 32 bits (R149). -/
def extendInt (t r : Nat) : Nat :=
  let w := intWidth t
  let r := r % 2 ^ w
  if w < 32 ∧ intSigned t ∧ 2 ^ (w - 1) ≤ r then r + 2 ^ 32 - 2 ^ w else r

/-- The result of an instruction of the type. -/
def Ctx.outInt (x : Ctx) (place r : Nat) : Out := x.out place (intRegs x.ty) (extendInt x.ty r)

/-- An integer as `w` bits. -/
def wrapInt (w : Nat) (i : Int) : Nat := (i % (2 ^ w : Nat)).toNat

/-- The bounds of a type. -/
def intMin (t : Nat) : Int := if intSigned t then -(2 ^ (intWidth t - 1) : Nat) else 0
def intMax (t : Nat) : Int := if intSigned t then (2 ^ (intWidth t - 1) : Nat) - 1 else (2 ^ intWidth t : Nat) - 1

/-- Clamps to the range of a type. -/
def clampInt (t : Nat) (i : Int) : Int := max (intMin t) (min (intMax t) i)

/-- The number of type `t` that bits hold. -/
def numInt (t bits : Nat) : Int := intOf (intSigned t) (intWidth t) bits

/-! ## What the instructions compute -/

/-- The lanes that a carry-out is written in: every executing lane on the scalar path (R151). -/
def Ctx.carryLanes (x : Ctx) (place : Nat) : List Nat := if place = scalarLane then x.lanes else [place]

/-- R153: the sum, the carry-out, and .sat. -/
def addCarry (x : Ctx) (place : Nat) (invert : Bool) (cin : Nat) (sat : Bool) : Out :=
  let w := intWidth x.ty
  let a := x.rdInt x.f.srcA place
  let b0 := x.rdInt x.f.srcB place
  let b := if invert then 2 ^ w - 1 - b0 else b0
  let u := a + b + cin
  let r :=
    if sat then
      let e := if invert then numInt x.ty a - numInt x.ty b0 else numInt x.ty a + numInt x.ty b0
      wrapInt w (clampInt x.ty e)
    else u % 2 ^ w
  let co := x.f.mb 7 5
  let carry := decide (2 ^ w ≤ u)
  (x.outInt place r).append { preds := if co = 0 then [] else (x.carryLanes place).map (fun l => (l, co, carry)) }

/-- R158: one bit of a truth table. -/
def tableBit (tt : Nat) (a b c : Bool) : Bool :=
  tt.testBit ((if a then 1 else 0) + (if b then 2 else 0) + (if c then 4 else 0))

/-- R158: LOP3 over `n` bits. -/
def lop3Bits (tt a b c : Nat) : Nat → Nat
  | 0 => 0
  | n + 1 => lop3Bits tt a b c n + (if tableBit tt (a.testBit n) (b.testBit n) (c.testBit n) then 2 ^ n else 0)

/-- The number of 1 bits among the low `n`. -/
def popCount (a : Nat) : Nat → Nat
  | 0 => 0
  | n + 1 => popCount a n + (if a.testBit n then 1 else 0)

/-- The number of 0 bits below the lowest 1 bit, among `n` bits from bit `k` on. -/
def trailZeros (a k : Nat) : Nat → Nat
  | 0 => 0
  | n + 1 => if a.testBit k then 0 else 1 + trailZeros a (k + 1) n

/-- The low `n` bits in reverse order. -/
def reverseBits (a : Nat) : Nat → Nat
  | 0 => 0
  | n + 1 => reverseBits (a / 2) n + (if a.testBit 0 then 2 ^ n else 0)

/-- R160: BFX. -/
def bfxValue (t a p n : Nat) : Nat :=
  let w := intWidth t
  let n := min n w
  let x : Nat := if intSigned t ∧ 2 ^ (w - 1) ≤ a then a + 2 ^ (w + 512) - 2 ^ w else a
  let f := x / 2 ^ p % 2 ^ n
  if intSigned t ∧ 0 < n ∧ 2 ^ (n - 1) ≤ f then f + 2 ^ w - 2 ^ n else f

/-- R160: BFI. -/
def bfiValue (w a b p n : Nat) : Nat :=
  let n := min n w
  let m := (2 ^ n - 1) * 2 ^ p % 2 ^ w
  (a &&& (2 ^ w - 1 - m)) + (b * 2 ^ p &&& m)

/-- R162: one byte of PERM. -/
def permByte (pool s : Nat) : Nat :=
  let y := pool / 2 ^ (8 * (s % 8)) % 256
  if 8 ≤ s then (if 128 ≤ y then 255 else 0) else y

/-- R165: the conditions of ICMP. -/
def intCond (c : Nat) (a b : Int) : Bool :=
  match c with
  | 0 => a == b
  | 1 => a != b
  | 2 => decide (a < b)
  | 3 => decide (a ≤ b)
  | 4 => decide (b < a)
  | _ => decide (b ≤ a)

/-- R165, R174: the outcome combined with a second predicate. -/
def combine (f : LX) (c q : Bool) : Bool :=
  let q := q != (f.mb 9 9 == 1)
  match f.mb 8 7 with
  | 0 => c
  | 1 => c && q
  | 2 => c || q
  | _ => c != q

/-- R156, R78: quotient and remainder, with the three fixed cases. -/
def divInt (t a b : Nat) : Nat :=
  let w := intWidth t
  if b = 0 then 2 ^ w - 1 else wrapInt w ((numInt t a).tdiv (numInt t b))
def remInt (t a b : Nat) : Nat :=
  let w := intWidth t
  if b = 0 then a else wrapInt w ((numInt t a).tmod (numInt t b))

/-- Latency of the divider for an integer width (R188). -/
def divLatency (t : Nat) : Nat := if intWidth t = 64 then 36 else if intWidth t = 32 then 20 else 12

def computeIadd (x : Ctx) (p : Nat) : Out := addCarry x p false 0 (x.f.mb 4 4 == 1)
def computeIsub (x : Ctx) (p : Nat) : Out := addCarry x p true 1 (x.f.mb 4 4 == 1)
def computeIaddc (x : Ctx) (p : Nat) : Out :=
  addCarry x p (x.f.mb 4 4 == 1) (if x.pdAt p x.f.srcC.toNat then 1 else 0) false
def computeImul (x : Ctx) (p : Nat) : Out := x.outInt p (x.rdInt x.f.srcA p * x.rdInt x.f.srcB p)
def computeImulh (x : Ctx) (p : Nat) : Out :=
  let w := intWidth x.ty
  x.outInt p (wrapInt w ((numInt x.ty (x.rdInt x.f.srcA p) * numInt x.ty (x.rdInt x.f.srcB p)) / (2 ^ w : Nat)))
def computeImad (x : Ctx) (p : Nat) : Out :=
  x.outInt p (x.rdInt x.f.srcA p * x.rdInt x.f.srcB p + x.rdInt x.f.srcC p)
def computeImadw (x : Ctx) (p : Nat) : Out :=
  x.out p 2 (wrapInt 64 (numInt x.ty (x.a 1 p) * numInt x.ty (x.b 1 p) + (x.c 2 p (intExt x.ty) : Int)))
def computeImin (x : Ctx) (p : Nat) : Out :=
  let a := x.rdInt x.f.srcA p
  let b := x.rdInt x.f.srcB p
  x.outInt p (if numInt x.ty b < numInt x.ty a then b else a)
def computeImax (x : Ctx) (p : Nat) : Out :=
  let a := x.rdInt x.f.srcA p
  let b := x.rdInt x.f.srcB p
  x.outInt p (if numInt x.ty a < numInt x.ty b then b else a)
def computeIabs (x : Ctx) (p : Nat) : Out := x.outInt p (numInt x.ty (x.rdInt x.f.srcA p)).natAbs
def computeIneg (x : Ctx) (p : Nat) : Out := x.outInt p (2 ^ intWidth x.ty - x.rdInt x.f.srcA p)
def computeAnd (x : Ctx) (p : Nat) : Out := x.outInt p (x.rdInt x.f.srcA p &&& x.rdInt x.f.srcB p)
def computeOr (x : Ctx) (p : Nat) : Out := x.outInt p (x.rdInt x.f.srcA p ||| x.rdInt x.f.srcB p)
def computeXor (x : Ctx) (p : Nat) : Out := x.outInt p (x.rdInt x.f.srcA p ^^^ x.rdInt x.f.srcB p)
def computeAndn (x : Ctx) (p : Nat) : Out :=
  x.outInt p (x.rdInt x.f.srcA p &&& (2 ^ intWidth x.ty - 1 - x.rdInt x.f.srcB p))
def computeNot (x : Ctx) (p : Nat) : Out := x.outInt p (2 ^ intWidth x.ty - 1 - x.rdInt x.f.srcA p)
def computeLop3 (x : Ctx) (p : Nat) : Out :=
  x.outInt p (lop3Bits (x.f.mb 11 4) (x.rdInt x.f.srcA p) (x.rdInt x.f.srcB p) (x.rdInt x.f.srcC p) (intWidth x.ty))
def computeShl (x : Ctx) (p : Nat) : Out := x.outInt p (x.rdInt x.f.srcA p * 2 ^ (x.b 1 p % intWidth x.ty))
def computeShr (x : Ctx) (p : Nat) : Out :=
  x.outInt p (wrapInt (intWidth x.ty) (numInt x.ty (x.rdInt x.f.srcA p) / (2 ^ (x.b 1 p % intWidth x.ty) : Nat)))
def computeRotl (x : Ctx) (p : Nat) : Out :=
  let w := intWidth x.ty
  let n := x.b 1 p % w
  let a := x.rdInt x.f.srcA p
  x.outInt p (a * 2 ^ n % 2 ^ w + a / 2 ^ (w - n))
def computeShf (x : Ctx) (p : Nat) : Out :=
  let w := intWidth x.ty
  let n := x.b 1 p % w
  let v := x.rdInt x.f.srcC p * 2 ^ w + x.rdInt x.f.srcA p
  x.outInt p (if x.f.mb 4 4 = 0 then v / 2 ^ n else v * 2 ^ n / 2 ^ w)
def computeBfx (x : Ctx) (p : Nat) : Out :=
  x.outInt p (bfxValue x.ty (x.rdInt x.f.srcA p) (x.b 1 p % 256) (x.c 1 p % 256))
def computeBfi (x : Ctx) (p : Nat) : Out :=
  let c := x.c 1 p
  x.outInt p (bfiValue (intWidth x.ty) (x.rdInt x.f.srcA p) (x.rdInt x.f.srcB p) (c % 256) (c / 256 % 256))
def computePopc (x : Ctx) (p : Nat) : Out := x.out p 1 (popCount (x.rdInt x.f.srcA p) (intWidth x.ty))
def computeClz (x : Ctx) (p : Nat) : Out :=
  let w := intWidth x.ty
  x.out p 1 (trailZeros (reverseBits (x.rdInt x.f.srcA p) w) 0 w)
def computeCtz (x : Ctx) (p : Nat) : Out := x.out p 1 (trailZeros (x.rdInt x.f.srcA p) 0 (intWidth x.ty))
def computeBrev (x : Ctx) (p : Nat) : Out := x.outInt p (reverseBits (x.rdInt x.f.srcA p) (intWidth x.ty))
def computePerm (x : Ctx) (p : Nat) : Out :=
  let pool := x.b 1 p * 2 ^ 32 + x.a 1 p
  let c := x.c 1 p
  x.out p 1 (permByte pool (c % 16) + 2 ^ 8 * permByte pool (c / 16 % 16) + 2 ^ 16 * permByte pool (c / 256 % 16) +
    2 ^ 24 * permByte pool (c / 4096 % 16))
def computeSel (x : Ctx) (p : Nat) : Out :=
  let cond := x.pdAt p x.f.srcC.toNat != (x.f.mb 4 4 == 1)
  x.outInt p (if cond then x.rdInt x.f.srcA p else x.rdInt x.f.srcB p)
def computeIcmp (x : Ctx) (p : Nat) : Out :=
  let c := intCond (x.f.mb 6 4) (numInt x.ty (x.rdInt x.f.srcA p)) (numInt x.ty (x.rdInt x.f.srcB p))
  { preds := [(p, x.f.dst.toNat, combine x.f c (x.pd p (x.f.srcC.toNat % 8)))] }
def computePlop (x : Ctx) (p : Nat) : Out :=
  { preds := [(p, x.f.dst.toNat,
      tableBit (x.f.mb 11 4) (x.pd p x.f.srcA.toNat) (x.pd p x.f.srcB.toNat) (x.pd p x.f.srcC.toNat))] }
def computePpack (x : Ctx) (p : Nat) : Out :=
  x.out p 1 (maskOf ((List.range 8).filter (fun k => x.pdAt p k)))
def computePunpk (x : Ctx) (p : Nat) : Out :=
  let a := x.a 1 p
  { preds := ((List.range 8).filter (fun k => k ≠ 0 && (x.f.mb 11 5 = 0 || x.f.modi.getLsbD (k + 4)))).map
      (fun k => (p, k, a.testBit k)) }
def computeMov (x : Ctx) (p : Nat) : Out := x.outInt p (x.rdInt x.f.srcA p)
def computeMovl (x : Ctx) (p : Nat) : Out := x.out p 2 (x.a 1 p + 2 ^ 32 * x.b 1 p)
def computeLea (x : Ctx) (p : Nat) : Out :=
  let i := numInt x.ty (x.b 1 p)
  let d := intOf true 32 (x.c 1 p)
  x.out p 2 (wrapInt 64 ((x.a 2 p : Int) + i * (2 ^ x.f.mb 6 4 : Nat) + d))
def computeIdot4 (x : Ctx) (p : Nat) : Out :=
  let byteAt (v : Nat) (k : Nat) (signed : Bool) : Int := intOf signed 8 (v / 2 ^ (8 * k))
  let a := x.a 1 p
  let b := x.b 1 p
  let prod (k : Nat) : Int := byteAt a k (x.f.mb 4 4 == 1) * byteAt b k (x.f.mb 5 5 == 1)
  let sum := numInt x.ty (x.c 1 p) + prod 0 + prod 1 + prod 2 + prod 3
  x.out p 1 (wrapInt 32 (if x.f.mb 6 6 = 1 then clampInt x.ty sum else sum))

/-! ## The meanings -/

def execIadd (f : LX) (s : State) : Result := issue (.iadd f) noLate (classF 2 computeIadd) s
def execIsub (f : LX) (s : State) : Result := issue (.isub f) noLate (classF 2 computeIsub) s
def execIaddc (f : LX) (s : State) : Result := issue (.iaddc f) noLate (classF 2 computeIaddc) s
def execImul (f : LX) (s : State) : Result := issue (.imul f) noLate (classF 4 computeImul) s
def execImulh (f : LX) (s : State) : Result := issue (.imulh f) noLate (classF 4 computeImulh) s
def execImad (f : LX) (s : State) : Result := issue (.imad f) noLate (classF 4 computeImad) s
def execImadw (f : LX) (s : State) : Result := issue (.imadw f) noLate (classF 4 computeImadw) s
def execImin (f : LX) (s : State) : Result := issue (.imin f) noLate (classF 2 computeImin) s
def execImax (f : LX) (s : State) : Result := issue (.imax f) noLate (classF 2 computeImax) s
def execIabs (f : LX) (s : State) : Result := issue (.iabs f) noLate (classF 2 computeIabs) s
def execIneg (f : LX) (s : State) : Result := issue (.ineg f) noLate (classF 2 computeIneg) s
def execAnd (f : LX) (s : State) : Result := issue (.andL f) noLate (classF 2 computeAnd) s
def execOr (f : LX) (s : State) : Result := issue (.orL f) noLate (classF 2 computeOr) s
def execXor (f : LX) (s : State) : Result := issue (.xorL f) noLate (classF 2 computeXor) s
def execAndn (f : LX) (s : State) : Result := issue (.andn f) noLate (classF 2 computeAndn) s
def execNot (f : LX) (s : State) : Result := issue (.notL f) noLate (classF 2 computeNot) s
def execLop3 (f : LX) (s : State) : Result := issue (.lop3 f) noLate (classF 2 computeLop3) s
def execShl (f : LX) (s : State) : Result := issue (.shl f) noLate (classF 2 computeShl) s
def execShr (f : LX) (s : State) : Result := issue (.shr f) noLate (classF 2 computeShr) s
def execRotl (f : LX) (s : State) : Result := issue (.rotl f) noLate (classF 2 computeRotl) s
def execShf (f : LX) (s : State) : Result := issue (.shf f) noLate (classF 2 computeShf) s
def execBfx (f : LX) (s : State) : Result := issue (.bfx f) noLate (classF 2 computeBfx) s
def execBfi (f : LX) (s : State) : Result := issue (.bfi f) noLate (classF 2 computeBfi) s
def execPopc (f : LX) (s : State) : Result := issue (.popc f) noLate (classF 2 computePopc) s
def execClz (f : LX) (s : State) : Result := issue (.clz f) noLate (classF 2 computeClz) s
def execCtz (f : LX) (s : State) : Result := issue (.ctz f) noLate (classF 2 computeCtz) s
def execBrev (f : LX) (s : State) : Result := issue (.brev f) noLate (classF 2 computeBrev) s
def execPerm (f : LX) (s : State) : Result := issue (.perm f) noLate (classF 2 computePerm) s
def execSel (f : LX) (s : State) : Result := issue (.selL f) noLate (classF 2 computeSel) s
def execIcmp (f : LX) (s : State) : Result := issue (.icmp f) noLate (classF 2 computeIcmp) s
def execPlop (f : LX) (s : State) : Result := issue (.plop f) noLate (classF 2 computePlop) s
def execPpack (f : LX) (s : State) : Result := issue (.ppack f) noLate (classF 2 computePpack) s
def execPunpk (f : LX) (s : State) : Result := issue (.punpk f) noLate (classF 2 computePunpk) s
def execMov (f : LX) (s : State) : Result := issue (.mov f) noLate (classF 2 computeMov) s
def execMovl (f : LX) (s : State) : Result := issue (.movl f) noLate (classF 2 computeMovl) s
def execLea (f : LX) (s : State) : Result := issue (.lea f) noLate (classF 2 computeLea) s
def execIdot4 (f : LX) (s : State) : Result := issue (.idot4 f) noLate (classF 4 computeIdot4) s

/-- IDIV and IREM run on the divider (R156, R188). -/
def computeIdiv (x : Ctx) (p : Nat) : FRes := { bits := extendInt x.ty (divInt x.ty (x.rdInt x.f.srcA p) (x.rdInt x.f.srcB p)) }
def computeIrem (x : Ctx) (p : Nat) : FRes := { bits := extendInt x.ty (remInt x.ty (x.rdInt x.f.srcA p) (x.rdInt x.f.srcB p)) }
def execIdiv (f : LX) (s : State) : Result :=
  issue (.idiv f) noLate (classQ true (divLatency (f.mb 3 0)) (intRegs (f.mb 3 0)) computeIdiv) s
def execIrem (f : LX) (s : State) : Result :=
  issue (.irem f) noLate (classQ true (divLatency (f.mb 3 0)) (intRegs (f.mb 3 0)) computeIrem) s

/-! ## The S forms: modifier 0, type .n32 (R94) -/

def execIaddS (f : SF) (s : State) : Result := issue (.iaddS f) noLate (classF 2 computeIadd) s
def execIsubS (f : SF) (s : State) : Result := issue (.isubS f) noLate (classF 2 computeIsub) s
def execInegS (f : SF) (s : State) : Result := issue (.inegS f) noLate (classF 2 computeIneg) s
def execAndS (f : SF) (s : State) : Result := issue (.andS f) noLate (classF 2 computeAnd) s
def execOrS (f : SF) (s : State) : Result := issue (.orS f) noLate (classF 2 computeOr) s
def execXorS (f : SF) (s : State) : Result := issue (.xorS f) noLate (classF 2 computeXor) s
def execNotS (f : SF) (s : State) : Result := issue (.notS f) noLate (classF 2 computeNot) s
def execMovS (f : SF) (s : State) : Result := issue (.movS f) noLate (classF 2 computeMov) s
def execShlS (f : SF) (s : State) : Result := issue (.shlS f) noLate (classF 2 computeShl) s
def execShrS (f : SF) (s : State) : Result := issue (.shrS f) noLate (classF 2 computeShr) s

end Sys2Proof.Machine
end

