-- ==== Sys2Proof/Machine/Special.lean ====
section
/-! DEFINITION. The special functions of R77 and R186: fixed-point series with far more bits than a result keeps, rounded once. -/

namespace Sys2Proof.Machine

/-- Fraction bits of the fixed-point numbers below. -/
def fxBits : Nat := 420

/-- One in fixed point. -/
def fxOne : Nat := 1 <<< fxBits

/-- The product of two fixed-point numbers. -/
def fxMul (a b : Nat) : Nat := (a * b) >>> fxBits

/-- ln 2 as the sum of 1 / (k 2^k). -/
def fxLn2From : Nat → Nat
  | 0 => 0
  | k + 1 => fxLn2From k + fxOne / ((k + 1) * 2 ^ (k + 1))

/-- The arctangent of 1/n by its series: `p` is 1 / n^(2k+1). -/
def fxAtanInv (n2 : Nat) : Nat → Nat → Nat → Bool → Int
  | 0, _, _, _ => 0
  | fuel + 1, k, p, neg =>
    let t : Int := (p / (2 * k + 1) : Nat)
    (if neg then -t else t) + fxAtanInv n2 fuel (k + 1) (p / n2) (!neg)

/-- ln 2 and pi in fixed point; pi is 16 atan(1/5) - 4 atan(1/239). -/
def fxLn2 : Nat := fxLn2From fxBits
def fxPi : Nat := (16 * fxAtanInv 25 200 0 (fxOne / 5) false - 4 * fxAtanInv 57121 60 0 (fxOne / 239) false).toNat

/-- The exponential series: `t` is z^k / k!. -/
def fxExpFrom (z : Nat) : Nat → Nat → Nat → Nat
  | 0, _, _ => 0
  | fuel + 1, k, t => t + fxExpFrom z fuel (k + 1) (fxMul t z / (k + 1))

/-- exp z for z in [0, 1). -/
def fxExp (z : Nat) : Nat := fxExpFrom z 110 0 fxOne

/-- The alternating series of sine and cosine: `t` is z^k / k!, k of one parity. -/
def fxTrigFrom (z2 : Nat) : Nat → Nat → Nat → Bool → Int
  | 0, _, _, _ => 0
  | fuel + 1, k, t, neg =>
    (if neg then -(t : Int) else t) + fxTrigFrom z2 fuel (k + 2) (fxMul t z2 / ((k + 1) * (k + 2))) (!neg)

/-- sin z and cos z for z in [0, pi/2]. -/
def fxSin (z : Nat) : Nat := (fxTrigFrom (fxMul z z) 60 1 z false).toNat
def fxCos (z : Nat) : Nat := (fxTrigFrom (fxMul z z) 60 0 fxOne false).toNat

/-- atanh t for t in [0, 1/3]: `p` is t^(2k+1). -/
def fxAtanhFrom (t2 : Nat) : Nat → Nat → Nat → Nat
  | 0, _, _ => 0
  | fuel + 1, k, p => p / (2 * k + 1) + fxAtanhFrom t2 fuel (k + 1) (fxMul p t2)

/-- A finite magnitude in fixed point; bits below the last are dropped. -/
def fxOf (m : Nat) (e : Int) : Nat := (steps m e (-(fxBits : Int))).1

/-- An inexact fixed-point magnitude, scaled by 2^e, rounded to a format: the sticky bit stands for what lies below. DEDUCED, log entry 21. -/
def fxRound (f : Fmt) (neg : Bool) (x : Nat) (e : Int) : FRes := roundFin f 0 false neg (2 * x + 1) (e - fxBits - 1)

/-- The encoding of 1. -/
def Fmt.one (f : Fmt) : Nat := f.bias.toNat <<< f.frac

/-- EXP2 (R186). -/
def fExp2 (f : Fmt) (x : FVal) : FRes :=
  match x with
  | .nan s => { bits := f.nan, flags := if s then flagNV else 0 }
  | .inf neg => { bits := if neg then 0 else f.infinity }
  | .fin neg m e =>
    if m = 0 then { bits := f.one }
    else if magnitude m e ≥ 12 then
      if neg then roundFin f 0 false false 3 (-5000) else roundFin f 0 false false 3 5000
    else if magnitude m e < -120 then
      -- within 2^-120 of 1
      if neg then roundFin f 0 false false (2 ^ 120 - 1) (-120) else roundFin f 0 false false (2 ^ 120 + 1) (-120)
    else
      let (n, r) := steps m e 0
      if r == .exact then roundFin f 0 false false 1 (if neg then -(n : Int) else n)
      else
        let fr := fxOf m e % fxOne
        if neg then fxRound f false (fxExp (fxMul (fxOne - fr) fxLn2)) (-(n : Int) - 1)
        else fxRound f false (fxExp (fxMul fr fxLn2)) n

/-- LOG2 (R186): log2 of m * 2^e as k + 2 atanh(t) / ln 2, with the mantissa near 1. -/
def fLog2 (f : Fmt) (x : FVal) : FRes :=
  match x with
  | .nan s => { bits := f.nan, flags := if s then flagNV else 0 }
  | .inf neg => if neg then { bits := f.nan, flags := flagNV } else { bits := f.infinity }
  | .fin neg m e =>
    if m = 0 then { bits := f.signed true (f.infinity), flags := flagDZ }
    else if neg then { bits := f.nan, flags := flagNV }
    else
      let k0 := magnitude m e
      let one := 2 ^ Nat.log2 m
      if m = one then convert f 0 false (FVal.ofInt k0)
      else
        -- mantissa a/one in (1, 2), halved when above 3/2 so that the logarithm does not cancel
        let big := decide (3 * one < 2 * m)
        let k : Int := if big then k0 + 1 else k0
        let num := if big then 2 * one - m else m - one
        let den := if big then m + 2 * one else m + one
        let t := (num <<< fxBits) / den
        let l := (2 * fxAtanhFrom (fxMul t t) 260 0 t) <<< fxBits
        let l := l / fxLn2
        let v : Int := k * fxOne + (if big then -(l : Int) else l)
        fxRound f (v < 0) v.natAbs 0

/-- sin(pi x) for x = y / 2^f with y in [0, 2^f / 2], as a fixed-point number. -/
def fxSinPi (r : Nat) : Nat := fxSin (fxMul r fxPi)
def fxCosPi (r : Nat) : Nat := fxCos (fxMul r fxPi)

/-- SINPI and COSPI (R186). -/
def fSinCosPi (f : Fmt) (cosine : Bool) (x : FVal) : FRes :=
  match x with
  | .nan s => { bits := f.nan, flags := if s then flagNV else 0 }
  | .inf _ => { bits := f.nan, flags := flagNV }
  | .fin neg m e =>
    let two := 2 * fxOne
    let tiny := m ≠ 0 ∧ magnitude m e < -120
    -- |x| modulo 2, exact: a value that is not tiny has no bit below 2^-173
    let y := (if e ≥ 1 then 0 else fxOf m e) % two
    let half := fxOne / 2
    let quadrant := y / half
    let r := y % half
    if cosine then
      if tiny then roundFin f 0 false false (2 ^ 120 - 1) (-120)
      else if r = 0 then { bits := if quadrant = 0 then f.one else if quadrant = 2 then f.signed true f.one else 0 }
      else if y < half then fxRound f false (fxCosPi r) 0
      else if quadrant = 1 then fxRound f true (fxSinPi r) 0
      else if quadrant = 2 then fxRound f true (fxCosPi r) 0
      else fxRound f false (fxSinPi r) 0
    else
      let flip := neg != decide (2 ≤ quadrant)
      -- sin y is y less than one part in 2^238
      if tiny then fxRound f neg (fxPi * m - (fxPi * m >>> 230)) e
      else if r = 0 then
        if quadrant % 2 = 0 then { bits := f.signed neg 0 }
        else { bits := f.signed flip f.one }
      else if quadrant % 2 = 0 then fxRound f flip (fxSinPi r) 0
      else fxRound f flip (fxCosPi r) 0

/-- TANH (R186), from exp(2|x|). -/
def fTanh (f : Fmt) (x : FVal) : FRes :=
  match x with
  | .nan s => { bits := f.nan, flags := if s then flagNV else 0 }
  | .inf neg => { bits := f.signed neg f.one }
  | .fin neg m e =>
    if m = 0 then { bits := f.signed neg 0 }
    else if magnitude m e ≥ 5 then roundFin f 0 false neg (2 ^ 120 - 1) (-120)
    else if magnitude m e < -120 then roundFin f 0 false neg ((m <<< 200) - 1) (e - 200)
    else
      let z := 2 * fxOf m e
      let k := z / fxLn2
      let y := fxExp (z % fxLn2) <<< k
      fxRound f neg (((y - fxOne) <<< fxBits) / (y + fxOne)) 0

/-- RCP (R186). -/
def fRcp (f : Fmt) (x : FVal) : FRes := fDiv f (.fin false 1 0) x

/-- RSQ (R186): 1 / sqrt x, the root taken of the exact quotient. -/
def fRsq (f : Fmt) (x : FVal) : FRes :=
  match x with
  | .nan s => { bits := f.nan, flags := if s then flagNV else 0 }
  | .inf neg => if neg then { bits := f.nan, flags := flagNV } else { bits := 0 }
  | .fin neg m e =>
    if m = 0 then { bits := f.signed neg (f.infinity), flags := flagDZ }
    else if neg then { bits := f.nan, flags := flagNV }
    else
      -- 1/sqrt(m 2^e) = sqrt(2^(2j) / (m 2^(e mod 2))) 2^(-j - e div 2)
      let h := e / 2
      let m' := if e % 2 = 0 then m else 2 * m
      let n := (1 <<< 240) / m'
      let r := isqrt n
      let exact := decide (r * r * m' = 1 <<< 240)
      roundFin f 0 false false (2 * r + (if exact then 0 else 1)) (-h - 120 - 1)

end Sys2Proof.Machine
end

