-- ==== Sys2Proof/Machine/Float.lean ====
section
/-! DEFINITION. Floating-point, conversion and special-function instructions (R169 to R191), FMTSET and MODESET (R146, R147). -/

namespace Sys2Proof.Machine

/-! ## Types, rounding codes, FMT -/

/-- The element format of a floating-point type (R169). -/
def floatFmt (t : Nat) : Fmt :=
  match t with
  | 0 => .f32
  | 1 => .f64
  | 2 => .f16
  | _ => .bf16

/-- Elements of a type. -/
def floatElems (t : Nat) : Nat := if t ≤ 1 then 1 else 2

/-- The MODE field of a destination format (R75). -/
def modeField (f : Fmt) : Nat :=
  match f with
  | .f32 | .f64 => 0 | .f16 => 1 | .bf16 => 2 | .e4m3 => 3 | .e5m2 => 4 | .k8 => 5 | .f4 => 6 | .mxint8 => 6

/-- The rounding code and the saturation bit of a MODE field (R75); codes 5 to 7 there are RNE (R69). -/
def modeRound (mode field : Nat) : Nat :=
  let c := mode / 2 ^ (4 * field) % 8
  if 5 ≤ c then 0 else c
def modeSat (mode field : Nat) : Bool := (mode / 2 ^ (4 * field)).testBit 3

/-- rm(c, t): code 7 reads MODE (R117). -/
def Ctx.rm (x : Ctx) (code : Nat) (f : Fmt) : Nat := if code = 7 then modeRound x.mode (modeField f) else code

/-- Fields of FMT (R128). -/
def fmtA (v : Nat) : Nat := v % 16
def fmtB (v : Nat) : Nat := v / 16 % 16
def fmtAcc (v : Nat) : Nat := v / 256 % 4
def fmtScale (v : Nat) : Nat := v / 1024 % 4

/-- Width classes of element codes (R65): 0 16-bit, 1 8-bit float, 2 4-bit, 3 8-bit integer; 4 reserved. -/
def elemClass (c : Nat) : Nat := if c ≤ 1 then 0 else if c ≤ 4 then 1 else if c = 5 then 2 else if c ≤ 8 then 3 else 4

/-- R66: an FMT that its readers reject. -/
def fmtBad (v : Nat) : Bool :=
  let a := elemClass (fmtA v)
  let b := elemClass (fmtB v)
  let isInt (c : Nat) : Bool := elemClass c == 3
  decide (a = 4 ∨ b = 4 ∨ 2 ≤ fmtAcc v ∨ fmtScale v = 3) || decide (a ≠ b) ||
    (fmtAcc v == 0 && ((isInt (fmtA v) && fmtA v != 6) || (isInt (fmtB v) && fmtB v != 6))) ||
    (fmtAcc v == 1 && !(isInt (fmtA v) && isInt (fmtB v))) ||
    (fmtScale v != 0 && (a == 0 || fmtAcc v == 1))

/-- The format of an element code; .i8 and .n8 have none (R65). -/
def elemFmt (c : Nat) : Option Fmt :=
  match c with
  | 0 => some .bf16
  | 1 => some .f16
  | 2 => some .e4m3
  | 3 => some .e5m2
  | 4 => some .k8
  | 5 => some .f4
  | 6 => some .mxint8
  | _ => none

/-- Bits of an element. -/
def elemBits (c : Nat) : Nat := if c ≤ 1 then 16 else if c = 5 then 4 else 8

/-- The value of an element: .i8 and .n8 as integers. -/
def elemValue (c bits : Nat) : FVal :=
  match elemFmt c with
  | some f => f.value bits
  | none => FVal.ofInt (intOf (c = 7) 8 bits)

/-- The MODE field that a conversion to an element consults (R181). -/
def elemModeField (c : Nat) : Nat :=
  match elemFmt c with
  | some f => modeField f
  | none => 7

/-- A value converted to an element (R181, R183). -/
def toElem (c mode : Nat) (sat : Bool) (v : FVal) : FRes :=
  match elemFmt c with
  | some f => convert f mode sat v
  | none => toInt (c = 7) 8 mode sat v

/-- The value times 2^k, exactly. -/
def FVal.scale (v : FVal) (k : Int) : FVal :=
  match v with
  | .fin n m e => .fin n m (e + k)
  | v => v

/-! ## Arithmetic on elements -/

/-- Element `k` of an operand of a type. -/
def floatElem (t k bits : Nat) : Nat := if t ≤ 1 then bits else bits / 2 ^ (16 * k) % 2 ^ 16

/-- Results of the elements put together, with their flags. -/
def packElems (t : Nat) (r : Nat → FRes) : FRes :=
  if t ≤ 1 then r 0
  else { bits := (r 0).bits + 2 ^ 16 * (r 1).bits, flags := (r 0).flags ||| (r 1).flags }

/-- The type of an instruction of this chapter. -/
def Ctx.fty (x : Ctx) : Nat := x.f.mb 2 0

/-- An operand of the instruction's type; an f64 literal is read as f32 (R171). -/
def Ctx.rdFloat (x : Ctx) (code : BitVec 8) (p : Nat) : Nat := x.rd code (floatRegs x.fty) p .float

/-- The result of an instruction of the type. -/
def Ctx.outFloat (x : Ctx) (p : Nat) (r : FRes) : Out :=
  { regs := [(p, x.f.dst.toNat, floatRegs x.fty, r.bits)], flags := r.flags }

/-- A two-operand operation per element. -/
def floatOp2 (op : Fmt → Nat → Nat → Nat → FRes) (x : Ctx) (p : Nat) : Out :=
  let t := x.fty
  let f := floatFmt t
  let a := x.rdFloat x.f.srcA p
  let b := x.rdFloat x.f.srcB p
  x.outFloat p (packElems t (fun k => op f (x.rm (x.f.mb 5 3) f) (floatElem t k a) (floatElem t k b)))

def computeFadd (x : Ctx) (p : Nat) : Out := floatOp2 (fun f m a b => fAdd f m (f.value a) (f.value b)) x p
def computeFsub (x : Ctx) (p : Nat) : Out := floatOp2 (fun f m a b => fAdd f m (f.value a) (f.value b).negate) x p
def computeFmul (x : Ctx) (p : Nat) : Out := floatOp2 (fun f m a b => fMul f m (f.value a) (f.value b)) x p

def computeFfma (x : Ctx) (p : Nat) : Out :=
  let t := x.fty
  let f := floatFmt t
  let a := x.rdFloat x.f.srcA p
  let b := x.rdFloat x.f.srcB p
  let c := x.rdFloat x.f.srcC p
  x.outFloat p (packElems t (fun k =>
    let cv := f.value (floatElem t k c)
    fFma f (x.rm (x.f.mb 5 3) f) (x.f.mb 6 6 == 1) (f.value (floatElem t k a)) (f.value (floatElem t k b))
      (if x.f.mb 7 7 = 1 then cv.negate else cv)))

def computeFmin (x : Ctx) (p : Nat) : Out := floatOp2 (fun f _ a b => fMinMax f false (x.f.mb 6 6 == 1) a b) x p
def computeFmax (x : Ctx) (p : Nat) : Out := floatOp2 (fun f _ a b => fMinMax f true (x.f.mb 6 6 == 1) a b) x p

/-- R174: the conditions of FCMP. -/
def floatCond (c : Nat) (a b : FVal) : Bool :=
  let o := cmpVal a b
  match c with
  | 0 => o == some .eq
  | 1 => o != some .eq
  | 2 => o == some .lt
  | 3 => o == some .lt || o == some .eq
  | 4 => o == some .gt
  | 5 => o == some .gt || o == some .eq
  | 6 => o.isNone
  | _ => o.isSome

def computeFcmp (x : Ctx) (p : Nat) : Out :=
  let f := floatFmt x.fty
  let a := f.value (x.rdFloat x.f.srcA p)
  let b := f.value (x.rdFloat x.f.srcB p)
  let nv := a.isSnan || b.isSnan || (x.f.mb 6 6 == 1 && (cmpVal a b).isNone)
  { preds := [(p, x.f.dst.toNat, combine x.f (floatCond (x.f.mb 5 3) a b) (x.pd p (x.f.srcC.toNat % 8)))],
    flags := if nv then flagNV else 0 }

/-- R175: the class of a value, by bit number. -/
def fclassBit (f : Fmt) (v : FVal) : Nat :=
  match v with
  | .nan s => if s then 8 else 9
  | .inf n => if n then 0 else 7
  | .fin n m e =>
    let sub := decide (magnitude m e < 1 - f.bias)
    if m = 0 then (if n then 3 else 4) else if sub then (if n then 2 else 5) else if n then 1 else 6

def computeFclass (x : Ctx) (p : Nat) : Out :=
  let f := floatFmt x.fty
  x.out p 1 (2 ^ fclassBit f (f.value (x.rdFloat x.f.srcA p)))

/-- R176: rounds to an integral value. -/
def fRound (f : Fmt) (mode : Nat) (exact : Bool) (bits : Nat) : FRes :=
  match f.value bits with
  | .nan s => { bits := f.nan, flags := if s then flagNV else 0 }
  | .inf _ => { bits := bits }
  | .fin n m e =>
    let (k, r) := steps m e 0
    let k' := if roundsUp mode n (k % 2 = 1) r then k + 1 else k
    { bits := (roundFin f 0 false n k' 0).bits, flags := if exact && r != .exact then flagNX else 0 }

def computeFrnd (x : Ctx) (p : Nat) : Out :=
  let t := x.fty
  let f := floatFmt t
  let a := x.rdFloat x.f.srcA p
  x.outFloat p (packElems t (fun k => fRound f (x.rm (x.f.mb 5 3) f) (x.f.mb 6 6 == 1) (floatElem t k a)))

/-- R177: a times 2^n. An exponent far outside every format's range is cut to one that is as far outside. -/
def fScale (f : Fmt) (mode : Nat) (bits : Nat) (n : Int) : FRes :=
  match f.value bits with
  | .nan s => { bits := f.nan, flags := if s then flagNV else 0 }
  | .inf _ => { bits := bits }
  | .fin neg m e => roundFin f mode false neg m (e + max (-5000) (min 5000 n))

def computeFscale (x : Ctx) (p : Nat) : Out :=
  let t := x.fty
  let f := floatFmt t
  let a := x.rdFloat x.f.srcA p
  let b := x.b 1 p
  let n (k : Nat) : Int := if t ≤ 1 then intOf true 32 b else intOf true 16 (b / 2 ^ (16 * k))
  x.outFloat p (packElems t (fun k => fScale f (x.rm (x.f.mb 5 3) f) (floatElem t k a) (n k)))

def computeFexp (x : Ctx) (p : Nat) : Out :=
  match (floatFmt x.fty).value (x.rdFloat x.f.srcA p) with
  | .nan _ => (x.out p 1 0x80000000).append { flags := flagNV }
  | .inf _ => (x.out p 1 0x7FFFFFFF).append { flags := flagNV }
  | .fin _ m e => if m = 0 then (x.out p 1 0x80000000).append { flags := flagNV } else x.out p 1 (wrapInt 32 (magnitude m e))

/-! ## CVT (R179 to R181) -/

/-- The type of a side of CVT: .fa with AFMT .i8 or .n8 is that integer type, and its result is extended as one (R180, R149); the rule also
says that a .fa result has its other bits cleared. DESIGN CHOICE, log entry 103. -/
def cvtType (t fmt : Nat) : Nat := if t = 15 ∧ fmtA fmt = 7 then 7 else if t = 15 ∧ fmtA fmt = 8 then 6 else t

/-- Bits of a floating-point type of CVT. -/
def cvtBits (t fmt : Nat) : Nat :=
  match t with
  | 8 => 32
  | 9 => 64
  | 10 | 11 => 16
  | _ => elemBits (fmtA fmt)

/-- A conversion to a wider float is exact, and saturation does not apply to it (R72, R181); one between formats of equal width counts as
narrowing. DEDUCED, log entry 93. -/
def cvtWidens (src dst fmt : Nat) : Bool := decide (7 < src ∧ 7 < dst ∧ cvtBits src fmt < cvtBits dst fmt)

/-- The value of a CVT source. -/
def cvtSource (t fmt bits : Nat) : FVal :=
  if t ≤ 7 then FVal.ofInt (numInt t bits)
  else match t with
    | 8 => Fmt.f32.value bits
    | 9 => Fmt.f64.value bits
    | 10 => Fmt.f16.value bits
    | 11 => Fmt.bf16.value bits
    | _ => elemValue (fmtA fmt) bits

/-- How a literal stands for a CVT source. -/
def cvtExt (t : Nat) : LitExt := if t = 9 then .float else if t ≤ 7 then intExt t else .zero

/-- The MODE field of a CVT destination (R181). -/
def cvtModeField (t fmt : Nat) : Nat :=
  if t ≤ 7 then 7
  else match t with
    | 8 | 9 => 0
    | 10 => 1
    | 11 => 2
    | _ => elemModeField (fmtA fmt)

/-- A value delivered as a CVT destination. -/
def cvtDest (t fmt mode : Nat) (sat : Bool) (v : FVal) : FRes :=
  if t ≤ 7 then
    let r := toInt (intSigned t) (intWidth t) mode sat v
    { r with bits := extendInt t r.bits }
  else match t with
    | 8 => convert .f32 mode sat v
    | 9 => convert .f64 mode sat v
    | 10 => convert .f16 mode sat v
    | 11 => convert .bf16 mode sat v
    | _ => toElem (fmtA fmt) mode sat v

/-- Integer to integer: the low bits, or a clamp under saturation. -/
def cvtInts (src dst : Nat) (sat : Bool) (bits : Nat) : Nat :=
  let v := numInt src bits
  extendInt dst (wrapInt (intWidth dst) (if sat then clampInt dst v else v))

def computeCvt (x : Ctx) (p : Nat) : Out :=
  let dst := cvtType (x.f.mb 3 0) x.fmt
  let src := cvtType (x.f.mb 7 4) x.fmt
  let bits := x.a (cvtRegs src) p (cvtExt src)
  let field := cvtModeField dst x.fmt
  let mode := if x.f.mb 10 8 = 7 then modeRound x.mode field else x.f.mb 10 8
  let sat := if x.f.mb 10 8 = 7 then modeSat x.mode field else x.f.mb 11 11 == 1
  if src ≤ 7 ∧ dst ≤ 7 then x.out p (cvtRegs dst) (cvtInts src dst sat bits)
  else
    let r := cvtDest dst x.fmt mode (sat && !cvtWidens src dst x.fmt) (cvtSource src x.fmt bits)
    (x.out p (cvtRegs dst) r.bits).append { flags := r.flags }

/-- R66 at CVT: FMT counts when either type is .fa. An integer-to-integer conversion has no rounding (R181). -/
def lateCvt (x : Ctx) (_ : State) : Late :=
  { illegalInstr := decide (cvtType (x.f.mb 3 0) x.fmt ≤ 7 ∧ cvtType (x.f.mb 7 4) x.fmt ≤ 7) && x.f.mb 10 8 != 0,
    illegalOperand := (x.f.mb 3 0 == 15 || x.f.mb 7 4 == 15) && fmtBad x.fmt }

/-! ## PACK and UNPK (R182 to R184), QSCALE (R185) -/

/-- R66, and the AFMT set of R182. -/
def latePack (ok : List Nat) (x : Ctx) (_ : State) : Late :=
  { illegalOperand := fmtBad x.fmt || !ok.contains (fmtA x.fmt) }

/-- The wide format of a PACK or UNPK field. -/
def wideFmt (sel : Nat) : Fmt := if sel = 0 then .f32 else if sel = 1 then .f16 else .bf16

/-- Element `k` of a wide run: register k of an f32 run, a half of a packed one. -/
def wideElem (sel k run : Nat) : Nat :=
  if sel = 0 then run / 2 ^ (32 * k) % 2 ^ 32 else run / 2 ^ (16 * k) % 2 ^ 16

/-- The scale of PACK: 2^(127 - e), with e = 0xFF making every element a NaN. -/
def packScale (scl : Bool) (e : Nat) (v : FVal) : FVal :=
  if !scl then v else if e = 255 then .nan false else v.scale (127 - e)
def unpackScale (scl : Bool) (e : Nat) (v : FVal) : FVal :=
  if !scl then v else if e = 255 then .nan false else v.scale (e - 127)

/-- Packs `n` elements of a wide run into fields of `w` bits. -/
def packRunBits (x : Ctx) (w run e : Nat) : Nat → FRes
  | 0 => { bits := 0 }
  | n + 1 =>
    let lower := packRunBits x w run e n
    let sel := x.f.mb 5 4
    let c := fmtA x.fmt
    let dyn := x.f.mb 2 0 = 7
    let mode := if dyn then modeRound x.mode (elemModeField c) else x.f.mb 2 0
    let sat := if dyn then modeSat x.mode (elemModeField c) else x.f.mb 3 3 == 1
    let r := toElem c mode sat (packScale (x.f.mb 6 6 == 1) e ((wideFmt sel).value (wideElem sel n run)))
    { bits := lower.bits + 2 ^ (w * n) * (r.bits % 2 ^ w), flags := lower.flags ||| r.flags }

/-- DEDUCED, log entry 20. A literal fills a source run of two registers with zeros above it. DESIGN CHOICE, log entry 103. -/
def computePack8 (x : Ctx) (p : Nat) : Out :=
  let run := x.a (packRun false (x.f.mb 5 4)) p
  let r := packRunBits x 8 run (x.b 1 p % 256) 4
  (x.out p 1 r.bits).append { flags := r.flags }

def computePack4 (x : Ctx) (p : Nat) : Out :=
  let sel := x.f.mb 5 4
  let run := x.a 4 p + (if sel = 0 then 2 ^ 128 * x.b 4 p else 0)
  let r := packRunBits x 4 run (x.c 1 p % 256) 8
  (x.out p 1 r.bits).append { flags := r.flags }

/-- Widens `n` fields of `w` bits from field `first` on. -/
def unpackRunBits (x : Ctx) (w word e first : Nat) : Nat → FRes
  | 0 => { bits := 0 }
  | n + 1 =>
    let lower := unpackRunBits x w word e first n
    let sel := x.f.mb 5 4
    let f := wideFmt sel
    let v := elemValue (fmtA x.fmt) (word / 2 ^ (w * (first + n)) % 2 ^ w)
    let r := convert f (x.rm (x.f.mb 2 0) f) false (unpackScale (x.f.mb 6 6 == 1) e v)
    { bits := lower.bits + 2 ^ (f.bits * n) * r.bits, flags := lower.flags ||| r.flags }

def computeUnpk8 (x : Ctx) (p : Nat) : Out :=
  let r := unpackRunBits x 8 (x.a 1 p) (x.b 1 p % 256) 0 4
  (x.out p (packRun false (x.f.mb 5 4)) r.bits).append { flags := r.flags }

def computeUnpk4 (x : Ctx) (p : Nat) : Out :=
  let wide := x.f.mb 5 4 = 0
  let r := unpackRunBits x 4 (x.a 1 p) (x.b 1 p % 256) (if wide ∧ x.f.mb 7 7 = 1 then 4 else 0) (if wide then 4 else 8)
  (x.out p 4 r.bits).append { flags := r.flags }

/-- emax of R185. -/
def elemEmax (c : Nat) : Int :=
  match c with
  | 2 => 8 | 3 => 15 | 4 => 6 | 5 => 2 | _ => 0

/-- The largest finite magnitude of an element, as m * 2^e. -/
def elemLargest (c : Nat) : Nat × Int :=
  match c with
  | 2 => (448, 0) | 3 => (57344, 0) | 4 => (64, 0) | 5 => (6, 0) | _ => (127, -6)

/-- .fit: a * 2^(127 - e) is at most the largest finite value. -/
def scaleFits (m : Nat) (g : Int) (c e : Nat) : Bool :=
  let (lm, le) := elemLargest c
  (addFin false m (g + 127 - e) true lm le).1 ≤ 0

/-- The smallest code from `e` on that fits, or 254. -/
def fitFrom (m : Nat) (g : Int) (c : Nat) : Nat → Nat → Nat
  | 0, e => e
  | fuel + 1, e => if scaleFits m g c e then e else fitFrom m g c fuel (e + 1)

/-- R185; its last line limits the 0xFF of a NaN or an infinity to 254 too. DEDUCED, log entry 94. -/
def qscaleValue (c : Nat) (fit : Bool) (bits : Nat) : FRes :=
  match Fmt.f32.value (bits % 2 ^ 31) with
  | .nan s => { bits := 254, flags := if s then flagNV else 0 }
  | .inf _ => { bits := 254 }
  | .fin _ m e =>
    if m = 0 then { bits := 0 }
    else if fit then { bits := fitFrom m e c 254 0 }
    else { bits := (max 0 (min 254 (magnitude m e - elemEmax c + 127))).toNat }

def computeQscale (x : Ctx) (p : Nat) : Out :=
  let r := qscaleValue (fmtA x.fmt) (x.f.mb 0 0 == 1) (x.a 1 p)
  (x.out p 1 r.bits).append { flags := r.flags }

/-! ## Setting FMT and MODE (R146, R147) -/

/-- Writes FMT of a group; an instruction sees it from t + 2. -/
def Warp.writeFmt (w : Warp) (mask : BitVec 8) (cyc : Nat) (v : Nat) : Warp :=
  let old := ((List.range 8).filter (inMask mask)).map (fun k =>
    ({ code := 264, lane := k, old := (w.slice k).fmt.toNat, due := cyc + 2 } : Undelivered))
  { w.setFmt mask (BitVec.ofNat 12 v) with
    undelivered := old ++ w.undelivered.filter (fun u => decide (cyc < u.due ∧ ¬(u.code = 264 ∧ inMask mask u.lane = true))) }

/-- Writes a special register of `code` 512 + n through `set`; readers see it from t + 2 (R147, R439). -/
def Warp.writeSpecial (w : Warp) (n cyc old : Nat) (set : Warp → Warp) : Warp :=
  let w1 := set w
  { w1 with
    undelivered := { code := 512 + n, lane := scalarLane, old := old, due := cyc + 2 } ::
      w1.undelivered.filter (fun u => decide (cyc < u.due ∧ u.code ≠ 512 + n)) }

/-- FMTSET (R146). -/
def effFmtset (x : Ctx) (s : State) : State :=
  if x.lanes.isEmpty then s.complete x
  else (s.modWarp x.core x.slot (fun w => w.writeFmt x.mask x.cyc (x.a 1 scalarLane % 2 ^ 12))).complete x

/-- R147: the fields that a mask names, 0 meaning all. -/
def modeMerge (old v mask : Nat) : Nat → Nat
  | 0 => 0
  | i + 1 => modeMerge old v mask i + 2 ^ (4 * i) * ((if mask = 0 ∨ mask.testBit i then v else old) / 2 ^ (4 * i) % 16)

def effModeset (x : Ctx) (s : State) : State :=
  if x.lanes.isEmpty then s.complete x
  else
    let old := x.mode
    let new := modeMerge x.w.mode.toNat (x.a 1 scalarLane) (x.f.mb 7 0) 8
    (s.modWarp x.core x.slot (fun w =>
      (w.writeSpecial 9 x.cyc w.mode.toNat (fun w => { w with mode := BitVec.ofNat 32 new })).deliver x.cyc x.draw 2
        (x.out scalarLane 1 old))).complete x

/-! ## The meanings -/

/-- The latency of the floating-point block (R108, R170). -/
def floatLat (f : LX) : Nat := if f.mb 2 0 = 1 then 8 else 4

def execFadd (f : LX) (s : State) : Result := issue (.fadd f) noLate (classF (floatLat f) computeFadd) s
def execFsub (f : LX) (s : State) : Result := issue (.fsub f) noLate (classF (floatLat f) computeFsub) s
def execFmul (f : LX) (s : State) : Result := issue (.fmul f) noLate (classF (floatLat f) computeFmul) s
def execFfma (f : LX) (s : State) : Result := issue (.ffma f) noLate (classF (floatLat f) computeFfma) s
def execFmin (f : LX) (s : State) : Result := issue (.fmin f) noLate (classF (floatLat f) computeFmin) s
def execFmax (f : LX) (s : State) : Result := issue (.fmax f) noLate (classF (floatLat f) computeFmax) s
def execFcmp (f : LX) (s : State) : Result := issue (.fcmp f) noLate (classF (floatLat f) computeFcmp) s
def execFclass (f : LX) (s : State) : Result := issue (.fclass f) noLate (classF (floatLat f) computeFclass) s
def execFrnd (f : LX) (s : State) : Result := issue (.frnd f) noLate (classF (floatLat f) computeFrnd) s
def execFscale (f : LX) (s : State) : Result := issue (.fscale f) noLate (classF (floatLat f) computeFscale) s
def execFexp (f : LX) (s : State) : Result := issue (.fexp f) noLate (classF (floatLat f) computeFexp) s
def execCvt (f : LX) (s : State) : Result := issue (.cvt f) lateCvt (classF 4 computeCvt) s
def execPack8 (f : LX) (s : State) : Result := issue (.pack8 f) (latePack [2, 3, 4, 6, 7, 8]) (classF 4 computePack8) s
def execUnpk8 (f : LX) (s : State) : Result := issue (.unpk8 f) (latePack [2, 3, 4, 6, 7, 8]) (classF 4 computeUnpk8) s
def execPack4 (f : LX) (s : State) : Result := issue (.pack4 f) (latePack [5]) (classF 4 computePack4) s
def execUnpk4 (f : LX) (s : State) : Result := issue (.unpk4 f) (latePack [5]) (classF 4 computeUnpk4) s
def execQscale (f : LX) (s : State) : Result := issue (.qscale f) (latePack [2, 3, 4, 5, 6]) (classF 4 computeQscale) s
def execFmtset (f : LX) (s : State) : Result := issue (.fmtset f) noLate effFmtset s
def execFmtsetS (f : SF) (s : State) : Result := issue (.fmtsetS f) noLate effFmtset s
def execModeset (f : LX) (s : State) : Result := issue (.modeset f) noLate effModeset s

/-- A special function of one operand (R186). -/
def computeSfu (fn : Fmt → FVal → FRes) (x : Ctx) (p : Nat) : FRes :=
  let f := floatFmt x.fty
  fn f (f.value (x.rdFloat x.f.srcA p))

/-- A special function in the SFU queue: latencies for .f32 and .f64. -/
def sfu (l32 l64 : Nat) (fn : Fmt → FVal → FRes) (x : Ctx) (s : State) : State :=
  classQ false (if x.fty = 1 then l64 else l32) (floatRegs x.fty) (computeSfu fn) x s

/-- DEDUCED, log entry 24. -/
def execRcp (f : LX) (s : State) : Result := issue (.rcp f) noLate (sfu 18 32 fRcp) s
def execRsq (f : LX) (s : State) : Result := issue (.rsq f) noLate (sfu 20 34 fRsq) s
def execSqrt (f : LX) (s : State) : Result := issue (.sqrt f) noLate (sfu 20 34 fSqrt) s
def execExp2 (f : LX) (s : State) : Result := issue (.exp2 f) noLate (sfu 22 36 fExp2) s
def execLog2 (f : LX) (s : State) : Result := issue (.log2 f) noLate (sfu 22 36 fLog2) s
def execSinpi (f : LX) (s : State) : Result := issue (.sinpi f) noLate (sfu 24 38 (fun f v => fSinCosPi f false v)) s
def execCospi (f : LX) (s : State) : Result := issue (.cospi f) noLate (sfu 24 38 (fun f v => fSinCosPi f true v)) s
def execTanh (f : LX) (s : State) : Result := issue (.tanh f) noLate (sfu 26 40 fTanh) s

def computeFdiv (x : Ctx) (p : Nat) : FRes :=
  let f := floatFmt x.fty
  fDiv f (f.value (x.rdFloat x.f.srcA p)) (f.value (x.rdFloat x.f.srcB p))

def execFdiv (f : LX) (s : State) : Result :=
  issue (.fdiv f) noLate (classQ true (if f.mb 2 0 = 1 then 38 else 24) (floatRegs (f.mb 2 0)) computeFdiv) s
def execFsqrt (f : LX) (s : State) : Result :=
  issue (.fsqrt f) noLate (classQ true (if f.mb 2 0 = 1 then 34 else 20) (floatRegs (f.mb 2 0)) (computeSfu fSqrt)) s

end Sys2Proof.Machine
end

