-- ==== Sys2Proof/Machine/Lanes.lean ====
section
/-! DEFINITION. Cross-lane, key and string instructions (R192 to R220), but for WFUSE and SLD. -/

namespace Sys2Proof.Machine

/-! ## Participants (R192) -/

/-- Where a result common to all participants goes: once to a scalar destination, else to each (R193). -/
def Ctx.spread (x : Ctx) (n value : Nat) : Out :=
  if x.scalarPath then x.out scalarLane n value else Out.ofList (x.lanes.map (fun l => x.out l n value))

/-- Writes a predicate in every participant. -/
def Ctx.spreadPred (x : Ctx) (v : Bool) : Out := { preds := x.lanes.map (fun l => (l, x.f.dst.toNat, v)) }

/-- The participant with an LID. -/
def Ctx.byLid (x : Ctx) (lid : Nat) : Option Nat := x.lanes.find? (fun l => decide (x.lid l = lid))

/-! ## SHFL (R195) -/

/-- The source LID of a lane and whether it is valid. -/
def shflSource (mode w i b : Nat) : Option Nat :=
  let g := i - i % w
  match mode with
  | 0 => some (g + b % w)
  | 1 => if g + b ≤ i then some (i - b) else none
  | 2 => if i + b < g + w then some (i + b) else none
  | _ => some (g + (i ^^^ b) % w)

/-- Segment widths (R195). -/
def segWidth (code : Nat) : Nat := 32 / 2 ^ code

def computeShfl (x : Ctx) : Out :=
  let n := 1 + x.f.mb 8 8
  let q := x.f.mb 7 5
  Out.ofList (x.lanes.map (fun l =>
    let src := (shflSource (x.f.mb 1 0) (segWidth (x.f.mb 4 2)) (x.lid l) (x.b 1 l)).bind x.byLid
    (x.out l n (x.a n (src.getD l))).append { preds := if q = 0 then [] else [(l, q, src.isSome)] }))

/-! ## VOTE and ELECT (R196, R197) -/

def computeVote (x : Ctx) : Out :=
  let v (l : Nat) : Bool := x.pd l x.f.srcA.toNat != (x.f.mb 2 2 == 1)
  match x.f.mb 1 0 with
  | 0 => x.spreadPred (x.lanes.all v)
  | 1 => x.spreadPred (x.lanes.any v)
  | 2 => x.spreadPred (x.lanes.all v || !x.lanes.any v)
  | _ => if x.lanes.isEmpty then {} else x.spread 1 (maskOf ((x.lanes.filter v).map x.lid))

def computeElect (x : Ctx) : Out :=
  { preds := x.lanes.map (fun l => (l, x.f.dst.toNat, decide (some l = x.lanes.head?))) }

/-! ## REDUX and SCAN (R198 to R200, R83, R84) -/

/-- One combining step of an integer operation on `w` bits. -/
def laneOpInt (op t a b : Nat) : Nat :=
  let w := intWidth t
  match op with
  | 0 => (a + b) % 2 ^ w
  | 1 => if numInt t b < numInt t a then b else a
  | 2 => if numInt t a < numInt t b then b else a
  | 3 => a &&& b
  | 4 => a ||| b
  | _ => a ^^^ b

/-- One combining step of a floating operation: .fadd with RNE, .fmin, .fmax, .famax. -/
def laneOpFloat (op : Nat) (f : Fmt) (a b : Nat) : FRes :=
  match op with
  | 6 => fAdd f 0 (f.value a) (f.value b)
  | 7 => fMinMax f false false a b
  | 8 => fMinMax f true false a b
  | _ => fAMax f a b

/-- The result for one participant alone (R199). -/
def laneSingle (op : Nat) (f : Fmt) (a : Nat) : FRes :=
  match f.value a with
  | .nan s => { bits := f.nan, flags := if s then flagNV else 0 }
  | _ => { bits := if op = 9 then a % 2 ^ (f.bits - 1) else a }

/-- A combining step with accumulated flags. -/
def stepFloat (op : Nat) (f : Fmt) (a b : FRes) : FRes :=
  let r := laneOpFloat op f a.bits b.bits
  { r with flags := r.flags ||| a.flags ||| b.flags }

/-- One level of R83: neighbours added, an odd last element passed on. -/
def pairLevel (op : Nat) (f : Fmt) : List FRes → List FRes
  | a :: b :: t => stepFloat op f a b :: pairLevel op f t
  | l => l

/-- Levels until one value remains. -/
def pairTree (op : Nat) (f : Fmt) : Nat → List FRes → FRes
  | 0, l => l.headD { bits := 0 }
  | fuel + 1, l => if l.length ≤ 1 then l.headD { bits := 0 } else pairTree op f fuel (pairLevel op f l)

/-- The values in order, each under the single-participant rule where it stays alone. -/
def reduxFloat (op : Nat) (f : Fmt) (l : List Nat) : FRes :=
  match l with
  | [a] => laneSingle op f a
  | l => pairTree op f 6 (l.map (fun a => { bits := a }))

def reduxInt (op t : Nat) (l : List Nat) : Nat :=
  match l with
  | [] => 0
  | a :: r => r.foldl (laneOpInt op t) a

/-- Element type and registers of REDUX and SCAN. -/
def Ctx.laneFloat (x : Ctx) : Bool := decide (6 ≤ x.f.mb 3 0)
def Ctx.laneRegs (x : Ctx) : Nat := if x.laneFloat then floatRegs (x.f.mb 7 4) else intRegs (x.f.mb 7 4)
def Ctx.laneValue (x : Ctx) (l : Nat) : Nat :=
  x.a x.laneRegs l (if x.laneFloat then .float else intExt (x.f.mb 7 4))

def computeRedux (x : Ctx) : Out :=
  if x.lanes.isEmpty then {}
  else
    let op := x.f.mb 3 0
    let t := x.f.mb 7 4
    let l := x.lanes.map x.laneValue
    if x.laneFloat then
      let r := reduxFloat op (floatFmt t) l
      (x.spread x.laneRegs r.bits).append { flags := r.flags }
    else x.spread x.laneRegs (reduxInt op t l)

/-- Inclusive results in order. -/
def scanInt (op t : Nat) : Option Nat → List Nat → List Nat
  | _, [] => []
  | acc, a :: r =>
    let v := match acc with
      | none => a
      | some p => laneOpInt op t p a
    v :: scanInt op t (some v) r

def scanFloat (op : Nat) (f : Fmt) : Option FRes → List Nat → List FRes
  | _, [] => []
  | acc, a :: r =>
    let v := match acc with
      | none => laneSingle op f a
      | some p => stepFloat op f p { bits := a }
    v :: scanFloat op f (some v) r

/-- The exclusive identities of R198. -/
def laneIdentity (op t : Nat) : Nat :=
  match op with
  | 1 => wrapInt (intWidth t) (intMax t)
  | 2 => wrapInt (intWidth t) (intMin t)
  | 3 => 2 ^ intWidth t - 1
  | 7 => (floatFmt t).infinity
  | 8 => (floatFmt t).signed true (floatFmt t).infinity
  | _ => 0

/-- SCAN (R199). The flags of every inclusive step join FFLAGS, the last one of an exclusive scan among them. DESIGN CHOICE, log entry 89. -/
def computeScan (x : Ctx) : Out :=
  let op := x.f.mb 3 0
  let t := x.f.mb 7 4
  let l := x.lanes.map x.laneValue
  let incl : List FRes := if x.laneFloat then scanFloat op (floatFmt t) none l else (scanInt op t none l).map (fun v => { bits := v })
  let vals := incl.map (·.bits)
  let out := if x.f.mb 8 8 = 1 then laneIdentity op t :: vals.dropLast else vals
  (Out.ofList ((x.lanes.zip out).map (fun e => x.out e.1 x.laneRegs e.2))).append
    { flags := incl.foldl (fun a r => a ||| r.flags) 0 }

/-! ## MATCH, PCOUNT (R201, R202) -/

def computeMatch (x : Ctx) : Out :=
  let n := 1 + x.f.mb 0 0
  let q := x.f.mb 3 1
  Out.ofList (x.lanes.map (fun l =>
    let same := x.lanes.filter (fun j => x.a n j == x.a n l)
    (x.out l 1 (maskOf (same.map x.lid))).append
      { preds := if q = 0 then [] else [(l, q, decide (same.head? = some l))] }))

def computePcount (x : Ctx) : Out :=
  let n := 1 + x.f.mb 1 1
  Out.ofList (x.lanes.map (fun l =>
    let same := x.lanes.filter (fun j => x.a n j == x.a n l)
    x.out l 1 (if x.f.mb 0 0 = 1 then same.length else (same.filter (fun j => decide (x.lid j < x.lid l))).length)))

/-! ## RDLANE, WRLANE (R203) -/

def computeRdlane (x : Ctx) : Out :=
  let n := 1 + x.f.mb 0 0
  if x.lanes.isEmpty then {}
  else x.out scalarLane n (match x.targetLane with
    | some l => x.a n l
    | none => 0)

def computeWrlane (x : Ctx) : Out :=
  let n := 1 + x.f.mb 0 0
  if x.lanes.isEmpty then {}
  else match x.targetLane with
    | some l => x.out l n (x.a n scalarLane)
    | none => {}

/-! ## Keys (R208 to R210) -/

def computeHash (x : Ctx) (p : Nat) : Out :=
  let b := x.b 1 p
  if x.f.mb 0 0 = 0 then x.out p 1 (k32 (x.a 1 p) b)
  else
    let a := x.a 2 p
    x.out p 1 (k32 (a % 2 ^ 32 ^^^ k32 (a / 2 ^ 32) b) (b ^^^ 0x6A09E667))

def computeHashc (x : Ctx) (p : Nat) : Out := x.out p 1 (hashc (x.a 1 p) (x.b 1 p))

def computePart (x : Ctx) (p : Nat) : Out :=
  let h := x.a 1 p
  let b := x.b 1 p
  x.out p 1 (if x.f.mb 0 0 = 1 then h * b / 2 ^ 32 else h / 2 ^ (b % 32) &&& x.c 1 p)

/-! ## Strings (R212, R214 to R219) -/

/-- The bytes of a fragment: 16 bytes, those from the length on 0 (R212). -/
def fragment (run n : Nat) : List Nat := (List.range 16).map (fun k => if k < n then run / 2 ^ (8 * k) % 256 else 0)

/-- Case folding. -/
def toLower (b : Nat) : Nat := if 0x41 ≤ b ∧ b ≤ 0x5A then b + 0x20 else b
def toUpper (b : Nat) : Nat := if 0x61 ≤ b ∧ b ≤ 0x7A then b - 0x20 else b

/-- The first index below `n` at which two fragments differ. -/
def firstDiff (a b : List Nat) (n : Nat) : Option Nat := (List.range n).find? (fun k => a.getD k 0 ≠ b.getD k 0)

/-- R214. -/
def scmpValue (ci : Bool) (ra rb la lb : Nat) : Nat :=
  let fold := fun l : List Nat => if ci then l.map toLower else l
  let a := fold (fragment ra la)
  let b := fold (fragment rb lb)
  let n := min la lb
  match firstDiff a b n with
  | some k => k * 2 ^ 8 + (if a.getD k 0 < b.getD k 0 then 1 else 2)
  | none => n * 2 ^ 8 + (if la = lb then 0 else if la < lb then 1 else 2)

def computeScmp (x : Ctx) (p : Nat) : Out :=
  let c := x.c 1 p
  x.out p 1 (scmpValue (x.f.mb 0 0 == 1) (x.a 4 p) (x.b 4 p) (min (c % 32) 16) (min (c / 2 ^ 8 % 32) 16))

/-- R215: HASHC over the first `k` words. -/
def shashWords (run n h : Nat) : Nat → Nat
  | 0 => h
  | k + 1 => hashc (shashWords run n h k) (numOf ((List.range 4).map (fun j => BitVec.ofNat 8 ((fragment run n).getD (4 * k + j) 0))))

def shashValue (part : Bool) (run n h : Nat) : Nat :=
  let r := shashWords run n h ((n + 3) / 4)
  if part then r else k32 (r ^^^ n) 0

def computeShash (x : Ctx) (p : Nat) : Out :=
  x.out p 1 (shashValue (x.f.mb 0 0 == 1) (x.a 4 p) (min (x.b 1 p) 16) (x.c 1 p))

def computeSfind (x : Ctx) (p : Nat) : Out :=
  let n := min (x.c 1 p) 16
  let fr := fragment (x.a 4 p) n
  let hits := (List.range n).filter (fun k => decide (fr.getD k 0 = x.b 1 p % 256))
  x.out p 1 ((if x.f.mb 0 0 = 1 then hits.getLast? else hits.head?).getD 0xFFFFFFFF)

def computeSpfx (x : Ctx) (p : Nat) : Out :=
  let fr := fragment (x.a 4 p) (min (x.b 1 p) 16)
  let fr := if x.f.mb 0 0 = 1 then fr.map toUpper else fr
  x.out p 2 ((List.range 8).foldl (fun key k => key * 256 + fr.getD k 0) 0)

/-- The length that a UTF-8 lead byte names; 0 for a byte that leads nothing (R218). -/
def utfLength (b : Nat) : Nat :=
  if b < 0x80 then 1
  else if 0xC2 ≤ b ∧ b ≤ 0xDF then 2
  else if 0xE0 ≤ b ∧ b ≤ 0xEF then 3
  else if 0xF0 ≤ b ∧ b ≤ 0xF4 then 4
  else 0

/-- A continuation byte that may stand `k` places after the lead byte (R218). -/
def utfContinues (lead k b : Nat) : Bool :=
  if k = 1 then
    match lead with
    | 0xE0 => decide (0xA0 ≤ b ∧ b ≤ 0xBF)
    | 0xED => decide (0x80 ≤ b ∧ b ≤ 0x9F)
    | 0xF0 => decide (0x90 ≤ b ∧ b ≤ 0xBF)
    | 0xF4 => decide (0x80 ≤ b ∧ b ≤ 0x8F)
    | _ => decide (0x80 ≤ b ∧ b ≤ 0xBF)
  else decide (0x80 ≤ b ∧ b ≤ 0xBF)

/-- R218: scans from byte `i` on; `count` code points end before it. -/
def utfScan (fr : List Nat) (n : Nat) : Nat → Nat → Nat → Nat
  | 0, i, count => i * 2 ^ 8 + count
  | fuel + 1, i, count =>
    if n ≤ i then i * 2 ^ 8 + count
    else
      let lead := fr.getD i 0
      let len := utfLength lead
      if len = 0 then 2 ^ 31 + i * 2 ^ 8 + count
      else
        let ok := (List.range len).all (fun k => decide (k = 0) || decide (n ≤ i + k) || utfContinues lead k (fr.getD (i + k) 0))
        if !ok then 2 ^ 31 + i * 2 ^ 8 + count
        else if n < i + len then i * 2 ^ 8 + count
        else utfScan fr n fuel (i + len) (count + 1)

def computeSutf (x : Ctx) (p : Nat) : Out :=
  let n := min (x.b 1 p) 16
  x.out p 1 (utfScan (fragment (x.a 4 p) n) n 17 0 0)

def computeScase (x : Ctx) (p : Nat) : Out :=
  let n := min (x.b 1 p) 16
  let fold := if x.f.mb 0 0 = 1 then toUpper else toLower
  x.out p 4 (numOf ((fragment (x.a 4 p) n).map (fun b => BitVec.ofNat 8 (fold b))))

/-! ## The meanings -/

def execShfl (f : LX) (s : State) : Result := issue (.shfl f) noLate (classFAll 6 computeShfl) s
def execVote (f : LX) (s : State) : Result := issue (.vote f) noLate (classFAll 6 computeVote) s
def execRedux (f : LX) (s : State) : Result := issue (.redux f) noLate (classFAll 6 computeRedux) s
def execScan (f : LX) (s : State) : Result := issue (.scan f) noLate (classFAll 6 computeScan) s
def execMatch (f : LX) (s : State) : Result := issue (.matchL f) noLate (classFAll 8 computeMatch) s
def execElect (f : LX) (s : State) : Result := issue (.elect f) noLate (classFAll 6 computeElect) s
def execElectS (f : SF) (s : State) : Result := issue (.electS f) noLate (classFAll 6 computeElect) s
def execRdlane (f : LX) (s : State) : Result := issue (.rdlane f) noLate (classFAll 6 computeRdlane) s
def execWrlane (f : LX) (s : State) : Result := issue (.wrlane f) noLate (classFAll 6 computeWrlane) s
def execPcount (f : LX) (s : State) : Result := issue (.pcount f) noLate (classFAll 8 computePcount) s
def execHash (f : LX) (s : State) : Result := issue (.hash f) noLate (classF 6 computeHash) s
def execHashc (f : LX) (s : State) : Result := issue (.hashc f) noLate (classF 6 computeHashc) s
def execPart (f : LX) (s : State) : Result := issue (.partL f) noLate (classF 6 computePart) s
def execScmp (f : LX) (s : State) : Result := issue (.scmp f) noLate (classF 6 computeScmp) s
def execShash (f : LX) (s : State) : Result := issue (.shash f) noLate (classF 6 computeShash) s
def execSfind (f : LX) (s : State) : Result := issue (.sfind f) noLate (classF 6 computeSfind) s
def execSpfx (f : LX) (s : State) : Result := issue (.spfx f) noLate (classF 6 computeSpfx) s
def execSutf (f : LX) (s : State) : Result := issue (.sutf f) noLate (classF 6 computeSutf) s
def execScase (f : LX) (s : State) : Result := issue (.scase f) noLate (classF 6 computeScase) s

end Sys2Proof.Machine
end

