-- ==== Sys2Proof/Machine/Placement.lean ====
section
/-! DEFINITION. Where lines live: reticles and cores (R5, R11, R409), the hashes of R402, placement entries (R403), channels (R407). -/

namespace Sys2Proof.Machine

/-! ## Reticles and cores -/

def reticleOf (core : Nat) : Nat := core / Config.coresPerReticle
def bankReticle (bank : Nat) : Nat := bank / Config.banksPerReticle

/-- The next reticle on the X-then-Y path (R5). -/
def nextHop (x target : Nat) : Nat :=
  let c := x % Config.reticleColumns
  let ct := target % Config.reticleColumns
  if c < ct then x + 1 else if ct < c then x - 1
  else if x < target then x + Config.reticleColumns else if target < x then x - Config.reticleColumns else x

/-- Position of a core in the 56 by 36 grid (R11). -/
def corePos (core : Nat) : Nat × Nat :=
  let r := reticleOf core
  let l := core % Config.coresPerReticle
  (8 * (r % Config.reticleColumns) + l % 8, 6 * (r / Config.reticleColumns) + l / 8)

/-- The Hilbert index of R409, `s` halving from 32. -/
def hilbertFrom : Nat → Nat → Nat → Nat → Nat → Nat
  | 0, _, _, _, d => d
  | n + 1, s, x, y, d =>
    let rx := if x.testBit (Nat.log2 s) then 1 else 0
    let ry := if y.testBit (Nat.log2 s) then 1 else 0
    let d := d + s * s * (3 * rx ^^^ ry)
    let (x, y) := if ry = 0 then (if rx = 1 then (63 - y, 63 - x) else (y, x)) else (x, y)
    hilbertFrom n (s / 2) x y d

def hilbert (core : Nat) : Nat := hilbertFrom 6 32 (corePos core).1 (corePos core).2 0

/-- The logical number of a live core: its rank among the live cores in ascending index (R409). -/
def logicalNumber (live : List Nat) (core : Nat) : Nat :=
  (live.filter (fun c => decide (hilbert c < hilbert core))).length

/-! ## Banks (R402, R403) -/

/-- A bank; one that nothing has changed is listed, live and empty. -/
def State.bank (s : State) (g : Nat) : Bank := SMap.get {} g s.caldera.banks
def State.modBank (s : State) (g : Nat) (f : Bank → Bank) : State :=
  { s with caldera := { s.caldera with banks := SMap.put g (f (s.bank g)) s.caldera.banks } }

/-- Banks of the module. -/
def bankCount : Nat := Config.reticles * Config.banksPerReticle

/-- The bank at a place of the anchor list: the place among the banks that are not in a rising list of dead ones. -/
def nthLive : NSet → Nat → Nat
  | [], i => i
  | d :: t, i => nthLive t (if d ≤ i then i + 1 else i)

/-- a of R402: the hash of a line's number. -/
def lineHash (line : Nat) : Nat := hashc (line % 2 ^ 32) (line / 2 ^ 32)

/-- Follows the redirections of banks retired in the field (R403). -/
def State.followRedir (s : State) : Nat → Nat → Nat
  | 0, g => g
  | n + 1, g => if (s.bank g).redir then s.followRedir n (s.bank g).target else g

/-- The anchor bank of a line (R402). -/
def State.anchor (s : State) (line : Nat) : Nat :=
  s.followRedir 128 (nthLive s.caldera.dead (lineHash line * (bankCount - s.caldera.dead.length) / 2 ^ 32))

/-- The set within a bank: 96 sets of the line's colour (R402). -/
def setOf (line : Nat) : Nat := 96 * bitsOf line 13 10 + k32 (lineHash line) 0x17 * 96 / 2 ^ 32

/-- The first live bank of a reticle from a number on, wrapping from 127 to 0. -/
def State.liveFrom (s : State) (ret : Nat) : Nat → Nat → Nat
  | 0, b => 128 * ret + b
  | n + 1, b => if (s.bank (128 * ret + b)).live then 128 * ret + b else s.liveFrom ret n ((b + 1) % 128)

/-- The stand-in bank of a line in a reticle (R402, R258). -/
def State.standIn (s : State) (line ret : Nat) : Nat := s.liveFrom ret 128 (k32 (lineHash line) 3 * 128 / 2 ^ 32)

end Sys2Proof.Machine
end

