-- ==== Sys2Proof/Machine/L1.lean ====
section
/-! DEFINITION. The L1 data cache (R252, R253, R473), requests to Caldera, accesses in flight with their path counters (R111, R112, R282), and the release and acquire steps (R283). -/

namespace Sys2Proof.Machine

/-! ## Requests -/

/-- The mark of a warp among the writers of a line: its start order in the quadrant and its slot. -/
def Warp.mark (w : Warp) (slot : Nat) : Nat := 64 * w.age + slot

/-- The stage of a MONW whose check is on its way. -/
def stCheck : Nat := 8

/-- Sends a request to Caldera. A region's tracked read and its intent travel under their own names (R310). -/
def State.send (s : State) (r : Request) : State × Nat :=
  let id := s.caldera.nextRequest
  let e : Instr :=
    match r.kind with
    | .tracked _ => .regionTrackedRead id
    | .intent _ => .writeIntent id
    | _ => .calderaRequest id
  (({ s with
      caldera := { s.caldera with requests := SMap.put id r s.caldera.requests, nextRequest := id + 1 } } : State).push e, id)

/-- What an access waits for: a request of Caldera or one of the Nyrus Link; 0 stands for one that is not sent yet. -/
def needCaldera (id : Nat) : Nat := 2 * id + 2
def needNyrus (id : Nat) : Nat := 2 * id + 1

/-! ## Lines of the L1 -/

/-- The bytes of a 32-byte sector of a line. -/
def sectorMask (sector : Nat) : LineMask := BitVec.ofNat 128 (0xFFFFFFFF <<< (32 * sector))

/-- A tenant's unlocked copy of a line. -/
def L1Line.isCopy (l : L1Line) (tenant line : Nat) : Bool := decide (l.line = line ∧ l.tenant = tenant) && l.lock.isNone

def Core.l1Find (k : Core) (tenant line : Nat) : Option L1Line := k.l1.find? (fun l => l.isCopy tenant line)
def State.l1Find (s : State) (c tenant line : Nat) : Option L1Line := (s.core? c).bind (fun k => k.l1Find tenant line)

/-- The line that a region holds locked. -/
def State.l1Locked (s : State) (c slot line : Nat) : Option L1Line :=
  (s.core? c).bind (fun k => k.l1.find? (fun l => decide (l.line = line ∧ l.lock = some slot)))

/-- Some region of the tenant on the core holds the line locked. -/
def State.l1HeldLocked (s : State) (c tenant line : Nat) : Bool :=
  ((s.core? c).map (fun k => k.l1.any (fun l => decide (l.line = line ∧ l.tenant = tenant) && l.lock.isSome))).getD false

/-- Changes lines of a core's L1; a line without a valid byte that nobody holds locked is gone. -/
def State.modL1 (s : State) (c : Nat) (which : L1Line → Bool) (f : L1Line → L1Line) : State :=
  s.modCore c (fun k =>
    { k with l1 := (k.l1.map (fun l => if which l then f l else l)).filter (fun l => l.lock.isSome || l.valid != 0) })

/-- Makes a line the most recently used one, last accessed under `va`. -/
def State.l1Touch (s : State) (c tenant line va : Nat) : State :=
  s.modCore c (fun k =>
    match k.l1Find tenant line with
    | some l => { k with l1 := { l with va := va } :: k.l1.filter (fun l => !l.isCopy tenant line) }
    | none => k)

/-- The dirty bytes of a line (R328). -/
def L1Line.dirtyCells (l : L1Line) : SMap Byte := lineCells l.line l.dirty l.data

/-- Sends the dirty bytes of a line to Caldera; none where there are none. `by_`: the slot of the warp that causes it (R387), 64 for none. -/
def State.writeBack (s : State) (c by_ : Nat) (l : L1Line) (ack : Bool) : State × List Nat :=
  if l.dirty = 0 then (s, [])
  else
    let (s1, id) := s.send
      { core := c, slot := by_, access := 0, kind := .write false, tenant := l.tenant, line := l.line, sector := 0, hint := l.hint,
        bytes := l.dirtyCells, ack := ack, writers := l.writers, quad := l.quad }
    (s1, [id])

/-- A line whose dirty bytes have been sent: they stay valid and are clean (R253). -/
def L1Line.cleaned (l : L1Line) : L1Line := { l with dirty := 0, writers := [] }

/-- Evicts a line: its dirty bytes are written back, its tag enters the victim tags (R48, R252). -/
def State.l1Evict (s : State) (c by_ : Nat) (l : L1Line) : State :=
  ((s.writeBack c by_ l false).1.modCore c (fun k =>
    { k with l1 := dropFirst (· == l) k.l1 })).modQuad c l.quad (fun q =>
      { q with victims := ((l.line, l.owner) :: q.victims).take Config.victimTags })

/-- A miss of a warp: where a victim tag of its own matches, a lost-locality event (R48). -/
def State.l1Miss (s : State) (c slot line : Nat) : State :=
  let q := quadOf slot
  if (((s.core? c).map (fun k => (k.quad q).victims)).getD []).contains (line, slot) then
    (s.modQuad c q (fun q => { q with victims := dropFirst (· == (line, slot)) q.victims, lost := (q.lost + 1) % 2 ^ 48 })).modWarp
      c slot (fun w => { w with lease := { w.lease with meas := min (w.lease.meas + 16) 2048, run := 0 } })
  else s

/-- Ways that a quadrant owns. -/
def Quad.wayCount (q : Quad) : Nat := popCount q.ways.toNat 8

/-- The ways that a quadrant owns, and the lines that they hold in the set of a line, most recently used first. -/
def Quad.waysOf (q : Quad) : List Nat := (List.range 8).filter (fun w => q.ways.getLsbD w)
def Core.setOf (k : Core) (q line : Nat) : List L1Line :=
  k.l1.filter (fun l => (k.quad q).ways.getLsbD l.way && decide (l.line % Config.l1Sets = line % Config.l1Sets))

/-- Makes a new line, most recently used, in a way of the requesting quadrant: in the lowest free one, else in that of the least
recently used unlocked line, which is evicted. None where every way holds a locked line, or where a region of the tenant
holds the line locked and this is not its own line (R473). DESIGN CHOICE, log entry 45. -/
def State.l1Alloc (s : State) (c slot tenant va line : Nat) (lock : Option Nat) : Option State :=
  let q := quadOf slot
  if lock.isNone && s.l1HeldLocked c tenant line then none
  else
    match s.core? c with
    | none => none
    | some k =>
      let set := k.setOf q line
      let room : Option (State × Nat) :=
        match (k.quad q).waysOf.find? (fun w => !set.any (fun l => decide (l.way = w))) with
        | some w => some (s, w)
        | none => ((set.filter (fun l => l.lock.isNone)).getLast?).map (fun l => (s.l1Evict c slot l, l.way))
      room.map (fun r => r.1.modCore c (fun k =>
        { k with l1 := { line := line, tenant := tenant, va := va, quad := q, way := r.2, owner := slot, lock := lock } :: k.l1 }))

/-- The bytes that a core of a tenant has on their way to a line. -/
def State.onTheWay (s : State) (c tenant line : Nat) : LineMask :=
  s.caldera.requests.foldl (fun m e =>
    match e.2.kind with
    | .write _ =>
      if e.2.core = c ∧ e.2.tenant = tenant ∧ e.2.line = line then m ||| cellsMask line e.2.bytes else m
    | _ => m) 0

/-- Replaces the bytes of a mask. -/
def mergeMask (old new : LineData) (m : LineMask) : LineData :=
  let wide : LineData := BitVec.ofNat 1024 ((List.range 128).foldl (fun a i => if m.getLsbD i then a ||| (0xFF <<< (8 * i)) else a) 0)
  (old &&& ~~~wide) ||| (new &&& wide)

/-- Drops the clean bytes of a mask, those of dirty sectors among them. -/
def L1Line.dropClean (l : L1Line) (m : LineMask) : L1Line := { l with valid := l.valid &&& ~~~(m &&& ~~~l.dirty) }

/-- Fills a sector of a line with the bytes of the primary copy or a replica: bytes that are dirty, or that the core has on
their way, keep what they hold. A poisoned sector keeps its dirty bytes alone, so that each access meets the poison (R273). -/
def State.l1Fill (s : State) (c tenant line sector : Nat) (d : LineData) : State :=
  if s.poison.contains (4 * line + sector) then s.modL1 c (fun l => l.isCopy tenant line) (·.dropClean (sectorMask sector))
  else
    let way := s.onTheWay c tenant line
    s.modL1 c (fun l => l.isCopy tenant line) (fun l =>
      let m := sectorMask sector &&& ~~~l.dirty &&& ~~~way
      { l with data := mergeMask l.data d m, valid := l.valid ||| m, stored := l.stored &&& ~~~m })

/-- Drops the clean bytes of sectors: of a mask of bytes, those whose sector holds no dirty byte (R285). -/
def L1Line.invalidateClean (l : L1Line) (m : LineMask) : L1Line :=
  let keep := (List.range 4).foldl (fun a k => if l.dirty &&& sectorMask k = 0 then a else a ||| sectorMask k) (0 : LineMask)
  { l with valid := l.valid &&& ~~~(m &&& ~~~keep) }

/-! ## Accesses in flight -/

/-- The lanes in which an access writes its destination: those it has parts or values for, for LDF those that wait, for a tile all. -/
def Access.destLanes (a : Access) : List Nat :=
  if 192 ≤ a.dst then [scalarLane]
  else if a.kind = .tile then List.range 32
  else if !a.parts.isEmpty then a.parts.map (·.1)
  else if !a.values.isEmpty then a.values.map (·.1)
  else a.needs.map (· - 1)

/-- Raises the path counter of an access and keeps the access (R111, R282). -/
def Warp.addAccess (w : Warp) (a : Access) : Warp :=
  { w with
    nextAccess := w.nextAccess + 1,
    accesses := w.accesses ++ [a],
    paths := w.paths.set a.path (w.paths.get a.path + 1),
    uncovered := if a.dst < 252 then w.uncovered ++ [{ path := a.path, access := a.id, code := a.dst, regs := a.regs, lanes := a.destLanes }] else w.uncovered }

/-- The predicates that an access will write in some lanes join the destinations that no WAITC covers (R112). -/
def Warp.addPredDests (w : Warp) (path : Path) (id : Nat) (lanes preds : List Nat) : Warp :=
  { w with uncovered := w.uncovered ++ (preds.filter (· ≠ 0)).map (fun n =>
      { path := path, access := id, code := 256 + n, regs := 1, lanes := lanes }) }

def Warp.access? (w : Warp) (id : Nat) : Option Access := w.accesses.find? (fun a => a.id = id)

/-- The number that a lane's bytes of an access hold. -/
def Access.laneBytes (a : Access) (pa n : Nat) : Nat := numOf ((List.range n).map (fun i => SMap.get 0 (pa + i) a.bytes))

/-- Sign extension of `n` bytes to 32 bits (R277). -/
def extendBytes (signed : Bool) (n v : Nat) : Nat :=
  if signed && n < 4 && v.testBit (8 * n - 1) then v + 2 ^ 32 - 2 ^ (8 * n) else v

/-- What a returning access writes: lane, value. -/
def Access.results (a : Access) : List (Nat × Nat) :=
  match a.kind with
  | .load n signed => a.parts.map (fun p => (p.1, extendBytes signed n (a.laneBytes p.2.1 p.2.2)))
  | .stringLoad => (a.parts.map (·.1)).dedup.map (fun l => (l, numOf ((a.parts.filter (fun p => p.1 = l)).flatMap (fun p =>
      bytesOf (a.laneBytes p.2.1 p.2.2) p.2.2))))
  | .plain | .image => []
  | _ => a.values

/-- Writes the registers of an access; one refused under R311 writes none. Until then a read gives the old value and a write of another
instruction is overwritten; from then on a read gives the new value and a write stands (R111). DESIGN CHOICE, log entry 90. -/
def Warp.writeAccess (w : Warp) (a : Access) : Warp :=
  if a.refused then w
  else
    a.preds.foldl (fun w p => w.modLane p.1 (fun l => l.setPred p.2.1 p.2.2))
      (a.results.foldl (fun w r => w.setRun a.dst r.1 r.2 a.regs) w)

/-- The access has returned: its registers are written and its counter falls in issue order. -/
def Warp.returnAccess (w : Warp) (id : Nat) : Warp :=
  match w.access? id with
  | none => w
  | some a =>
    if a.returned then w
    else ((w.writeAccess a).modAccess id (fun a => { a with returned := true })).settlePath a.path

/-- An access of a warp returns; the matrix latches of the registers it writes are cleared (R234). -/
def State.returnAccess (s : State) (c slot : Nat) (a : Access) : State :=
  (s.modWarp c slot (·.returnAccess a.id)).registersWritten c slot a.dst (if a.refused ∨ 192 ≤ a.dst then 0 else a.regs)

/-- A region's read has returned: the region's lower bound rises (R310), and an interval that is empty aborts it at its next
boundary (R316). -/
def State.raiseFloor (s : State) (c slot : Nat) (lo : DWord) : State :=
  match s.warp? c slot with
  | some w =>
    if w.region.active && decide (w.region.alo.toNat < lo.toNat) then
      let s1 := s.modWarp c slot (fun w => { w with region := { w.region with alo := lo } })
      if w.region.ahi.toNat < lo.toNat then s1.abortLater c slot abConflict 0 else s1
    else s
  | none => s

/-- What an instruction reads from another module's memory is there: its group goes on with the words, after the values it has kept (R366,
R442). -/
def Warp.takeImage (w : Warp) (a : Access) : Warp :=
  match a.kind, a.parts with
  | .image, p :: t =>
    { w with groups := w.groups.map (fun g =>
        if g.prog.stage ≠ 0 ∧ g.hold = .event ∧ g.mask = a.mask then
          { g with hold := .none, prog := { g.prog with vals := g.prog.vals ++ (p :: t).flatMap (fun p =>
              (List.range (p.2.2 / 4)).map (fun i => a.laneBytes (p.2.1 + 4 * i) 4)) } }
        else g) }
  | _, _ => w

/-- ACCESS_RETURN (R282): an access that waits for nothing more returns. -/
def execAccessReturn (core slot id : Nat) (s : State) : Result :=
  let s1 := s.taken (.accessReturn core slot id)
  match (s1.warp? core slot).bind (·.access? id) with
  | none => .next s1
  | some a =>
    if a.outstanding then .next s1
    else .next ((((s1.modWarp core slot (·.takeImage a)).returnAccess core slot a).raiseFloor core slot a.alo).pathsFell core slot)

/-- One thing that an access waited for has come. -/
def State.answer (s : State) (c slot id need : Nat) (f : Access → Access) : State :=
  match (s.warp? c slot).bind (·.access? id) with
  | none => s
  | some a =>
    let a1 := f { a with needs := NSet.drop need a.needs }
    let s1 := s.modWarp c slot (fun w => w.modAccess id (fun _ => a1))
    if a1.needs.isEmpty && !a1.needs.contains 0 && a.outstanding then s1.pushOnce (.accessReturn c slot id) else s1

/-- The access waits for nothing: its return is on its way. -/
def State.dueReturn (s : State) (c slot id : Nat) : State :=
  match (s.warp? c slot).bind (·.access? id) with
  | some a => if a.outstanding then s else s.pushOnce (.accessReturn c slot id)
  | none => s

/-- An access has returned, or is no longer there. -/
def Warp.hasReturned (w : Warp) (id : Nat) : Bool := ((w.access? id).map (·.returned)).getD true

/-! ## Release and acquire steps (R283) -/

/-- The domain of a line of the L1. DEDUCED, log entry 33. -/
def State.lineDomain (s : State) (l : L1Line) : Nat := domainOf (s.tenant l.tenant) l.va

/-- A domain is at most another one, and at least RETICLE. -/
def acquires (d dom : Nat) : Bool := domLe dom d && decide (dom ≠ domCore)

/-- Writes back the dirty lines of a tenant on a core whose domain is `d` or narrower; write-backs that are on their way
are waited for as well. -/
def State.writeBackDomain (s : State) (c by_ tenant d : Nat) : State × NSet :=
  match s.core? c with
  | none => (s, [])
  | some k =>
    let mine := k.l1.filter (fun l => decide (l.tenant = tenant ∧ l.dirty ≠ 0) && l.lock.isNone && domLe (s.lineDomain l) d)
    let s1 := mine.foldl (fun s l => (s.writeBack c by_ l true).1) s
    let s2 := s1.modL1 c (fun l => mine.contains l) L1Line.cleaned
    let ids := (s2.caldera.requests.filter (fun e =>
      match e.2.kind with
      | .write _ => decide (e.2.core = c ∧ e.2.tenant = tenant)
      | _ => false)).map Prod.fst
    let s3 : State := { s2 with
      caldera := { s2.caldera with
        requests := s2.caldera.requests.map (fun e => if ids.contains e.1 then (e.1, { e.2 with ack := true }) else e) } }
    (s3, ids)

/-- The acquire steps at a domain: clean sectors of the tenant's lines are invalidated (R253), with the clean bytes of their dirty
sectors (R336). DEDUCED, log entry 96. -/
def State.acquire (s : State) (c tenant d : Nat) : State :=
  if d = domCore then s
  else
    s.modL1 c (fun l => decide (l.tenant = tenant) && l.lock.isNone && acquires d (s.lineDomain l))
      (fun l => l.dropClean (~~~0))

def State.acquireAll (s : State) (c tenant : Nat) (doms : List Nat) : State :=
  doms.foldl (fun s d => s.acquire c tenant d) s

/-- The domains in ascending order, each once. -/
def domOrder (l : List Nat) : List Nat := [domCore, domReticle, domDevice, domHost, domPeer].filter (l.contains ·)

/-- What a release needs done next: to wait, or nothing more. -/
inductive Release where
  | wait (s : State) (h : Hold) (p : Progress)
  | done (s : State)

/-- Paths that a release waits for. -/
def releasePath : Path → Bool
  | .xen => false
  | _ => true

/-- Accesses that the warp has issued and that a release waits for. -/
def Warp.released (w : Warp) : NSet := (w.accesses.filter (fun a => releasePath a.path && !a.returned)).map (·.id)

/-- The stages of a release: waiting for accesses, for write-backs, for collapses. -/
def stReturns : Nat := 1
def stAcks : Nat := 2
def stCollapses : Nat := 3

/-- Step 3, then the steps of the next domain. `any`: the collapses are waited for at every domain (R262). -/
def releaseFrom (x : Ctx) (any : Bool) (p : Progress) : List Nat → State → Release
  | [], s => .done s
  | d :: rest, s =>
    let w := ((s.warp? x.core x.slot).getD x.w)
    let next (s : State) : Release :=
      let c := ((s.warp? x.core x.slot).map (·.collapses)).getD 0
      if (any || decide (domDevice ≤ d)) && decide (c ≠ 0) then
        .wait (if p.stage = stCollapses then s else s.count x.core x.slot 0x0B c) .collapses
          { p with stage := stCollapses, doms := d :: rest, acks := [] }
      else releaseFrom x any { p with stage := 0, acks := [] } rest s
    let backs (s : State) : Release :=
      let (s1, ids) := s.writeBackDomain x.core x.slot x.w.tenant d
      if ids.isEmpty then next s1 else .wait s1 .acks { p with stage := stAcks, doms := d :: rest, acks := ids }
    if p.stage = stAcks then (if p.acks.isEmpty then next s else .wait s .acks p)
    else if p.stage = stCollapses then next s
    else if p.acks.all (w.hasReturned) then backs s
    else .wait s .returns { p with stage := stReturns, doms := d :: rest }

/-- Begins the release steps at domains: what the warp has issued so far is waited for. -/
def release (x : Ctx) (any : Bool) (p : Progress) (doms : List Nat) (s : State) : Release :=
  releaseFrom x any { p with stage := stReturns, acks := x.w.released } doms s

/-- Goes on with the release steps of an instruction that was held. -/
def releaseOn (x : Ctx) (any : Bool) (s : State) : Release := releaseFrom x any x.prog x.prog.doms s

/-- Some release step is still to run. -/
def Progress.releasing (p : Progress) : Bool := decide (p.stage = stReturns ∨ p.stage = stAcks ∨ p.stage = stCollapses)

/-- WRITE_BACK_ACKNOWLEDGEMENT (R283): Caldera has performed a write that a release waits for. -/
def execWriteBackAcknowledgement (core slot id : Nat) (s : State) : Result :=
  .next ((s.taken (.writeBackAcknowledgement core slot id)).modWarp core slot (fun w =>
    { w with groups := w.groups.map (fun g =>
        if g.hold = .acks then { g with prog := { g.prog with acks := NSet.drop id g.prog.acks } } else g) }))

end Sys2Proof.Machine
end

