-- ==== Sys2Proof/Machine/Conflict.lean ====
section
/-! DEFINITION. The region conflict tables of the banks (R305, R311, R315, R321, R323) and the messages they send to regions (R316, R324). -/

namespace Sys2Proof.Machine

/-- No partner, in a NARROW message (R324). -/
def noPartner : Nat := 0x7FF * 2 ^ 13

/-- No upper bound. -/
def noBound : DWord := 0xFFFFFFFFFFFFFFFF

/-- The larger and the smaller of two positions. -/
def maxPos (a b : DWord) : DWord := if a.toNat < b.toNat then b else a
def minPos (a b : DWord) : DWord := if a.toNat < b.toNat then a else b

/-- The position below, floored at 0. -/
def posBelow (a : DWord) : DWord := if a = 0 then 0 else a - 1

/-! ## Entries -/

def Bank.entry? (b : Bank) (region line : Nat) : Option Conflict :=
  b.conflicts.find? (fun e => decide (e.region = region ∧ e.line = line))

/-- A refresh takes the larger LO and the smaller HI in every entry of a region (R305). -/
def Bank.refresh (b : Bank) (region : Nat) (lo hi : DWord) : Bank :=
  { b with conflicts := b.conflicts.map (fun e =>
      if e.region = region then { e with lo := maxPos e.lo lo, hi := minPos e.hi hi } else e) }

/-- The table has no room for another entry. -/
def Bank.tableFull (b : Bank) : Bool := decide (Config.conflictEntries ≤ b.conflicts.length)

/-- Makes the entry of a region on a line, or widens it (R305). A first read records RVER and raises LO. -/
def Bank.track (b : Bank) (stamp region line : Nat) (reads : Bool) (wpos lo hi : DWord) : Bank :=
  let b1 : Bank :=
    if (b.entry? region line).isSome then b
    else { b with conflicts :=
      { region := region, line := line, read := false, write := false, rver := 0, lo := lo, hi := hi, made := stamp } :: b.conflicts }
  let b2 := b1.refresh region lo hi
  let fresh := reads && !(((b2.entry? region line).map (·.read)).getD false)
  let b3 : Bank :=
    { b2 with conflicts := b2.conflicts.map (fun e =>
        if e.region = region ∧ e.line = line then
          { e with read := e.read || reads, write := e.write || !reads, rver := if fresh then wpos else e.rver }
        else e) }
  if fresh && wpos != noBound then b3.refresh region (wpos + 1) noBound else b3

/-- Some region has an entry on the line (R305). -/
def State.trackedLine (s : State) (line : Nat) : Bool :=
  (s.bank (s.anchor line)).conflicts.any (fun e => e.line = line)

/-- A region other than `me` holds its grant on the line (R319). -/
def State.grantedTo (s : State) (line me : Nat) : Bool :=
  (s.bank (s.anchor line)).conflicts.any (fun e => e.grant && decide (e.line = line ∧ e.region ≠ me))

/-- Frees every entry of a region at a bank. -/
def Bank.free (b : Bank) (region : Nat) : Bank :=
  { b with conflicts := b.conflicts.filter (fun e => e.region ≠ region), visits := b.visits.filter (fun v => v.region ≠ region) }

/-- The current region under an identity is rigid. -/
def State.isRigid (s : State) (region : Nat) : Bool := ((s.regionWarp? region).map (·.region.rigid)).getD false

/-- Records an abort cause for the region under an identity, where its epoch is current. -/
def State.abortRegion (s : State) (region reason : Nat) : State :=
  if (s.regionWarp? region).isSome then s.abortLater (regionCore region) (regionSlot region) reason 0 else s

/-- A must precede B on a line (R315): bounds in the bank's entries, and a NARROW to each. -/
def State.narrowPair (s : State) (g a b : Nat) (line : Nat) : State :=
  match (s.bank g).entry? a line, (s.bank g).entry? b line with
  | some ea, some eb =>
    let hi := posBelow eb.hi
    let lo := if ea.lo = noBound then noBound else ea.lo + 1
    ((s.modBank g (fun k => (k.refresh a 0 hi).refresh b lo noBound)).push
      (.narrowMsg { src := g, region := a, partner := b, pre := false, fol := true, lo := 0, hi := hi })).push
      (.narrowMsg { src := g, region := b, partner := a, pre := true, fol := false, lo := lo, hi := noBound })
  | _, _ => s

/-- One conflict of a requesting region with another (R315, R323). -/
def State.conflictWith (s : State) (g line me : Nat) (reading : Bool) (other : Nat) : State :=
  if s.isRigid me then s.abortRegion me abConflict
  else if s.isRigid other then s.abortRegion other abConflict
  else if reading then s.narrowPair g me other line
  else s.narrowPair g other me line

/-- Every conflict that a request of a region reveals, in the order in which the entries were made. -/
def State.conflictsOf (s : State) (g line me : Nat) (reading : Bool) : State :=
  let others := ((s.bank g).conflicts.filter (fun e =>
    decide (e.line = line ∧ e.region ≠ me) && (e.write || (!reading && e.read)))).reverse
  others.foldl (fun s e => s.conflictWith g line me reading e.region) s

/-- A write by another party reaches the anchor of a line that regions have read or written, before their grants: they
abort with EXTERN (R321). `own` says which regions the write is of. -/
def State.extern (s : State) (line : Nat) (own : Nat → Bool) : State :=
  let hit := (s.bank (s.anchor line)).conflicts.filter (fun e => decide (e.line = line) && !e.grant && !own e.region)
  hit.foldl (fun s e => s.abortRegion e.region abExtern) s

/-- A write of marked warps is a region's own where no other warp stored. -/
def State.ownWrite (s : State) (core : Nat) (writers : NSet) (region : Nat) : Bool :=
  decide (regionCore region = core) &&
    match s.regionWarp? region with
    | some w => !writers.isEmpty && writers.all (fun m => decide (m = w.mark (regionSlot region)))
    | none => false

/-! ## NARROW at the region (R306, R316) -/

/-- Adds a partner with its direction, or sets the bit; none where a seventeenth would be needed. -/
def addPartner (l : List Partner) (p : Nat) (pre fol : Bool) : Option (List Partner) :=
  if l.any (fun q => q.region = p) then
    some (l.map (fun q => if q.region = p then { q with pre := q.pre || pre, fol := q.fol || fol } else q))
  else if l.length < 16 then some (l ++ [{ region := p, pre := pre, fol := fol }])
  else none

/-- An interval that has become empty aborts the region at its next boundary (R316). -/
def State.checkBounds (s : State) (c slot : Nat) : State :=
  match s.warp? c slot with
  | some w =>
    if w.region.active && decide (w.region.ahi.toNat < w.region.alo.toNat) then s.abortLater c slot abConflict 0 else s
  | none => s

/-- Applies bounds to the region of a warp. -/
def State.narrowBounds (s : State) (c slot : Nat) (lo hi : DWord) : State :=
  (s.modWarp c slot (fun w =>
    { w with region := { w.region with alo := maxPos w.region.alo lo, ahi := minPos w.region.ahi hi } })).checkBounds c slot

/-! ### The message on the mesh (R324) -/

/-- The 256 bits of a message: TYPE, SRC, the region it is about, a partner with its direction, HI and LO. -/
def meshWord (type src region partner : Nat) (follows : Bool) (hi lo : DWord) : BitVec 256 :=
  BitVec.ofNat 256 (2 ^ 252 * (type % 2 ^ 4) + 2 ^ 237 * (src % 2 ^ 13) + 2 ^ 213 * (region % 2 ^ 24) + 2 ^ 189 * (partner % 2 ^ 24) +
    (if follows then 2 ^ 188 else 0) + 2 ^ 64 * hi.toNat + lo.toNat)

def NarrowMsg.word (m : NarrowMsg) : BitVec 256 := meshWord m.type m.src m.region m.partner m.fol m.hi m.lo

/-- FINAL and RELEASE as a core sends them. -/
def finalWord (region p : Nat) : BitVec 256 := meshWord 2 0x1FFF region 0 false 0 (BitVec.ofNat 64 p)
def releaseWord (region : Nat) : BitVec 256 := meshWord 3 0x1FFF region 0 false 0 0

/-- What a receiver reads of a NARROW; its reserved bits are ignored. -/
def NarrowMsg.ofWord (b : BitVec 256) : NarrowMsg :=
  let w := b.toNat
  let partner := if bitsOf w 212 202 = 0x7FF then noPartner else bitsOf w 212 189
  let follows := w.testBit 188
  { type := bitsOf w 255 252, src := bitsOf w 249 237, region := bitsOf w 236 213, partner := partner,
    pre := decide (partner ≠ noPartner) && !follows, fol := decide (partner ≠ noPartner) && follows,
    lo := BitVec.ofNat 64 (bitsOf w 63 0), hi := BitVec.ofNat 64 (bitsOf w 127 64) }

/-- NARROW (R316, R323): a message for an older epoch, or for a region that is no longer active, is discarded; one of a reserved TYPE is
discarded and logged (R324). -/
def execNarrowMsg (m : NarrowMsg) (s : State) : Result :=
  let s1 := s.taken (.narrowMsg m)
  if m.type = 0 ∨ 3 < m.type then .next (s1.report (.message m.type)) else
  let c := regionCore m.region
  let slot := regionSlot m.region
  match s1.regionWarp? m.region with
  | none => .next s1
  | some w =>
    if w.region.rigid then .next (s1.abortLater c slot abConflict 0)
    else
      let s2 := s1.narrowBounds c slot m.lo m.hi
      if m.partner = noPartner then .next s2
      else match addPartner w.region.partners m.partner m.pre m.fol with
        | some l => .next (s2.modWarp c slot (fun w => { w with region := { w.region with partners := l } }))
        | none => .next (s2.abortLater c slot abPartners 0)

end Sys2Proof.Machine
end

