-- ==== Sys2Proof/Machine/Caldera.lean ====
section
/-! DEFINITION. Caldera (R254 to R271): the location directory, requests and fills, moves, replicas and collapses, eviction, the channels of the HBM behind it, and the half states of host lines. -/

namespace Sys2Proof.Machine

/-! ## The directory -/

/-- A half that a host holds of an HBM line (R271). -/
def DirLine.hostHeld (d : DirLine) : Bool := decide (d.h0 ≠ 0 ∨ d.h1 ≠ 0)

/-- A line that stays where it is: pinned, anchor-pinned, streamed, or in the host range (R256, R263). -/
def DirLine.fixed (d : DirLine) (line : Nat) : Bool := d.pin || d.apin || d.stream || hostLine line

/-- An access leaves a streamed line where it stands in the LRU orders (R256). DESIGN CHOICE, log entry 50. -/
def State.streamed (s : State) (line : Nat) : Bool := ((s.dir? line).map (·.stream)).getD false

/-- Moves a line to the front of a bank's order, where it is not streamed. -/
def State.promote (s : State) (g line : Nat) : State :=
  if s.streamed line then s
  else s.modBank g (fun b => if b.lru.contains line then { b with lru := line :: b.lru.filter (· ≠ line) } else b)

/-- Moves a line to the front of its anchor's tags, where it is not streamed. -/
def State.promoteTag (s : State) (line : Nat) : State :=
  if s.streamed line then s
  else s.modBank (s.anchor line) (fun b => if b.tags.contains line then { b with tags := line :: b.tags.filter (· ≠ line) } else b)

/-- Counts an access that a bank serves, as the anchor of a line, as its holder or with a replica; lines that it unpins fall due (R263,
R404). -/
def State.countBank (s : State) (g : Nat) : State :=
  let n := ((s.bank g).count + 1) % 2 ^ 13
  let s1 := s.modBank g (fun b => { b with count := n })
  let due := s1.caldera.lines.filter (fun e =>
    e.2.apin && decide (4096 ≤ (n + 2 ^ 13 - e.2.astamp) % 2 ^ 13) && decide (s1.anchor e.1 = g))
  due.foldl (fun s e => s.pushOnce (.anchorUnpin e.1)) s1

/-! ## Collapses (R261, R262) -/

/-- Adds to the collapses that marked warps of a core wait for. -/
def State.owe (s : State) (core : Nat) (writers : NSet) (n : Int) : State :=
  writers.foldl (fun s m => s.modWarp core (m % 64) (fun w =>
    if w.mark (m % 64) = m then { w with collapses := (w.collapses + n).toNat } else w)) s

/-- Asks for a collapse on behalf of warps: they are told when it completes. -/
def State.askCollapse (s : State) (line core : Nat) (writers : NSet) : State :=
  let s1 := (s.modDir line (fun d => { d with writers := d.writers ++ writers.map (fun m => (core, m)) })).owe core writers 1
  match s.dir? line with
  | some d => if d.st = .collapsing then s1 else s1.pushOnce (.collapse line)
  | none => s1

/-- Tells the writers of a line that its collapse has completed. DEDUCED, log entry 41. -/
def State.tellWriters (s : State) (line : Nat) : State :=
  match s.dir? line with
  | some d =>
    (d.writers.foldl (fun s w => s.owe w.1 [w.2] (-1)) s).modDir line (fun d => { d with writers := [] })
  | none => s

/-! ## HBM channels (R267, R407, R408) -/

/-- Entry `e` of copy `k` of a channel's row-remap table. -/
def Channel.remapAt (c : Channel) (k e : Nat) : Word := SMap.get 0 (128 * k + e) c.remap

/-- The vote over the three copies of every entry (R408): repaired copies, the number of repairs, and whether all three
differ somewhere. -/
def Channel.vote (c : Channel) : Channel × Nat × Bool :=
  let es := (c.remap.map (fun e => e.1 % 128)).dedup
  es.foldl (fun (r : Channel × Nat × Bool) e =>
    let a := r.1.remapAt 0 e
    let b := r.1.remapAt 1 e
    let d := r.1.remapAt 2 e
    let put (k : Nat) (v : Word) : Channel × Nat × Bool :=
      ({ r.1 with remap := SMap.set 0 (128 * k + e) v r.1.remap }, r.2.1 + 1, r.2.2)
    if a = b then (if d = a then r else put 2 a)
    else if a = d then put 1 a
    else if b = d then put 0 b
    else (r.1, r.2.1, true)) (c, 0, false)

/-- Entries of a write-combining buffer (R267), and of a cool-down lane (R269). -/
def combineEntries : Nat := 64
def coolEntries : Nat := 16

/-- The bank of a row. The spec gives no map from granules to banks. DESIGN CHOICE, log entry 97. -/
def bankOfRow (row : Nat) : Nat := Config.hbmBank row % 64

/-- Adds to an error count, named by its offset in management space (R386, R393). -/
def State.countError (s : State) (offset n : Nat) : State :=
  { s with modul := { s.modul with
      errors := SMap.set 0 offset (BitVec.ofNat 32 (min ((SMap.get 0 offset s.modul.errors).toNat + n) (2 ^ 32 - 1))) s.modul.errors } }

/-- A lasting fault leaves a retirement record, which outlives bring-up (R386). -/
def State.record (s : State) (t : ScrubTarget) : State := { s with modul := { s.modul with records := s.modul.records ++ [t] } }

/-- The row-remap entries of a channel are used: the vote repairs them, or the channel is to be retired (R408). -/
def State.useRemap (s : State) (ch : Nat) : State :=
  let (c, n, bad) := (s.hbm.channel ch).vote
  let base := 0x11200000 + 0x20 * ch
  -- each damaged copy is a detection, and its repair a retry that succeeds
  let s1 := if n = 0 then s else ((s.modChannel ch (fun _ => c)).countError (base + 0xC) n).countError (base + 0x10) n
  if bad && !s.modul.records.contains (.channel ch) then
    (((s1.countError (base + 0xC) 1).countError (base + 0x14) 1).record (.channel ch)).pushOnce (.channelRetirement ch)
  else s1

/-- An activation of a row. -/
def Channel.activate (c : Channel) (row : Nat) : Channel := { c with acts := SMap.set 0 row (SMap.get 0 row c.acts + 1) c.acts }

/-- The lines of a channel's cool-down lane for the bank of a row. -/
def Channel.lane (c : Channel) (row : Nat) : List Nat := c.cool.filter (fun l => decide (bankOfRow (hbmRow (128 * l)) = bankOfRow row))

/-- A write-combining buffer drains (R267): one activation for each row, through the remap table. Writes to a row at its limit wait in
the row's cool-down lane. -/
def State.drain (s : State) (ch : Nat) : State :=
  let (stay, go) := (s.hbm.channel ch).combine.partition (fun e => (s.hbm.channel ch).limited s.rowLimit (hbmRow (128 * e.1)))
  if (go.isEmpty && stay.isEmpty) || s.modul.stopped then s
  else
    let s1 := (s.useRemap ch).modChannel ch (fun c =>
      ((go.map (fun e => hbmRow (128 * e.1))).dedup).foldl Channel.activate { c with combine := stay })
    let s1 : State := { s1 with hbm := go.foldl (fun h e => e.2.foldl Hbm.drained h) s1.hbm }
    stay.foldl (fun s e =>
      let c := s.hbm.channel ch
      if c.cool.contains e.1 ∨ coolEntries ≤ (c.lane (hbmRow (128 * e.1))).length then s
      else (s.modChannel ch (fun c => { c with cool := c.cool ++ [e.1] })).pushOnce (.rowCooldownRelease ch)) s1

/-- Dirty sectors of a line leave for the HBM: its channel's write-combining buffer takes and merges them. A full buffer drains first. -/
def State.toHbm (s : State) (line : Nat) (sectors : NSet) : State :=
  let ch := s.hbm.channelOf (128 * line)
  let old := s.hbm.buffered line
  let s1 := if combineEntries ≤ (s.hbm.channel ch).combine.length && old.isEmpty then s.drain ch else s
  let s1 : State := { s1 with hbm := { s1.hbm with buffers := sectors.foldl (fun m k => SMap.del k m) s1.hbm.buffers } }
  (s1.modChannel ch (fun c =>
    { c with combine := c.combine.filter (fun e => e.1 ≠ line) ++ [(line, sectors.foldl (fun m k => NSet.add k m) old)] })).pushOnce
      (.wcBufferDrain ch)

/-- Dirty sectors of a host line are with the host. -/
def State.toHost (s : State) (sectors : NSet) : State :=
  { s with hbm := { s.hbm with under := sectors.foldl (fun m k => SMap.del k m) s.hbm.under } }

/-! ## Eviction (R264) -/

/-- Removes a replica; the drop notice is on its way (R260). -/
def State.dropReplica (s : State) (line ret : Nat) : State :=
  let g := s.standIn line ret
  ((s.modDir line (fun d => { d with replicas := SMap.del ret d.replicas })).modBank g (fun b =>
    { b with lru := b.lru.filter (· ≠ line) })).push (.replicaDropNotice line ret)

/-- The step in which a request arrives. -/
def Request.arrival (r : Request) (id : Nat) : Instr :=
  match r.kind with
  | .tracked _ => .regionTrackedRead id
  | .intent _ => .writeIntent id
  | _ => .calderaRequest id

/-- Requests that were held at a line, sent again. -/
def State.resend (s : State) (ids : List Nat) : State :=
  { s with pending := (ids.filterMap (fun id =>
      (SMap.get? id s.caldera.requests).map (fun r => r.arrival id))) ++ s.pending }

/-- Evicts the primary copy of a line: dirty sectors are written back, replicas are invalidated, the directory entry is
deleted, and the anchor's floor rises (R264). Watchers are told (R296); requests held there start anew. -/
def State.evictLine (s : State) (line : Nat) : State :=
  match s.dir? line with
  | none => s
  | some d =>
    let a := s.anchor line
    let s1 := s.notify line
    let s2 := if d.dirty.isEmpty then s1 else if hostLine line then s1.toHost d.dirty else s1.toHbm line d.dirty
    let s3 := s2.tellWriters line
    let homes := d.hold :: d.replicas.map (fun e => s3.standIn line e.1)
    let s4 := homes.foldl (fun s g => s.modBank g (fun b => { b with lru := b.lru.filter (· ≠ line) })) s3
    let s5 := s4.modBank a (fun b =>
      { b with tags := b.tags.filter (· ≠ line), floor := maxPos b.floor (maxPos d.rpos d.wpos) })
    let s6 : State := { s5 with caldera := { s5.caldera with
      lines := SMap.del line s5.caldera.lines,
      -- the host may hold a half still (R271)
      hostHeld := if !hostLine line && d.hostHeld then SMap.put line (d.h0, d.h1) s5.caldera.hostHeld else s5.caldera.hostHeld } }
    s6.resend d.held

/-- A line that may be chosen: not one that is Moving or named in a conflict table, nor one whose dirty sectors the HBM does not take now
(R461). DESIGN CHOICE, log entry 52. -/
def State.mayEvict (s : State) (line : Nat) : Bool :=
  (((s.dir? line).map (fun d => d.st != .moving && (d.dirty.isEmpty || hostLine line || !s.modul.stopped))).getD true) && !s.trackedLine line

/-- What making room in a set comes to. -/
inductive Room where
  | free (s : State)
  /-- Some line of the set is locked or Moving: wait. -/
  | waits
  /-- Every line is named in a conflict table. -/
  | named

/-- Chooses the least recently used line of a list that may be evicted, unpinned ones before pinned ones. -/
def State.victim (s : State) (l : List Nat) : Option Nat :=
  let can := l.reverse.filter s.mayEvict
  let pinned (line : Nat) : Bool := ((s.dir? line).map (fun d => d.pin || d.apin)).getD false
  match can.find? (fun x => !pinned x) with
  | some x => some x
  | none => can.head?

/-- Evicts a line from a bank: the primary copy, or a replica that the bank holds. -/
def State.evictFrom (s : State) (g line : Nat) : State :=
  match s.dir? line with
  | some d => if d.hold = g then s.evictLine line else s.dropReplica line (bankReticle g)
  | none => s.modBank g (fun b => { b with lru := b.lru.filter (· ≠ line) })

/-- Ways of a line's set that a bank keeps for lines on their way to it (R258, R259). -/
def State.waysKept (s : State) (g line : Nat) : Nat :=
  (s.caldera.lines.filter (fun e =>
    e.2.st == .moving && e.2.mtgt == some g && decide (setOf e.1 = setOf line) && !(s.bank g).lru.contains e.1)).length

/-- Room for a line in its set of a bank. -/
def State.makeRoom (s : State) (g line : Nat) : Room :=
  let set := ((s.bank g).lru).filter (fun l => decide (setOf l = setOf line))
  let kept := s.waysKept g line
  if set.length + kept < Config.bankWays then .free s
  else match s.victim set with
    | some v => .free (s.evictFrom g v)
    | none => if decide (kept ≠ 0) || set.any (fun l => !s.trackedLine l) then .waits else .named

/-- Room for a line that moves away from its anchor (R258): the least recently used line of the set that is neither locked, pinned nor
Moving goes; none where there is no such line. -/
def State.moveRoom (s : State) (g line : Nat) : Option State :=
  let set := ((s.bank g).lru).filter (fun l => decide (setOf l = setOf line))
  let pinned (l : Nat) : Bool := ((s.dir? l).map (fun d => d.pin || d.apin)).getD false
  if set.length + s.waysKept g line < Config.bankWays then some s
  else (set.reverse.find? (fun l => s.mayEvict l && !pinned l)).map (s.evictFrom g)

/-- Room for a tag in the line's set of its anchor: 16 and what an implementation adds. -/
def State.makeTagRoom (s : State) (line : Nat) : Room :=
  let set := ((s.bank (s.anchor line)).tags).filter (fun l => decide (setOf l = setOf line))
  if set.length < Config.bankWays then .free s
  else if set.length < Config.anchorTags + Config.bankWays then .free s
  else match s.victim set with
    | some v => .free (s.evictLine v)
    | none => if set.any (fun l => !s.trackedLine l) then .waits else .named

/-! ## Counting and moves (R257, R258) -/

/-- A counted access from a reticle; true where it decides a move. -/
def DirLine.countUse (d : DirLine) (x threshold : Nat) : DirLine × Bool :=
  if x = bankReticle d.hold then ({ d with use := d.use - 1 }, false)
  else
    let u := if x = d.pull then min (d.use + 1) 15 else 1
    if threshold ≤ u ∧ d.mtgt.isNone then ({ d with use := 0, pull := x }, true) else ({ d with use := u, pull := x }, false)

/-- Counts a primary-copy access of a core; a line that reaches the threshold moves one hop towards its pull reticle. -/
def State.countAccess (s : State) (line core : Nat) : State :=
  match s.dir? line with
  | none => s
  | some d =>
    if d.fixed line || !d.rmask.isEmpty || d.st != .resident then s
    else
      let (d1, moves) := d.countUse (reticleOf core) s.modul.threshold
      if !moves || d.hostHeld || s.trackedLine line then s.modDir line (fun _ => d1)
      else
        let hop := nextHop (bankReticle d.hold) (reticleOf core)
        (s.modDir line (fun _ => { d1 with mtgt := some (s.standIn line hop) })).push (.moveStart line)

/-- Brings a line back to its anchor in one move (R256, R263). -/
def State.bringHome (s : State) (line : Nat) : State :=
  match s.dir? line with
  | some d =>
    if d.hold = s.anchor line then s
    else (s.modDir line (fun d => { d with mtgt := some (s.anchor line) })).pushOnce (.moveStart line)
  | none => s

/-! ## Serving requests -/

/-- Gives a sector of bytes to an access: the bytes it needs and has not taken already. -/
def Access.take (a : Access) (line sector : Nat) (d : LineData) : Access :=
  let inPart (b : Nat) : Bool := a.parts.any (fun p => decide (p.2.1 ≤ b ∧ b < p.2.1 + p.2.2))
  let new := ((List.range 32).map (fun i => 128 * line + 32 * sector + i)).filter (fun b =>
    inPart b && (SMap.get? b a.bytes).isNone)
  { a with bytes := new.foldl (fun m b => SMap.put b (d.extractLsb' (8 * (b - 128 * line)) 8) m) a.bytes }

/-- A request leaves Caldera. -/
def State.finish (s : State) (id : Nat) : State :=
  { s with caldera := { s.caldera with requests := SMap.del id s.caldera.requests } }

/-- Tells everyone who waits for a write that it has been performed: releases, and the access it came from. -/
def State.acknowledge (s : State) (id : Nat) (r : Request) : State :=
  let slots := (((s.core? r.core).map (fun k => k.warps.filter (fun e =>
    e.2.groups.any (fun g => decide (g.hold = .acks) && g.prog.acks.contains id)))).getD []).map Prod.fst
  let s1 := if r.ack then slots.foldl (fun s slot => s.push (.writeBackAcknowledgement r.core slot id)) s else s
  if r.access = 0 then s1 else s1.answer r.core r.slot r.access (needCaldera id) (fun a => a)

/-- The bank that serves is the requester's own stand-in and not the anchor: the anchor sees nothing (R255). -/
def State.servedLocally (s : State) (line core : Nat) (d : DirLine) : Bool :=
  let g := s.standIn line (reticleOf core)
  decide (d.hold = g ∧ g ≠ s.anchor line)

/-- Counts a request as served in the requester's reticle or in another one (R389). -/
def State.countServed (s : State) (core slot g : Nat) : State :=
  s.count core slot (if bankReticle g = reticleOf core then 0x08 else 0x09) 1

/-- An access served at the primary copy: the counts of its banks, and the recency of the line, which an access with the stream hint
leaves (R256). `near`: the access does not go through the anchor. -/
def State.touchBanks (s : State) (line hint : Nat) (near : Bool) (d : DirLine) : State :=
  let a := s.anchor line
  let s1 := if decide (d.hold = a) || near then s.countBank d.hold else (s.countBank a).countBank d.hold
  if hint = 2 then s1 else (s1.promote d.hold line).promoteTag line

/-- An access of a warp served at the primary copy. `forwarded`: it has gone to the anchor, wherever the line is held. -/
def State.touchPrimary (s : State) (line core slot hint : Nat) (forwarded : Bool) (d : DirLine) : State :=
  let s0 := s.countServed core slot d.hold
  s0.touchBanks line hint (!forwarded && s0.servedLocally line core d) d

/-- A hint acts on a line that is present (R256). -/
def State.applyHint (s : State) (line hint : Nat) : State :=
  if hint = 1 then (s.modDir line (fun d => { d with pin := true })).bringHome line else s

/-- A read may install a replica in a reticle (R260). -/
def replicates (line core hint : Nat) (d : DirLine) : Bool :=
  decide (hint = 3 ∧ reticleOf core ≠ bankReticle d.hold) && d.st == .resident && !d.fixed line && !d.hostHeld

/-- Installs a replica, where the stand-in bank's set has room. -/
def State.replicate (s : State) (line core slot : Nat) : Option State :=
  let ret := reticleOf core
  let g := s.standIn line ret
  match s.makeRoom g line with
  | .free s1 =>
    if (s1.dir? line).isNone then none
    else some (((s1.count core slot 0x0A 1).modDir line (fun d =>
      { d with rmask := NSet.add ret d.rmask, replicas := SMap.put ret (Memory.lineData s1.mem line) d.replicas })).modBank g
        (fun b => { b with lru := line :: b.lru.filter (· ≠ line) }))
  | _ => none

/-- A sector arrives at a core: it fills the L1 of the tenant, where a way takes it. -/
def State.arrive (s : State) (r : Request) (d : LineData) : State :=
  let have? := s.l1Find r.core r.tenant r.line
  let s1 :=
    if have?.isSome then s
    else (s.l1Alloc r.core r.slot r.tenant r.va r.line none).getD s
  s1.l1Fill r.core r.tenant r.line r.sector d

/-- The bytes that a read finds: those of a replica in the requester's reticle, else the primary copy's. -/
def State.readData (s : State) (line core : Nat) (d : DirLine) : LineData × Bool :=
  match SMap.get? (reticleOf core) d.replicas with
  | some x => (x, true)
  | none => (Memory.lineData s.mem line, false)

/-- A half that a read finds Invalid is fetched, and is Shared then (R270). -/
def State.fetchHalf (s : State) (line sector : Nat) : State :=
  if hostLine line then
    s.modDir line (fun d => let h := sector / 2; if d.half h = 0 then d.setHalf h 1 else d)
  else s

/-- The halves that a request touches. -/
def Request.halves (r : Request) : List Nat :=
  match r.kind with
  | .write _ => (r.bytes.map (fun e => (e.1 / 64) % 2)).dedup
  | .atomic _ _ => (r.lanes.map (fun e => (e.2.1 / 64) % 2)).dedup
  | .prefetch l1 => if l1 then [r.sector / 2] else []
  | .tracked _ => [0, 1]
  | .intent _ => []
  | _ => [r.sector / 2]

/-- A request writes. -/
def Request.writes (r : Request) : Bool :=
  match r.kind with
  | .write _ => true
  | .atomic _ _ => true
  | _ => false

/-- The next number of an order. -/
def State.stamped (s : State) : State := { s with caldera := { s.caldera with stamp := s.caldera.stamp + 1 } }

/-- Holds a request at the anchor, in arrival order; its first arrival is numbered. -/
def State.hold (s : State) (line id : Nat) : State :=
  let n := s.caldera.stamp
  let s1 : State := { s.stamped with
    caldera := { s.stamped.caldera with
      requests := SMap.modify id (fun r => if r.arrived = 0 then { r with arrived := n } else r) s.caldera.requests } }
  s1.modDir line (fun d => { d with held := d.held ++ [id] })

/-- A collapse of a line has been asked for, or is under way: a replica may hold what is no longer at the primary copy (R261). -/
def State.stale (s : State) (line : Nat) : Bool :=
  ((s.dir? line).map (fun d => d.st == .collapsing || (!d.rmask.isEmpty && s.pending.contains (.collapse line)))).getD false

/-! ### Atomics (R86 to R88, R289) -/

/-- Bytes of an atomic's type. -/
def atomBytes (ty : Nat) : Nat := if ty = 2 ∨ ty = 3 ∨ ty = 5 then 8 else 4

/-- The number format of a float type of an atomic, and its elements. -/
def atomFmt (ty : Nat) : Fmt := if ty = 4 then .f32 else if ty = 5 then .f64 else if ty = 6 then .f16 else .bf16
def atomElems (ty : Nat) : Nat := if ty = 6 ∨ ty = 7 then 2 else 1

/-- The stored value of a float atomic on one element. -/
def atomFloat (op : Nat) (f : Fmt) (old x : Nat) : Nat :=
  match op with
  | 10 => (fAdd f 0 (f.value old) (f.value x)).bits
  | 11 => fAtomicMinMax f false old x
  | _ => fAtomicMinMax f true old x

/-- The stored value of an atomic (R289): old value, operand, compare value. -/
def atomStore (op ty old x cmp : Nat) : Nat :=
  let w := 8 * atomBytes ty
  let less (a b : Nat) : Bool := decide (intOf (ty % 2 = 1) w a < intOf (ty % 2 = 1) w b)
  match op with
  | 0 => (old + x) % 2 ^ w
  | 1 => if less x old then x else old
  | 2 => if less old x then x else old
  | 3 => old &&& x
  | 4 => old ||| x
  | 5 => old ^^^ x
  | 6 => x
  | 7 => if old = cmp then x else old
  | 8 => if x ≤ old then 0 else old + 1
  | 9 => if old = 0 ∨ x < old then x else old - 1
  | _ =>
    let f := atomFmt ty
    if atomElems ty = 1 then atomFloat op f old x
    else atomFloat op f (old % 2 ^ 16) (x % 2 ^ 16) + 2 ^ 16 * atomFloat op f (old / 2 ^ 16) (x / 2 ^ 16)

/-- Applies the lanes of an atomic in order (R290): old values by lane. -/
def Memory.atomics (m : Memory) (op ty : Nat) : List (Nat × Nat × Nat × Nat) → Memory × List (Nat × Nat)
  | [] => (m, [])
  | (lane, pa, x, cmp) :: t =>
    let n := atomBytes ty
    let old := m.readNum pa n
    let m1 := m.writeBytes pa (bytesOf (atomStore op ty old x cmp) n)
    let (m2, l) := Memory.atomics m1 op ty t
    (m2, (lane, old) :: l)

/-- Executes an atomic at the anchor: the line is anchor-pinned (R263). Partly written poisoned sectors stay poisoned. -/
def State.performAtomic (s : State) (line op ty : Nat) (lanes : List (Nat × Nat × Nat × Nat)) : State × List (Nat × Nat) :=
  let a := s.anchor line
  let (m, old) := Memory.atomics s.mem op ty lanes
  let cells := lanes.flatMap (fun e => (List.range (atomBytes ty)).map (fun i => (e.2.1 + i, Memory.read m (e.2.1 + i))))
  let s2 : State := { s.performWrite line (cells.foldl (fun l e => SMap.put e.1 e.2 l) []) with mem := m }
  (s2.modDir line (fun d => { d with apin := true, astamp := (s2.bank a).count }), old)

/-! ### The effects -/

/-- A read reaches a bank that serves it. -/
def State.serveRead (s : State) (id : Nat) (r : Request) (d : DirLine) (fill counts : Bool) : State :=
  let (data, local_) := s.readData r.line r.core d
  let s1 := s.fetchHalf r.line r.sector
  let s2 :=
    if local_ then
      let g := s1.standIn r.line (reticleOf r.core)
      let s2 := (s1.countBank g).count r.core r.slot 0x08 1
      if r.hint = 2 then s2 else s2.promote g r.line
    else
      let s1 := s1.touchPrimary r.line r.core r.slot r.hint false d
      let plain := (if counts then s1.countAccess r.line r.core else s1).applyHint r.line r.hint
      -- a read that installs a replica is not counted (R339)
      if replicates r.line r.core r.hint d then (s1.replicate r.line r.core r.slot).getD plain else plain
  let s3 := if fill then s2.arrive r data else s2
  let s4 := if r.access = 0 then s3 else s3.answer r.core r.slot r.access (needCaldera id) (fun a => a.take r.line r.sector data)
  s4.finish id

/-- A write through or a release store is seen by the tenant's own copy on the core (R286): its bytes are clean there,
where they are valid and no later store stands. -/
def State.updateClean (s : State) (r : Request) : State :=
  let way := s.onTheWay r.core r.tenant r.line
  let m := cellsMask r.line r.bytes &&& ~~~way
  s.modL1 r.core (fun l => l.isCopy r.tenant r.line) (fun l =>
    let m := m &&& ~~~l.dirty
    { l with data := mergeMask l.data (mergeCells r.line 0 r.bytes) m, valid := l.valid ||| m, stored := l.stored ||| m })

/-- A write reaches the primary copy. -/
def State.serveWrite (s : State) (id : Nat) (r : Request) (d : DirLine) (through : Bool) : State :=
  let ret := reticleOf r.core
  let s0 := s.finish id
  -- the replica in the writer's own reticle goes at once
  let s1 :=
    if (SMap.get? ret d.replicas).isSome then
      (s0.modDir r.line (fun d => { d with replicas := SMap.del ret d.replicas })).modBank (s0.standIn r.line ret)
        (fun b => { b with lru := b.lru.filter (· ≠ r.line) })
    else s0
  let s2 := s1.performWrite r.line r.bytes
  let s3 := ((s2.touchPrimary r.line r.core r.slot r.hint (s2.trackedLine r.line) d).countAccess r.line r.core).applyHint r.line r.hint
  let s4 := if d.rmask.isEmpty then s3 else s3.askCollapse r.line r.core r.writers
  let s5 := if through then s4.updateClean r else s4
  if hostLine r.line then
    ({ s5 with caldera := { s5.caldera with
        observing := SMap.put r.line (SMap.get [] r.line s5.caldera.observing ++ [(id, r)]) s5.caldera.observing } } : State).push
      (.globalObservationResponse r.line)
  else s5.acknowledge id r

/-- An atomic reaches its anchor. -/
def State.serveAtomic (s : State) (id : Nat) (r : Request) (op ty : Nat) (d : DirLine) : State :=
  let s0 := s.finish id
  let s1 := s0.touchPrimary r.line r.core r.slot r.hint true d
  let (s2, old) := (s1.applyHint r.line r.hint).performAtomic r.line op ty r.lanes
  let sectors := (r.lanes.map (fun e => (e.2.1 / 32) % 4)).dedup
  let m := sectors.foldl (fun m k => m ||| sectorMask k) (0 : LineMask)
  let s3 := s2.modL1 r.core (fun l => l.isCopy r.tenant r.line) (fun l => l.dropClean m)
  s3.answer r.core r.slot r.access (needCaldera id) (fun a =>
    { a with values := old.foldl (fun v o => SMap.put o.1 o.2 v) a.values })

/-- The check read of MONW with its registration, one step at the anchor (R295). -/
def State.serveMonitor (s : State) (id : Nat) (r : Request) (addr expected bytes : Nat) (d : DirLine) : State :=
  let v := Memory.readNum s.mem addr bytes
  let s1 := (((s.finish id).fetchHalf r.line r.sector).touchPrimary r.line r.core r.slot r.hint true d).applyHint r.line r.hint
  let s2 := if v = expected then s1.modDir r.line (fun d => { d with watch := NSet.add r.core d.watch }) else s1
  -- the reply is for the group whose check this is
  let n := s2.caldera.stamp
  let s2 := s2.stamped.modWarp r.core r.slot (fun w =>
    { w with groups := w.groups.map (fun g =>
        if g.prog.stage = stCheck ∧ g.prog.note = id then { g with prog := { g.prog with vals := g.prog.vals ++ [v, n] } } else g) })
  -- the warp's later loads return no older value (R336)
  let s2 := s2.modL1 r.core (fun l => l.isCopy r.tenant r.line) (fun l => l.dropClean (byteMask addr bytes))
  s2.push (.monwCheckReply r.core r.slot (BitVec.ofNat 64 v))

/-- A whole line arrives at a core. -/
def State.arriveLine (s : State) (r : Request) (data : LineData) : State :=
  (List.range 4).foldl (fun s k => s.arrive { r with sector := k } data) s

/-- A region's tracked read, or its intent, at the anchor (R305, R310, R311, R315). The read of a region that has aborted is an ordinary
one: what it returns stands in the L1 as well, and no later read of the warp finds anything older there (R327). -/
def State.serveTracked (s : State) (id : Nat) (r : Request) (region : Nat) (reads : Bool) (d : DirLine) : State :=
  let g := s.anchor r.line
  let data := Memory.lineData s.mem r.line
  let done (s : State) (f : Access → Access) : State :=
    (s.finish id).answer r.core r.slot r.access (needCaldera id) f
  let give (a : Access) : Access :=
    (List.range 4).foldl (fun a k => if reads then a.take r.line k data else a) a
  let s0 := s.touchPrimary r.line r.core r.slot r.hint true d
  let s1 := (if reads then s0.countAccess r.line r.core else s0).applyHint r.line r.hint
  match s.regionWarp? region with
  | none => done (if reads then s1.arriveLine r data else s1) give
  | some _ =>
    if ((s1.bank g).entry? region r.line).isNone && (s1.bank g).tableFull then
      done (s1.abortRegion region abTable) (fun a => { a with refused := true })
    else
      let s2 := s1.stamped.modBank g (fun b => b.track s1.caldera.stamp region r.line reads d.wpos r.lo r.hi)
      let s3 := s2.conflictsOf g r.line region reads
      let lo : DWord := if d.wpos = noBound then noBound else d.wpos + 1
      let s4 :=
        if reads then
          -- the committed bytes are what the region has read; they fill the bytes that its locked line lacks, else the tenant's copy
          let s4 := (s3.modWarp r.core r.slot (fun w =>
            { w with region := { w.region with reads := SMap.put r.line data w.region.reads } })).modL1 r.core
            (fun l => decide (l.line = r.line ∧ l.lock = some r.slot))
            (fun l => { l with data := mergeMask data l.data l.valid, valid := ~~~0 })
          if (s4.l1Locked r.core r.slot r.line).isSome then s4
          else s4.arriveLine r data
        else s3
      done s4 (fun a => let a1 := give a; if reads then { a1 with alo := maxPos a1.alo lo } else a1)

/-- A request that a replica of its reticle serves: it does not reach the anchor (R255). -/
def Request.atReplica (r : Request) (d : DirLine) : Bool :=
  match r.kind with
  | .read _ | .prefetch _ => (SMap.get? (reticleOf r.core) d.replicas).isSome
  | _ => false

/-- A read at the anchor itself, by a region or MONW, waits for a collapse: what its core then finds in a replica is no older (R336). DEDUCED,
log entry 96. -/
def Request.awaitsCollapse (r : Request) : Bool :=
  match r.kind with
  | .tracked _ | .monitor _ _ _ => true
  | _ => false

/-- Serves a request at a line that is present, or holds it at the anchor. -/
def State.serveAt (s : State) (id : Nat) (r : Request) (d : DirLine) : State :=
  let me : Nat :=
    match r.kind with
    | .tracked x => x
    | .intent x => x
    | _ => 2 ^ 24
  if !r.atReplica d && (d.st == .moving || s.grantedTo r.line me || d.hostStops r.line r.halves r.writes ||
      (r.awaitsCollapse && s.stale r.line)) then (s.askHost r.line r.halves r.writes).hold r.line id
  else
    let s := if r.writes then s.extern r.line (s.ownWrite r.core r.writers) else s
    match r.kind with
    | .read fill => s.serveRead id r d fill true
    | .prefetch l1 => s.serveRead id r d l1 true
    | .write rel =>
      if rel && !d.rmask.isEmpty then
        (if d.st = .collapsing then s else s.pushOnce (.collapse r.line)).hold r.line id
      else s.serveWrite id r d (rel || decide (r.access ≠ 0))
    | .atomic op ty =>
      if d.hold ≠ s.anchor r.line then (s.bringHome r.line).hold r.line id
      else if !d.rmask.isEmpty then (if d.st = .collapsing then s else s.pushOnce (.collapse r.line)).hold r.line id
      else s.serveAtomic id r op ty d
    | .monitor addr expected bytes => s.serveMonitor id r addr expected bytes d
    | .tracked region => s.serveTracked id r region true d
    | .intent region => s.serveTracked id r region false d

/-- An older request of the same core for the same line is still on its way. DESIGN CHOICE, log entry 36. -/
def State.olderRequest (s : State) (id : Nat) (r : Request) : Bool :=
  s.caldera.requests.any (fun e => decide (e.1 < id ∧ e.2.core = r.core ∧ e.2.line = r.line))

/-- A request arrives (R255): it waits behind an older one of its core for the line; an Absent line is filled first. -/
def State.serve (s : State) (id : Nat) : State :=
  match SMap.get? id s.caldera.requests with
  | none => s
  | some r =>
    let waiting := SMap.get [] r.line s.caldera.fills
    match s.dir? r.line with
    | some d =>
      if s.olderRequest id r then
        if d.held.any (fun k => ((SMap.get? k s.caldera.requests).map (fun q => decide (q.core = r.core))).getD false) then
          s.hold r.line id
        else s.retry (r.arrival id)
      else s.serveAt id r d
    | none =>
      let s1 : State := { s with caldera := { s.caldera with
        fills := SMap.put r.line (waiting.filter (· ≠ id) ++ [id]) s.caldera.fills } }
      if waiting.isEmpty then s1.push (.calderaFill r.line) else s1

/-- The requests that the anchors of lines have held, in the order of their arrival, and the state without them. -/
def State.takeHeld (s : State) (lines : List Nat) : List Nat × State :=
  let held := lines.flatMap (fun l => ((s.dir? l).map (·.held)).getD [])
  let order : SMap Nat := held.foldl (fun m id => SMap.put (((SMap.get? id s.caldera.requests).map (·.arrived)).getD 0) id m) []
  (order.map Prod.snd, lines.foldl (fun s l => s.modDir l (fun d => { d with held := [] })) s)

/-- Serves the requests that the anchors of lines have held, in the order of their arrival. -/
def State.replayAll (s : State) (lines : List Nat) : State :=
  let (ids, s1) := s.takeHeld lines
  ids.foldl (fun s id => s.serve id) s1

/-- Serves the requests that a line's anchor has held, in their order. -/
def State.replay (s : State) (line : Nat) : State :=
  match s.dir? line with
  | none => s
  | some d => d.held.foldl (fun s id => s.serve id) (s.modDir line (fun d => { d with held := [] }))

/-! ## The steps -/

/-- CALDERA_REQUEST (R255). -/
def execCalderaRequest (id : Nat) (s : State) : Result := .next ((s.taken (.calderaRequest id)).serve id)

/-- REGION_TRACKED_READ and WRITE_INTENT (R310). -/
def execRegionTrackedRead (id : Nat) (s : State) : Result := .next ((s.taken (.regionTrackedRead id)).serve id)
def execWriteIntent (id : Nat) (s : State) : Result := .next ((s.taken (.writeIntent id)).serve id)

/-- A line of which a sector is read from a row that is lost arrives poisoned there, and its page is reported (R268, R274). -/
def State.loseLine (s : State) (line : Nat) : State :=
  let bad := ([4 * line, 4 * line + 1, 4 * line + 2, 4 * line + 3] : List Nat).filter s.lostSector
  if bad.isEmpty then s
  else
    { s with
      poison := bad.foldl (fun m k => NSet.add k m) s.poison,
      modul := { s.modul with reports := s.modul.reports ++ [.page (128 * line)] } }

/-- Installs a line that has arrived from the HBM or the host at its anchor (R256, R264). -/
def State.install (s : State) (line hint : Nat) : State :=
  let g := s.anchor line
  let f := (s.bank g).floor
  let held := SMap.get (0, 0) line s.caldera.hostHeld
  let d : DirLine :=
    { hold := g, pin := decide (hint = 1), stream := decide (hint = 2), rpos := f, wpos := f, h0 := held.1, h1 := held.2 }
  ({ s with caldera := { s.caldera with lines := SMap.put line d s.caldera.lines, hostHeld := SMap.del line s.caldera.hostHeld } } : State).modBank g (fun b =>
    { b with
      lru := if hint = 2 then b.lru.filter (· ≠ line) ++ [line] else line :: b.lru.filter (· ≠ line),
      tags := if hint = 2 then b.tags.filter (· ≠ line) ++ [line] else line :: b.tags.filter (· ≠ line) })

/-- The region whose entry on a line of a list was made last, whichever bank anchors the line (R311). -/
def State.lastNamed (s : State) (lines : List Nat) : Option Nat :=
  let es := lines.flatMap (fun l => (s.bank (s.anchor l)).conflicts.filter (fun e => e.line = l))
  (es.foldl (fun (m : Option Conflict) e =>
    match m with
    | some x => if x.made < e.made then some e else m
    | none => some e) none).map (·.region)

/-- Installs an Absent line at its anchor, once a way and a tag take it (R255, R264, R311); true where the line is present then. -/
def State.takeIn (s : State) (line hint : Nat) : State × Bool :=
  let g := s.anchor line
  let inSet (l : List Nat) : List Nat := l.filter (fun x => decide (setOf x = setOf line))
  let give (s : State) (set : List Nat) : State :=
    match s.lastNamed set with
    | some r => s.abortRegion r abTable
    | none => s
  if (s.dir? line).isSome then (s, true)
  else match s.makeTagRoom line with
    | .waits => (s, false)
    | .named => (give s (inSet (s.bank g).tags), false)
    | .free s1 =>
      match s1.makeRoom g line with
      | .waits => (s1, false)
      | .named => (give s1 (inSet (s1.bank g).lru), false)
      | .free s2 => ((s2.loseLine line).install line hint, true)

/-- The fill of a line is complete. -/
def State.fillLine (s : State) (line : Nat) : State :=
  let ids := SMap.get [] line s.caldera.fills
  let hint := ((ids.head?.bind (fun id => SMap.get? id s.caldera.requests)).map (·.hint)).getD 0
  match s.takeIn line hint with
  | (s1, false) => s1.retry (.calderaFill line)
  | (s1, true) => ids.foldl (fun s id => s.serve id) { s1 with caldera := { s1.caldera with fills := SMap.del line s1.caldera.fills, bringing := SMap.del line s1.caldera.bringing } }

/-- What reading a line from the HBM comes to (R267, R269): a row at its limit, or a state in which the row has been activated, unless
the write-combining buffer holds the whole line. -/
def State.readRow (s : State) (line : Nat) : Option State :=
  let a := 128 * line
  let ch := s.hbm.channelOf a
  if hostLine line || decide ((s.hbm.buffered line).length = 4) then some s
  else if s.atLimit line then none
  else some ((s.useRemap ch).modChannel ch (fun c => c.activate (hbmRow a)))

/-- The tenant whose request a fill serves; 16 where it is nobody's. -/
def State.fillTenant (s : State) (line : Nat) : Nat :=
  (((SMap.get [] line s.caldera.fills).head?.bind (fun id => SMap.get? id s.caldera.requests)).map (·.tenant)).getD
    (SMap.get 16 line s.caldera.bringing)

/-- CALDERA_FILL (R255, R269): a row that has reached its limit sends the request to its bank's cool-down lane; where the lane is full,
the controller takes no more requests of that tenant until one leaves the lane. DESIGN CHOICE, log entry 97. -/
def execCalderaFill (line : Nat) (s : State) : Result :=
  let s1 := s.taken (.calderaFill line)
  let ch := s1.hbm.channelOf (128 * line)
  let c := s1.hbm.channel ch
  let t := s1.fillTenant line
  if (SMap.get? line s1.caldera.fills).isNone then .next s1
  else if (s1.dir? line).isSome then .next (s1.fillLine line)
  else if s1.rowsStopped t line then .next (s1.retry (.calderaFill line))
  else match s1.readRow line with
    | some s2 => .next (s2.fillLine line)
    | none =>
      if (c.lane (hbmRow (128 * line))).length < coolEntries then
        .next ((s1.modChannel ch (fun c => { c with cool := c.cool ++ [line] })).pushOnce (.rowCooldownRelease ch))
      else .next ((s1.modChannel ch (fun c => { c with stopped := NSet.add t c.stopped })).retry (.calderaFill line))

/-- ROW_COOLDOWN_RELEASE (R269): the oldest throttled request leaves its lane; its row's count starts anew, and the controller takes
requests of every tenant again. -/
def execRowCooldownRelease (channel : Nat) (s : State) : Result :=
  let s1 := s.taken (.rowCooldownRelease channel)
  match (s1.hbm.channel channel).cool with
  | [] => .next s1
  | line :: rest =>
    let s2 := s1.modChannel channel (fun c => { c with cool := rest, stopped := [], acts := SMap.del (hbmRow (128 * line)) c.acts })
    let s3 := if rest.isEmpty then s2 else s2.pushOnce (.rowCooldownRelease channel)
    let s4 := if (s3.hbm.buffered line).isEmpty then s3 else s3.pushOnce (.wcBufferDrain channel)
    .next (s4.push (.calderaFill line))

/-- WC_BUFFER_DRAIN (R267): the buffered sectors go to the HBM, with their parity. -/
def execWcBufferDrain (channel : Nat) (s : State) : Result := .next ((s.taken (.wcBufferDrain channel)).drain channel)

/-- Brings an Absent line into Caldera for a party that acts on it at once (R255); true where it is present then. A line that has to wait
for its row, or for the tenant's turn at the channel (R269), fills by itself. -/
def State.bring (s : State) (tenant line hint : Nat) : State × Bool :=
  if (s.dir? line).isSome then (s, true)
  else if (SMap.get? line s.caldera.fills).isSome then (s, false)
  else match (if s.rowsStopped tenant line then none else s.readRow line) with
    | some s1 => s1.takeIn line hint
    | none =>
      (({ s with caldera := { s.caldera with
          fills := SMap.put line [] s.caldera.fills, bringing := SMap.put line tenant s.caldera.bringing } } : State).push (.calderaFill line), false)

/-- A part other than a lane reads a line at its primary copy (R255, R256, R270): an Absent line is brought, its banks count the access, and
Invalid halves are fetched; false where the line has to wait. -/
def State.readFor (s : State) (tenant line : Nat) (halves : List Nat := [0, 1]) : State × Bool :=
  match s.bring tenant line 0 with
  | (s1, false) => (s1, false)
  | (s1, true) =>
    let s2 := match s1.dir? line with | some d => s1.touchBanks line 0 false d | none => s1
    (halves.foldl (fun s h => s.fetchHalf line (2 * h)) s2, true)

/-! ### What holds an access back -/

/-- No region's identity. -/
def noRegion : Nat := 2 ^ 24

/-- A line holds an access of a tenant's back: Moving, granted to a region, a half with the host, or Absent and not to be had at once
(R255, R258, R269, R271, R319). -/
def State.lineStops (s : State) (line : Nat) (writes : Bool) (halves : List Nat := [0, 1]) (tenant : Nat := 16) : Bool :=
  (match s.dir? line with
    | some d => d.st == .moving || d.hostStops line halves writes
    | none => !(s.bring tenant line 0).2) || s.grantedTo line noRegion

/-- What an access that a line holds back asks for: the line's fill, and the halves that the host holds. -/
def State.askLine (s : State) (line : Nat) (writes : Bool) (halves : List Nat := [0, 1]) (tenant : Nat := 16) : State :=
  ((s.bring tenant line 0).1).askHost line halves writes

/-- A step that a line holds back is tried again. -/
def State.waitLine (s : State) (line : Nat) (writes : Bool) (e : Instr) (tenant : Nat := 16) : State :=
  (s.askLine line writes [0, 1] tenant).retry e

/-- The lines that `n` bytes from an address take. -/
def linesFrom (pa n : Nat) : List Nat := if n = 0 then [] else (List.range ((pa + n - 1) / 128 - pa / 128 + 1)).map (pa / 128 + ·)

/-- The first line of a span that is held back. -/
def State.spanStops (s : State) (pa n : Nat) (writes : Bool) (tenant : Nat := 16) : Option Nat :=
  (linesFrom pa n).find? (fun l => s.lineStops l writes [0, 1] tenant)

/-- Uses the page of an address for a core: what its lookup reads it reads at primary copies, level by level, and what it finds is kept
(R398). -/
def State.usePage (s : State) (core tenant va : Nat) : State :=
  ((s.lookup core tenant va).read.foldl (fun s a => (s.readFor tenant (a / 128) [a / 64 % 2]).1) s).cacheLookup core tenant va

/-! ### The order of a bank's work (R266) -/

/-- The bank at which class-1 work of the agenda waits. -/
def State.demandBank (s : State) : Instr → Option Nat
  | .calderaRequest id => (SMap.get? id s.caldera.requests).map (fun r => ((s.dir? r.line).map (·.hold)).getD (s.anchor r.line))
  | .regionTrackedRead id | .writeIntent id => (SMap.get? id s.caldera.requests).map (fun r => s.anchor r.line)
  | .finalMsg _ b _ | .releaseMsg _ b | .commitVisit _ b => some b
  | _ => none

/-- Class-1 work waits at a bank: no unit of another class starts there unless forced. -/
def State.demandAt (s : State) (g : Nat) : Bool := s.pending.any (fun e => s.demandBank e == some g)

/-- The class of a unit and the bank at which it runs. -/
def State.unitBank (s : State) : Instr → Option (Nat × Nat)
  | .collapse l => some (2, s.anchor l)
  | .replicaInvalidation l r => some (2, s.standIn l r)
  | .moveStart l => (s.dir? l).map (fun d => (3, d.hold))
  | .moveInstall l => (s.dir? l).bind (fun d => d.mtgt.map (fun t => (3, t)))
  | _ => none

/-- Work of a higher class than `cls` waits at a bank. -/
def State.higherAt (s : State) (cls g : Nat) : Bool :=
  s.demandAt g || s.pending.any (fun e => (s.unitBank e).any (fun u => decide (u.1 < cls ∧ u.2 = g)))

/-- A unit of a class at a bank: it waits behind the work of every higher class. -/
def State.unitAt (s : State) (cls g : Nat) (e : Instr) (unit : State → State) : State := if s.higherAt cls g then s.push e else unit s

/-! ### Moves (R258, R259) -/

/-- A move that may not take place is cancelled. -/
def State.cancelMove (s : State) (line : Nat) : State := s.modDir line (fun d => { d with mtgt := none })

/-- Room at the target of a move: a line that goes home may take any line's place that R264 lets go. -/
def State.targetRoom (s : State) (t line : Nat) (home : Bool) : Option State :=
  if home then (match s.makeRoom t line with | .free s1 => some s1 | _ => none) else s.moveRoom t line

/-- A move starts: the anchor sets Moving, and the old bank sends the line. -/
def State.startMove (s : State) (line : Nat) : State :=
  match s.dir? line with
  | none => s
  | some d =>
    match d.mtgt with
    | none => s
    | some t =>
      if d.st = .moving then s
      else if d.st = .collapsing then s.push (.moveStart line)
      else
        let home := decide (t = s.anchor line)
        if t = d.hold ∨ s.trackedLine line ∨ (!home && (d.fixed line || d.hostHeld || !d.rmask.isEmpty)) then (s.cancelMove line).replay line
        else match s.targetRoom t line home with
          | some s2 =>
            if (s2.dir? line).isNone then s2 else (s2.modDir line (fun d => { d with st := .moving })).push (.moveInstall line)
          -- no line of the target set may go: the counter is reset
          | none => ((s.cancelMove line).modDir line (fun d => { d with use := 0 })).replay line

/-- MOVE_START (R259). -/
def execMoveStart (line : Nat) (s : State) : Result :=
  let s1 := s.taken (.moveStart line)
  .next (s1.unitAt 3 (((s1.dir? line).map (·.hold)).getD (s1.anchor line)) (.moveStart line) (·.startMove line))

/-- The target installs the line and tells the anchor. -/
def State.installMove (s : State) (line : Nat) : State :=
  match (s.dir? line).bind (fun d => if d.st = .moving then d.mtgt else none) with
  | none => s
  | some t => (s.modBank t (fun b => { b with lru := line :: b.lru.filter (· ≠ line) })).push (.moveComplete line)

/-- MOVE_INSTALL (R259). -/
def execMoveInstall (line : Nat) (s : State) : Result :=
  let s1 := s.taken (.moveInstall line)
  .next (s1.unitAt 3 (((s1.dir? line).bind (·.mtgt)).getD (s1.anchor line)) (.moveInstall line) (·.installMove line))

/-- MOVE_COMPLETE: the anchor records the new bank, sets Resident and replays what it holds; the old bank drops its copy. -/
def execMoveComplete (line : Nat) (s : State) : Result :=
  let s1 := s.taken (.moveComplete line)
  match s1.dir? line with
  | none => .next s1
  | some d =>
    match d.mtgt with
    | none => .next s1
    | some t =>
      if d.st ≠ .moving || !(s1.bank t).lru.contains line then .next s1
      else
        let s2 := s1.modBank d.hold (fun b => { b with lru := b.lru.filter (· ≠ line) })
        .next ((s2.modDir line (fun d => { d with hold := t, st := .resident, mtgt := none })).replay line)

/-! ### Replicas and collapses (R260, R261) -/

/-- REPLICA_DROP_NOTICE: the bit of an evicted replica clears. -/
def execReplicaDropNotice (line reticle : Nat) (s : State) : Result :=
  let s1 := s.taken (.replicaDropNotice line reticle)
  match s1.dir? line with
  | some d =>
    if d.st != .collapsing && (SMap.get? reticle d.replicas).isNone then
      .next (s1.modDir line (fun d => { d with rmask := NSet.drop reticle d.rmask }))
    else .next s1
  | none => .next s1

/-- Commit visits that a bank has not answered look at their lines again (R318). -/
def State.retryVisits (s : State) (bank : Nat) : State :=
  (s.bank bank).visits.foldl (fun s v =>
    if ((s.regionWarp? v.region).map (fun w => w.region.granted.contains bank)).getD true then s
    else s.pushOnce (.commitGrant v.region bank)) s

/-- The collapse of a line has completed: the mask is zero, the writers are told, what waited goes on. -/
def State.collapseDone (s : State) (line : Nat) : State :=
  (((s.modDir line (fun d => { d with rmask := [], unacked := [], st := .resident })).tellWriters line).replay line).retryVisits
    (s.anchor line)

/-- A collapse starts: the anchor sets Collapsing and sends an invalidation to every reticle of the mask. -/
def State.startCollapse (s : State) (line : Nat) : State :=
  match s.dir? line with
  | none => s
  | some d =>
    if d.st = .collapsing then s
    else if d.st = .moving then s.push (.collapse line)
    else if d.rmask.isEmpty then s.collapseDone line
    else
      (s.modDir line (fun d => { d with st := .collapsing, unacked := d.rmask })).pushAll
        (d.rmask.map (fun r => .replicaInvalidation line r))

/-- COLLAPSE (R261). -/
def execCollapse (line : Nat) (s : State) : Result :=
  let s1 := s.taken (.collapse line)
  .next (s1.unitAt 2 (s1.anchor line) (.collapse line) (·.startCollapse line))

/-- A replica is removed, and its acknowledgement leaves. -/
def State.invalidateReplica (s : State) (line reticle : Nat) : State :=
  match s.dir? line with
  | none => s
  | some d =>
    if d.st ≠ .collapsing || !d.unacked.contains reticle then s
    else
      ((s.modDir line (fun d => { d with replicas := SMap.del reticle d.replicas })).modBank (s.standIn line reticle)
        (fun b => if d.hold = s.standIn line reticle then b else { b with lru := b.lru.filter (· ≠ line) })).push (.collapseAck line reticle)

/-- REPLICA_INVALIDATION (R261). -/
def execReplicaInvalidation (line reticle : Nat) (s : State) : Result :=
  let s1 := s.taken (.replicaInvalidation line reticle)
  .next (s1.unitAt 2 (s1.standIn line reticle) (.replicaInvalidation line reticle) (·.invalidateReplica line reticle))

/-- COLLAPSE_ACK: an acknowledgement arrives; with all in, the collapse has completed. -/
def execCollapseAck (line reticle : Nat) (s : State) : Result :=
  let s1 := s.taken (.collapseAck line reticle)
  match s1.dir? line with
  | none => .next s1
  | some d =>
    if d.st ≠ .collapsing || !d.unacked.contains reticle || (SMap.get? reticle d.replicas).isSome then .next s1
    else
      let s2 := s1.modDir line (fun d => { d with unacked := NSet.drop reticle d.unacked })
      if (NSet.drop reticle d.unacked).isEmpty then .next (s2.collapseDone line) else .next s2

/-- ANCHOR_UNPIN (R263). -/
def execAnchorUnpin (line : Nat) (s : State) : Result :=
  let s1 := s.taken (.anchorUnpin line)
  let n := (s1.bank (s1.anchor line)).count
  .next (s1.modDir line (fun d => if 4096 ≤ (n + 2 ^ 13 - d.astamp) % 2 ^ 13 then { d with apin := false } else d))

/-! ### Forced units (R266) -/

/-- The oldest waiting unit of class 2 or 3 at a bank runs before the demand accesses that wait. -/
def State.forceUnit (s : State) (bank cls : Nat) : State :=
  match s.pending.find? (fun e => s.unitBank e == some (cls, bank)) with
  | some (.collapse l) => (s.taken (.collapse l)).startCollapse l
  | some (.replicaInvalidation l r) => (s.taken (.replicaInvalidation l r)).invalidateReplica l r
  | some (.moveStart l) => (s.taken (.moveStart l)).startMove l
  | some (.moveInstall l) => (s.taken (.moveInstall l)).installMove l
  | _ => s

end Sys2Proof.Machine
end

