-- ==== Sys2Proof/Machine/Access.lean ====
section
/-! DEFINITION. Global memory (R276 to R298): addresses, checks and coalescing, LD, ST, SLD, ATOM, RED, PREF, FENCE, WAITC and MONW, with the steps by which their answers come back. -/

namespace Sys2Proof.Machine

/-! ## Addresses (R278 to R281) -/

/-- The global address of a place. -/
def Ctx.gaddr (x : Ctx) (p : Nat) : Nat :=
  (x.a 2 p + ((BitVec.ofNat 32 (x.b 1 p)).signExtend 64).toNat * 2 ^ x.f.mb 10 8 + x.disp) % 2 ^ 64

/-- What is wrong with a lane's access. -/
inductive LaneTrouble where
  | misaligned | bounds | page (absent : Bool) | poison
  /-- The walk for its page waits at a line. -/
  | walk (line : Nat)
deriving DecidableEq, Repr

/-- One lane's access, or a part of it that lies in one sector. -/
structure GPart where
  lane : Nat
  va   : Nat
  pa   : Nat
  n    : Nat
  dom  : Nat
  hint : Nat
deriving DecidableEq, Repr

/-- The lane that stands for a place in a fault: on the scalar path the lowest-LID executing one (R103). -/
def Ctx.laneOf (x : Ctx) (p : Nat) : Nat := if p = scalarLane then x.lanes.headD 0 else p

/-- Raises the fault of a lane; where the walk for its page is held back, the group waits and issues again. -/
def State.trouble (s : State) (x : Ctx) (p va access : Nat) : LaneTrouble → State
  | .misaligned => s.laneFault x causeMisaligned va (x.laneOf p) access
  | .bounds => s.laneFault x causeBounds va (x.laneOf p) access
  | .poison => s.laneFault x causePoison va (x.laneOf p) access
  | .page absent => s.lanePage x absent va (x.laneOf p) access
  | .walk line => (s.askLine line false [0, 1] x.w.tenant).waitAt x (.lineStops line false)

/-- An atomic, a release store or a store written through of a core's tenant to a line is on its way: reads of the line
go to Caldera, behind it. -/
def State.lineBusy (s : State) (c tenant line : Nat) : Bool :=
  s.caldera.requests.any (fun e =>
    decide (e.2.core = c ∧ e.2.tenant = tenant ∧ e.2.line = line) &&
      (match e.2.kind with
        | .atomic _ _ => true
        | .write rel => rel || decide (e.2.access ≠ 0)
        | _ => false))

/-- A read of a warp, of a region it has begun among them, is on its way to a sector: a later read of the warp goes behind it, and returns
nothing older (R336). -/
def State.readAhead (s : State) (c slot line sector : Nat) : Bool :=
  s.caldera.requests.any (fun e =>
    decide (e.2.core = c ∧ e.2.slot = slot ∧ e.2.line = line ∧ e.2.access ≠ 0) &&
      (match e.2.kind with
        | .read _ => decide (e.2.sector = sector)
        | .tracked _ => true
        | _ => false))

/-- The L1 gives some bytes of a sector to a load of a warp: its dirty bytes, or valid ones where nothing that the load has to follow
is on its way. -/
def State.l1Gives (s : State) (c slot tenant : Nat) (l : L1Line) (need : LineMask) (sector : Nat) : Bool :=
  need &&& ~~~l.dirty = 0 || (need &&& ~~~l.valid = 0 && !s.lineBusy c tenant l.line && !s.readAhead c slot l.line sector)

/-- A load of bytes in one sector meets no poison in the tenant's copy of the L1: it is served there, and the sector is there whole, so that
no byte of it comes with the poison (R273). `fresh`: an acquiring load, for which a clean sector is read at Caldera (R285). -/
def State.inPlace (s : State) (core slot tenant pa n : Nat) (fresh : Bool) : Bool :=
  match s.l1Find core tenant (lineOf pa) with
  | none => false
  | some l =>
    let m := sectorMask (pa / 32 % 4)
    m &&& ~~~l.valid = 0 && s.l1Gives core slot tenant l (byteMask pa n) (pa / 32 % 4) && !(fresh && l.dirty &&& m = 0)

/-- Poisoned bytes that a load consumes: those that the tenant's copy in the L1 does not give. DEDUCED, log entry 35. -/
def State.consumesPoison (s : State) (core slot tenant pa n : Nat) (fresh : Bool := false) : Bool :=
  s.poisoned pa n && !s.inPlace core slot tenant pa n fresh

/-- What serves a region's later reads of a line that it has read (R310): the bytes that are valid in the tenant's copy of the L1, as its
tracked read brought them, and over them what the core's warps have stored since. DEDUCED, log entry 44. -/
def State.regionRead (s : State) (x : Ctx) (line : Nat) : Option (LineMask × LineData) :=
  match (s.warp? x.core x.slot).bind (fun w => SMap.get? line w.region.reads), s.l1Find x.core x.w.tenant line with
  | some d, some l => some (l.valid, mergeMask d l.data l.stored)
  | _, _ => none

/-- The bytes of a line that a region already has: in its locked line (R473), else in the copy that serves its later reads. -/
def State.regionBytes (s : State) (x : Ctx) (line : Nat) : Option (LineMask × LineData) :=
  match s.l1Locked x.core x.slot line with
  | some l => some (l.valid, l.data)
  | none => s.regionRead x line

/-- The region has read or written the line. -/
def State.regionKnows (s : State) (x : Ctx) (line : Nat) : Bool :=
  (s.l1Locked x.core x.slot line).isSome ||
    (((s.warp? x.core x.slot).bind (fun w => SMap.get? line w.region.reads)).isSome)

/-- A lane's read consumes poison (R273): an atomic reads at the anchor, a region where R310 sends it, a load where the L1 has no copy. -/
def Ctx.meetsPoison (x : Ctx) (s : State) (dom pa n : Nat) : Bool :=
  let atAnchor : Bool := match x.i with | .atom _ => true | .red _ => true | _ => false
  let acquiring : Bool := match x.i with | .ld f => f.mb 6 6 == 1 && dom != domCore | _ => false
  if atAnchor then s.poisoned pa n
  else if x.w.region.active then s.poisoned pa n && byteMask pa n &&& ~~~((s.regionBytes x (lineOf pa)).map Prod.fst).getD 0 != 0
  else s.consumesPoison x.core x.slot x.w.tenant pa n acquiring

/-- Translates one part of an access, with the checks of R280; `reads` consumes poison. -/
def Ctx.gpart (x : Ctx) (s : State) (perm : Perm) (reads : Bool) (hint p va n : Nat) : Except LaneTrouble GPart :=
  match s.translate x.core x.w.tenant va perm x.w.special.priv with
  | .absent => .error (.page true)
  | .fatal => .error (.page false)
  | .stops line => .error (.walk line)
  | .ok pa pte =>
    let t := s.tenant x.w.tenant
    if reads && x.meetsPoison s (domainOf t va) pa n then .error .poison
    else
      .ok { lane := p, va := va, pa := pa, n := n, dom := domainOf t va, hint := effectiveHint t va pte hint (perm == .read) }

/-- A fault found in a lane: the place, the address, what is wrong. -/
structure Bad where
  place : Nat
  va    : Nat
  what  : LaneTrouble
deriving DecidableEq, Repr

/-- The parts of an access of `n` bytes by every place, the places in ascending LID; the first faulting lane's fault. -/
def Ctx.gparts (x : Ctx) (s : State) (perm : Perm) (reads : Bool) (n hint : Nat) : List Nat → Except Bad (List GPart)
  | [] => .ok []
  | p :: t =>
    let va := x.gaddr p
    if va % n ≠ 0 then .error { place := p, va := va, what := .misaligned }
    else match x.gpart s perm reads hint p va n with
      | .error e => .error { place := p, va := va, what := e }
      | .ok g =>
        match x.gparts s perm reads n hint t with
        | .error e => .error e
        | .ok l => .ok (g :: l)

/-- Uses the pages of an instruction, in ascending virtual order (R398). -/
def State.keepPages (s : State) (x : Ctx) (vas : List Nat) : State :=
  (vas.foldl (fun m va => NSet.add (va / 2 ^ 17) m) []).foldl (fun s v => s.usePage x.core x.w.tenant (v * 2 ^ 17)) s

/-- The domains of the executing lanes, from their addresses alone. -/
def Ctx.laneDomains (x : Ctx) (s : State) : List Nat :=
  let t := s.tenant x.w.tenant
  x.places.map (fun p => domainOf t (x.gaddr p))

/-- Counters that an access instruction raises: `main`, and PEER for lanes of domain PEER (R282). -/
def Ctx.pathsOf (x : Ctx) (s : State) (main : Path) : List Path :=
  let ds := x.laneDomains s
  (if ds.any (· ≠ domPeer) then [main] else []) ++ (if ds.contains domPeer then [.peer] else [])

/-- An address that R312 forbids inside a region: domain HOST or PEER, or outside the HBM range. -/
def Ctx.outsideRegion (x : Ctx) (s : State) (perm : Perm) (va : Nat) : Bool :=
  let d := domainOf (s.tenant x.w.tenant) va
  decide (d = domHost ∨ d = domPeer) ||
    (match s.translate x.core x.w.tenant va perm x.w.special.priv with
      | .ok pa _ => physKind pa != .hbm
      | _ => false)

def lateGlobal (main : Path) (perm : Perm) (x : Ctx) (s : State) : Late :=
  { paths := x.pathsOf s main,
    forbidden := x.w.region.active && x.places.any (fun p => x.outsideRegion s perm (x.gaddr p)) }

/-! ## The Nyrus Link (R362) -/

/-- Forms a peer request; it leaves in a step of its own. -/
def State.nyrusSend (s : State) (r : NyrusRequest) (c : Nat) : State × Nat :=
  let id := ((s.core? c).map (·.nextId)).getD 1
  ((s.modCore c (fun k => { k with nextId := k.nextId + 1, nyrus := k.nyrus ++ [{ r with id := id }] })).push
    (.nyrusRequestLeave c id), id)

/-- Some peer request of the listed accesses has not left. -/
def Core.unsent (k : Core) (slot : Nat) (ids : NSet) : Bool :=
  k.nyrus.any (fun r => decide (r.slot = slot) && ids.contains r.access && r.sent.isNone)

/-! ## What every access does after its requests are sent -/

/-- Stages of a held access: waiting for its peer requests to leave, and for its return. -/
def stLeave : Nat := 4
def stReturn : Nat := 5

/-- Runs the acquire steps and completes. -/
def acquireDone (x : Ctx) (doms : List Nat) (s : State) : State := (s.acquireAll x.core x.w.tenant doms).complete x

/-- The requests have left: an acquiring access holds its group until it has returned. -/
def afterLeave (x : Ctx) (ids : NSet) (doms : List Nat) (s : State) : State :=
  if doms.isEmpty then s.complete x
  else s.holdAt x .returns { stage := stReturn, acks := ids, doms := doms }

/-- The requests are sent. `doms`: where acquire steps are to follow. -/
def afterSend (x : Ctx) (ids : NSet) (doms : List Nat) (s : State) : State :=
  if ((s.core? x.core).map (fun k => k.unsent x.slot ids)).getD false then
    s.holdAt x .leave { stage := stLeave, acks := ids, doms := doms }
  else afterLeave x ids doms s

/-- Goes on with an access that was held. -/
def accessOn (x : Ctx) (s : State) : State :=
  if x.prog.stage = stLeave then afterLeave x x.prog.acks x.prog.doms s else acquireDone x x.prog.doms s

/-! ## Loads -/

/-- The sectors of parts, in ascending physical address, each once. -/
def sectorsOf (parts : List GPart) : List Nat :=
  (parts.filter (fun p => p.n ≠ 0)).foldl (fun m p => NSet.add (p.pa / 32) m) []

/-- The bytes of a line that the parts in one sector need. -/
def needMask (parts : List GPart) (sector : Nat) : LineMask :=
  (parts.filter (fun p => decide (p.n ≠ 0 ∧ p.pa / 32 = sector))).foldl (fun m p => m ||| byteMask p.pa p.n) 0

/-- What a sector of an access found in the L1: bytes taken there, and whether it has to ask Caldera. -/
structure SectorLook where
  taken : SMap Byte
  miss  : Bool

def State.lookSector (s : State) (c slot tenant : Nat) (parts : List GPart) (sector : Nat) : SectorLook :=
  let line := sector / 4
  let need := needMask parts sector
  match s.l1Find c tenant line with
  | none => { taken := [], miss := true }
  | some l =>
    if s.l1Gives c slot tenant l need (sector % 4) then { taken := lineCells line need l.data, miss := false }
    else { taken := lineCells line (need &&& l.dirty) l.data, miss := true }

/-- A sector that a warp looks for in the L1: a hit, or a miss with what R48 makes of it (R389). -/
def State.countLook (s : State) (x : Ctx) (hit : Bool) (line : Nat) : State :=
  if hit then s.count x.core x.slot 0x06 1 else (s.l1Miss x.core x.slot line).count x.core x.slot 0x07 1

/-- Sends the read of one sector. -/
def State.sendRead (s : State) (x : Ctx) (access : Nat) (parts : List GPart) (sector : Nat) : State × Nat :=
  let p := parts.find? (fun p => p.pa / 32 = sector)
  s.send
    { core := x.core, slot := x.slot, access := access, kind := .read true, tenant := x.w.tenant, line := sector / 4,
      sector := sector % 4, hint := (p.map (·.hint)).getD 0, va := (p.map (·.va)).getD 0, quad := quadOf x.slot }

/-- One sector of a load: a hit gives its bytes at once, a miss asks Caldera. -/
def State.loadSector (x : Ctx) (access : Nat) (parts : List GPart) (r : State × SMap Byte × NSet) (sector : Nat) :
    State × SMap Byte × NSet :=
  let (s, bytes, needs) := r
  let look := s.lookSector x.core x.slot x.w.tenant parts sector
  let bytes1 := look.taken.foldl (fun m e => SMap.put e.1 e.2 m) bytes
  let va := ((parts.find? (fun p => p.pa / 32 = sector)).map (·.va)).getD 0
  let s1 := (s.l1Touch x.core x.w.tenant (sector / 4) va).countLook x (!look.miss) (sector / 4)
  if look.miss then
    let (s2, id) := s1.sendRead x access parts sector
    (s2, bytes1, NSet.add (needCaldera id) needs)
  else (s1, bytes1, needs)

/-- The virtual address at which the first of some parts touches a line. -/
def lineVa (parts : List GPart) (line : Nat) : Nat :=
  ((parts.find? (fun p => decide (p.n ≠ 0 ∧ lineOf p.pa = line))).map (·.va)).getD 0

/-- Forms the peer reads of an access, one for each line. -/
def State.peerReads (s : State) (x : Ctx) (access : Nat) (parts : List GPart) : State × NSet :=
  let lines := ((parts.filter (fun p => p.n ≠ 0)).foldl (fun m p => NSet.add (lineOf p.pa) m) [])
  lines.foldl (fun (r : State × NSet) line =>
    let (s1, id) := r.1.nyrusSend { id := 0, slot := x.slot, access := access, op := 0, line := line, va := lineVa parts line } x.core
    (s1, NSet.add (needNyrus id) r.2)) (s, [])

/-- The LID of the lowest-LID executing lane. -/
def Ctx.firstLid (x : Ctx) : Nat := (x.lanes.head?.map x.lid).getD 0

/-- The pages that parts have been translated through. -/
def pagesOf (parts : List GPart) : NSet := parts.foldl (fun m p => NSet.add ((p.va + p.n - 1) / 2 ^ 17) (NSet.add (p.va / 2 ^ 17) m)) []

/-- Starts a load on a path: raises the counter, asks for what the L1 does not hold. -/
def State.startLoad (s : State) (x : Ctx) (path : Path) (kind : AccessKind) (regs : Nat) (parts : List GPart) : State × Nat :=
  let id := ((s.warp? x.core x.slot).map (·.nextAccess)).getD 1
  let here := parts.filter (fun p => physKind p.pa != .peer)
  let far := parts.filter (fun p => physKind p.pa == .peer)
  let (s1, bytes, needs) := (sectorsOf here).foldl (State.loadSector x id here) (s, [], [])
  let (s2, needs2) := s1.peerReads x id far
  let a : Access :=
    { id := id, path := path, kind := kind, dst := x.f.dst.toNat, regs := regs,
      parts := parts.map (fun p => (p.lane, p.pa, p.n)), needs := needs2.foldl (fun m k => NSet.add k m) needs,
      bytes := bytes, firstLid := x.firstLid, pages := pagesOf parts }
  ((s2.modWarp x.core x.slot (·.addAccess a)).dueReturn x.core x.slot id, id)

/-- Splits parts by counter: those whose domain is PEER count on PEER. -/
def peerParts (parts : List GPart) : List GPart := parts.filter (fun p => p.dom = domPeer)
def ownParts (parts : List GPart) : List GPart := parts.filter (fun p => p.dom ≠ domPeer)

/-- Starts a load on the counters it uses. -/
def State.startLoads (s : State) (x : Ctx) (kind : AccessKind) (regs : Nat) (parts : List GPart) : State × NSet :=
  [(Path.ldg, ownParts parts), (Path.peer, peerParts parts)].foldl (fun (r : State × NSet) e =>
    if e.2.isEmpty then r
    else
      let (s1, id) := r.1.startLoad x e.1 kind regs e.2
      (s1, r.2 ++ [id])) (s, [])

/-! ### Inside a region (R310, R311, R473) -/

/-- The identity of the warp's current region. -/
def Ctx.region (x : Ctx) : Nat := regionId x.core x.slot x.w.region.epoch

/-- Writes back the tenant's dirty bytes of a line and keeps them clean. -/
def State.cleanLine (s : State) (c by_ tenant line : Nat) : State :=
  match s.l1Find c tenant line with
  | some l => ((s.writeBack c by_ l false).1).modL1 c (fun q => q.isCopy tenant line) L1Line.cleaned
  | none => s

/-- A region's own request to an anchor carries its bounds (R305). -/
def State.sendTracked (s : State) (x : Ctx) (access line va : Nat) (reads : Bool) (hint : Nat) : State × Nat :=
  let r := ((s.warp? x.core x.slot).map (·.region)).getD {}
  s.send
    { core := x.core, slot := x.slot, access := access, kind := if reads then .tracked x.region else .intent x.region,
      tenant := x.w.tenant, line := line, sector := 0, hint := hint, va := va, lo := r.alo, hi := r.ahi, quad := quadOf x.slot }

/-- One line of a region's load. The first read of a line bypasses the L1, and is neither a hit nor a miss there. DEDUCED, log entry 104. -/
def State.regionLoadLine (x : Ctx) (access : Nat) (parts : List GPart) (r : State × SMap Byte × NSet) (line : Nat) :
    State × SMap Byte × NSet :=
  let (s, bytes, needs) := r
  let need := (parts.filter (fun p => decide (p.n ≠ 0 ∧ lineOf p.pa = line))).foldl (fun m p => m ||| byteMask p.pa p.n) (0 : LineMask)
  let (have_, data) := (s.regionBytes x line).getD (0, 0)
  let bytes1 := (lineCells line (need &&& have_) data).foldl (fun m e => SMap.put e.1 e.2 m) bytes
  let looks := if s.regionKnows x line then (List.range 4).filter (fun k => need &&& sectorMask k != 0) else []
  let s := looks.foldl (fun s k => s.countLook x (need &&& sectorMask k &&& ~~~have_ == 0) line) s
  if need &&& ~~~have_ = 0 then (s, bytes1, needs)
  else
    let p := parts.find? (fun p => lineOf p.pa = line)
    let s1 := s.cleanLine x.core x.slot x.w.tenant line
    let (s2, id) := s1.sendTracked x access line ((p.map (·.va)).getD 0) true ((p.map (·.hint)).getD 0)
    (s2, bytes1, NSet.add (needCaldera id) needs)

/-- The distinct lines of parts, ascending. -/
def linesOf (parts : List GPart) : List Nat :=
  (parts.filter (fun p => p.n ≠ 0)).foldl (fun m p => NSet.add (lineOf p.pa) m) []

/-- A load by a region: lines that it has are served from them, others are read at their anchors. -/
def State.regionLoad (s : State) (x : Ctx) (kind : AccessKind) (regs : Nat) (parts : List GPart) : State :=
  let id := ((s.warp? x.core x.slot).map (·.nextAccess)).getD 1
  let (s1, bytes, needs) := (linesOf parts).foldl (State.regionLoadLine x id parts) (s, [], [])
  let a : Access :=
    { id := id, path := .ldg, kind := kind, dst := x.f.dst.toNat, regs := regs,
      parts := parts.map (fun p => (p.lane, p.pa, p.n)), needs := needs, bytes := bytes, firstLid := x.firstLid,
      pages := pagesOf parts }
  (s1.modWarp x.core x.slot (·.addAccess a)).dueReturn x.core x.slot id

/-- Takes the region's locked line for a first write (R473): the tenant's copy is written back and invalidated, its valid bytes of a line
that the region has read are carried over. None where no way is free of locked lines (R311). -/
def State.lockLine (s : State) (x : Ctx) (line va : Nat) : Option State :=
  if (s.l1Locked x.core x.slot line).isSome then some s
  else
    let read := s.regionRead x line
    let s1 := (s.cleanLine x.core x.slot x.w.tenant line).modCore x.core (fun k =>
      { k with l1 := k.l1.filter (fun l => !l.isCopy x.w.tenant line) })
    (s1.l1Alloc x.core x.slot x.w.tenant va line (some x.slot)).map (fun s2 =>
      match read with
      | some (m, d) => s2.modL1 x.core (fun l => decide (l.line = line ∧ l.lock = some x.slot)) (fun l => { l with data := d, valid := m })
      | none => s2)

/-- Merges bytes into a line: they are valid and dirty. -/
def L1Line.store (l : L1Line) (cells : SMap Byte) : L1Line :=
  let m := cellsMask l.line cells
  { l with data := mergeCells l.line l.data cells, valid := l.valid ||| m, dirty := l.dirty ||| m, stored := l.stored ||| m }

/-- One lane's store by a region: buffered in the locked line; the first write to a line sends an intent. -/
def State.regionStorePart (x : Ctx) (access : Nat) (r : Option (State × NSet)) (e : GPart × Nat) : Option (State × NSet) :=
  r.bind (fun (s, needs) =>
    let line := lineOf e.1.pa
    (s.lockLine x line e.1.va).map (fun s1 =>
      let s2 := s1.modL1 x.core (fun l => decide (l.line = line ∧ l.lock = some x.slot)) (·.store (cellsOf e.1.pa e.1.n e.2))
      let known := (((s2.warp? x.core x.slot).map (fun w => w.region.writes.contains line))).getD false
      if known then (s2, needs)
      else
        let s3 := s2.modWarp x.core x.slot (fun w => { w with region := { w.region with writes := NSet.add line w.region.writes } })
        let (s4, id) := s3.sendTracked x access line e.1.va false e.1.hint
        (s4, NSet.add (needCaldera id) needs)))

/-- A sector of a region's store: a hit where the region has bytes of it. -/
def State.countRegionStore (s0 : State) (x : Ctx) (s : State) (sector : Nat) : State :=
  s.countLook x (((s0.regionBytes x (sector / 4)).map Prod.fst).getD 0 &&& sectorMask (sector % 4) != 0) (sector / 4)

/-- A store by a region (R310); one that needs a way where every way is locked aborts it with CAPACITY (R311). -/
def State.regionStore (s : State) (x : Ctx) (parts : List (GPart × Nat)) : State :=
  let id := ((s.warp? x.core x.slot).map (·.nextAccess)).getD 1
  let s0 := (sectorsOf (parts.map Prod.fst)).foldl (s.countRegionStore x) s
  match parts.foldl (State.regionStorePart x id) (some (s0, [])) with
  | none => s0.abortLater x.core x.slot abCapacity 0
  | some (s1, needs) =>
    let a : Access := { id := id, path := .stg, needs := needs, firstLid := x.firstLid, pages := pagesOf (parts.map Prod.fst) }
    (s1.modWarp x.core x.slot (·.addAccess a)).dueReturn x.core x.slot id

/-! ### LD and SLD -/

/-- Bytes and sign of the width codes (R277). -/
def widthBytes (c : Nat) : Nat :=
  match c with
  | 0 => 4 | 1 => 8 | 2 => 16 | 3 => 1 | 4 => 1 | _ => 2
def widthSigned (c : Nat) : Bool := decide (c = 4 ∨ c = 6)

/-- Before an LD.acq reads, the lane's L1 sector is invalidated where it is clean and the domain is RETICLE or wider
(R285). -/
def State.freshen (s : State) (x : Ctx) (parts : List GPart) : State :=
  (parts.filter (fun p => p.dom ≠ domCore)).foldl (fun s p =>
    s.modL1 x.core (fun l => l.isCopy x.w.tenant (lineOf p.pa)) (fun l => l.invalidateClean (sectorMask (p.pa / 32 % 4)))) s

/-- LD (R284, R285). -/
def ldEff (x : Ctx) (s : State) : State :=
  let n := widthBytes (x.f.mb 3 0)
  let acq := x.f.mb 6 6 == 1
  if x.prog.stage ≠ 0 then accessOn x s
  else if x.places.isEmpty then s.complete x
  else
    match x.gparts s .read true n (x.f.mb 5 4) x.places with
    | .error e => s.trouble x e.place e.va accRead e.what
    | .ok parts =>
      let s1 := s.keepPages x (parts.map (·.va))
      let kind : AccessKind := .load n (widthSigned (x.f.mb 3 0))
      let regs := widthRegs (x.f.mb 3 0)
      if x.w.region.active then (s1.regionLoad x kind regs parts).complete x
      else
        let s2 := if acq then s1.freshen x parts else s1
        let (s3, ids) := s2.startLoads x kind regs parts
        afterSend x ids (if acq then domOrder (parts.map (·.dom)) else []) s3

def execLd (f : LX) (s : State) : Result := issue (.ld f) (lateGlobal .ldg .read) ldEff s

/-- The pieces of a string fragment of `n` bytes, each in one sector (R213). -/
def stringPieces (va n : Nat) : List (Nat × Nat) :=
  let first := min n (32 - va % 32)
  (if first = 0 then [] else [(va, first)]) ++ (if first < n then [(va + first, n - first)] else [])

/-- The first piece of a lane's fragment whose page does not translate. -/
def Ctx.stringPage (x : Ctx) (s : State) (p : Nat) (l : List (Nat × Nat)) : Option Bad :=
  l.findSome? (fun e =>
    match s.translate x.core x.w.tenant e.1 .read x.w.special.priv with
    | .ok _ _ => none
    | .absent => some { place := p, va := e.1, what := .page true }
    | .fatal => some { place := p, va := e.1, what := .page false }
    | .stops line => some { place := p, va := e.1, what := .walk line })

/-- The parts of one lane's fragment. -/
def Ctx.stringParts (x : Ctx) (s : State) (p : Nat) : List (Nat × Nat) → Except Bad (List GPart)
  | [] => .ok []
  | (va, n) :: t =>
    match x.gpart s .read true (x.f.mb 1 0) p va n with
    | .error e => .error { place := p, va := va, what := e }
    | .ok g =>
      match x.stringParts s p t with
      | .error e => .error e
      | .ok l => .ok (g :: l)

/-- The address and the length of a lane's fragment. -/
def Ctx.stringAddr (x : Ctx) (p : Nat) : Nat := x.a 2 p
def Ctx.stringLength (x : Ctx) (p : Nat) : Nat := min (x.b 1 p) 16

/-- The parts of one lane's fragment, or its fault: Page Fault of either piece comes before Poison (R106). -/
def Ctx.stringOf (x : Ctx) (s : State) (p : Nat) : Except Bad (List GPart) :=
  let l := stringPieces (x.stringAddr p) (x.stringLength p)
  match x.stringPage s p l with
  | some e => .error e
  | none => x.stringParts s p l

/-- The parts of every lane; a lane of length 0 has an empty part, so that its run is written. -/
def Ctx.allStrings (x : Ctx) (s : State) : List Nat → Except Bad (List GPart)
  | [] => .ok []
  | p :: t =>
    match x.stringOf s p with
    | .error e => .error e
    | .ok l =>
      match x.allStrings s t with
      | .error e => .error e
      | .ok m => .ok ((if l.isEmpty then [{ lane := p, va := 0, pa := 0, n := 0, dom := domDevice, hint := 0 }] else l) ++ m)

/-- SLD counts on LDG, and inside a region its bytes must be tracked ones (R213, R312). -/
def lateSld (x : Ctx) (s : State) : Late :=
  { paths := if x.places.isEmpty then [] else [.ldg],
    forbidden := x.w.region.active && x.places.any (fun p =>
      (stringPieces (x.stringAddr p) (x.stringLength p)).any (fun e => x.outsideRegion s .read e.1)) }

/-- SLD (R213). -/
def sldEff (x : Ctx) (s : State) : State :=
  if x.prog.stage ≠ 0 then accessOn x s
  else if x.places.isEmpty then s.complete x
  else
    match x.allStrings s x.places with
    | .error e => s.trouble x e.place e.va accRead e.what
    | .ok parts =>
      let s1 := s.keepPages x ((parts.filter (fun p => p.n ≠ 0)).map (·.va))
      if x.w.region.active then (s1.regionLoad x .stringLoad 4 parts).complete x
      else
        let (s2, id) := s1.startLoad x .ldg .stringLoad 4 parts
        afterSend x [id] [] s2

def execSld (f : LX) (s : State) : Result := issue (.sld f) lateSld sldEff s

/-! ## Stores -/

/-- The mark of the issuing warp. -/
def Ctx.mark (x : Ctx) : Nat := x.w.mark x.slot

/-- One lane's plain store at the L1 (R252, R284): the line is allocated on a miss. Cells that no way takes are to be
written through. -/
def State.storePart (x : Ctx) (r : State × SMap Byte) (e : GPart × Nat) : State × SMap Byte :=
  let (s, through) := r
  let line := lineOf e.1.pa
  let t := x.w.tenant
  let cells := cellsOf e.1.pa e.1.n e.2
  let put (s : State) : State :=
    (s.modL1 x.core (fun l => l.isCopy t line) (fun l =>
      { (l.store cells) with writers := NSet.add x.mark l.writers, hint := e.1.hint })).l1Touch x.core t line e.1.va
  if (s.l1Find x.core t line).isSome then (put s, through)
  else match s.l1Alloc x.core x.slot t e.1.va line none with
    | some s1 => (put s1, through)
    | none => (s, cells.foldl (fun m c => SMap.put c.1 c.2 m) through)

/-- A fill of a sector is on its way to the core's tenant. -/
def State.fillComing (s : State) (c tenant sector : Nat) : Bool :=
  s.caldera.requests.any (fun e =>
    decide (e.2.core = c ∧ e.2.tenant = tenant ∧ e.2.line = sector / 4 ∧ e.2.sector = sector % 4) &&
      (match e.2.kind with | .read fill => fill | _ => false))

/-- A sector that a store finds in the L1: a hit; one that it does not: a miss (R389). -/
def State.countStore (s0 : State) (x : Ctx) (s : State) (sector : Nat) : State :=
  let there := ((s0.l1Find x.core x.w.tenant (sector / 4)).map (·.valid)).getD 0
  s.countLook x (there &&& sectorMask (sector % 4) != 0) (sector / 4)

/-- After a store, a sector whose other bytes the L1 does not hold is filled. -/
def State.fillAfterStore (x : Ctx) (parts : List GPart) (s : State) (sector : Nat) : State :=
  match s.l1Find x.core x.w.tenant (sector / 4) with
  | none => s
  | some l =>
    if sectorMask (sector % 4) &&& ~~~l.valid = 0 || s.fillComing x.core x.w.tenant sector then s
    else (s.sendRead x 0 parts sector).1

/-- Sends writes that go to Caldera, one for each sector, in ascending address (R281). -/
def State.sendWrites (s : State) (x : Ctx) (access : Nat) (rel : Bool) (hint : Nat) (va : Nat) (cells : SMap Byte) : State × NSet :=
  let sectors := cells.foldl (fun m e => NSet.add (e.1 / 32) m) []
  sectors.foldl (fun (r : State × NSet) sector =>
    let mine := cells.filter (fun e => e.1 / 32 = sector)
    let (s1, id) := r.1.send
      { core := x.core, slot := x.slot, access := access, kind := .write rel, tenant := x.w.tenant, line := sector / 4, sector := sector % 4,
        hint := hint, va := va, bytes := mine, writers := [x.mark], quad := quadOf x.slot }
    (s1, NSet.add (needCaldera id) r.2)) (s, [])

/-- Cells of stores in ascending LID: a later lane's bytes remain (R281). -/
def storeCells (parts : List (GPart × Nat)) : SMap Byte :=
  parts.foldl (fun m e => (cellsOf e.1.pa e.1.n e.2).foldl (fun m c => SMap.put c.1 c.2 m) m) []

/-- Forms the peer writes of an access, one for each line. -/
def State.peerWrites (s : State) (x : Ctx) (access : Nat) (parts : List (GPart × Nat)) : State × NSet :=
  let cells := storeCells parts
  let lines := cells.foldl (fun m e => NSet.add (lineOf e.1) m) []
  lines.foldl (fun (r : State × NSet) line =>
    let (s1, id) := r.1.nyrusSend
      { id := 0, slot := x.slot, access := access, op := 1, line := line, va := lineVa (parts.map Prod.fst) line,
        bytes := cells.filter (fun e => lineOf e.1 = line) } x.core
    (s1, NSet.add (needNyrus id) r.2)) (s, [])

/-- Starts a plain store on a path. -/
def State.startStore (s : State) (x : Ctx) (path : Path) (parts : List (GPart × Nat)) : State × Nat :=
  let id := ((s.warp? x.core x.slot).map (·.nextAccess)).getD 1
  let here := parts.filter (fun e => physKind e.1.pa != .peer)
  let far := parts.filter (fun e => physKind e.1.pa == .peer)
  let sectors := sectorsOf (here.map Prod.fst)
  let (s1, through) := here.foldl (State.storePart x) (sectors.foldl (s.countStore x) s, [])
  let s2 := sectors.foldl (State.fillAfterStore x (here.map Prod.fst)) s1
  let h := (here.head?.map (fun e => (e.1.hint, e.1.va))).getD (0, 0)
  let (s3, n1) := s2.sendWrites x id false h.1 h.2 through
  let (s4, n2) := s3.peerWrites x id far
  let a : Access :=
    { id := id, path := path, needs := n2.foldl (fun m k => NSet.add k m) n1, firstLid := x.firstLid, pages := pagesOf (parts.map Prod.fst) }
  ((s4.modWarp x.core x.slot (·.addAccess a)).dueReturn x.core x.slot id, id)

/-- The data of a store: the low bytes of the run (R277). -/
def Ctx.storeData (x : Ctx) (p : Nat) : Nat := x.c (widthRegs (x.f.mb 3 0)) p

/-! ### Waiting releases: what the instruction read when it issued -/

/-- Lanes of an access as numbers: place, address, physical address, bytes, domain, hint, operand, compare value. -/
def packLanes : List (GPart × Nat × Nat) → List Nat
  | [] => []
  | (g, x, c) :: t => g.lane :: g.va :: g.pa :: g.n :: g.dom :: g.hint :: x :: c :: packLanes t

def unpackLanes : List Nat → List (GPart × Nat × Nat)
  | lane :: va :: pa :: n :: dom :: hint :: x :: c :: t =>
    ({ lane := lane, va := va, pa := pa, n := n, dom := dom, hint := hint }, x, c) :: unpackLanes t
  | _ => []

/-- Raises the counters of an access that waits for its release: it waits for what is not sent yet. -/
def State.raiseWaiting (s : State) (x : Ctx) (main : Path) (kind : AccessKind) (dst regs : Nat) (parts : List (GPart × Nat × Nat)) : State :=
  let raise (s : State) (path : Path) (l : List (GPart × Nat × Nat)) : State :=
    if l.isEmpty then s
    else s.modWarp x.core x.slot (fun w => w.addAccess
      { id := w.nextAccess, path := path, kind := kind, dst := dst, regs := regs, needs := [0],
        parts := l.map (fun e => (e.1.lane, e.1.pa, e.1.n)), firstLid := x.firstLid, mask := x.mask,
        pages := pagesOf (l.map Prod.fst) })
  raise (raise s main (parts.filter (fun e => e.1.dom ≠ domPeer))) .peer (parts.filter (fun e => e.1.dom = domPeer))

/-- The accesses that an instruction has raised since it issued: the newest ones that wait to be sent. -/
def State.waitingAccess (s : State) (x : Ctx) (path : Path) : Nat :=
  (((s.warp? x.core x.slot).bind (fun w => w.accesses.find? (fun a => a.path == path && a.needs == [0] && a.mask == x.mask))).map (·.id)).getD 0

/-- The access has been sent: it waits for these. -/
def State.sentAccess (s : State) (x : Ctx) (id : Nat) (needs : NSet) : State :=
  (s.modWarp x.core x.slot (fun w => w.modAccess id (fun a => { a with needs := needs }))).dueReturn x.core x.slot id

/-- Sends a release store on one of its counters. -/
def State.sendRelStore (s : State) (x : Ctx) (path : Path) (parts : List (GPart × Nat × Nat)) : State × NSet :=
  if parts.isEmpty then (s, [])
  else
    let id := s.waitingAccess x path
    let l := parts.map (fun e => (e.1, e.2.1))
    let here := l.filter (fun e => physKind e.1.pa != .peer)
    let far := l.filter (fun e => physKind e.1.pa == .peer)
    let h := (here.head?.map (fun e => (e.1.hint, e.1.va))).getD (0, 0)
    let (s1, n1) := s.sendWrites x id true h.1 h.2 (storeCells here)
    let (s2, n2) := s1.peerWrites x id far
    (s2.sentAccess x id (n2.foldl (fun m k => NSet.add k m) n1), [id])

/-- The release steps of an ST.rel are done: it writes through (R286). -/
def sendRel (x : Ctx) (vals : List Nat) (s : State) : State :=
  let parts := unpackLanes vals
  let (s1, i1) := s.sendRelStore x .stg (parts.filter (fun e => e.1.dom ≠ domPeer))
  let (s2, i2) := s1.sendRelStore x .peer (parts.filter (fun e => e.1.dom = domPeer))
  afterSend x (i1 ++ i2) [] s2

/-- Goes on where a release has come. -/
def Release.cont (x : Ctx) (go : State → State) : Release → State
  | .wait s h p => s.holdAt x h p
  | .done s => go s

/-- ST (R284, R286). -/
def stEff (x : Ctx) (s : State) : State :=
  let n := widthBytes (x.f.mb 3 0)
  if x.prog.releasing then (releaseOn x true s).cont x (sendRel x x.prog.vals)
  else if x.prog.stage ≠ 0 then accessOn x s
  else if x.places.isEmpty then s.complete x
  else
    match x.gparts s .write false n (x.f.mb 5 4) x.places with
    | .error e => s.trouble x e.place e.va accWrite e.what
    | .ok parts =>
      let s1 := s.keepPages x (parts.map (·.va))
      let data := parts.map (fun g => (g, x.storeData g.lane))
      if x.w.region.active then (s1.regionStore x data).complete x
      else
        let wide := parts.any (fun g => decide (g.dom = domHost ∨ g.dom = domPeer))
        let s2 := s1.modWarp x.core x.slot (·.commitFlash wide)
        if x.f.mb 6 6 = 1 then
          let l := data.map (fun e => (e.1, e.2, 0))
          let s3 := s2.raiseWaiting x .stg .plain 0xFC 1 l
          (release x true { vals := packLanes l } (domOrder (parts.map (·.dom))) s3).cont x (sendRel x (packLanes l))
        else
          let own := data.filter (fun e => e.1.dom ≠ domPeer)
          let far := data.filter (fun e => e.1.dom = domPeer)
          let (s3, i1) := if own.isEmpty then (s2, []) else (s2.startStore x .stg own).map id (fun i => [i])
          let (s4, i2) := if far.isEmpty then (s3, []) else (s3.startStore x .peer far).map id (fun i => [i])
          afterSend x (i1 ++ i2) [] s4

def execSt (f : LX) (s : State) : Result := issue (.st f) (lateGlobal .stg .write) stEff s

/-! ## ATOM and RED (R289, R290) -/

/-- Forms the peer atomics of an access, one for each line. -/
def State.peerAtomics (s : State) (x : Ctx) (access op ty : Nat) (parts : List (GPart × Nat × Nat)) : State × NSet :=
  (linesOf (parts.map Prod.fst)).foldl (fun (r : State × NSet) line =>
    let mine := (parts.filter (fun e => lineOf e.1.pa = line)).map (fun e => (e.1.lane, e.1.pa, e.2.1, e.2.2))
    let (s1, id) := r.1.nyrusSend
      { id := 0, slot := x.slot, access := access, op := 2, line := line, va := lineVa (parts.map Prod.fst) line, aop := op, aty := ty, lanes := mine } x.core
    (s1, NSet.add (needNyrus id) r.2)) (s, [])

/-- Sends an atomic on one of its counters: one request for each sector, its lanes in ascending LID (R88, R281). -/
def State.sendAtomic (s : State) (x : Ctx) (path : Path) (parts : List (GPart × Nat × Nat)) : State × NSet :=
  if parts.isEmpty then (s, [])
  else
    let op := x.f.mb 3 0
    let ty := x.f.mb 7 4
    let id := s.waitingAccess x path
    let here := parts.filter (fun e => physKind e.1.pa != .peer)
    let far := parts.filter (fun e => physKind e.1.pa == .peer)
    let (s1, n1) := (sectorsOf (here.map Prod.fst)).foldl (fun (r : State × NSet) sector =>
      let mine := here.filter (fun e => e.1.pa / 32 = sector)
      let p := mine.head?.map Prod.fst
      let (s1, k) := r.1.send
        { core := x.core, slot := x.slot, access := id, kind := .atomic op ty, tenant := x.w.tenant, line := sector / 4,
          sector := sector % 4, hint := (p.map (·.hint)).getD 0, va := (p.map (·.va)).getD 0,
          lanes := mine.map (fun e => (e.1.lane, e.1.pa, e.2.1, e.2.2)), writers := [x.mark], quad := quadOf x.slot }
      (s1, NSet.add (needCaldera k) r.2)) (s, [])
    let (s2, n2) := s1.peerAtomics x id op ty far
    (s2.sentAccess x id (n2.foldl (fun m k => NSet.add k m) n1), [id])

/-- The release steps of an atomic are done. -/
def sendAtom (main : Path) (acq : Bool) (x : Ctx) (vals : List Nat) (s : State) : State :=
  let parts := unpackLanes vals
  let (s1, i1) := s.sendAtomic x main (parts.filter (fun e => e.1.dom ≠ domPeer))
  let (s2, i2) := s1.sendAtomic x .peer (parts.filter (fun e => e.1.dom = domPeer))
  afterSend x (i1 ++ i2) (if acq then domOrder (parts.map (·.1.dom)) else []) s2

/-- Operand and compare value of a lane (R289): for .cas the run holds the compare value first. -/
def Ctx.atomOperands (x : Ctx) (p : Nat) : Nat × Nat :=
  let w := atomRegs (x.f.mb 7 4)
  let ext : LitExt := if x.f.mb 7 4 = 5 then .float else if x.f.mb 7 4 = 3 then .sign else .zero
  if x.f.mb 3 0 = 7 then
    let v := x.c (2 * w) p ext
    (v / 2 ^ (32 * w), v % 2 ^ (32 * w))
  else (x.c w p ext, 0)

def atomicEff (main : Path) (old : Bool) (x : Ctx) (s : State) : State :=
  let acq := old && x.f.mb 11 11 == 1
  if x.prog.releasing then (releaseOn x true s).cont x (sendAtom main acq x x.prog.vals)
  else if x.prog.stage ≠ 0 then accessOn x s
  else if x.places.isEmpty then s.complete x
  else
    match x.gparts s .write true (atomBytes (x.f.mb 7 4)) 0 x.places with
    | .error e => s.trouble x e.place e.va accAtomic e.what
    | .ok parts =>
      let s1 := s.keepPages x (parts.map (·.va))
      let l := parts.map (fun g => (g, x.atomOperands g.lane))
      let kind : AccessKind := if old then .atomic (atomBytes (x.f.mb 7 4)) else .plain
      let s2 := s1.raiseWaiting x main kind (if old then x.f.dst.toNat else 0xFC) (atomRegs (x.f.mb 7 4)) l
      (release x true { vals := packLanes l } (domOrder (parts.map (·.dom))) s2).cont x (sendAtom main acq x (packLanes l))

def execAtom (f : LX) (s : State) : Result := issue (.atom f) (lateGlobal .ldg .write) (atomicEff .ldg true) s
def execRed (f : LX) (s : State) : Result := issue (.red f) (lateGlobal .stg .write) (atomicEff .stg false) s

/-! ## PREF (R291) -/

/-- The lanes of a PREF that are not dropped: those that translate to memory Caldera holds, and whose line is not dirty in
the tenant's L1. -/
def Ctx.prefParts (x : Ctx) (s : State) : List GPart :=
  x.places.filterMap (fun p =>
    match x.gpart s .read false (x.f.mb 5 4) p (x.gaddr p) 1 with
    | .error _ => none
    | .ok g =>
      let dirty := ((s.l1Find x.core x.w.tenant (lineOf g.pa)).map (fun l => decide (l.dirty ≠ 0))).getD false
      if cached g.pa && !dirty then some g else none)

/-- A sector that a PREF is to fill: a hit where the L1 has all of it. -/
def State.countPref (s0 : State) (x : Ctx) (s : State) (sector : Nat) : State :=
  let there := ((s0.l1Find x.core x.w.tenant (sector / 4)).map (·.valid)).getD 0
  s.countLook x (sectorMask (sector % 4) &&& ~~~there == 0) (sector / 4)

/-- Starts a prefetch on a path: one request for each sector (R281), which with `.cal` looks for no sector in the L1 and fills none. -/
def State.startPref (s : State) (x : Ctx) (path : Path) (parts : List GPart) : State :=
  let id := ((s.warp? x.core x.slot).map (·.nextAccess)).getD 1
  let cal := x.f.mb 6 6 == 1
  let s := if cal then s else (sectorsOf parts).foldl (s.countPref x) s
  let (s1, needs) := (sectorsOf parts).foldl (fun (r : State × NSet) sector =>
    let p := parts.find? (fun p => decide (p.pa / 32 = sector))
    let (s1, k) := r.1.send
      { core := x.core, slot := x.slot, access := id, kind := .prefetch (!cal), tenant := x.w.tenant, line := sector / 4,
        sector := sector % 4, hint := (p.map (·.hint)).getD 0, va := (p.map (·.va)).getD 0, quad := quadOf x.slot }
    (s1, NSet.add (needCaldera k) r.2)) (s, [])
  (s1.modWarp x.core x.slot (·.addAccess { id := id, path := path, needs := needs, firstLid := x.firstLid, pages := pagesOf parts })).dueReturn x.core x.slot id

def prefEff (x : Ctx) (s : State) : State :=
  if x.places.isEmpty then s.complete x
  else
    let parts := x.prefParts s
    let s1 := s.keepPages x (parts.map (·.va))
    let paths := x.pathsOf s .ldg
    (paths.foldl (fun s p => s.startPref x p (if p == .peer then peerParts parts else ownParts parts)) s1).complete x

def execPref (f : LX) (s : State) : Result := issue (.pref f) (lateGlobal .ldg .read) prefEff s

/-! ## FENCE (R292) -/

/-- Step 1 of the release steps alone, for FENCE.acq. -/
def stFence : Nat := 6

def fenceEff (x : Ctx) (s : State) : State :=
  let kind := x.f.mb 1 0
  let go (doms : List Nat) (s : State) : State := if kind = 2 then s.complete x else acquireDone x doms s
  if x.prog.releasing then (releaseOn x false s).cont x (go x.prog.vals)
  else if x.prog.stage = stFence then go x.prog.vals s
  else if x.lanes.isEmpty then s.complete x
  else
    let doms := if x.f.mb 2 2 = 1 then [domHost, domPeer] else domOrder (x.laneDomains s)
    if kind = 1 then
      if x.w.released.isEmpty then go doms s
      else s.holdAt x .returns { stage := stFence, acks := x.w.released, vals := doms }
    else (release x false { vals := doms } doms s).cont x (go doms)

def execFence (f : LX) (s : State) : Result := issue (.fence f) noLate fenceEff s

/-! ## MONW (R295, R296, R405) -/

/-- Stages: the warp is registered and parked; the result is known. -/
def stReply : Nat := 9
def stResult : Nat := 10

/-- Writes the predicate of a MONW in every executing lane, and completes. -/
def monwDone (x : Ctx) (r : Bool) (s : State) : State :=
  (s.complete x).modWarp x.core x.slot (fun w => w.deliver x.cyc x.draw 2 (x.spreadPred r))

/-- The monitor table of a core takes the line: it has an entry for it, or room for one. -/
def Core.monitorRoom (k : Core) (tenant line : Nat) : Bool :=
  k.monitors.any (fun m => decide (m.tenant = tenant ∧ m.line = line)) || decide (k.monitors.length < Config.monitorEntries)

/-- DEDUCED, log entry 39. -/
def monwEff (x : Ctx) (s : State) : State :=
  if x.prog.stage = stResult then monwDone x (x.prog.vals.headD 0 ≠ 0) s
  else match x.lanes with
    | [] => s.complete x
    | low :: _ =>
      let n := if x.f.mb 0 0 = 1 then 8 else 4
      let va := (x.a 2 scalarLane + x.disp) % 2 ^ 64
      if va % n ≠ 0 then s.trouble x low va accRead .misaligned
      else match x.gpart s .read false 0 low va n with
        | .error e => s.trouble x low va accRead e
        | .ok g =>
          let s1 := s.keepPages x [va]
          let line := lineOf g.pa
          if g.dom = domPeer ∨ !cached g.pa ∨ !(((s.core? x.core).map (fun k => k.monitorRoom x.w.tenant line)).getD false) then
            monwDone x false s1
          else
            let bound := x.c 1 scalarLane
            let expected := x.b (n / 4) scalarLane
            let (s2, id) := s1.send
              { core := x.core, slot := x.slot, access := 0, kind := .monitor g.pa expected n, tenant := x.w.tenant, line := line,
                sector := g.pa / 32 % 4, hint := g.hint, va := va, quad := quadOf x.slot }
            s2.holdAt x .event
              { stage := stCheck, note := id, vals := [line, expected, if bound = 0 then 0 else x.cyc + bound + 1] }

def execMonw (f : LX) (s : State) : Result := issue (.monw f) noLate monwEff s

/-- The group to which a reply with a value belongs: of those whose check has found it, the one that was checked first (R295). -/
def Warp.replied (w : Warp) (value : Nat) : Option Group :=
  (w.groups.filter (fun g => decide (g.prog.stage = stCheck) && g.prog.vals[3]? == some value)).foldl (fun m g =>
    match m with
    | some h => if g.prog.vals.getD 4 0 < h.prog.vals.getD 4 0 then some g else m
    | none => some g) none

/-- The result of a held MONW is known: the group goes on with it. -/
def Warp.monitorResult (w : Warp) (which : Group → Bool) (r : Bool) : Warp :=
  { w with groups := w.groups.map (fun g =>
      if which g then { g with hold := .none, prog := { stage := stResult, vals := [if r then 1 else 0] } } else g) }

/-- A core has no more use for the write notices of a line: no entry, and no check that may still register. -/
def Core.forgets (k : Core) (line : Nat) : Bool :=
  !k.monitors.any (fun m => m.line = line) &&
    !k.warps.any (fun e => e.2.groups.any (fun g => decide (g.prog.stage = stCheck ∧ g.prog.vals.head? = some line)))

/-- The anchor forgets a core that has no more use for the notices of a line. -/
def State.forgetWatch (s : State) (c line : Nat) : State :=
  if ((s.core? c).map (·.forgets line)).getD true then s.modDir line (fun d => { d with watch := NSet.drop c d.watch }) else s

/-- A waiter leaves a monitor-table entry: the last one frees it, and the anchor forgets the core. -/
def State.leaveMonitor (s : State) (c tenant line : Nat) : State :=
  (s.modCore c (fun k =>
    { k with monitors := (k.monitors.map (fun m =>
        if m.tenant = tenant ∧ m.line = line then { m with waiters := m.waiters - 1 } else m)).filter (fun m => m.waiters ≠ 0) })).forgetWatch
      c line

/-- The first free place of a monitor table. -/
def Core.monitorPlace (k : Core) : Nat :=
  ((List.range Config.monitorEntries).find? (fun n => !k.monitors.any (fun m => m.place = n))).getD 0

/-- A waiter joins the entry of a line, or makes it: one for each tenant that waits on the line, since an entry names its tenant (R296,
R405). DEDUCED, log entry 39. -/
def Core.joinMonitor (k : Core) (tenant line : Nat) : Core :=
  if k.monitors.any (fun m => decide (m.tenant = tenant ∧ m.line = line)) then
    { k with monitors := k.monitors.map (fun m =>
        if m.tenant = tenant ∧ m.line = line then { m with waiters := m.waiters + 1 } else m) }
  else { k with monitors := k.monitors ++ [{ place := k.monitorPlace, tenant := tenant, line := line, waiters := 1 }] }

/-- MONW_CHECK_REPLY (R295): the value differs, and the result is true; else the warp registers and parks. Where it can do
neither, because the table has filled or the warp has parked, it wakes without a change. -/
def execMonwCheckReply (core slot : Nat) (value : DWord) (s : State) : Result :=
  let s1 := s.taken (.monwCheckReply core slot value)
  match s1.warp? core slot with
  | none => .next s1
  | some w =>
    match w.replied value.toNat with
    | none => .next s1
    | some g =>
      let line := g.prog.vals.getD 0 0
      let me (q : Group) : Bool := q.mask == g.mask
      if value.toNat ≠ g.prog.vals.getD 1 0 then .next ((s1.modWarp core slot (·.monitorResult me true)).forgetWatch core line)
      else if w.park ≠ .none ∨ !(((s1.core? core).map (fun k => k.monitorRoom w.tenant line)).getD false) then
        .next ((s1.modWarp core slot (·.monitorResult me false)).forgetWatch core line)
      else
        let expiry := if g.prog.vals.getD 2 0 = 0 then none else some (g.prog.vals.getD 2 0 - 1)
        .next ((s1.modCore core (fun k => k.joinMonitor w.tenant line)).modWarp core slot (fun w =>
          (w.modGroup g.mask (fun g => { g with prog := { g.prog with stage := stReply } })).parkFor (.monitor line expiry) (s1.cyc core)))

/-- The line and the bound of a warp that is parked in MONW. -/
def Warp.monitorPark (w : Warp) : Option (Nat × Option Nat) :=
  match w.parkedBy (fun r => match r with | .monitor _ _ => true | _ => false) with
  | some (.monitor line e) => some (line, e)
  | _ => none

/-- Wakes a warp that is parked in MONW on a line, with a result. -/
def State.wakeMonitor (s : State) (c slot : Nat) (r : Bool) : State :=
  match s.warp? c slot with
  | none => s
  | some w =>
    match w.monitorPark with
    | some (line, e) =>
      ((s.modWarp c slot (fun w => w.monitorResult (fun g => decide (g.prog.stage = stReply)) r)).unparkFrom c slot (.monitor line e)).leaveMonitor
        c w.tenant line
    | none => s

/-- WRITE_NOTICE (R296): every warp of the core that is parked on the line wakes. -/
def execWriteNotice (core line : Nat) (s : State) : Result :=
  let s1 := s.taken (.writeNotice core line)
  let slots := (((s1.core? core).map (fun k => k.warps.filter (fun e =>
    (e.2.monitorPark.map (fun m => decide (m.1 = line))).getD false))).getD []).map Prod.fst
  .next (slots.foldl (fun s slot => s.wakeMonitor core slot true) s1)

/-- MONW_BOUND_EXPIRY (R295): a notice that has been sent wins. -/
def execMonwBoundExpiry (core slot : Nat) (s : State) : Result :=
  let s1 := s.taken (.monwBoundExpiry core slot)
  match s1.warp? core slot with
  | none => .next s1
  | some w =>
    match w.monitorPark with
    | some (line, some e) => if e ≤ s1.cyc core ∧ !s1.pending.contains (.writeNotice core line) then .next (s1.wakeMonitor core slot false) else .next s1
    | _ => .next s1

/-! ## TLB_WALK (R398) -/

/-- A walk for a page of a tenant: what it finds is kept by the core and its reticle. A fault is found again by the
access that needs the page. -/
def execTlbWalk (core tenant vpage : Nat) (s : State) : Result :=
  .next ((s.taken (.tlbWalk core tenant vpage)).usePage core tenant (vpage * 2 ^ 17))

end Sys2Proof.Machine
end

