-- ==== Sys2Proof/Machine/Fetch.lean ====
section
/-! DEFINITION. Fetching an instruction (R91 to R93): every word is translated before any is decoded, and the instruction cache does not see stores. -/

namespace Sys2Proof.Machine

/-- The word at a physical address as the fetch of a core gives it: where the instruction cache holds another word than
memory, either of the two, for each word by itself (R93). -/
def State.fetchWord (s : State) (core pa k : Nat) : Word :=
  let new : Word := BitVec.ofNat 32 (Memory.readNum s.mem pa 4)
  match (s.core? core).bind (fun c => SMap.get? pa c.icache) with
  | some old => if old = new then new else if Config.fetchOld (4 * s.tick + k) then old else new
  | none => new

/-- The instruction cache of a core holds a word. -/
def State.wordHeld (s : State) (core pa : Nat) : Bool := (((s.core? core).bind (fun c => SMap.get? pa c.icache))).isSome

/-- Keeps a fetched word in the instruction cache, which reads what it does not hold at the primary copy. -/
def State.keepWord (s : State) (core tenant pa : Nat) (x : Word) : State :=
  if s.wordHeld core pa then s
  else (if cached pa then (s.readFor tenant (lineOf pa) [pa / 64 % 2]).1 else s).modCore core (fun k => { k with icache := SMap.put pa x k.icache })

/-- What fetching gives: words, or the address that does not translate or whose word is poisoned, or a line that is held back. -/
inductive Fetched where
  | words (l : List Word)
  | page (absent : Bool) (addr : Nat)
  | poison (addr : Nat)
  | stops (line : Nat)
deriving DecidableEq, Repr

/-- A word at a virtual address as the fetch of a core finds it: a word that the instruction cache lacks is read at its primary copy, where it
may be held back (R271) or poisoned (R274). DEDUCED, log entry 106. -/
def State.fetchOne (s : State) (core tenant va k : Nat) (priv : Bool) : Fetched :=
  match s.translate core tenant va .fetch priv with
  | .absent => .page true va
  | .fatal => .page false va
  | .stops line => .stops line
  | .ok pa _ =>
    if s.wordHeld core pa || !cached pa then .words [s.fetchWord core pa k]
    else if s.poisoned pa 4 then .poison va
    else if s.lineStops (lineOf pa) false [pa / 64 % 2] tenant then .stops (lineOf pa)
    else .words [s.fetchWord core pa k]

/-- The words of the instruction at `pc`, `n` of them. -/
def State.fetchWords (s : State) (core tenant pc : Nat) (priv : Bool) : Nat → Nat → Fetched
  | _, 0 => .words []
  | k, n + 1 =>
    match s.fetchOne core tenant ((pc + 4 * k) % 2 ^ 48) k priv with
    | .words l0 =>
      match State.fetchWords s core tenant pc priv (k + 1) n with
      | .words l => .words (l0 ++ l)
      | f => f
    | f => f

/-- Keeps the translations and words that a fetch has used. -/
def State.keepFetch (s : State) (core tenant pc : Nat) (priv : Bool) : Nat → Nat → State
  | _, 0 => s
  | k, n + 1 =>
    let va := (pc + 4 * k) % 2 ^ 48
    match s.translate core tenant va .fetch priv with
    | .ok pa _ => ((s.usePage core tenant va).keepWord core tenant pa (s.fetchWord core pa k)).keepFetch core tenant pc priv (k + 1) n
    | _ => s

/-- What the next step does for the selected group. -/
inductive FetchResult where
  /-- The selection no longer stands. -/
  | idle (s : State)
  /-- A decoded instruction is to issue. -/
  | run (i : Instr) (s : State)
  /-- The fetch or the decoding has trapped. -/
  | trapped (s : State)

/-- The group that a selection names can still issue; a warp that the other instruction of its pair has parked has issued this one
in the same cycle (R27). -/
def State.selectable (s : State) (g : Selected) : Bool :=
  match s.warp? g.core g.slot with
  | some w => (w.group? g.mask).isSome && w.faulted.isNone && w.trap.isNone && w.ending.isNone && w.saved.isNone
  | none => false

/-- EVAL of an instruction that does not decode (R420): words 0 and 1, or word 0 alone where there is no other. -/
def evalOfWords (l : List Word) : Nat := (l.headD 0).toNat + 2 ^ 32 * ((l.drop 1).headD 0).toNat

/-- Fetches and decodes the instruction of the first selected group. -/
def State.fetch (s : State) : FetchResult :=
  match s.sel with
  | [] => .idle s
  | g :: rest =>
    let drop := { s with sel := rest }
    match s.warp? g.core g.slot with
    | none => .idle drop
    | some w =>
      if !s.selectable g then .idle drop
      else
        let pc := w.pcOf g.mask
        let priv := w.special.priv
        -- a fetch that has to wait is tried again when the group is selected again
        let other : Fetched → FetchResult
          | .page absent addr => .trapped (drop.raisePage g.core g.slot g.mask absent
              { cause := causePageFault, epc := pc, eval := addr, access := accFetch })
          | .poison addr => .trapped (drop.raise g.core g.slot g.mask { cause := causePoison, epc := pc, eval := addr, access := accFetch })
          | .stops line => .idle (drop.askLine line false [0, 1] w.tenant)
          | .words _ => .idle drop
        match s.fetchWords g.core w.tenant pc priv 0 1 with
        | .words l0 =>
          let n := lengthOf (l0.headD 0) / 4
          match s.fetchWords g.core w.tenant pc priv 0 n with
          | .words l =>
            let s1 := s.keepFetch g.core w.tenant pc priv 0 n
            match decodeWords (l.getD 0 0) (l.getD 1 0) (l.getD 2 0) with
            | some i => .run i s1
            | none =>
              .trapped (({ s1 with sel := rest }).raise g.core g.slot g.mask
                { cause := causeIllegalInstr, epc := pc, eval := evalOfWords l })
          | f => other f
        | f => other f

/-- What the machine does of itself when nothing is on its way: it comes up (R456), then the cores' cycles turn. -/
def State.nextTurn (s : State) : Instr :=
  if s.modul.booted then .issueCycle s.turn else .laharBringUp { fused := [], cores := [], banks := [], channels := [] }

/-! ## A program placed from outside -/

/-- Where a placed instruction stands: virtual and physical address. -/
def placePc : Nat := 0x1000

/-- A 1 GiB page that maps the low addresses to themselves, with every permission (R396). -/
def placeLeaf : DWord := 0x7B

/-- A warp as BLOCK_START leaves it, its 32 lanes ganged at the placed instruction. -/
def placeWarp : Warp :=
  { lanes := (List.range 32).map (fun i => { lid := BitVec.ofNat 5 i }),
    slices := List.replicate 8 { pc := BitVec.ofNat 48 placePc },
    groups := [{ mask := 0xFF }], alloc := 192, tenant := 0, block := 1, launch := 1,
    lease := { st := .admitted, counted := true } }

/-- Core 0 with that warp in slot 0 and the page in its TLB. -/
def placeCore (k : Core) : Core :=
  { k with
    warps := SMap.put 0 placeWarp k.warps, icache := [],
    blocks := SMap.put 1 { launch := 1, tenant := 0, index := 0, slots := [0], spad := 0x10000, barriers := 0, banks := [] } k.blocks,
    tlb := [{ tenant := 0, va := 0, bits := 30, pte := placeLeaf }] }

/-- The state in which the next step fetches and runs the instruction of these bytes. DESIGN CHOICE, log entry 5. -/
def State.place (s : State) (bytes : List Byte) : State :=
  let t := s.tenant 0
  { s with
    cores := SMap.put 0 (placeCore ((s.core? 0).getD {})) s.cores,
    mem := Memory.writeBytes s.mem placePc bytes,
    tenants := SMap.put 0 { t with troot := t.troot ||| 1, regions := [] } s.tenants,
    modul := { s.modul with booted := true },
    agenda := [], pending := [], sel := [{ core := 0, slot := 0, mask := 0xFF }] }

end Sys2Proof.Machine
end

