-- ==== Sys2Proof/Machine/Control.lean ====
section
/-! DEFINITION. Control and mode instructions (R131 to R145): branches, structured divergence, REGANG, EXIT, YIELD, LEASE, FLASH. -/

namespace Sys2Proof.Machine

/-! ## Splitting a group (R23, R133) -/

/-- The slices of the executing group. -/
def Ctx.slices (x : Ctx) : List Nat := (List.range 8).filter (inMask x.mask)

/-- A slice has a lane in which the instruction executes; it has an active lane. -/
def Ctx.sliceExecs (x : Ctx) (k : Nat) : Bool := x.lanes.any (fun l => decide (l / 4 = k))
def Ctx.sliceActive (x : Ctx) (k : Nat) : Bool :=
  x.w.active (4 * k) || x.w.active (4 * k + 1) || x.w.active (4 * k + 2) || x.w.active (4 * k + 3)

/-- Where every slice goes (R133): `own` for a slice that executes, `miss` for one whose guard is false, and what the
lowest slice with an active lane takes for one without active lanes. None where no lane is active. -/
def Ctx.sliceGoes (x : Ctx) (own : Nat → Nat) (miss : Nat) : Option (List (Nat × Nat)) :=
  let goes (k : Nat) : Nat := if x.sliceExecs k then own k else miss
  (x.slices.find? x.sliceActive).map (fun lead =>
    x.slices.map (fun k => (k, if x.sliceActive k then goes k else goes lead)))

/-- Slices with their targets, gathered into parts with one target each, the part of the lowest slice first. -/
def gatherParts : List (Nat × Nat) → List (BitVec 8 × Nat)
  | [] => []
  | (k, pc) :: t =>
    let l := gatherParts t
    let m : BitVec 8 := BitVec.ofNat 8 (1 <<< k)
    let same := l.foldl (fun a p => if p.2 = pc then a ||| p.1 else a) m
    (same, pc) :: l.filter (fun p => p.2 ≠ pc)

/-- Sends the parts of a group to their targets. The parts stand in the group's rotation place. DEDUCED, log entry 28. -/
def Warp.splitGroup (w : Warp) (mask : BitVec 8) (parts : List (BitVec 8 × Nat)) : Warp :=
  let w1 := parts.foldl (fun w p => w.setPc p.1 p.2) w
  { w1 with
    groups := w1.groups.flatMap (fun g => if g.mask == mask then parts.map (fun p => { g with mask := p.1 }) else [g]) }

/-- The reconvergence record (R131). -/
def Ctx.record (x : Ctx) (join : Nat) : Nat := bitsOf join 33 2 * 2 ^ 32 + x.fmt * 2 ^ 8 + x.mask.toNat

/-- Writes a record or a link to a scalar pair, with latency 2. -/
def Ctx.writePair (x : Ctx) (value : Nat) (w : Warp) : Warp :=
  w.deliver x.cyc x.draw 2 (x.out scalarLane 2 value)

/-- Writes a scalar destination, with latency 2. -/
def Ctx.writeScalar (x : Ctx) (value : Nat) (w : Warp) : Warp :=
  w.deliver x.cyc x.draw 2 (x.out scalarLane 1 value)

/-- Changes the warp of an instruction. -/
def State.modCtx (s : State) (x : Ctx) (f : Warp → Warp) : State := s.modWarp x.core x.slot f

/-- BRA (R134) with its target; a record is written where `join` gives the join PC. Slices that take the branch and slices
that do not part even where the target is the next instruction. -/
def braEff (offset : Nat) (join : Option Nat) (x : Ctx) (s : State) : State :=
  match x.sliceGoes (fun _ => 1) 0 with
  | none => s.complete x
  | some ts =>
    let parts := (gatherParts ts).map (fun p => (p.1, if p.2 = 1 then x.target offset else x.next))
    (s.complete x).modCtx x (fun w =>
      (match join with
        | some j => x.writePair (x.record j) w
        | none => w).splitGroup x.mask parts)

/-- The join of BRA: PC + 4 J, J a signed count of words (R132, R134). -/
def Ctx.join (x : Ctx) : Option Nat :=
  if x.f.dst = 0xFC then none else some ((x.pc + 4 * (x.f.modi.signExtend 48).toNat) % 2 ^ 48)

def execBra (f : LX) (s : State) : Result := issue (.bra f) noLate (fun x => braEff x.offset x.join x) s
def execBraS (f : SF) (s : State) : Result := issue (.braS f) noLate (braEff (shortOffset f) none) s

/-! ## BRX (R135) -/


/-- Reads a word of the table through instruction fetch. -/
def Ctx.tableWord (x : Ctx) (s : State) (va k : Nat) : Except Fetched (Word × State) :=
  match s.fetchOne x.core x.w.tenant va k x.w.special.priv, s.translate x.core x.w.tenant va .fetch x.w.special.priv with
  | .words _, .ok pa _ =>
    let v := s.fetchWord x.core pa k
    .ok (v, (s.usePage x.core x.w.tenant va).keepWord x.core x.w.tenant pa v)
  | f, _ => .error f

/-- The targets of a list of indices: A + 4 * entry(index). -/
def Ctx.tableTargets (x : Ctx) (a : Nat) (s : State) : List Nat → Except Fetched (SMap Nat × State)
  | [] => .ok ([], s)
  | i :: t =>
    match x.tableWord s (a + 4 * (i + 1)) (i + 1) with
    | .error e => .error e
    | .ok (v, s1) =>
      match x.tableTargets a s1 t with
      | .error e => .error e
      | .ok (m, s2) => .ok (SMap.put i ((a + 4 * (v.signExtend 48).toNat) % 2 ^ 48) m, s2)

/-- What stops a table read (R92): the group takes its fault, or waits. -/
def State.tableStop (s : State) (x : Ctx) : Fetched → State
  | .page absent addr =>
    s.raisePage x.core x.slot x.mask absent { cause := causePageFault, epc := x.pc, eval := addr, access := accFetch }
  | .poison addr => s.raise x.core x.slot x.mask { cause := causePoison, epc := x.pc, eval := addr, access := accFetch }
  | .stops line => (s.askLine line false [0, 1] x.w.tenant).waitAt x (.lineStops line false)
  | .words _ => s

/-- The faults of the lanes come before a page fault of an entry, which the model reads once every index is good. DESIGN CHOICE, log entry 30. -/
def brxEff (x : Ctx) (s : State) : State :=
  match x.lanes with
  | [] => s.complete x
  | low :: _ =>
    let a := x.b 2 scalarLane
    let index (l : Nat) : Nat := x.a 1 l
    if a % 4 ≠ 0 then s.laneFault x causeMisaligned a low accFetch
    else match x.tableWord s a 0 with
      | .error t => s.tableStop x t
      | .ok (nw, s1) =>
        let n := nw.toNat
        let bad := if n < 2 ∨ 4096 < n then some low else x.lanes.find? (fun l => decide (n - 1 ≤ index l))
        match bad with
        | some l => s.laneFault x causeBounds a l accFetch
        | none =>
          -- the lowest-LID executing lane of each slice chooses
          let leads := x.slices.filterMap (fun k => (x.lanes.find? (fun l => l / 4 = k)).map (fun l => (k, index l)))
          let need := (leads.map Prod.snd).dedup ++ (if x.f.dst = 0xFC then [] else [n - 1])
          match x.tableTargets a s1 need with
          | .error t => s.tableStop x t
          | .ok (m, s2) =>
            let own (k : Nat) : Nat := SMap.get 0 (SMap.get 0 k leads) m
            match x.sliceGoes own x.next with
            | none => s2.complete x
            | some ts =>
              (s2.complete x).modCtx x (fun w =>
                (if x.f.dst = 0xFC then w else x.writePair (x.record (SMap.get 0 (n - 1) m)) w).splitGroup x.mask (gatherParts ts))

def execBrx (f : LX) (s : State) : Result := issue (.brx f) noLate brxEff s

/-! ## CALL and RET (R136) -/

def callEff (x : Ctx) (s : State) : State :=
  if x.lanes.isEmpty then s.complete x
  else (s.completeAt x (x.target x.offset)).modCtx x (x.writePair x.next)

def retEff (x : Ctx) (s : State) : State :=
  if x.lanes.isEmpty then s.complete x
  else s.completeAt x (bitsOf (x.a 2 scalarLane) 47 2 * 4)

def execCall (f : LX) (s : State) : Result := issue (.call f) noLate callEff s
def execRet (f : LX) (s : State) : Result := issue (.ret f) noLate retEff s
def execRetS (f : SF) (s : State) : Result := issue (.retS f) noLate retEff s

/-! ## Structured divergence (R137 to R139) -/

/-- In a handler the five instructions are illegal (R421). -/
def lateHandler (x : Ctx) (_ : State) : Late := { illegalInstr := x.w.special.priv }

/-- cond: the predicate that the modifier names, inverted by bit 3, in a lane. -/
def Ctx.cond (x : Ctx) (lane : Nat) : Bool := x.pd lane (x.f.mb 2 0) != (x.f.mb 3 3 == 1)

/-- The counters of R137, before the check of R139: the new count of a lane from its old one and its condition. -/
def bifCount (c : Nat) (cond : Bool) : Nat := if c = 0 then (if cond then 0 else 1) else c + 1
def belseCount (c : Nat) : Nat := if c = 0 then 1 else if c = 1 then 0 else c
def bendCount (c : Nat) : Nat := c - 1
def bbrkCount (d c : Nat) (cond : Bool) : Nat := if c = 0 ∧ cond then d + 1 else c
def bloopCount (c : Nat) (cond : Bool) : Nat := if c = 0 ∧ !cond then 1 else c

/-- Updates the counters of every lane of the group that is not exited, then jumps: where no lane is active, or with
`loop` where one is. -/
def structured (loop : Bool) (target : Option Nat) (count : Ctx → Nat → Nat) (x : Ctx) (s : State) : State :=
  let lanes := (x.w.lanesByLid x.mask).filter (fun l => !(x.w.lane l).exited)
  match lanes.find? (fun l => decide (255 < count x l)) with
  | some l => s.laneFault x causeNesting 0 l 0
  | none =>
    let anyActive := lanes.any (fun l => count x l == 0)
    let pc :=
      match target with
      | some t => if anyActive == loop then t else x.next
      | none => x.next
    (s.completeAt x pc).modCtx x (fun w =>
      lanes.foldl (fun w l => w.modLane l (fun q => { q with nest := BitVec.ofNat 8 (count x l) })) w)

/-- The counter of a lane. -/
def Ctx.nest (x : Ctx) (l : Nat) : Nat := (x.w.lane l).nest.toNat

def execBif (f : LX) (s : State) : Result :=
  issue (.bif f) lateHandler
    (fun x => structured false (some (x.target x.offset)) (fun x l => bifCount (x.nest l) (x.cond l)) x) s
def execBelse (f : LX) (s : State) : Result :=
  issue (.belse f) lateHandler (fun x => structured false (some (x.target x.offset)) (fun x l => belseCount (x.nest l)) x) s
def execBelseS (f : SF) (s : State) : Result :=
  issue (.belseS f) lateHandler
    (fun x => structured false (some (x.target (shortOffset f))) (fun x l => belseCount (x.nest l)) x) s
def execBend (f : LX) (s : State) : Result :=
  issue (.bend f) lateHandler (structured false none (fun x l => bendCount (x.nest l))) s
def execBendS (f : SF) (s : State) : Result :=
  issue (.bendS f) lateHandler (structured false none (fun x l => bendCount (x.nest l))) s
def execBbrk (f : LX) (s : State) : Result :=
  issue (.bbrk f) lateHandler
    (fun x => structured false (some (x.target x.offset)) (fun x l => bbrkCount (x.f.mb 11 4) (x.nest l) (x.cond l)) x) s
def execBloop (f : LX) (s : State) : Result :=
  issue (.bloop f) lateHandler
    (fun x => structured true (some (x.target x.offset)) (fun x l => bloopCount (x.nest l) (x.cond l)) x) s

/-! ## REGANG (R140, R141) -/

/-- The groups that wait at the REGANG of a program counter: mask of the record, arrival, timeout, destination. -/
def Warp.regangWaiters (w : Warp) (pc : Nat) : List (Group × BitVec 8 × Nat × Nat × BitVec 8) :=
  w.groups.filterMap (fun g =>
    match g.hold with
    | .regang m arrived timeout d => if w.pcOf g.mask = pc then some (g, m, arrived, timeout, d) else none
    | _ => none)

/-- Every slice of a mask waits at the REGANG or is retired. -/
def Warp.regangFull (w : Warp) (pc : Nat) (m : BitVec 8) : Bool :=
  let there := (w.regangWaiters pc).foldl (fun a g => a ||| g.1.mask) 0
  (List.range 8).all (fun k => !inMask m k || inMask there k || w.retired k)

/-- Merges the groups that wait at a REGANG: one group in the place of the member that holds the lowest slice, with the
record's FMT, at the next instruction. Progress notes hold FMT and the length of the instruction. Where the records or the destinations
differ, those of the last waiter in the rotation count; the stall counts from the arrival and dst is delivered 2 cycles after the end
of the wait. DESIGN CHOICE, log entry 91. -/
def Warp.regangMerge (w : Warp) (pc cyc draw : Nat) : Warp :=
  let ws := w.regangWaiters pc
  match ws.getLast? with
  | none => w
  | some (g, _, _, _, dst) =>
    let mask := ws.foldl (fun a g => a ||| g.1.mask) 0
    let ready := ws.foldl (fun a g => max a g.1.readyAt) 0
    let fmt := BitVec.ofNat 12 (g.prog.note % 4096)
    -- groups that a handler holds stay held (R421)
    let merged : Group := { mask := mask, readyAt := ready, held := ws.any (fun g => g.1.held) }
    let isMember (q : Group) : Bool := ws.any (fun p => p.1.mask == q.mask)
    let w1 := (w.setPc mask ((pc + g.prog.note / 4096) % 2 ^ 48)).setFmt mask fmt
    let w2 :=
      { w1 with
        groups := w1.groups.filterMap (fun q =>
          if !isMember q then some q else if inMask q.mask (lowSlice mask) then some merged else none) }
    w2.deliverReg cyc draw (cyc + 2) dst.toNat scalarLane (BitVec.ofNat 32 mask.toNat)

/-- Merges every REGANG of the warp whose wait has ended. -/
def Warp.regangAll (w : Warp) (cyc draw : Nat) : Warp :=
  let pcs := (w.groups.filterMap (fun g =>
    match g.hold with
    | .regang m _ _ _ => if w.regangFull (w.pcOf g.mask) m then some (w.pcOf g.mask) else none
    | _ => none)).dedup
  pcs.foldl (fun w pc => w.regangMerge pc cyc draw) w

def regangEff (x : Ctx) (s : State) : State :=
  let r := x.a 2 scalarLane
  let m : BitVec 8 := BitVec.ofNat 8 r
  if bitsOf x.pc 33 2 ≠ r / 2 ^ 32 ∨ x.mask &&& ~~~m ≠ 0 then
    (s.complete x).modCtx x (x.writeScalar x.mask.toNat)
  else
    let note := bitsOf r 19 8 + 4096 * x.i.length
    ((s.completeAt x x.pc).modCtx x (fun w =>
      let w1 := w.modGroup x.mask (fun g =>
        { g with hold := .regang m x.cyc (x.b 1 scalarLane) x.f.dst, prog := { note := note } })
      w1.regangAll x.cyc x.draw))

def execRegang (f : LX) (s : State) : Result := issue (.regang f) noLate regangEff s

/-- A REGANG of the warp whose timeout has come (R141): the arrival of the earliest group there, plus the nonzero timeout of any waiter.
DESIGN CHOICE, log entry 91. -/
def Warp.regangExpired (w : Warp) (pc cyc : Nat) : Bool :=
  let ws := w.regangWaiters pc
  let t0 := ws.foldl (fun a g => min a g.2.2.1) cyc
  ws.any (fun g => decide (g.2.2.2.1 ≠ 0 ∧ t0 + g.2.2.2.1 ≤ cyc))

/-- REGANG_TIMEOUT (R141). -/
def execRegangTimeout (core slot pc : Nat) (s : State) : Result :=
  let s1 := s.taken (.regangTimeout core slot pc)
  match s1.warp? core slot with
  | none => .next s1
  | some w =>
    if w.regangExpired pc (s1.cyc core) then
      .next (({ s1 with tick := s1.tick + 1 }).setWarp core slot (w.regangMerge pc (s1.cyc core) s1.tick))
    else .next s1

/-! ## EXIT and YIELD (R142, R143) -/

/-- Removes retired slices from the groups. -/
def Warp.retireSlices (w : Warp) : Warp :=
  { w with
    groups := (w.groups.map (fun g =>
      { g with mask := BitVec.ofNat 8 (maskOf ((List.range 8).filter (fun k => inMask g.mask k && !w.retired k))) })).filter
        (fun g => g.mask != 0) }

def exitEff (x : Ctx) (s : State) : State :=
  ((s.complete x).modCtx x (fun w =>
    ((x.lanes.foldl (fun w l => w.modLane l (fun q => { q with exited := true })) w).retireSlices).regangAll
      x.cyc x.draw)).checkEnd x.core x.slot

def execExit (f : LX) (s : State) : Result := issue (.exit f) noLate exitEff s
def execExitS (f : SF) (s : State) : Result := issue (.exitS f) noLate exitEff s

def yieldEff (x : Ctx) (s : State) : State :=
  if x.lanes.isEmpty then s.complete x
  else (s.complete x).modCtx x (fun w => w.modGroup x.mask (fun g => { g with readyAt := g.readyAt + 32 }))

def execYield (f : LX) (s : State) : Result := issue (.yield f) noLate yieldEff s
def execYieldS (f : SF) (s : State) : Result := issue (.yieldS f) noLate yieldEff s

/-! ## LEASE (R144) -/

/-- The LEASE register (R130). -/
def Lease.word (l : Lease) : Nat :=
  let st := match l.st with | .waiting => 0 | .admitted => 1 | .head => 2 | .returning => 3 | .parked => 4
  st * 2 ^ 29 + (if l.fixed then 2 ^ 28 else 0) + l.prio % 4 * 2 ^ 26 + l.decl % 256 * 2 ^ 12 + l.meas % 4096

/-- What LEASE does to the register. -/
def Lease.declare (l : Lease) (granules mode : Nat) : Lease :=
  { l with
    decl := min granules 128,
    fixed := if mode = 1 then false else if mode = 2 then true else l.fixed }

def leaseEff (x : Ctx) (s : State) : State :=
  if x.lanes.isEmpty then s.complete x
  else (s.complete x).modCtx x (fun w =>
    { x.writeScalar x.w.lease.word w with lease := w.lease.declare (x.a 1 scalarLane) (x.f.mb 1 0) })

def execLease (f : LX) (s : State) : Result := issue (.lease f) noLate leaseEff s

/-! ## FLASH (R57, R145) -/

/-- Step 1 of R145. -/
def lateFlash (x : Ctx) (_ : State) : Late :=
  { illegalOperand := decide (60 < x.b 1 scalarLane), registerRange := decide (x.w.alloc < x.a 1 scalarLane),
    notConverged := !x.w.fullyGanged }

/-- The flashback latch that a FLASH of `nv`, `ns` and `label` sets (R57): the point is the instruction after it. -/
def Warp.flashPoint (w : Warp) (mask : BitVec 8) (next nv ns label : Nat) : FlashLatch :=
  { valid := true, pc := BitVec.ofNat 48 next, nv := nv, ns := ns, label := label, fmt := w.fmtOf mask, mode := w.mode,
    lanes := w.laneWords }

/-- Sets the point, unless a region is active; a pre-emption that waits for one is then carried out (R60). -/
def State.setFlash (s : State) (c slot : Nat) (mask : BitVec 8) (next nv ns label : Nat) : State :=
  match s.warp? c slot with
  | none => s
  | some w =>
    if w.region.active then s
    else
      let s1 := s.setWarp c slot { w with flash := (w.pickEarly (s.cyc c) s.tick).flashPoint mask next nv ns label }
      if w.preempt.isSome then s1.pushOnce (.flashbackSave c slot) else s1

def flashEff (x : Ctx) (s : State) : State :=
  let nv := x.a 1 scalarLane
  let ns := x.b 1 scalarLane
  if x.w.paths.allZero then (s.complete x).setFlash x.core x.slot x.mask x.next nv ns (x.f.mb 11 0)
  else (s.holdAt x .event x.prog).modCtx x (fun w =>
    { w with latch := some { instr := x.i, mask := x.mask, vals := [nv, ns] } })

def execFlash (f : LX) (s : State) : Result := issue (.flash f) lateFlash flashEff s

/-- The context of an instruction that waits in a rendezvous. -/
def Warp.latchCtx (w : Warp) (l : Rendezvous) (c slot cyc draw : Nat) : Ctx :=
  { i := l.instr, f := l.instr.fields, core := c, slot := slot, mask := l.mask, w := w, cyc := cyc, draw := draw }

/-- FLASH_LATCH: the counters of a warp that waits in FLASH are 0 (R57). -/
def execFlashLatch (core slot : Nat) (s : State) : Result :=
  let s1 := s.taken (.flashLatch core slot)
  match s1.warp? core slot with
  | none => .next s1
  | some w =>
    match w.latch with
    | none => .next s1
    | some l =>
      match l.instr with
      | .flash _ =>
        if !w.paths.allZero then .next s1
        else
          let x := w.latchCtx l core slot (s1.cyc core) s1.tick
          let s2 := (s1.modWarp core slot (fun w => { w with latch := none })).complete x
          .next (s2.setFlash core slot l.mask x.next (l.vals.getD 0 0) (l.vals.getD 1 0) (x.f.mb 11 0))
      | _ => .next s1

end Sys2Proof.Machine
end

