-- ==== Sys2Proof/Machine/Scratchpad.lean ====
section
/-! DEFINITION. The scratchpad window (R247 to R251): loads and stores, full/empty words with their waiters, atomics, and barriers (R287 to R290, R293, R294). -/

namespace Sys2Proof.Machine

/-! ## The window -/

/-- Where the barrier words of a window begin (R247). -/
def Block.barrierBase (b : Block) : Nat := (b.spad + 15) / 16 * 16

/-- The window length (R247). -/
def Block.length (b : Block) : Nat := if b.barriers = 0 then b.spad else b.barrierBase + 8 * b.barriers

def State.block? (s : State) (c id : Nat) : Option Block := (s.core? c).bind (fun k => SMap.get? id k.blocks)
def State.modBlock (s : State) (c id : Nat) (f : Block → Block) : State :=
  s.modCore c (fun k => { k with blocks := SMap.modify id f k.blocks })

/-- A window of length 0. -/
def noWindow : Block := { launch := 0, tenant := 0, index := 0, slots := [], spad := 0, barriers := 0, banks := [] }

/-- The window of the issuing warp's block. -/
def Ctx.window (x : Ctx) (s : State) : Block := (s.block? x.core x.w.block).getD noWindow

/-- Bytes of the window; an unlisted byte is 0. -/
def Block.readBytes (b : Block) (o n : Nat) : List Byte := (List.range n).map (fun i => SMap.get 0 (o + i) b.window)
def Block.readNum (b : Block) (o n : Nat) : Nat := numOf (b.readBytes o n)

/-- The words that bytes of the window touch. -/
def wordsOf (o n : Nat) : List Nat := if n = 0 then [] else (List.range ((o + n - 1) / 4 - o / 4 + 1)).map (o / 4 + ·)

/-- Some byte lies in a poisoned word. -/
def Block.poisoned (b : Block) (o n : Nat) : Bool := (wordsOf o n).any b.poison.contains

/-- Marks the words of bytes full or empty (R249). -/
def Block.markFull (b : Block) (o n : Nat) : Block := { b with empty := b.empty.filter (fun k => !(wordsOf o n).contains k) }
def Block.markEmpty (b : Block) (o n : Nat) : Block := { b with empty := (wordsOf o n).foldl (fun m k => NSet.add k m) b.empty }

/-- Writes bytes: a word that is covered whole loses its poison (R273). -/
def Block.writeBytes (b : Block) (o : Nat) (l : List Byte) : Block :=
  { b with
    window := (l.mapIdx (fun i v => (o + i, v))).foldl (fun m e => SMap.set 0 e.1 e.2 m) b.window,
    poison := b.poison.filter (fun k => !(decide (o ≤ 4 * k ∧ 4 * k + 4 ≤ o + l.length))) }

/-- Writes bytes and marks their words full (R249). -/
def Block.store (b : Block) (o : Nat) (l : List Byte) : Block := (b.writeBytes o l).markFull o l.length

/-- A store to the window clears the latch tags of the blocks it touches (R234). -/
def MatrixLatch.touched (t : MatrixLatch) (o n : Nat) : Bool :=
  t.window && decide (n ≠ 0 ∧ o < t.place + 3072 * t.block + 3072 ∧ t.place + 3072 * t.block < o + n)

/-- The latches whose owners belong to a block of the core. -/
def State.clearWindowLatches (s : State) (c id o n : Nat) : State :=
  s.modCore c (fun k =>
    let mine (t : MatrixLatch) : Bool :=
      t.owner.any (fun slot => ((SMap.get? slot k.warps).map (fun w => decide (w.block = id))).getD false)
    { k with quads := k.quads.map (fun q => { q with latches := q.latches.filter (fun e => !(mine e.2 && e.2.touched o n)) }) })

/-! ## Full/empty waiters (R288) -/

/-- The condition of a lane: every word full, or for STF.we empty. -/
def Block.fits (b : Block) (fill : Bool) (o n : Nat) : Bool := (wordsOf o n).all (fun k => b.empty.contains k == fill)

/-- Two waiters of one kind name a common word. -/
def FEWaiter.meets (a b : FEWaiter) : Bool := a.fill == b.fill && (wordsOf a.offset a.bytes).any (wordsOf b.offset b.bytes).contains

/-- The oldest waiter that can be served: no older one of its kind waits on a word of it. -/
def firstFit (b : Block) : List FEWaiter → List FEWaiter → Option FEWaiter
  | _, [] => none
  | older, w :: t =>
    if b.fits w.fill w.offset w.bytes && !older.any (·.meets w) then some w else firstFit b (older ++ [w]) t

/-- The step of one lane at its bank: an LDF reads and empties, an STF.we writes and fills. -/
def Block.act (b : Block) (w : FEWaiter) : Block :=
  if w.fill then b.store w.offset (bytesOf w.data w.bytes) else b.markEmpty w.offset w.bytes

/-- A lane has completed its step: an LDF writes its registers; DONE is set until the instruction completes (R430). -/
def State.laneDone (s : State) (c : Nat) (w : FEWaiter) (value : Nat) : State :=
  s.modWarp c w.slot (fun q =>
    let q1 :=
      match q.access? w.access with
      | some a => if w.fill then q else q.setRun a.dst w.lane value a.regs
      | none => q
    q1.modLane w.lane (fun l => { l with done := true }))

/-- What a lane's access waits for while it stands at its words. -/
def needLane (lane : Nat) : Nat := lane + 1

/-- The last lane of the warp that waited at its words has completed: the warp is waiting again (R288). -/
def State.lanesDone (s : State) (c id slot : Nat) : State :=
  if (((s.block? c id).map (·.waiters)).getD []).any (fun e => decide (e.slot = slot)) then s else s.unparkFrom c slot .fullEmpty

/-- Serves one waiter. -/
def State.serveWaiter (s : State) (c id : Nat) (b : Block) (w : FEWaiter) : State :=
  let v := b.readNum w.offset w.bytes
  let s1 := s.modBlock c id (fun b => { b.act w with waiters := dropFirst (· == w) b.waiters })
  (((s1.clearWindowLatches c id w.offset (if w.fill then w.bytes else 0)).laneDone c w v).answer c w.slot w.access
    (needLane w.lane) (fun a => a)).lanesDone c id w.slot

/-- Serves every waiter whose words have come to fit; each is served once. DESIGN CHOICE, log entry 43. -/
def State.serveWaiters (s : State) (c id : Nat) : Nat → State
  | 0 => s
  | n + 1 =>
    match s.block? c id with
    | none => s
    | some b =>
      match firstFit b [] b.waiters with
      | none => s
      | some w => (s.serveWaiter c id b w).serveWaiters c id n

/-- PHASE of a barrier word (R250). -/
def Block.phase (b : Block) (o : Nat) : Bool := (b.readNum o 8).testBit 32

/-- Wakes the warps of a block that are parked on a barrier whose phase differs from theirs (R251, R294). -/
def State.wakeBarriers (s : State) (c id : Nat) : State :=
  match s.block? c id with
  | none => s
  | some b => b.slots.foldl (fun s slot =>
      match s.warp? c slot with
      | none => s
      | some w =>
        match w.parkedBy (fun r => match r with | .barrier o ph => b.phase o != ph | _ => false) with
        | some r => if w.block = id then s.unparkFrom c slot r else s
        | none => s) s

/-- What follows a change of the window: waiters are served, barriers looked at. -/
def State.settleWindow (s : State) (c id : Nat) : State :=
  let n := ((s.block? c id).map (fun b => b.waiters.length)).getD 0
  (s.serveWaiters c id n).wakeBarriers c id

/-- Stores bytes into a window at its banks. -/
def State.storeWindow (s : State) (c id o : Nat) (l : List Byte) : State :=
  (s.modBlock c id (fun b => b.store o l)).clearWindowLatches c id o l.length

/-! ## Addresses and checks -/

/-- The window offset of a place (R278). -/
def Ctx.saddr (x : Ctx) (p : Nat) : Nat :=
  (x.a 1 p + ((BitVec.ofNat 32 (x.b 1 p)).signExtend 64).toNat * 2 ^ x.f.mb 10 8 + x.disp) % 2 ^ 32

/-- What is wrong with an access of the window (R279, R280, R273). -/
def Block.trouble (b : Block) (align : Nat) (reads : Bool) (o n : Nat) : Option LaneTrouble :=
  if o % align ≠ 0 then some .misaligned
  else if b.length < o + n then some .bounds
  else if reads && b.poisoned o n then some .poison
  else none

/-- The first place, in ascending LID, at which something is wrong. -/
def Ctx.windowTrouble (x : Ctx) (b : Block) (n : Nat) (reads : Bool) : List Nat → Option Bad
  | [] => none
  | p :: t =>
    match b.trouble n reads (x.saddr p) n with
    | some e => some { place := p, va := x.saddr p, what := e }
    | none => x.windowTrouble b n reads t

/-- The number of the warp's next access. -/
def State.accessId (s : State) (x : Ctx) : Nat := ((s.warp? x.core x.slot).map (·.nextAccess)).getD 1

/-- Raises SPD for an access that is performed already. -/
def State.startPerformed (s : State) (x : Ctx) (a : Access) : State :=
  (s.modWarp x.core x.slot (·.addAccess a)).dueReturn x.core x.slot a.id

/-- The shape of a scratchpad instruction: nothing where it acts in no lane, a fault in the first faulting lane, else its
act. -/
def window (n : Ctx → Nat) (reads : Bool) (access : Nat) (act : Ctx → Block → State → State) (x : Ctx) (s : State) : State :=
  if x.places.isEmpty then s.complete x
  else
    let b := x.window s
    match x.windowTrouble b (n x) reads x.places with
    | some e => s.trouble x e.place e.va access e.what
    | none => act x b s

/-- Every scratchpad instruction counts on SPD (R282). -/
def lateSpad (x : Ctx) (_ : State) : Late := { paths := if x.places.isEmpty then [] else [.spd] }

/-! ## LDS and STS (R287) -/

def Ctx.width (x : Ctx) : Nat := widthBytes (x.f.mb 3 0)

def ldsAct (x : Ctx) (b : Block) (s : State) : State :=
  let n := x.width
  let a : Access :=
    { id := s.accessId x, path := .spd, kind := .atomic n, dst := x.f.dst.toNat, regs := widthRegs (x.f.mb 3 0), firstLid := x.firstLid,
      values := x.places.foldl (fun m p =>
        SMap.put p (extendBytes (widthSigned (x.f.mb 3 0)) n (b.readNum (x.saddr p) n)) m) [] }
  (s.startPerformed x a).complete x

def execLds (f : LX) (s : State) : Result := issue (.lds f) lateSpad (window Ctx.width true accRead ldsAct) s

/-- Stores of lanes in ascending LID (R281): each lane's step serves what waits at its words before the next one (R288). -/
def stsAct (x : Ctx) (_ : Block) (s : State) : State :=
  let n := x.width
  let s1 := x.places.foldl (fun s p =>
    (s.storeWindow x.core x.w.block (x.saddr p) (bytesOf (x.storeData p) n)).settleWindow x.core x.w.block) s
  (s1.startPerformed x { id := s.accessId x, path := .spd, firstLid := x.firstLid }).complete x

def execSts (f : LX) (s : State) : Result := issue (.sts f) lateSpad (window Ctx.width false accWrite stsAct) s

/-! ## LDF, STF, FESET (R288) -/

/-- The stage of a warp that waits at its words. -/
def stWords : Nat := 11

/-- Lanes that have not completed their step yet. -/
def Ctx.undone (x : Ctx) : List Nat := x.places.filter (fun p => !(x.w.lane p).done)

/-- The instruction has completed: DONE is cleared in the lanes of its group. -/
def doneWords (x : Ctx) (s : State) : State :=
  (s.complete x).modWarp x.core x.slot (fun w =>
    { w with lanes := w.lanes.mapIdx (fun i l => if inMask x.mask (i / 4) then { l with done := false } else l) })

/-- Every lane stands at its bank behind those that wait there already; what fits is served at once. -/
def standAct (fill : Bool) (x : Ctx) (_ : Block) (s : State) : State :=
  let lanes := x.undone
  if lanes.isEmpty then doneWords x s
  else
    let id := s.accessId x
    let n := x.width
    let ws : List FEWaiter := lanes.map (fun p =>
      { slot := x.slot, lane := p, access := id, fill := fill, offset := x.saddr p, bytes := n,
        data := if fill then x.storeData p else 0 })
    let a : Access :=
      { id := id, path := .spd, dst := if fill then 0xFC else x.f.dst.toNat, regs := widthRegs (x.f.mb 3 0), firstLid := x.firstLid,
        needs := lanes.foldl (fun m p => NSet.add (needLane p) m) [] }
    let s1 := (s.modWarp x.core x.slot (·.addAccess a)).modBlock x.core x.w.block (fun b => { b with waiters := b.waiters ++ ws })
    let s2 := s1.settleWindow x.core x.w.block
    let waits := (((s2.warp? x.core x.slot).bind (·.access? id)).map (fun a => !a.needs.isEmpty)).getD false
    if waits then s2.parkAt x .fullEmpty { stage := stWords } else doneWords x s2

/-- Checks the lanes that are still to act. -/
def words (reads : Bool) (access : Nat) (act : Ctx → Block → State → State) (x : Ctx) (s : State) : State :=
  if x.prog.stage = stWords then doneWords x s
  else if x.places.isEmpty then s.complete x
  else
    let b := x.window s
    match x.windowTrouble b x.width reads x.undone with
    | some e => s.trouble x e.place e.va access e.what
    | none => act x b s

def execLdf (f : LX) (s : State) : Result := issue (.ldf f) lateSpad (words true accRead (standAct false)) s

/-- STF without .we writes and fills at once. -/
def stfAct (x : Ctx) (b : Block) (s : State) : State := if x.f.mb 6 6 = 1 then standAct true x b s else stsAct x b s

def execStf (f : LX) (s : State) : Result := issue (.stf f) lateSpad (words false accWrite stfAct) s

/-- FESET marks the words of each lane, in ascending LID; each lane's step serves what waits at its words. -/
def fesetAct (x : Ctx) (_ : Block) (s : State) : State :=
  let n := x.width
  let mark (b : Block) (p : Nat) : Block := if x.f.mb 6 6 = 1 then b.markFull (x.saddr p) n else b.markEmpty (x.saddr p) n
  let s1 := x.places.foldl (fun s p => (s.modBlock x.core x.w.block (mark · p)).settleWindow x.core x.w.block) s
  (s1.startPerformed x { id := s.accessId x, path := .spd, firstLid := x.firstLid }).complete x

def execFeset (f : LX) (s : State) : Result := issue (.feset f) lateSpad (window Ctx.width false accWrite fesetAct) s

/-! ## ATOMS (R290) -/

/-- One lane's atomic at its bank, with the old value. -/
def Block.atomic (b : Block) (op ty o x cmp : Nat) : Block × Nat :=
  let n := atomBytes ty
  let old := b.readNum o n
  (b.store o (bytesOf (atomStore op ty old x cmp) n), old)

def atomsAct (x : Ctx) (_ : Block) (s : State) : State :=
  let op := x.f.mb 3 0
  let ty := x.f.mb 7 4
  let one (r : State × SMap Nat) (p : Nat) : State × SMap Nat :=
    let o := x.saddr p
    let (v, c) := x.atomOperands p
    match r.1.block? x.core x.w.block with
    | none => r
    | some b =>
      let (b1, old) := b.atomic op ty o v c
      (((r.1.modBlock x.core x.w.block (fun _ => b1)).clearWindowLatches x.core x.w.block o (atomBytes ty)).settleWindow x.core x.w.block,
        SMap.put p old r.2)
  let (s1, vals) := x.places.foldl one (s, [])
  let a : Access :=
    { id := s.accessId x, path := .spd, kind := .atomic (atomBytes ty), dst := x.f.dst.toNat, regs := atomRegs ty, values := vals,
      firstLid := x.firstLid }
  (s1.startPerformed x a).complete x

def Ctx.atomsWidth (x : Ctx) : Nat := atomBytes (x.f.mb 7 4)

def execAtoms (f : LX) (s : State) : Result := issue (.atoms f) lateSpad (window Ctx.atomsWidth true accAtomic atomsAct) s

/-! ## Barriers (R251, R293, R294) -/

/-- One arrival. -/
def Block.arrival (b : Block) (o count : Nat) : Block :=
  let v := b.readNum o 8
  let a := bitsOf v 31 16 + count
  let e := bitsOf v 15 0
  let keep := bitsOf v 63 33 * 2 ^ 33 + e
  let phase := if v.testBit 32 then 1 else 0
  let v1 := if e ≤ a then keep + (1 - phase) * 2 ^ 32 else keep + phase * 2 ^ 32 + a * 2 ^ 16
  b.store o (bytesOf v1 8)

/-- An arrival completes the phase (R251). -/
def Block.completes (b : Block) (o count : Nat) : Bool :=
  decide (bitsOf (b.readNum o 8) 15 0 ≤ bitsOf (b.readNum o 8) 31 16 + count)

/-- Wakes every warp of a block that is parked on a barrier word. -/
def State.wakeWord (s : State) (c id o : Nat) : State :=
  (((s.block? c id).map (·.slots)).getD []).foldl (fun s slot =>
    match (s.warp? c slot).bind (fun w => if w.block = id then w.parkedBy (fun r => match r with | .barrier p _ => p = o | _ => false) else none) with
    | some r => s.unparkFrom c slot r
    | none => s) s

/-- One arrival at the bank (R251): it fills the words, and where it completes the phase it wakes the warps parked on the word. -/
def State.arriveAt (s : State) (c id o count : Nat) : State :=
  match s.block? c id with
  | none => s
  | some b =>
    let s1 := ((s.modBlock c id (fun _ => b.arrival o count)).clearWindowLatches c id o 8).settleWindow c id
    if b.completes o count then s1.wakeWord c id o else s1

/-- One of several arrivals completes a phase. -/
def Block.completesOf (o : Nat) : Block → List Nat → Bool
  | _, [] => false
  | b, n :: t => b.completes o n || Block.completesOf o (b.arrival o n) t

/-- The stage of a warp that was parked at a barrier, and has been woken. -/
def stBarrier : Nat := 12

/-- What is wrong with the barrier word that the instruction names. DEDUCED, log entry 42. -/
def Ctx.barrierTrouble (x : Ctx) (s : State) (reads : Bool) : Option LaneTrouble :=
  (x.window s).trouble 8 reads (x.saddr scalarLane) 8

/-- The release steps at CORE are done: the arrivals, in ascending LID, then for BARAW the wait. `note` is the word. -/
def arrive (waits : Bool) (x : Ctx) (o : Nat) (counts : List Nat) (s : State) : State :=
  match s.block? x.core x.w.block with
  | none => s.complete x
  | some b =>
    let old := b.phase o
    let id := (((s.warp? x.core x.slot).bind (fun w => w.accesses.find? (fun a => a.path == .spd && a.needs == [0]))).map (·.id)).getD 0
    let s1 := (counts.foldl (fun s n => s.arriveAt x.core x.w.block o n) s).modWarp x.core x.slot
      (fun w => w.modAccess id (fun a => { a with values := [(scalarLane, if old then 1 else 0)], needs := [] }))
    let s2 := s1.dueReturn x.core x.slot id
    if waits && !b.completesOf o counts then s2.parkAt x (.barrier o old) { stage := stBarrier } else s2.complete x

/-- BARA and BARAW. -/
def baraEff (waits : Bool) (x : Ctx) (s : State) : State :=
  if x.prog.releasing then
    match x.prog.vals with
    | o :: counts => (releaseOn x false s).cont x (arrive waits x o counts)
    | [] => s.complete x
  else if x.prog.stage = stBarrier then acquireDone x [domCore] s
  else match x.lanes with
    | [] => s.complete x
    | low :: _ =>
      let o := x.saddr scalarLane
      match x.barrierTrouble s false with
      | some e => s.trouble x low o accAtomic e
      | none =>
        let counts := x.lanes.map (fun l => x.c 1 l % 2 ^ 16)
        let s1 := s.modWarp x.core x.slot (·.addAccess
          { id := s.accessId x, path := .spd, kind := .result, dst := x.f.dst.toNat, regs := 1, needs := [0], firstLid := x.firstLid, mask := x.mask })
        (release x false { vals := o :: counts } [domCore] s1).cont x (arrive waits x o counts)

def lateBarrier (x : Ctx) (_ : State) : Late := { paths := if x.lanes.isEmpty then [] else [.spd] }

def execBara (f : LX) (s : State) : Result := issue (.bara f) lateBarrier (baraEff false) s
def execBaraw (f : LX) (s : State) : Result := issue (.baraw f) lateBarrier (baraEff true) s

/-- BARW. -/
def barwEff (x : Ctx) (s : State) : State :=
  if x.prog.stage = stBarrier then acquireDone x [domCore] s
  else match x.lanes with
    | [] => s.complete x
    | low :: _ =>
      let o := x.saddr scalarLane
      match x.barrierTrouble s false with
      | some e => s.trouble x low o accRead e
      | none =>
        let ph := (x.c 1 scalarLane).testBit 0
        if (x.window s).phase o != ph then acquireDone x [domCore] s
        else s.parkAt x (.barrier o ph) { stage := stBarrier }

def execBarw (f : LX) (s : State) : Result := issue (.barw f) noLate barwEff s

end Sys2Proof.Machine
end

