-- ==== Sys2Proof/Machine/Direct.lean ====
section
/-! DEFINITION. Memory as parts other than a lane reach it: the launch unit, stage-queue headers at their anchors, the copy engine, the ports and peers read and write primary copies (R346, R354, R358, R455). -/

namespace Sys2Proof.Machine

/-! ## Peer windows (R452) -/

/-- The module and the address within it that a peer address names. -/
def peerModule (pa : Nat) : Nat := bitsOf pa 57 44
def peerAddress (pa : Nat) : Nat := bitsOf pa 43 0

/-- An address of this module's own HBM that a peer address names. DEDUCED, log entry 38. -/
def State.ownPeer (s : State) (pa : Nat) : Option Nat :=
  if peerModule pa = s.modul.modid.toNat ∧ peerAddress pa < hbmEnd then some (peerAddress pa) else none

/-! ## Reading -/

/-- An address names another module's memory. -/
def State.remote (s : State) (pa : Nat) : Bool := physKind pa == .peer && (s.ownPeer pa).isNone

/-- A byte of a peer window outside the Nyrus requests of lanes: this module's own memory, or what another module holds, which
the model does not know. -/
def State.peerByte (s : State) (pa : Nat) : Byte :=
  match s.ownPeer pa with
  | some a => Memory.read s.mem a
  | none => (Config.freeWord (2 ^ 60 * s.tick + pa)).setWidth 8

/-- A byte as a LD of a core's tenant would find it now (R366): in its L1, among its writes on their way, in a replica of its
reticle, at the primary copy. -/
def State.seenByte (s : State) (core tenant pa : Nat) : Byte :=
  let line := lineOf pa
  if physKind pa == .peer then s.peerByte pa else
  let fromL1 := (s.l1Find core tenant line).bind (fun l =>
    if l.valid.getLsbD (pa % 128) then some (l.data.extractLsb' (8 * (pa % 128)) 8) else none)
  match fromL1 with
  | some b => b
  | none =>
    let sent := (s.caldera.requests.reverse.filter (fun e => decide (e.2.core = core ∧ e.2.tenant = tenant ∧ e.2.line = line))).findSome?
      (fun e => SMap.get? pa e.2.bytes)
    match sent with
    | some b => b
    | none =>
      match (s.dir? line).bind (fun d => SMap.get? (reticleOf core) d.replicas) with
      | some d => d.extractLsb' (8 * (pa % 128)) 8
      | none => Memory.read s.mem pa

/-- Such a read consumes poison, sector by sector (R273); `slot`: the warp for which it is read, 64 for none. -/
def State.readsPoison (s : State) (core slot tenant pa n : Nat) : Bool :=
  decide (0 < n) && (List.range ((pa + n - 1) / 32 - pa / 32 + 1)).any (fun i =>
    let lo := max pa (32 * (pa / 32 + i))
    s.consumesPoison core slot tenant lo (min (pa + n) (32 * (pa / 32 + i) + 32) - lo))

def State.seenBytes (s : State) (core tenant pa n : Nat) : List Byte := (List.range n).map (fun i => s.seenByte core tenant (pa + i))

/-- A span of memory: virtual address, physical address, bytes. -/
structure Span where
  va : Nat
  pa : Nat
  n  : Nat
deriving DecidableEq, Repr

/-- Reads spans for an instruction of a group, some of them in another module's memory: one access on PEER, whose requests bring those line
by line (R362); the rest is read now. DESIGN CHOICE, log entry 105. -/
def State.fetchRemote (s : State) (x : Ctx) (spans : List Span) : State :=
  let id := ((s.warp? x.core x.slot).map (·.nextAccess)).getD 1
  let (far, near) := spans.partition (fun e => s.remote e.pa)
  let lines : SMap Nat := far.foldl (fun m e => (linesFrom e.pa e.n).foldl (fun m l =>
    if (SMap.get? l m).isSome then m else SMap.put l (e.va + (128 * l - e.pa)) m) m) []
  let (s1, needs) := lines.foldl (fun (r : State × NSet) e =>
    let (s2, n) := r.1.nyrusSend { id := 0, slot := x.slot, access := id, op := 0, line := e.1, va := e.2 } x.core
    (s2, NSet.add (needNyrus n) r.2)) (s, [])
  let here : SMap Byte := near.foldl (fun m e => ((s.seenBytes x.core x.w.tenant e.pa e.n).mapIdx (fun i b => (e.pa + i, b))).foldl
    (fun m c => SMap.put c.1 c.2 m) m) []
  s1.modWarp x.core x.slot (·.addAccess
    { id := id, path := .peer, kind := .image, parts := spans.map (fun e => (scalarLane, e.pa, e.n)), needs := needs, bytes := here,
      firstLid := x.firstLid, mask := x.mask, pages := spans.foldl (fun m e => NSet.add (e.va / 2 ^ 17) m) [] })

/-! ## Writing -/

/-- The marks of the warp for which a part writes. -/
def State.marksOf (s : State) : Option (Nat × Nat) → NSet
  | some (c, slot) => ((s.warp? c slot).map (fun w => [w.mark slot])).getD []
  | none => []

/-- Writes bytes of one line at its primary copy, for a warp where one is named: an Absent line is brought first (R255), a replica in the
warp's own reticle goes at once, and a collapse is asked for where replicas remain, which the warp counts as its own (R261, R262). A write
to host memory is observed later: the number under which it is listed. -/
def State.writeLine (s : State) (who : Option (Nat × Nat)) (tenant line : Nat) (bytes : SMap Byte) : State × NSet :=
  let s1 := (s.bring tenant line 0).1.extern line (fun _ => false)
  let shared := ((s1.dir? line).map (fun d => !d.rmask.isEmpty)).getD false
  let s2 :=
    match who with
    | some (c, _) =>
      let ret := reticleOf c
      if (((s1.dir? line).map (fun (d : DirLine) => (SMap.get? ret d.replicas).isSome)).getD false) then
        (s1.modDir line (fun d => { d with replicas := SMap.del ret d.replicas })).modBank (s1.standIn line ret)
          (fun b => { b with lru := b.lru.filter (· ≠ line) })
      else s1
    | none => s1
  let s3 := s2.performWrite line bytes
  let core := (who.map Prod.fst).getD 0
  let s4 := if who.isSome then s3.countAccess line core else s3
  let s5 := if shared then s4.askCollapse line core (s4.marksOf who) else s4
  if hostLine line then
    let id := s5.caldera.nextRequest
    let r : Request :=
      { core := core, slot := 64, access := 0, kind := .write false, tenant := 16, line := line, sector := 0, bytes := bytes }
    (({ s5 with caldera := { s5.caldera with
        nextRequest := id + 1,
        observing := SMap.put line (SMap.get [] line s5.caldera.observing ++ [(id, r)]) s5.caldera.observing } } : State).push
      (.globalObservationResponse line), [id])
  else (s5, [])

/-- An access of a part at the primary copy of a line that is present, for a warp where one is named. -/
def State.touchFor (s : State) (who : Option (Nat × Nat)) (line : Nat) : State :=
  match s.dir? line, who with
  | some d, some (c, slot) => s.touchPrimary line c slot 0 (s.trackedLine line) d
  | some d, none => s.touchBanks line 0 false d
  | none, _ => s

/-- Writes bytes at their primary copies, line by line. -/
def State.writeDirect (s : State) (who : Option (Nat × Nat)) (tenant : Nat) (cells : SMap Byte) : State × NSet :=
  ((cells.map (fun e => lineOf e.1)).dedup).foldl (fun (r : State × NSet) line =>
    let (s1, ids) := ((r.1.bring tenant line 0).1.touchFor who line).writeLine who tenant line (cells.filter (fun e => lineOf e.1 = line))
    (s1, ids.foldl (fun m k => NSet.add k m) r.2)) (s, [])

/-- Every write of a list has been performed, and host memory's observed. -/
def State.settled (s : State) (ids : NSet) : Bool :=
  ids.all (fun id => (SMap.get? id s.caldera.requests).isNone &&
    s.caldera.observing.all (fun e => e.2.all (fun w => decide (w.1 ≠ id))))

/-- No collapse of a line is under way (R261). -/
def State.uncollapsed (s : State) (line : Nat) : Bool := ((s.dir? line).map (fun d => d.rmask.isEmpty)).getD true

/-! ## Flushing a tenant's lines (R350, R412, R449) -/

/-- Writes back every dirty unlocked line of a tenant on a core; the write-backs that are on their way. DESIGN CHOICE, log entry 34. -/
def State.flushTenant (s : State) (c by_ tenant : Nat) : State × NSet :=
  match s.core? c with
  | none => (s, [])
  | some k =>
    let mine := k.l1.filter (fun l => decide (l.tenant = tenant ∧ l.dirty ≠ 0) && l.lock.isNone)
    let s1 := mine.foldl (fun s l => (s.writeBack c by_ l true).1) s
    let s2 := s1.modL1 c (fun l => mine.contains l) L1Line.cleaned
    (s2, (s2.caldera.requests.filter (fun e =>
      match e.2.kind with
      | .write _ => decide (e.2.core = c ∧ e.2.tenant = tenant)
      | _ => false)).map Prod.fst)

/-- Drops a tenant's unlocked lines from a core, once their dirty bytes are on their way. -/
def State.dropTenant (s : State) (c tenant : Nat) : State :=
  s.modCore c (fun k => { k with l1 := k.l1.filter (fun l => !(decide (l.tenant = tenant) && l.lock.isNone)) })

/-- Retries an instruction in the next cycle at which its hold ends. -/
def State.stopAt (s : State) (x : Ctx) (line : Nat) (writes : Bool) (p : Progress) : State :=
  (s.askLine line writes [0, 1] x.w.tenant).holdAt x (.lineStops line writes) p

end Sys2Proof.Machine
end

