-- ==== Sys2Proof/Machine/Fuse.lean ====
section
/-! DEFINITION. WFUSE (R204 to R207): two warps of a block put their kept lanes together. -/

namespace Sys2Proof.Machine

/-- The vector registers of the issuing warp wait for no class-Q or accumulator write: WFUSE reads and writes them all
(R110, R205). -/
def Ctx.vectorBusy (x : Ctx) (s : State) : Bool :=
  (((s.core? x.core).map (fun k => k.pendingQ x.slot)).getD []).any (fun r => decide (r.1 < 192))

/-- The checks of R204. -/
def lateWfuse (x : Ctx) (_ : State) : Late :=
  let b := x.b 1 scalarLane
  { illegalOperand := decide (63 < b), registerRange := decide (x.w.alloc < x.c 1 scalarLane),
    notConverged := !x.w.fullyGanged || decide (bitsOf x.w.gang.toNat 29 27 ≠ 0 ∨ b = x.slot ∨ quadOf b ≠ quadOf x.slot) }

/-- What a warp in the rendezvous latch keeps: partner, n, issue cycle, then the kept lanes in ascending LID. -/
def Rendezvous.partner (l : Rendezvous) : Nat := l.vals.getD 0 0
def Rendezvous.count (l : Rendezvous) : Nat := l.vals.getD 1 0
def Rendezvous.issued (l : Rendezvous) : Nat := l.vals.getD 2 0
def Rendezvous.kept (l : Rendezvous) : List Nat := l.vals.drop 3

/-- The warp waits in the latch of a WFUSE. -/
def Rendezvous.fusing (l : Rendezvous) : Bool :=
  match l.instr with
  | .wfuse _ => l.entered
  | _ => false

/-- Lanes that are not exited. -/
def Warp.liveLanes (w : Warp) : Nat := (w.lanes.filter (fun l => !l.exited)).length

/-- WFUSE completes with no fusion (R204, R206). -/
def State.fuseAlone (s : State) (c slot : Nat) : State :=
  match s.warp? c slot with
  | none => s
  | some w =>
    match w.latch with
    | none => s
    | some l =>
      let x := w.latchCtx l c slot (s.cyc c) s.tick
      (s.modWarp c slot (fun w => { w.setReg x.f.dst.toNat scalarLane (BitVec.ofNat 32 (2 ^ 9 + w.liveLanes)) with latch := none })).complete x

/-- A lane moved to a position: v0 to v(n-1) and its predicates go along. -/
def Lane.moved (l : Lane) (n pos : Nat) : Lane :=
  { v := l.v.filter (fun e => decide (e.1 < n)), p := l.p, nest := 0, lid := BitVec.ofNat 5 pos, exited := false }

/-- The lanes of a warp after the fusion: the listed ones from position 0 on, the others exited. -/
def fusedLanes (old : List Lane) (list : List Lane) (n : Nat) : List Lane :=
  old.mapIdx (fun i l =>
    match list[i]? with
    | some k => k.moved n i
    | none => { l with lid := BitVec.ofNat 5 i, exited := true })

/-- A warp after the fusion: one group at the next instruction, and its dst (R205, R206). -/
def Warp.fused (w : Warp) (l : Rendezvous) (list : List Lane) (n cyc : Nat) (surv : Bool) : Warp :=
  let f := l.instr.fields
  let next := (w.pcOf l.mask + l.instr.length) % 2 ^ 48
  let w1 : Warp := { w with lanes := fusedLanes w.lanes list n, latch := none }
  let live := w1.liveMask
  let w2 := (w1.setPc 0xFF next).setFmt 0xFF (w.fmtOf l.mask)
  let w3 := w2.setReg f.dst.toNat scalarLane (BitVec.ofNat 32 ((if surv then 2 ^ 8 else 0) + w1.liveLanes))
  { w3 with
    groups := if live = 0 then [] else [{ mask := live, readyAt := max (cyc + 4 + n) (l.issued + 1 + f.stall.toNat) }],
    undelivered := w3.undelivered.filter (fun u => decide (192 ≤ u.code ∧ u.code < 256 ∨ 512 ≤ u.code)) }.countIssue

/-- The fusion of the warps in two slots of a core, the lower slot first (R205). DESIGN CHOICE, log entry 85. -/
def State.fuse (s : State) (c lo hi : Nat) : State :=
  match s.warp? c lo, s.warp? c hi with
  | some a0, some b0 =>
    match a0.latch, b0.latch with
    | some la, some lb =>
      let a : Warp := { a0 with lanes := (a0.pickEarly (s.cyc c) s.tick).lanes }
      let b : Warp := { b0 with lanes := (b0.pickEarly (s.cyc c) (s.tick + 1)).lanes }
      let list := la.kept.map a.lane ++ lb.kept.map b.lane
      let n := max la.count lb.count
      let k := list.length
      let a1 := a.fused la list n (s.cyc c) true
      let a2 : Warp :=
        if k ≤ 32 then
          { a1 with
            special := { a1.special with fflags := a1.special.fflags ||| b.special.fflags },
            flagsDue := a1.flagsDue ++ b.flagsDue }
        else a1
      let b1 : Warp := if k ≤ 32 then { b with groups := [], latch := none } else b.fused lb (list.drop 32) n (s.cyc c) false
      let s1 := ({ s with tick := s.tick + 2 }.setWarp c lo a2).setWarp c hi b1
      let s2 := s1.modQuad c (quadOf lo) (fun q =>
        { q with latches := q.latches.filter (fun e => !(e.2.owner.contains lo || e.2.owner.contains hi)) })
      ((s2.pushAll (a2.dueAfter c lo ++ (if k ≤ 32 then [] else b1.dueAfter c hi))).checkEnd c lo).checkEnd c hi
    | _, _ => s
  | _, _ => s

/-- A warp whose counters are 0 enters the latch: its partner is there and names it, or is no warp of its block, or it
waits. -/
def State.enterFusion (s : State) (c slot : Nat) : State :=
  match s.warp? c slot with
  | none => s
  | some w =>
    match w.latch with
    | none => s
    | some l =>
      let s1 := s.modWarp c slot (fun w => { w with latch := some { l with entered := true } })
      match s1.warp? c l.partner with
      | none => s1.fuseAlone c slot
      | some p =>
        if p.block ≠ w.block then s1.fuseAlone c slot
        else match p.latch with
          | some lp => if lp.fusing && lp.partner = slot then s1.fuse c (min slot l.partner) (max slot l.partner) else s1
          | none => s1

def wfuseEff (x : Ctx) (s : State) : State :=
  if x.vectorBusy s then s.waitAt x (.interlock 1)
  else
    let kept := x.lanes.filter (fun l => x.pd l x.f.srcA.toNat)
    let s1 := (s.holdAt x .event x.prog).modCtx x (fun w =>
      { w with latch := some { instr := x.i, mask := x.mask, vals := [x.b 1 scalarLane, x.c 1 scalarLane, x.cyc] ++ kept } })
    if x.w.paths.allZero then s1.enterFusion x.core x.slot else s1


/-- WFUSE_LATCH_ENTRY: the counters of a warp that waits in WFUSE are 0 (R204). -/
def execWfuseLatchEntry (core slot : Nat) (s : State) : Result :=
  let s1 := s.taken (.wfuseLatchEntry core slot)
  match s1.warp? core slot with
  | none => .next s1
  | some w =>
    match w.latch with
    | none => .next s1
    | some l =>
      match l.instr with
      | .wfuse _ => if w.paths.allZero && !l.entered then .next (s1.enterFusion core slot) else .next s1
      | _ => .next s1

/-- A warp of a core ends or leaves: those that wait in the latch for it complete alone (R204). -/
def State.partnerGone (s : State) (c slot : Nat) : State :=
  let waiting := (((s.core? c).map (·.warps)).getD []).filter (fun e =>
    match e.2.latch with
    | some l => l.fusing && decide (l.partner = slot)
    | none => false)
  waiting.foldl (fun s e => s.fuseAlone c e.1) s

end Sys2Proof.Machine
end

