-- ==== Sys2Proof/Machine/Matrix.lean ====
section
/-! DEFINITION. The matrix unit (R221 to R244): tiles in registers and in the scratchpad, the sums of R79 to R82, entry, fetch, start and write of a matrix instruction, gangs, MLDT and MSTT. -/

namespace Sys2Proof.Machine

/-! ## Sums (R79 to R82) -/

/-- Elements of a row of 192 bytes: their codes in ascending k (R222). -/
def rowCodes (c : Nat) (row : List Byte) : List Nat :=
  if elemBits c = 16 then (List.range 96).map (fun k => (row.getD (2 * k) 0).toNat + 256 * (row.getD (2 * k + 1) 0).toNat)
  else if elemBits c = 4 then row.flatMap (fun b => [b.toNat % 16, b.toNat / 16])
  else row.map (·.toNat)

/-- The products of a group. -/
def products (fa fb : Fmt) : List Nat → List Nat → List (FVal × Bool)
  | a :: as, b :: bs => mulVal (fa.value a) (fb.value b) :: products fa fb as bs
  | _, _ => []

/-- The exact sum of finite products over a common power of two. -/
def sumExact : List (Bool × Nat × Int) → Int × Int
  | [] => (0, 0)
  | (n, m, e) :: t =>
    let (s, g) := sumExact t
    addFin n m e (s < 0) s.natAbs g

def FVal.parts (v : FVal) : Option (Bool × Nat × Int) :=
  match v with
  | .fin n m e => some (n, m, e)
  | _ => none

/-- Truncates towards zero to a multiple of 2^q. -/
def truncTo (q : Int) (p : Bool × Nat × Int) : Bool × Nat × Int := (p.1, (steps p.2.1 p.2.2 q).1, q)

/-- A group value in f32 (R80; with `wide` R81): `k` is the exponent of the scales, `nan` a scale of 0xFF. -/
def groupValue (wide : Bool) (k : Int) (nan : Bool) (ps : List (FVal × Bool)) : Nat :=
  let f := Fmt.f32
  let isNan (p : FVal × Bool) : Bool := match p.1 with | .nan _ => true | _ => p.2
  let isInf (n : Bool) (p : FVal × Bool) : Bool := match p.1 with | .inf s => s == n | _ => false
  if nan || ps.any isNan then f.nan
  else if ps.any (isInf false) && ps.any (isInf true) then f.nan
  else if ps.any (isInf false) then f.infinity
  else if ps.any (isInf true) then f.signed true f.infinity
  else
    let fin := ps.filterMap (fun p => p.1.parts)
    let nonzero := fin.filter (fun p => p.2.1 ≠ 0)
    let terms :=
      if wide then
        match nonzero.map (fun p => magnitude p.2.1 p.2.2) with
        | [] => []
        | e :: t => nonzero.map (truncTo (t.foldl max e - 48))
      else nonzero
    let (s, e) := sumExact terms
    if s = 0 then f.signed (!fin.isEmpty && fin.all (fun p => p.1) && nonzero.isEmpty) 0
    else (roundFin f 0 false (s < 0) s.natAbs (e + k)).bits

/-- Groups of K, with their scale exponents: `sa`, `sb` give the E8M0 code of a group. -/
def sumGroups (wide : Bool) (size : Nat) (fa fb : Fmt) (sa sb : Nat → Nat) : Nat → Nat → Nat → List Nat → List Nat → Nat
  | 0, _, acc, _, _ => acc
  | n + 1, g, acc, a, b =>
    let ea := sa g
    let eb := sb g
    let v := groupValue wide ((ea : Int) + eb - 254) (ea = 255 || eb = 255) (products fa fb (a.take size) (b.take size))
    let acc' := (fAdd .f32 0 (Fmt.f32.value acc) (Fmt.f32.value v)).bits
    sumGroups wide size fa fb sa sb n (g + 1) acc' (a.drop size) (b.drop size)

/-- An element as an integer (R82). -/
def elemInt (c bits : Nat) : Int := intOf (c ≠ 8) 8 bits

/-- D(i, j) from C and a row and a column of codes (R79 to R82). -/
def matrixElement (fmt : Nat) (sa sb : Nat → Nat) (c : Nat) (a b : List Nat) : Nat :=
  if fmtAcc fmt = 1 then
    let s : Int := (List.zipWith (fun x y => elemInt (fmtA fmt) x * elemInt (fmtB fmt) y) a b).foldl (· + ·) 0
    wrapInt 32 ((c : Int) + s)
  else
    match elemFmt (fmtA fmt), elemFmt (fmtB fmt) with
    | some fa, some fb =>
      if elemBits (fmtA fmt) = 16 then sumGroups true 8 fa fb (fun _ => 127) (fun _ => 127) 12 0 c a b
      else sumGroups false 32 fa fb sa sb (if elemBits (fmtA fmt) = 4 then 12 else 6) 0 c a b
    | _, _ => c

/-! ## Blocks of a shape -/

/-- Row block and column block of a sub-tile (R221). -/
def rowBlock (shape t : Nat) : Nat := if shape = 2 then t / 2 else if shape = 3 then t else 0
def colBlock (shape t : Nat) : Nat := if shape = 1 then t else if shape = 2 then t % 2 else 0

/-- The 192 bytes of a row of an operand. -/
def rowOf (bytes : List Byte) (r : Nat) : List Byte := (bytes.drop (192 * r)).take 192

/-- A scale code: byte `g` of a lane of a unit; under per-row scaling byte 0 (R222, R226). -/
def scaleByte (fmt : Nat) (bytes : List Byte) (unit lane g : Nat) : Nat :=
  if fmtScale fmt = 0 then 127 else (bytes.getD ((32 * unit + lane) * 16 + (if fmtScale fmt = 2 then 0 else g)) 0).toNat

/-- Every element of every sub-tile of a matrix instruction, by 256 t + 16 i + j (R226). -/
def matrixResult (o : MatrixOp) (a b : List Byte) (c : Nat → Nat) : List Nat :=
  let rowsA := (List.range (16 * shapeRA o.shape)).map (fun r => rowCodes (fmtA o.fmt) (rowOf a r))
  let colsB := (List.range (16 * shapeCB o.shape)).map (fun r => rowCodes (fmtB o.fmt) (rowOf b r))
  (List.range (shapeTiles o.shape)).flatMap (fun t =>
    let rb := rowBlock o.shape t
    let cb := colBlock o.shape t
    (List.range 16).flatMap (fun i =>
      (List.range 16).map (fun j =>
        matrixElement o.fmt (scaleByte o.fmt o.scaleA rb i) (scaleByte o.fmt o.scaleB cb (16 + j)) (c (256 * t + 16 * i + j))
          (rowsA.getD (16 * rb + i) []) (colsB.getD (16 * cb + j) []))))

/-! ## Tiles in registers (R222) -/

/-- The physical lane at each LID. -/
def Warp.byLid (w : Warp) : List Nat := w.lanesByLid 0xFF

/-- The bytes of an operand run of `blocks` blocks, rows in order: `reg` reads a register of a lane. -/
def runRows (reg : Nat → Nat → Nat) (lanes : List Nat) (code blocks : Nat) : List Byte :=
  (List.range (16 * blocks)).flatMap (fun r =>
    (List.range 48).flatMap (fun k =>
      bytesOf (reg (code + 24 * (r / 16) + k % 24) (lanes.getD (2 * (r % 16) + k / 24) 0)) 4))

/-- The bytes of a scale run: 16 for every lane of every unit. -/
def runScales (reg : Nat → Nat → Nat) (lanes : List Nat) (code units : Nat) : List Byte :=
  (List.range units).flatMap (fun u =>
    lanes.flatMap (fun l => (List.range 4).flatMap (fun k => bytesOf (reg (code + 4 * u + k) l) 4)))

/-- Writes rows of `96 * w / 96` registers in the layout of R222: 2 lanes a row, `regs` registers a lane. -/
def rowLanes (lanes : List Nat) (regs : Nat) (rows : List Byte) : SMap Nat :=
  (List.range 32).foldl (fun m l => SMap.put (lanes.getD l 0) (numOf ((rows.drop (4 * regs * l)).take (4 * regs))) m) []

/-- The place of a sub-tile among those a member holds. -/
def tilePlace (tiles : List Nat) (t : Nat) : Nat := (findPlace (· == t) tiles).getD 0

/-- An accumulator element in a warp's run (R222). -/
def Warp.accElement (w : Warp) (acc : Nat) (tiles : List Nat) (e : Nat) : Nat :=
  let i := e / 16 % 16
  let j := e % 16
  (w.regWord (acc + 8 * tilePlace tiles (e / 256) + j % 8) (w.byLid.getD (2 * i + j / 8) 0)).toNat

/-- Writes the sub-tiles that a member holds. -/
def Warp.writeTiles (w : Warp) (acc : Nat) (tiles : List Nat) (result : List Nat) : Warp :=
  let lanes := w.byLid
  tiles.foldl (fun w t =>
    (List.range 256).foldl (fun w e =>
      let i := e / 16
      let j := e % 16
      w.setReg (acc + 8 * tilePlace tiles t + j % 8) (lanes.getD (2 * i + j / 8) 0) (BitVec.ofNat 32 (result.getD (256 * t + e) 0))) w) w

/-! ## Virtual A (R229, R230) -/

def descField (d hi lo : Nat) : Nat := bitsOf d hi lo

/-- The element size of a tensor in half bytes. -/
def elemNibbles (c : Nat) : Nat := elemBits c / 4

/-- A field breaks its range, or the tensor does not lie inside the window (R229, R230). -/
def descBad (d afmt length : Nat) : Bool :=
  let fld := descField d
  fld 255 152 != 0 || fld 31 19 != 0 || fld 143 140 == 0 || fld 139 136 == 0 || fld 135 132 == 0 || fld 131 128 == 0 ||
    fld 127 120 == 0 || fld 119 112 == 0 || fld 111 96 == 0 || fld 95 80 == 0 || fld 79 64 == 0 || fld 63 48 == 0 ||
    fld 47 32 == 0 || fld 18 0 % 16 != 0 || (afmt == 5 && fld 79 64 % 2 != 0) ||
    decide (2 * length < 2 * fld 18 0 + fld 47 32 * fld 63 48 * fld 79 64 * elemNibbles afmt)

/-- The place of the element that A(i, k) names, in elements from BASE; none where it is 0. -/
def virtualPlace (d pos kk : Nat) : Option Nat :=
  let fld := descField d
  let c := fld 79 64
  let kw := fld 127 120
  let kh := fld 119 112
  let oh := fld 111 96
  let ow := fld 95 80
  if oh * ow ≤ pos ∨ kh * kw * c ≤ kk then none
  else
    let y : Int := ((pos / ow) * fld 131 128 + (kk / (c * kw)) * fld 139 136 : Nat) - (fld 147 144 : Nat)
    let x : Int := ((pos % ow) * fld 135 132 + (kk / c % kw) * fld 143 140 : Nat) - (fld 151 148 : Nat)
    if 0 ≤ y ∧ y < (fld 47 32 : Nat) ∧ 0 ≤ x ∧ x < (fld 63 48 : Nat) then some ((y.toNat * fld 63 48 + x.toNat) * c + kk % c) else none

/-- Elements of a row. -/
def rowLength (afmt : Nat) : Nat := 1536 / elemBits afmt

/-- The places of the elements of virtual rows, in order. -/
def virtualPlaces (d afmt kbase pbase blocks : Nat) : List (Option Nat) :=
  (List.range (16 * blocks)).flatMap (fun r => (List.range (rowLength afmt)).map (fun k => virtualPlace d (pbase + r) (kbase + k)))

/-- The code of an element of a tensor in the window. -/
def Block.element (b : Block) (d afmt place : Nat) : Nat :=
  let base := descField d 18 0
  let n := elemNibbles afmt
  b.readNum (base + place * n / 2) ((n + 1) / 2) / 2 ^ (4 * (place * n % 2)) % 2 ^ (4 * n)

/-- Element codes packed into bytes as a row holds them. -/
def packCodes (afmt : Nat) : List Nat → List Byte
  | [] => []
  | [x] => bytesOf x (if elemBits afmt = 16 then 2 else 1)
  | x :: y :: t =>
    if elemBits afmt = 4 then BitVec.ofNat 8 (x + 16 * y) :: packCodes afmt t
    else if elemBits afmt = 16 then bytesOf x 2 ++ packCodes afmt (y :: t)
    else bytesOf x 1 ++ packCodes afmt (y :: t)

/-- The bytes of an operand: those of the window as the instruction enters, every earlier write of its warp among them and no later one
(R287, R332). R227 lets a byte be the old or the new one where no WAITC on SPD follows such a write; it is the new one here. DESIGN CHOICE,
log entry 99. -/
def MatrixSource.read (m : MatrixSource) (b : Block) (afmt blocks : Nat) : List Byte :=
  match m with
  | .rows l => l
  | .window o => b.readBytes o (3072 * blocks)
  | .virtual d kbase pbase =>
    packCodes afmt ((virtualPlaces d afmt kbase pbase blocks).map (fun p => (p.map (b.element d afmt)).getD 0))

/-- The first poisoned byte of a range of the window. -/
def Block.poisonIn (b : Block) (o n : Nat) : Option Nat := ((wordsOf o n).find? b.poison.contains).map (fun k => max o (4 * k))

/-- The first poisoned byte that a fetch meets (R242). -/
def MatrixSource.poison (m : MatrixSource) (b : Block) (afmt blocks : Nat) : Option Nat :=
  match m with
  | .rows _ => none
  | .window o => b.poisonIn o (3072 * blocks)
  | .virtual d kbase pbase =>
    if b.poison.isEmpty then none
    else
      let n := elemNibbles afmt
      ((virtualPlaces d afmt kbase pbase blocks).filterMap id).findSome? (fun p =>
        let o := descField d 18 0 + p * n / 2
        if b.poisoned o ((n + 1) / 2) then some o else none)

/-- The bytes of a source that has been read. -/
def MatrixSource.fetched (m : MatrixSource) : List Byte :=
  match m with
  | .rows l => l
  | _ => []

/-- Bytes that a virtual operand fetches: padding costs none (R230). -/
def virtualCost (d afmt kbase pbase blocks : Nat) : Nat :=
  (((virtualPlaces d afmt kbase pbase blocks).filterMap id).length * elemNibbles afmt + 1) / 2

/-! ## The latches (R234) -/

/-- The latches of an operand: A latches at even keys, B latches at odd ones. -/
def latchKey (isB : Bool) (array : Nat) : Nat := 2 * array + (if isB then 1 else 0)

/-- A latch holds the block that a fresh fetch would give. -/
def MatrixLatch.hit (t : MatrixLatch) (u : MatrixLatch) : Bool :=
  t.owner == u.owner && t.window == u.window && decide (t.place = u.place ∧ t.block = u.block) && t.bytes == u.bytes

/-- Sub-arrays that use a block of an operand. -/
def blockArrays (isB : Bool) (shape sub block : Nat) : List Nat :=
  if shape = 0 then [sub]
  else (List.range 4).filter (fun t => decide ((if isB then colBlock shape t else rowBlock shape t) = block))

/-- Takes the blocks of an operand to the latches of its sub-arrays: the blocks that are read anew. -/
def Quad.latchBlocks (q : Quad) (isB window : Bool) (owner : List Nat) (shape sub place : Nat) (bytes : List Byte) (blocks : Nat) :
    Quad × Nat :=
  (List.range blocks).foldl (fun (r : Quad × Nat) k =>
    let t : MatrixLatch :=
      { owner := owner, window := window, place := place, block := k, bytes := if window then [] else (bytes.drop (3072 * k)).take 3072 }
    let arrays := blockArrays isB shape sub k
    let held := arrays.all (fun a => ((SMap.get? (latchKey isB a) r.1.latches).map (·.hit t)).getD false)
    if held then r
    else ({ r.1 with latches := arrays.foldl (fun m a => SMap.put (latchKey isB a) t m) r.1.latches }, r.2 + 1)) (q, 0)

/-! ## What a warp gives to a matrix instruction -/

/-- What one warp has read for a matrix instruction when it issued. -/
structure Gift where
  slot   : Nat
  acc    : Nat
  exec   : Bool
  lid    : Nat
  issued : Nat
  fmt    : Nat
  /-- srcA as a register code, or 0xFC. -/
  codeA  : Nat := 0xFC
  codeB  : Nat := 0xFC
  a      : MatrixSource := .rows []
  b      : MatrixSource := .rows []
  scale  : List Byte := []
deriving DecidableEq, Repr

/-- The numbers of a list of bytes. -/
def natsOf (l : List Byte) : List Nat := l.map (·.toNat)
def bytesOfNats (l : List Nat) : List Byte := l.map (BitVec.ofNat 8)

/-- Sources and gifts as numbers, so that a waiting member keeps them. -/
def MatrixSource.pack (m : MatrixSource) : List Nat :=
  match m with
  | .rows l => 0 :: l.length :: natsOf l
  | .window o => [1, 1, o]
  | .virtual d k p => [2, 3, d, k, p]

def unpackSource (l : List Nat) : MatrixSource × List Nat :=
  let n := l.getD 1 0
  let body := (l.drop 2).take n
  let rest := l.drop (2 + n)
  match l.getD 0 0 with
  | 1 => (.window (body.getD 0 0), rest)
  | 2 => (.virtual (body.getD 0 0) (body.getD 1 0) (body.getD 2 0), rest)
  | _ => (.rows (bytesOfNats body), rest)

def Gift.pack (g : Gift) : List Nat :=
  [g.slot, g.acc, if g.exec then 1 else 0, g.lid, g.issued, g.fmt, g.codeA, g.codeB] ++ g.a.pack ++ g.b.pack ++ natsOf g.scale

def unpackGift (l : List Nat) : Gift :=
  let (a, r1) := unpackSource (l.drop 8)
  let (b, r2) := unpackSource r1
  { slot := l.getD 0 0, acc := l.getD 1 0, exec := l.getD 2 0 == 1, lid := l.getD 3 0, issued := l.getD 4 0, fmt := l.getD 5 0,
    codeA := l.getD 6 0xFC, codeB := l.getD 7 0xFC, a := a, b := b, scale := bytesOfNats r2 }

/-- The kind number of a matrix multiply. -/
def matrixKind : Instr → Nat
  | .mmas _ => 1
  | .mmav _ => 2
  | _ => 0

def Ctx.ganged (x : Ctx) : Bool := x.f.mb 6 6 == 1
def Ctx.shape (x : Ctx) : Nat := x.f.mb 1 0
def Ctx.subArray (x : Ctx) : Nat := x.f.mb 3 2

/-- Roles of the warp (R238): supplies A, supplies B, the sub-tiles it holds. -/
def Ctx.givesA (x : Ctx) : Bool := !x.ganged || gangSelf x.w.gang.toNat == 0
def Ctx.givesB (x : Ctx) : Bool := !x.ganged || gangSelf x.w.gang.toNat == 1
def Ctx.heldTiles (x : Ctx) : List Nat :=
  if x.ganged then Sys2Proof.Machine.heldTiles (gangCount x.w.gang.toNat) (gangSelf x.w.gang.toNat) (shapeTiles x.shape)
  else List.range (shapeTiles x.shape)

/-- Members of the warp's gang as slots (R129). -/
def gangSlots (gang quad : Nat) : List Nat := (List.range (gangCount gang)).map (fun k => 16 * quad + gangMember gang k)

/-- Units of scales that an instruction reads. -/
def scaleUnits (shape : Nat) : Nat := max (shapeRA shape) (shapeCB shape)

/-- The descriptor of an MMAV: its offset and its 256 bits (R229). -/
def Ctx.descOffset (x : Ctx) : Nat := x.a 2 scalarLane % 2 ^ 32
def Ctx.desc (x : Ctx) (b : Block) : Nat := b.readNum x.descOffset 32

/-- What the warp gives. -/
def Ctx.gift (x : Ctx) (b : Block) : Gift :=
  let lanes := x.w.byLid
  let a : MatrixSource :=
    if !x.givesA then .rows []
    else if matrixKind x.i = 2 then .virtual (x.desc b) (x.a 2 scalarLane / 2 ^ 32) (x.c 1 scalarLane)
    else if x.f.mb 4 4 = 1 then .window (x.a 1 scalarLane)
    else .rows (runRows x.reg lanes x.f.srcA.toNat (shapeRA x.shape))
  let bs : MatrixSource :=
    if !x.givesB then .rows []
    else if x.f.mb 5 5 = 1 then .window (x.b 1 scalarLane)
    else .rows (runRows x.reg lanes x.f.srcB.toNat (shapeCB x.shape))
  { slot := x.slot, acc := x.f.dst.toNat, exec := !x.lanes.isEmpty, lid := x.firstLid, issued := x.cyc, fmt := x.fmt,
    codeA := x.f.srcA.toNat, codeB := x.f.srcB.toNat, a := a, b := bs,
    scale := if matrixKind x.i = 1 ∧ (x.givesA || x.givesB) then runScales x.reg lanes x.f.srcC.toNat (scaleUnits x.shape) else [] }

/-! ## The checks (R225, R238, R244) -/

/-- Two vector runs of the instruction share a register. -/
def Ctx.overlapping (x : Ctx) : Bool :=
  let sh := x.shape
  let vec (c : BitVec 8) (n : Nat) : List (Nat × Nat) := if c.toNat < 192 ∧ n ≠ 0 then [(c.toNat, n)] else []
  let rs := vec x.f.dst (8 * x.heldTiles.length) ++
    (if matrixKind x.i = 2 ∨ x.f.mb 4 4 = 1 then [] else vec x.f.srcA (24 * shapeRA sh)) ++
    (if x.f.mb 5 5 = 1 then [] else vec x.f.srcB (24 * shapeCB sh)) ++
    (if matrixKind x.i = 1 then vec x.f.srcC (4 * scaleUnits sh) else [])
  (List.range rs.length).any (fun i => (rs.drop (i + 1)).any (fun r => runsMeet (rs.getD i (0, 0)) r))

/-- A field that the member's role does not use holds 0xFC, and one that it uses does not (R238). -/
def Ctx.roleBad (x : Ctx) : Bool :=
  let isZero (c : BitVec 8) : Bool := c == 0xFC
  let usesC := match matrixKind x.i with
    | 1 => x.givesA || x.givesB
    | 2 => x.givesA
    | _ => false
  x.ganged && decide (2 ≤ gangCount x.w.gang.toNat) &&
    ((x.givesA == isZero x.f.srcA) || (x.givesB == isZero x.f.srcB) ||
      (decide (matrixKind x.i ≠ 0) && (usesC == isZero x.f.srcC)) || (x.heldTiles.isEmpty != isZero x.f.dst))

/-- The descriptor is at fault (R230). -/
def Ctx.descHandle (x : Ctx) (s : State) : Option Nat :=
  if matrixKind x.i ≠ 2 ∨ !x.givesA then none
  else
    let b := x.window s
    let o := x.descOffset
    if o % 16 ≠ 0 ∨ b.length < o + 32 ∨ descBad (x.desc b) (fmtA x.fmt) b.length then some o else none

/-- Scratchpad operands of the warp: offset and blocks. -/
def Ctx.windowOperands (x : Ctx) : List (Nat × Nat) :=
  (if x.givesA && matrixKind x.i != 2 && x.f.mb 4 4 == 1 then [(x.a 1 scalarLane, shapeRA x.shape)] else []) ++
    (if x.givesB && x.f.mb 5 5 == 1 then [(x.b 1 scalarLane, shapeCB x.shape)] else [])

/-- The instruction fetches from the scratchpad for this warp. -/
def Ctx.fetches (x : Ctx) : Bool := !x.windowOperands.isEmpty || (x.givesA && matrixKind x.i == 2)

/-- A run that passes v191 is an Illegal Operand, also where it lies beyond the allocation. DEDUCED, log entry 102. -/
def lateMatrix (x : Ctx) (s : State) : Late :=
  let scale := fmtScale x.fmt
  { illegalOperand := fmtBad x.fmt || (if matrixKind x.i = 1 then scale == 0 else scale != 0) || x.overlapping || x.roleBad ||
      decide (x.f.dst.toNat < 192 ∧ 192 < x.f.dst.toNat + 8 * x.heldTiles.length),
    registerRange := decide (x.f.dst.toNat < 192 ∧ x.w.alloc < x.f.dst.toNat + 8 * x.heldTiles.length),
    notConverged := !x.w.fullyGanged || (x.ganged && decide (gangCount x.w.gang.toNat < 2)),
    handle := x.descHandle s,
    paths := if x.fetches && !x.lanes.isEmpty then [.mmx] else [] }

/-- The fault of a scratchpad operand, in the lowest-LID executing lane (R227). MMAV reads its descriptor at issue, so a poisoned one is
a fault there. DESIGN CHOICE, log entry 101. -/
def Ctx.operandTrouble (x : Ctx) (s : State) : Option (Nat × LaneTrouble) :=
  let b := x.window s
  -- within a lane Misaligned comes before Bounds (R106)
  let bad := x.windowOperands.filterMap (fun o => (b.trouble 16 false o.1 (3072 * o.2)).map (fun e => (o.1, e)))
  match (bad.find? (fun e => decide (e.2 = .misaligned))).orElse (fun _ => bad.head?) with
  | some e => some e
  | none =>
    if matrixKind x.i = 2 ∧ x.givesA && b.poisoned x.descOffset 32 then some (x.descOffset, .poison) else none

/-! ## Entering the unit (R231 to R233) -/

/-- A needed sub-array holds two instructions that have entered and not finished. -/
def Quad.full (q : Quad) (shape sub cyc : Nat) : Bool :=
  (arraysOf shape sub).any (fun a =>
    decide (2 ≤ ((q.onArray a).filter (fun o => match o.start with | some st => decide (cyc < st + 96) | none => true)).length))

/-- Cycles of the port for so many bytes. -/
def portCycles (n : Nat) : Nat := (n + 127) / 128

/-- Cycles that reading registers holds a group for (R233), and MMAV's descriptor (R229). -/
structure Held where
  a : Nat := 0
  b : Nat := 0
deriving DecidableEq, Repr

/-- Enters a matrix multiply with what its members gave. `gang`: the member slots in SELF order, one warp alone without a
gang. `accesses`: the access of each member that fetches. -/
def State.enterMatrix (s : State) (x : Ctx) (gifts : List Gift) (tiles : List (List Nat)) (accesses : List (Option Nat)) : State × Held :=
  let q := ((s.core? x.core).map (fun k => k.quad (quadOf x.slot))).getD {}
  let window := x.window s
  let first := gifts.headD (x.gift noWindow)
  let second := if gifts.length ≤ 1 then first else gifts.getD 1 first
  let owner := gifts.map (·.slot)
  let sh := x.shape
  let sub := x.subArray
  let chained := (match q.ahead sh sub with
    | some o => o.members.map (fun m => (m.slot, m.acc)) == gifts.map (fun g => (g.slot, g.acc)) && !o.cancelled
    | none => false)
  let (q1, readA, bytesA) :=
    match first.a with
    | .rows l => let (q1, n) := q.latchBlocks false false owner sh sub first.codeA l (shapeRA sh); (q1, 3 * n, 0)
    | .window o => let (q1, n) := q.latchBlocks false true owner sh sub o [] (shapeRA sh); (q1, 0, 3072 * n)
    | .virtual d k p => (q, 2, virtualCost d (fmtA first.fmt) k p (shapeRA sh))
  let (q2, readB, bytesB) :=
    match second.b with
    | .rows l => let (q2, n) := q1.latchBlocks true false owner sh sub second.codeB l (shapeCB sh); (q2, 3 * n, 0)
    | .window o => let (q2, n) := q1.latchBlocks true true owner sh sub o [] (shapeCB sh); (q2, 0, 3072 * n)
    | .virtual _ _ _ => (q1, 0, 0)
  let cost := portCycles bytesA + portCycles bytesB
  let begins := max (x.cyc + 1) q2.portFree
  let fetching := accesses.any (·.isSome)
  let op : MatrixOp :=
    { id := q2.nextMatrix, kind := matrixKind x.i, block := x.w.block, shape := sh, sub := sub, fmt := first.fmt, entered := x.cyc,
      members := (gifts.zip (tiles.zip accesses)).map (fun e =>
        { slot := e.1.slot, acc := e.1.acc, tiles := e.2.1, access := e.2.2, lid := e.1.lid }),
      fetch := if fetching then some (if cost = 0 then x.cyc else begins + cost - 1) else none,
      a := .rows (first.a.read window (fmtA first.fmt) (shapeRA sh)), b := .rows (second.b.read window (fmtB first.fmt) (shapeCB sh)),
      bad := (first.a.poison window (fmtA first.fmt) (shapeRA sh)).orElse (fun _ => second.b.poison window (fmtB first.fmt) (shapeCB sh)),
      scaleA := first.scale, scaleB := second.scale, chained := chained }
  let q3 : Quad :=
    { q2 with matrix := q2.matrix ++ [op], nextMatrix := q2.nextMatrix + 1, portFree := if cost = 0 then q2.portFree else begins + cost }
  let units := if matrixKind x.i = 1 then scaleUnits sh else 0
  (s.modQuad x.core (quadOf x.slot) (fun _ => q3), { a := readA + units, b := readB + units })

/-- The access that MMX counts for a warp's fetches. -/
def State.startFetch (s : State) (c slot : Nat) (lid : Nat) : State × Nat :=
  let id := ((s.warp? c slot).map (·.nextAccess)).getD 1
  (s.modWarp c slot (·.addAccess { id := id, path := .mmx, needs := [1], firstLid := lid }), id)

/-- Holds a group for more cycles than its stall. -/
def State.holdMore (s : State) (c slot : Nat) (mask : BitVec 8) (n : Nat) : State :=
  s.modWarp c slot (fun w => w.modGroup mask (fun g => { g with readyAt := g.readyAt + n }))

/-- A group issues no earlier than a cycle. -/
def State.notBefore (s : State) (c slot : Nat) (mask : BitVec 8) (cyc : Nat) : State :=
  s.modWarp c slot (fun w => w.modGroup mask (fun g => { g with readyAt := max g.readyAt cyc }))

/-! ## Gangs (R235 to R239) -/

/-- The warp waits at a ganged matrix instruction. -/
def Rendezvous.multiplies (l : Rendezvous) : Bool := matrixMultiply l.instr
/-- The warp waits in GANGSET: the value it named. -/
def Rendezvous.ganging (l : Rendezvous) : Option Nat :=
  match l.instr with
  | .gangset _ => some (l.vals.getD 0 0)
  | _ => none

/-- Raises a warp-uniform fault in a warp that waits in a rendezvous, at its instruction. -/
def State.latchFault (s : State) (c slot cause : Nat) : State :=
  match s.warp? c slot with
  | none => s
  | some w =>
    match w.latch with
    | none => s
    | some l =>
      let s1 := s.modWarp c slot (fun w => { w with latch := none }.modGroup l.mask (fun g => { g with hold := .none, prog := {} }))
      s1.raise c slot l.mask { cause := cause, epc := w.pcOf l.mask, eval := l.instr.evalWords.toNat }

/-- A gang dissolves (R237): every member's GANG is 0, and one that waits at a ganged instruction raises Not Converged. A ganged
instruction that has entered the unit runs on, also where it has not started. DESIGN CHOICE, log entry 100. -/
def State.dissolve (s : State) (c slot : Nat) : State :=
  match s.warp? c slot with
  | none => s
  | some w =>
    let g := w.gang.toNat
    if gangCount g = 0 then s
    else
      let slots := gangSlots g (quadOf slot)
      let s1 := slots.foldl (fun s m => s.modWarp c m (fun w => { w with gang := 0 })) s
      let s2 := s1.modQuad c (quadOf slot) (fun q => { q with latches := q.latches.filter (fun e => e.2.owner != slots) })
      slots.foldl (fun s m =>
        if (((s.warp? c m).bind (·.latch)).map (·.multiplies)).getD false then s.latchFault c m causeNotConverged else s) s2

/-- A GANGSET completes for one warp with a value of GANG. The stall and the latency of dst count from there. DESIGN CHOICE, log entry 100. -/
def State.gangDone (s : State) (c slot : Nat) (value : Nat) : State :=
  match s.warp? c slot with
  | none => s
  | some w =>
    match w.latch with
    | none => s
    | some l =>
      let x := w.latchCtx l c slot (s.cyc c) s.tick
      ((s.modWarp c slot (fun w => { w with latch := none, gang := BitVec.ofNat 32 value })).complete x).modWarp c slot
        (x.writeScalar value)

/-- The slots of a core whose warps wait in GANGSET with a value. -/
def State.gangWaiters (s : State) (c v : Nat) : List Nat :=
  ((((s.core? c).map (·.warps)).getD []).filter (fun e => (e.2.latch.bind (·.ganging)) == some v)).map Prod.fst

/-- The rendezvous of a value completes with no gang (R236). -/
def State.gangFails (s : State) (c quad v : Nat) : State :=
  ((s.gangWaiters c v).filter (fun k => quadOf k = quad)).foldl (fun s m => s.gangDone c m 0) s

/-- Rendezvous that name a slot complete with no gang: the warp there ends, leaves, or names another value. -/
def State.gangGone (s : State) (c slot : Nat) (but : Option Nat) : State :=
  let values := (((((s.core? c).map (·.warps)).getD []).filter (fun e => quadOf e.1 = quadOf slot)).filterMap (fun e =>
    e.2.latch.bind (·.ganging))).dedup
  let hit := values.filter (fun v => decide (some v ≠ but) && (gangSlots v (quadOf slot)).contains slot)
  hit.foldl (fun s v => s.gangFails c (quadOf slot) v) s

/-- A warp has entered the rendezvous of a value. -/
def State.gangEnter (s : State) (c slot v : Nat) : State :=
  match s.warp? c slot with
  | none => s
  | some w =>
    let slots := gangSlots v (quadOf slot)
    let present := slots.all (fun m => ((s.warp? c m).map (fun p => decide (p.block = w.block) && !p.over)).getD false)
    if !present then s.gangFails c (quadOf slot) v
    else if slots.all (fun m => ((s.warp? c m).bind (·.latch)).bind (·.ganging) == some v) then
      (List.range slots.length).foldl (fun s k => s.gangDone c (slots.getD k 0) (v + k * 2 ^ 24)) s
    else s

/-- x of R235: bits 29:27 and 23:0. -/
def gangValue (n : Nat) : Nat := bitsOf n 29 27 * 2 ^ 27 + bitsOf n 23 0

def lateGangset (x : Ctx) (_ : State) : Late :=
  let v := gangValue (x.a 1 scalarLane)
  let n := gangCount v
  let fields := (List.range 6).map (gangMember v)
  { illegalOperand := n ≠ 0 && (n == 1 || n == 7 || (fields.drop n).any (· ≠ 0) || !(fields.take n).Nodup ||
      !(fields.take n).contains (x.slot % 16) || decide (gangCount x.w.gang.toNat ≠ 0)),
    notConverged := !x.w.fullyGanged }

def gangsetEff (x : Ctx) (s : State) : State :=
  let v := gangValue (x.a 1 scalarLane)
  if x.lanes.isEmpty then s.complete x
  else if gangCount v = 0 then
    -- whoever waits for this warp with another value goes on alone (R236)
    (((s.dissolve x.core x.slot).gangGone x.core x.slot none).complete x).modCtx x (x.writeScalar 0)
  else
    let s1 := (s.holdAt x .event x.prog).modCtx x (fun w => { w with latch := some { instr := x.i, mask := x.mask, vals := [v] } })
    (s1.gangGone x.core x.slot (some v)).gangEnter x.core x.slot v

def execGangset (f : LX) (s : State) : Result := issue (.gangset f) lateGangset gangsetEff s

/-- WFUSE (R204). One that a member of a gang issues faults, and its gang dissolves (R237). -/
def execWfuse (f : LX) (s : State) : Result :=
  match issue (.wfuse f) lateWfuse wfuseEff s, s.sel with
  | .next t, g :: _ =>
    match s.warp? g.core g.slot with
    | some w =>
      .next (if gangCount w.gang.toNat ≠ 0 ∧ ((s.seenBy (.wfuse f) g w).waits s {}).isNone then t.dissolve g.core g.slot else t)
    | none => .next t
  | r, _ => r

/-! ## MMA, MMAS, MMAV -/

/-- The gang's members that have arrived at their ganged instruction: those whose warps wait in it, and the issuing one. -/
def State.gangGifts (s : State) (x : Ctx) (mine : Gift) : Option (List Gift) :=
  (gangSlots x.w.gang.toNat (quadOf x.slot)).foldr (fun m r =>
    r.bind (fun l =>
      if m = x.slot then some (mine :: l)
      else match (s.warp? x.core m).bind (·.latch) with
        | some d => if d.multiplies then some (unpackGift d.vals :: l) else none
        | none => none)) (some [])

/-- All members carry the same opcode, shape, sub-array, .as, .bs and FMT (R239). -/
def State.gangAgrees (s : State) (x : Ctx) (gifts : List Gift) : Bool :=
  gifts.all (fun g => decide (g.fmt = x.fmt) &&
    (decide (g.slot = x.slot) ||
      (match (s.warp? x.core g.slot).bind (·.latch) with
        | some d => decide (matrixKind d.instr = matrixKind x.i ∧ d.instr.fields.mb 5 0 = x.f.mb 5 0)
        | none => false)))

/-- Every member is at its instruction: the instruction enters once, and each member goes on in the following cycle. -/
def State.enterGang (s : State) (x : Ctx) (gifts : List Gift) : State :=
  let slots := gifts.map (·.slot)
  let g := gifts.length
  let does := gifts.all (·.exec)
  let (s1, accesses) : State × List (Option Nat) :=
    if !does then (s, gifts.map (fun _ => none))
    else
      (List.range g).foldl (fun (r : State × List (Option Nat)) k =>
        let d := gifts.getD k (x.gift noWindow)
        let fetches := (k = 0 && (match d.a with | .rows _ => false | _ => true)) || (k = 1 && (match d.b with | .rows _ => false | _ => true))
        if fetches then
          let (s1, id) := r.1.startFetch x.core d.slot d.lid
          (s1, r.2 ++ [some id])
        else (r.1, r.2 ++ [none])) (s, [])
  let (s2, held) := if does then s1.enterMatrix x gifts ((List.range g).map (fun k => heldTiles g k (shapeTiles x.shape))) accesses else (s1, {})
  -- every other member leaves its rendezvous: its stall counts from its own issue, its next issue is no earlier than the next cycle
  (slots.zip (List.range g)).foldl (fun s e =>
    match s.warp? x.core e.1 with
    | none => s
    | some w =>
      let more := if e.2 = 0 then held.a else if e.2 = 1 then held.b else 0
      if e.1 = x.slot then (s.complete x).holdMore x.core x.slot x.mask more
      else match w.latch with
        | none => s
        | some l =>
          let y := w.latchCtx l x.core e.1 (unpackGift l.vals).issued s.tick
          (((s.modWarp x.core e.1 (fun w => { w with latch := none })).complete y).holdMore x.core e.1 l.mask more).notBefore x.core e.1 l.mask
            (s.cyc x.core + 1)) s2

def matrixEff (x : Ctx) (s : State) : State :=
  let q := ((s.core? x.core).map (fun k => k.quad (quadOf x.slot))).getD {}
  if x.lanes.isEmpty && !x.ganged then s.complete x
  else match (if x.lanes.isEmpty then none else x.operandTrouble s) with
    | some (o, e) => s.trouble x (x.lanes.headD 0) o accRead e
    | none =>
      let gift := x.gift (x.window s)
      if x.ganged then
        match s.gangGifts x gift with
        | none =>
          (s.holdAt x .event x.prog).modCtx x (fun w => { w with latch := some { instr := x.i, mask := x.mask, vals := gift.pack } })
        | some gifts =>
          if !s.gangAgrees x gifts then
            let others := (gifts.map (·.slot)).filter (· ≠ x.slot)
            (others.foldl (fun s m => s.latchFault x.core m causeIllegalOperand) s).uniform x causeIllegalOperand x.i.evalWords.toNat
          else if q.full x.shape x.subArray x.cyc && gifts.all (·.exec) then s.waitAt x (.places x.shape x.subArray)
          else s.enterGang x gifts
      else if q.full x.shape x.subArray x.cyc then s.waitAt x (.places x.shape x.subArray)
      else
        let (s1, access) := if x.fetches then (s.startFetch x.core x.slot x.firstLid).map id some else (s, none)
        let (s2, held) := s1.enterMatrix x [gift] [x.heldTiles] [access]
        let units := if matrixKind x.i = 1 then scaleUnits x.shape else 0
        (s2.complete x).holdMore x.core x.slot x.mask (held.a + held.b - units)

def execMma (f : LX) (s : State) : Result := issue (.mma f) lateMatrix matrixEff s
def execMmas (f : LX) (s : State) : Result := issue (.mmas f) lateMatrix matrixEff s
def execMmav (f : LX) (s : State) : Result := issue (.mmav f) lateMatrix matrixEff s

/-! ## The steps of the unit -/

def State.matrixOp? (s : State) (c q id : Nat) : Option MatrixOp :=
  ((s.core? c).map (fun k => k.quad q)).bind (fun q => q.matrix.find? (fun o => o.id = id))

def State.modMatrix (s : State) (c q id : Nat) (f : MatrixOp → MatrixOp) : State :=
  s.modQuad c q (fun k => { k with matrix := k.matrix.map (fun o => if o.id = id then f o else o) })

def State.dropMatrix (s : State) (c q id : Nat) : State :=
  s.modQuad c q (fun k => { k with matrix := k.matrix.filter (fun o => o.id ≠ id) })

/-- The access of a member has returned: MMX falls in issue order (R227). -/
def State.fetchReturns (s : State) (c slot id : Nat) (values : SMap Nat) : State :=
  let s1 := s.modWarp c slot (fun w => w.modAccess id (fun a => { a with needs := [], values := values }))
  match (s1.warp? c slot).bind (·.access? id) with
  | some a => (s1.returnAccess c slot a).pathsFell c slot
  | none => s1

/-- A cancelled fetch (R242): the instruction writes nothing, and its members take a deferred Poison. -/
def State.cancelMatrix (s : State) (c q : Nat) (o : MatrixOp) (addr regs : Nat) : State :=
  let s1 := s.dropMatrix c q o.id
  o.members.foldl (fun s m =>
    let run := if m.acc < 192 then (m.acc, if o.kind = 3 then regs else 8 * m.tiles.length) else (0, 0)
    let s2 := s.modWarp c m.slot (fun w =>
      let d : Deferred :=
        { path := .mmx, source := 1, cause := causePoison, addr := addr, lid := m.lid, code := run.1, regs := run.2,
          access := m.access.getD 0, bits := accRead }
      { w with deferred := w.deferred ++ [d] })
    match m.access with
    | some id => (s2.modWarp c m.slot (fun w => w.modAccess id (fun a => { a with refused := true }))).fetchReturns c m.slot id []
    | none => s2) s1

/-- MATRIX_OPERAND_FETCHED (R227, R240): the port has read the last byte. -/
def execMatrixOperandFetched (core quad id : Nat) (s : State) : Result :=
  let s1 := s.taken (.matrixOperandFetched core quad id)
  match s1.matrixOp? core quad id with
  | none => .next s1
  | some o =>
    match o.fetch with
    | none => .next s1
    | some t =>
      if s1.cyc core + 1 < t then .next s1
      else
        match o.bad with
        | some a => .next (s1.cancelMatrix core quad o a (o.tile.2.2 / 8))
        | none =>
          let values (w : Warp) : SMap Nat := if o.kind = 3 then rowLanes w.byLid (o.tile.2.2 / 8) o.a.fetched else []
          let s2 := if o.kind = 3 then s1.dropMatrix core quad id else s1.modMatrix core quad id (fun o => { o with fetch := none })
          .next (o.members.foldl (fun s m =>
            match m.access, s.warp? core m.slot with
            | some a, some w => s.fetchReturns core m.slot a (values w)
            | _, _ => s) s2)

/-- The instructions of a quadrant that entered before another one. DESIGN CHOICE, log entry 84. -/
def Quad.before (q : Quad) (o : MatrixOp) : List MatrixOp := q.matrix.filter (fun p => decide (p.id < o.id ∧ p.kind ≠ 3))

/-- A matrix instruction may start at a cycle (R231, R232): two cycles after its entry, operands fetched in an earlier cycle, every older
instruction of its sub-arrays finished, and the accumulator written or taken from the instruction ahead. -/
def Quad.mayStart (q : Quad) (o : MatrixOp) (now : Nat) : Bool :=
  let before := q.before o
  let finished (p : MatrixOp) : Bool := match p.start with | some st => decide (st + 96 ≤ now) | none => false
  let mine := before.filter (fun p => p.arrays.any o.arrays.contains)
  let pending := before.filter (fun p => p.members.any (fun m => o.members.any (fun n =>
    decide (m.slot = n.slot ∧ m.acc < 192 ∧ n.acc < 192) &&
      runsMeet (m.acc, 8 * m.tiles.length) (n.acc, 8 * n.tiles.length))))
  o.start.isNone && decide (o.kind ≠ 3 ∧ o.entered + 2 ≤ now) && o.fetch.isNone && mine.all finished &&
    (o.chained || pending.isEmpty)

/-- The accumulator element that an instruction starts from: the result of the one it is chained on, or the run. -/
def State.startAcc (s : State) (c q : Nat) (o : MatrixOp) (e : Nat) : Nat :=
  let quad := ((s.core? c).map (fun k => k.quad q)).getD {}
  let ahead := (quad.before o).reverse.find? (fun p => p.arrays == o.arrays && p.members.any (fun m =>
    o.members.any (fun n => decide (m.slot = n.slot ∧ m.acc = n.acc ∧ m.acc < 192))))
  match (if o.chained then ahead else none) with
  | some p => p.result.getD e 0
  | none =>
    match o.members.find? (fun m => m.tiles.contains (e / 256)) with
    | some m => ((s.warp? c m.slot).map (fun w => w.accElement m.acc m.tiles e)).getD 0
    | none => 0

/-- MATRIX_START (R231): the sums are formed from the operands and the accumulator as they stand. -/
def execMatrixStart (core quad id : Nat) (s : State) : Result :=
  let s1 := s.taken (.matrixStart core quad id)
  match s1.matrixOp? core quad id with
  | none => .next s1
  | some o =>
    let q := ((s1.core? core).map (fun k => k.quad quad)).getD {}
    let now := s1.cyc core + 1
    if q.mayStart o now then
      .next (s1.modMatrix core quad id (fun o =>
        { o with start := some now, result := matrixResult o o.a.fetched o.b.fetched (s1.startAcc core quad o) }))
    else .next s1

/-- MATRIX_WRITEBACK (R231): every member's run at S + 100. -/
def execMatrixWriteback (core quad id : Nat) (s : State) : Result :=
  let s1 := s.taken (.matrixWriteback core quad id)
  match s1.matrixOp? core quad id with
  | none => .next s1
  | some o =>
    match o.start with
    | none => .next s1
    | some st =>
      if s1.cyc core + 1 < st + 100 then .next s1
      else
        .next (o.members.foldl (fun s m =>
          if m.acc < 192 then
            (s.modWarp core m.slot (fun w => w.writeTiles m.acc m.tiles o.result)).registersWritten core m.slot m.acc (8 * m.tiles.length)
          else s) (s1.dropMatrix core quad id))

/-! ## MLDT and MSTT (R240, R241) -/

def lateTile (path : Path) (x : Ctx) (_ : State) : Late :=
  { illegalOperand := fmtBad x.fmt, notConverged := !x.w.fullyGanged, paths := if x.lanes.isEmpty then [] else [path] }

/-- What is wrong with a tile in the window: alignment, the pitch, the range. -/
def Block.tileTrouble (b : Block) (o pitch row : Nat) : Option LaneTrouble :=
  if o % 16 ≠ 0 ∨ pitch % 16 ≠ 0 then some .misaligned
  else if pitch < row ∨ 65520 < pitch ∨ b.length < o + 15 * pitch + row then some .bounds
  else none

/-- The rows of a tile, and the first poisoned byte in them (R240, R242). -/
def Block.tileRows (b : Block) (o pitch row : Nat) : List Byte := (List.range 16).flatMap (fun i => b.readBytes (o + i * pitch) row)
def Block.tilePoison (b : Block) (o pitch row : Nat) : Option Nat := (List.range 16).findSome? (fun i => b.poisonIn (o + i * pitch) row)

/-- DEDUCED, log entry 23. -/
def mldtEff (x : Ctx) (s : State) : State :=
  match x.lanes with
  | [] => s.complete x
  | low :: _ =>
    let o := x.a 1 scalarLane
    let pitch := x.b 1 scalarLane
    let row := if x.f.mb 0 0 = 1 then 64 else 192
    match (x.window s).tileTrouble o pitch row with
    | some e => s.trouble x low o accRead e
    | none =>
      let id := s.accessId x
      let regs := row / 8
      let s1 := s.modWarp x.core x.slot (·.addAccess
        { id := id, path := .mmx, kind := .tile, dst := x.f.dst.toNat, regs := regs, needs := [1], firstLid := x.firstLid })
      let s2 := s1.modQuad x.core (quadOf x.slot) (fun q =>
        let begins := max (x.cyc + 1) q.portFree
        let cost := portCycles (16 * row)
        let op : MatrixOp :=
          { id := q.nextMatrix, kind := 3, block := x.w.block, entered := x.cyc, fmt := x.fmt,
            members := [{ slot := x.slot, acc := x.f.dst.toNat, tiles := [0], access := some id, lid := x.firstLid }],
            fetch := some (begins + cost - 1), tile := (o, pitch, row), a := .rows ((x.window s).tileRows o pitch row),
            bad := (x.window s).tilePoison o pitch row }
        { q with nextMatrix := q.nextMatrix + 1, portFree := begins + cost, matrix := q.matrix ++ [op] })
      s2.complete x

def execMldt (f : LX) (s : State) : Result := issue (.mldt f) (lateTile .mmx) mldtEff s

/-- Bits of an element that MSTT stores. -/
def msttBits (ty afmt : Nat) : Nat := if ty = 0 then 32 else if ty = 3 then elemBits afmt else 16

/-- One converted element (R241). -/
def Ctx.msttElement (x : Ctx) (y : Nat) : Nat :=
  let ty := x.f.mb 1 0
  if ty = 0 then y
  else
    let field := if ty = 1 then 1 else if ty = 2 then 2 else elemModeField (fmtA x.fmt)
    let dyn := x.f.mb 4 2 = 7
    let mode := if dyn then modeRound x.mode field else x.f.mb 4 2
    let sat := if dyn then modeSat x.mode field else x.f.mb 5 5 == 1
    let v := Fmt.f32.value y
    match ty with
    | 1 => (convert .f16 mode sat v).bits
    | 2 => (convert .bf16 mode sat v).bits
    | _ => (toElem (fmtA x.fmt) mode sat v).bits

/-- A row of elements as bytes. -/
def packTile (bits : Nat) (l : List Nat) : List Byte :=
  bytesOf ((List.range l.length).foldl (fun n k => n + (l.getD k 0 % 2 ^ bits) * 2 ^ (bits * k)) 0) (bits * l.length / 8)

def lateMstt (x : Ctx) (s : State) : Late :=
  let l := lateTile .spd x s
  { l with illegalOperand := l.illegalOperand || (fmtAcc x.fmt == 1 && x.f.mb 1 0 != 0) }

def msttEff (x : Ctx) (s : State) : State :=
  match x.lanes with
  | [] => s.complete x
  | low :: _ =>
    let o := x.b 1 scalarLane
    let pitch := x.c 1 scalarLane
    let bits := msttBits (x.f.mb 1 0) (fmtA x.fmt)
    match (x.window s).tileTrouble o pitch (2 * bits) with
    | some e => s.trouble x low o accWrite e
    | none =>
      let lanes := x.w.byLid
      let elem (i j : Nat) : Nat := x.msttElement (x.reg (x.f.srcA.toNat + j % 8) (lanes.getD (2 * i + j / 8) 0))
      let s1 := (List.range 16).foldl (fun s i =>
        s.storeWindow x.core x.w.block (o + i * pitch) (packTile bits ((List.range 16).map (elem i)))) s
      ((s1.startPerformed x { id := s.accessId x, path := .spd, firstLid := x.firstLid }).complete x).settleWindow x.core x.w.block

def execMstt (f : LX) (s : State) : Result := issue (.mstt f) lateMstt msttEff s

end Sys2Proof.Machine
end

