-- ==== Sys2Proof/Machine/Work.lean ====
section
/-! DEFINITION. Launch records and their checks (R29 to R33, R347 to R352), placement of block instances (R34 to R40, R429), and the start of warps (R22, R120). -/

namespace Sys2Proof.Machine

/-! ## The launch record (R347, R348) -/

/-- A record as a number of 1,024 bits; its fields. -/
def recNlev (r : Nat) : Nat := bitsOf r 824 821
def recPipe (r : Nat) : Bool := r.testBit 820
def recKeyed (r : Nat) : Bool := r.testBit 819
def recTenant (r : Nat) : Nat := bitsOf r 818 815
def recPrio (r : Nat) : Nat := bitsOf r 814 813
def recFixed (r : Nat) : Bool := r.testBit 812
def recLease (r : Nat) : Nat := bitsOf r 811 804
def recBarr (r : Nat) : Nat := bitsOf r 803 796
def recSpad (r : Nat) : Nat := bitsOf r 795 776
def recRegs (r : Nat) : Nat := bitsOf r 775 768
def recTable (r : Nat) : Nat := bitsOf r 319 256
def recRecipe (r : Nat) : Nat := bitsOf r 255 192
def recKeyBase (r : Nat) : Nat := bitsOf r 191 128
def recParam (r : Nat) : Nat := bitsOf r 127 64
def recEntry (r : Nat) : Nat := bitsOf r 63 0
def recLevel (r k : Nat) : Nat := bitsOf r (32 * k + 351) (32 * k + 320)
/-- The stride of a level in bytes, as a signed number (R349). -/
def recStride (r k : Nat) : Int :=
  if k = 0 then 0
  else if k = 1 then 128 * (BitVec.ofNat 28 (bitsOf r 1023 996)).toInt
  else (BitVec.ofNat 32 (bitsOf r (32 * k + 543) (32 * k + 512))).toInt
/-- A wait (R350): enabled, counter, threshold; and an increment: enabled, counter. -/
def recWait (r i : Nat) : Bool × Nat × Nat :=
  if i = 0 then (r.testBit 968, bitsOf r 967 960, bitsOf r 895 832) else (r.testBit 977, bitsOf r 976 969, bitsOf r 959 896)
def recInc (r i : Nat) : Bool × Nat :=
  if i = 0 then (r.testBit 986, bitsOf r 985 978) else (r.testBit 995, bitsOf r 994 987)

def levelExtent (l : Nat) : Nat := bitsOf l 23 0
def levelDomain (l : Nat) : Nat := bitsOf l 26 24
def levelScope (l : Nat) : Nat := bitsOf l 28 27
def levelTogether (l : Nat) : Bool := l.testBit 29

/-- The product of the extents of levels `a` to `b - 1`. -/
def extents (r a b : Nat) : Nat := ((List.range b).filter (fun k => decide (a ≤ k))).foldl (fun p k => p * levelExtent (recLevel r k)) 1

/-- The levels of a record. -/
def recLevels (r : Nat) : List Nat := List.range (recNlev r)

/-- The block level (R31): the highest one bound to CORE or a narrower domain. -/
def blockLevel (r : Nat) : Nat :=
  ((recLevels r).filter (fun k => decide (levelDomain (recLevel r k) ≤ 4))).foldl max 0

/-- Block instances of a launch, and warps of one. -/
def recBlocks (r : Nat) : Nat := extents r (blockLevel r) (recNlev r)
def recWarps (r : Nat) : Nat := extents r 1 (blockLevel r)

/-- Warps that go to one quadrant together: a QUAD instance, else a GANG instance (R38). -/
def recUnit (r : Nat) : Nat :=
  let widest := ((recLevels r).filter (fun k => decide (levelDomain (recLevel r k) = 2 ∨ levelDomain (recLevel r k) = 3))).foldl max 0
  if widest = 0 then 1 else extents r 1 widest

/-- The narrowest scope of a domain (R28). -/
def narrowestScope (domain : Nat) : Nat := if domain ≤ 4 then 0 else if domain ≤ 6 then 1 else 2

/-- R29 and R30 hold, but for the bound by the tenant's quadrants. -/
def hierarchyOk (r : Nat) : Bool :=
  let n := recNlev r
  let dom (k : Nat) : Nat := levelDomain (recLevel r k)
  let ext (k : Nat) : Nat := levelExtent (recLevel r k)
  decide (dom 0 = 0 ∧ dom 1 = 1) &&
    (recLevels r).all (fun k => decide (k = 0) || decide (dom (k - 1) < dom k)) &&
    (recLevels r).all (fun k => decide (1 ≤ ext k)) && decide (ext 0 ≤ 32) &&
    (if 2 < n ∧ dom 2 = 2 then decide (2 ≤ ext 1 ∧ ext 1 ≤ 6) else true) &&
    (recLevels r).all (fun k => decide (dom k ≠ 3) || decide (extents r 1 k ≤ 16)) &&
    decide (recWarps r ≤ 64) && decide (recBlocks r < 2 ^ 32) &&
    (recLevels r).all (fun k => decide (narrowestScope (dom k) ≤ levelScope (recLevel r k)))

/-- The checks of R349. -/
def recordOk (r tenant : Nat) : Bool :=
  let n := recNlev r
  let pipe := recPipe r
  decide (bitsOf r 831 825 = 0) && decide (2 ≤ n ∧ n ≤ 8) && decide (recTenant r = tenant) &&
    (pipe || decide (bitsOf r 63 48 = 0 ∧ bitsOf r 1 0 = 0)) && (pipe || decide (1 ≤ recRegs r ∧ recRegs r ≤ 192)) &&
    decide (recLease r ≤ 128) && (List.range 8).all (fun k => decide (bitsOf (recLevel r k) 31 30 = 0)) &&
    (List.range 8).all (fun k => decide (k < n) || decide (recLevel r k = 0 ∧ recStride r k = 0)) &&
    (List.range 8).all (fun k => decide (blockLevel r ≤ k) || decide (recStride r k = 0)) &&
    (recKeyed r || (List.range 8).all (fun k => decide (recStride r k = 0)))

/-! ## The stage table (R351, R352) -/

def tabStages (t : Nat) : Nat := bitsOf t 3 0
def tabPool (t : Nat) : Nat := bitsOf t 15 8
def tabStage (t k : Nat) : Nat := bitsOf t (128 * k + 191) (128 * k + 64)
def tabQueue (t k : Nat) : Nat := bitsOf t (64 * k + 1151) (64 * k + 1088)
def stageMin (x : Nat) : Nat := bitsOf x 71 64
def stageRegs (x : Nat) : Nat := bitsOf x 63 56
def stageEntry (x : Nat) : Nat := bitsOf x 47 0

/-- The stages of a table. -/
def tabAll (t : Nat) : List Nat := (List.range (tabStages t)).map (tabStage t)

/-- A stage table in order, but for its queue headers. -/
def tableOk (t : Nat) : Bool :=
  let n := tabStages t
  decide (2 ≤ n ∧ n ≤ 8 ∧ 2 ≤ tabPool t ∧ tabPool t ≤ 64) && decide (bitsOf t 63 16 = 0 ∧ bitsOf t 7 4 = 0) &&
    (tabAll t).all (fun x => decide (bitsOf x 127 72 = 0 ∧ bitsOf x 55 48 = 0 ∧ bitsOf x 1 0 = 0 ∧ 1 ≤ stageMin x ∧
      stageMin x ≤ 64 ∧ 1 ≤ stageRegs x ∧ stageRegs x ≤ 192)) &&
    decide (((tabAll t).map stageMin).sum ≤ tabPool t) &&
    (List.range 8).all (fun k => decide (k < n) || decide (tabStage t k = 0)) &&
    (List.range 7).all (fun k => if k + 1 < n then decide (tabQueue t k ≠ 0) else decide (k < n ∨ tabQueue t k = 0))

/-- The levels that a pipeline record must have. -/
def pipeLevelsOk (r t : Nat) : Bool :=
  decide (recNlev r = 3 ∧ levelDomain (recLevel r 0) = 0 ∧ levelExtent (recLevel r 0) = 32 ∧ levelDomain (recLevel r 1) = 1 ∧
    levelExtent (recLevel r 1) = tabPool t ∧ levelDomain (recLevel r 2) = 4 ∧ levelExtent (recLevel r 2) = 1)

/-! ## What a core can grant (R37, R38) -/

/-- What one block instance asks for. -/
structure Demand where
  warps    : Nat
  unit     : Nat
  granules : Nat
  spad     : Nat
  barriers : Nat
deriving DecidableEq, Repr

def granulesOf (regs : Nat) : Nat := (regs + 7) / 8

/-- The demand of a record; a pipeline's slots keep the largest register count of its stages (R52). -/
def demandOf (r : Nat) (table : List Byte) : Demand :=
  if recPipe r then
    let t := numOf table
    { warps := tabPool t, unit := 1, granules := granulesOf (((tabAll t).map stageRegs).foldl max 1), spad := recSpad r,
      barriers := recBarr r }
  else
    { warps := recWarps r, unit := recUnit r, granules := granulesOf (recRegs r), spad := recSpad r, barriers := recBarr r }

/-- The window length of a demand (R247), and the whole banks that hold it. -/
def Demand.window (d : Demand) : Nat := if d.barriers = 0 then d.spad else (d.spad + 15) / 16 * 16 + 8 * d.barriers
def Demand.banks (d : Demand) : Nat := (d.window + 16383) / 16384

/-- Quadrants of a core that a tenant owns. -/
def Core.quadsOf (k : Core) (tenant : Nat) : List Nat :=
  (List.range 4).filter (fun q => (k.quad q).en && decide ((k.quad q).tenant = tenant))

/-- Slots of a core that are taken: those with a warp, and those of the pools of running pipelines. -/
def State.takenSlots (s : State) (c : Nat) : NSet :=
  let k := (s.core? c).getD {}
  (s.launches.pipelines.filter (fun e => e.2.core = c)).foldl (fun m e => e.2.pool.foldl (fun m p => NSet.add p.1 m) m) (SMap.keys k.warps)

/-- Granules of a quadrant that resident blocks hold. -/
def Core.granulesHeld (k : Core) (q : Nat) : Nat :=
  (k.blocks.map (fun b => b.2.granules * (b.2.slots.filter (fun s => decide (quadOf s = q))).length)).sum

/-- Room in a quadrant: free slots, and granules left of 256 (R14). -/
structure QuadRoom where
  quad  : Nat
  slots : List Nat
  left  : Nat
deriving DecidableEq, Repr

/-- The rooms of a tenant's quadrants. DESIGN CHOICE, log entry 57. -/
def State.rooms (s : State) (c tenant : Nat) : List QuadRoom :=
  match s.core? c with
  | none => []
  | some k =>
    let taken := s.takenSlots c
    (k.quadsOf tenant).map (fun q =>
      { quad := q, slots := ((List.range 16).map (16 * q + ·)).filter (fun p => !taken.contains p), left := 256 - k.granulesHeld q })

/-- Places units of `n` warps round-robin over the rooms, which stand in the order in which they are tried next. -/
def placeUnits (n granules : Nat) : Nat → List QuadRoom → Option (List Nat)
  | 0, _ => some []
  | units + 1, rooms =>
    match findPlace (fun (r : QuadRoom) => decide (n ≤ r.slots.length ∧ n * granules ≤ r.left)) rooms with
    | none => none
    | some i =>
      match rooms[i]? with
      | none => none
      | some r =>
        let r1 : QuadRoom := { r with slots := r.slots.drop n, left := r.left - n * granules }
        (placeUnits n granules units (rooms.drop (i + 1) ++ rooms.take i ++ [r1])).map (fun l => r.slots.take n ++ l)

/-- Banks of a core that a tenant's quadrants own and no block holds. -/
def Core.freeBanks (k : Core) (tenant : Nat) : List Nat :=
  let held := k.blocks.flatMap (fun b => b.2.banks)
  (List.range 32).filter (fun b => (k.quadsOf tenant).any (fun q => (k.quad q).banks.getLsbD b) && !held.contains b)

/-- What a block instance is granted. -/
structure Grant where
  slots : List Nat
  banks : List Nat
deriving DecidableEq, Repr

/-- A core grants a demand, or it does not. -/
def State.grant (s : State) (c tenant : Nat) (d : Demand) : Option Grant :=
  match s.core? c with
  | none => none
  | some k =>
    let banks := k.freeBanks tenant
    if k.st ≠ 0 ∨ banks.length < d.banks then none
    else (placeUnits d.unit d.granules (d.warps / max d.unit 1) (s.rooms c tenant)).map (fun l =>
      { slots := l, banks := banks.take d.banks })

/-- A core that holds nothing, with the same partition. -/
def Core.emptied (k : Core) : Core := { k with warps := [], blocks := [] }

/-- The module without work: what its live cores could grant at most. -/
def State.emptied (s : State) : State :=
  { s with
    cores := s.cores.map (fun e => (e.1, e.2.emptied)),
    launches := { s.launches with pipelines := [], saved := [] } }

/-! ## Where an instance goes (R34 to R36) -/

/-- Live cores, and those of a reticle on which a tenant owns a quadrant. -/
def State.liveCores (s : State) : List Nat := (s.cores.filter (fun e => e.2.st = 0)).map Prod.fst
def State.tenantCores (s : State) (tenant ret : Nat) : List Nat :=
  s.liveCores.filter (fun c => decide (reticleOf c = ret) && !((((s.core? c).map (fun k => k.quadsOf tenant)).getD []).isEmpty))

/-- The logical number of a core. -/
def State.lnumOf (s : State) (c : Nat) : Nat := ((s.core? c).map (·.lnum)).getD 0xFFFF

/-- An entry of the latency matrix (R410). -/
def State.latency (s : State) (bank core : Nat) : Nat := Memory.readNum s.mem (s.modul.lmBase.toNat + 2 * (Config.cores * bank + core)) 2

/-- The least member of a list under two keys, the second breaking ties of the first. -/
def leastBy (a b : Nat → Nat) : List Nat → Option Nat
  | [] => none
  | x :: t =>
    match leastBy a b t with
    | none => some x
    | some y => if a y < a x ∨ (a y = a x ∧ b y < b x) then some y else some x

/-- The coordinates of a warp (R32): COORD0 is the LANE extent; `warp` counts the warps of the launch in order. -/
def recCoords (r warp : Nat) : List Word :=
  (List.range 8).map (fun k =>
    if k = 0 then BitVec.ofNat 32 (levelExtent (recLevel r 0))
    else if k < recNlev r then BitVec.ofNat 32 (warp / extents r 1 k % levelExtent (recLevel r k))
    else 0)

/-- The tile key of a block instance (R349). -/
def recKey (r block : Nat) : Nat :=
  let coord (k : Nat) : Nat := block / extents r (blockLevel r) k % levelExtent (recLevel r k)
  let sum : Int := ((recLevels r).filter (fun k => decide (blockLevel r ≤ k))).foldl (fun a k => a + coord k * recStride r k) 0
  (((recKeyBase r : Int) + sum) % 2 ^ 64).toNat

/-- The anchor bank of a block's tile key; none where there is no key, or it names no line with an anchor (R36). -/
def State.keyBank (s : State) (r tenant block : Nat) : Option Nat :=
  if !recKeyed r then none
  else
    let va := recKey r block
    if 2 ^ 56 ≤ va then none
    else match (s.lookup 0 tenant va).walk with
      | .page pte bits =>
        let pa := leafAddr pte bits va
        if cached pa then some (s.anchor (lineOf pa)) else none
      | _ => none

/-- The widest level bound to GROUP or RETICLE above the block level (R35), and the widest one that is all or nothing (R39). -/
def reticleLevel (r : Nat) : Option Nat :=
  ((recLevels r).filter (fun k => decide (levelDomain (recLevel r k) = 5 ∨ levelDomain (recLevel r k) = 6))).getLast?
def togetherLevel (r : Nat) : Option Nat :=
  ((recLevels r).filter (fun k => decide (blockLevel r < k) && levelTogether (recLevel r k))).getLast?

/-- Block instances of one instance of a level. -/
def levelBlocks (r k : Nat) : Nat := extents r (blockLevel r) k

/-- Reticles in the order in which R34 tries them for a bank: its own, then by the latency to their nearest live core. -/
def State.reticleOrder (s : State) (bank : Nat) : List Nat :=
  let near (ret : Nat) : Nat := ((s.liveCores.filter (fun c => reticleOf c = ret)).map (s.latency bank)).foldl min 0xFFFF
  let others := (List.range Config.reticles).filter (fun r => decide (r ≠ bankReticle bank))
  bankReticle bank :: others.mergeSort (fun a b => decide (near a < near b ∨ (near a = near b ∧ a ≤ b)))

/-- The cores of a reticle in the order of R34 for a bank, or of R36 without one. -/
def State.coreOrder (s : State) (tenant ret : Nat) (bank : Option Nat) : List Nat :=
  let key (c : Nat) : Nat := match bank with | some b => s.latency b c | none => 0
  (s.tenantCores tenant ret).mergeSort (fun a b => decide (key a < key b ∨ (key a = key b ∧ s.lnumOf a ≤ s.lnumOf b)))

/-- The next reticle of the round of R36 for a tenant. -/
def State.roundReticle (s : State) (tenant : Nat) : Option Nat :=
  let n := s.launches.reticleRound
  ((List.range Config.reticles).map (fun i => (n + i) % Config.reticles)).find? (fun r => !(s.tenantCores tenant r).isEmpty)

/-! ## Starting warps (R22, R37, R120) -/

/-- What a warp starts with. -/
structure WarpSeed where
  tenant  : Nat
  launch  : Nat
  block   : Nat
  index   : Nat
  lanes   : Nat
  entry   : Nat
  param   : Nat
  regs    : Nat
  lease   : Nat
  fixed   : Bool
  prio    : Nat
  coords  : List Word
  stage   : Option Nat := none
deriving DecidableEq, Repr

/-- A warp at its start, between the cycle `cyc` and the next one. DEDUCED, log entry 4; DESIGN CHOICE, log entry 58. -/
def WarpSeed.warp (d : WarpSeed) (age cyc : Nat) : Warp :=
  let lanes : List Lane := (List.range 32).map (fun i => { lid := BitVec.ofNat 5 i, exited := decide (d.lanes ≤ i) })
  let slices : List Slice := List.replicate 8 { pc := BitVec.ofNat 48 d.entry }
  let mask : BitVec 8 := BitVec.ofNat 8 (2 ^ ((d.lanes + 3) / 4) - 1)
  { lanes := lanes, slices := slices, groups := [{ mask := mask, readyAt := cyc + 1 }],
    s := SMap.set 0 1 (BitVec.ofNat 32 (d.param / 2 ^ 32)) (SMap.set 0 0 (BitVec.ofNat 32 d.param) []),
    lease := { decl := d.lease, fixed := d.fixed, prio := d.prio, waitFrom := cyc + 1 },
    alloc := 8 * granulesOf d.regs, tenant := d.tenant, launch := d.launch, block := d.block, index := d.index,
    coords := d.coords, age := age, stage := d.stage }

/-- Puts a warp into a slot: it is the youngest of its quadrant (R44). -/
def State.enterSlot (s : State) (c slot : Nat) (f : Nat → Nat → Warp) : State :=
  let q := quadOf slot
  let age := ((s.core? c).map (fun k => (k.quad q).starts)).getD 0
  (s.setWarp c slot (f age (s.cyc c))).modQuad c q (fun q => { q with starts := q.starts + 1, last := q.last })

def Launch.num (l : Launch) : Nat := numOf l.record

/-- The seed of warp `w` of block instance `block`. -/
def Launch.seed (l : Launch) (id blockId block w : Nat) : WarpSeed :=
  let r := l.num
  { tenant := l.tenant, launch := id, block := blockId, index := w, lanes := levelExtent (recLevel r 0), entry := recEntry r,
    param := recParam r, regs := recRegs r, lease := recLease r, fixed := recFixed r, prio := recPrio r,
    coords := recCoords r (block * recWarps r + w) }

/-- The seed of a pipeline's warp at a stage, in place `w` of the pool. -/
def Launch.stageSeed (l : Launch) (id blockId w stage : Nat) : WarpSeed :=
  let x := tabStage (numOf l.table) stage
  { l.seed id blockId 0 w with
    entry := stageEntry x, regs := stageRegs x, stage := some stage,
    coords := ((recCoords l.num w).set 1 (BitVec.ofNat 32 w)).set 2 (BitVec.ofNat 32 stage) }

def State.modLaunch (s : State) (id : Nat) (f : Launch → Launch) : State :=
  { s with launches := { s.launches with launches := SMap.modify id f s.launches.launches } }
def State.launch? (s : State) (id : Nat) : Option Launch := SMap.get? id s.launches.launches
def State.modPipeline (s : State) (id : Nat) (f : Pipeline → Pipeline) : State :=
  { s with launches := { s.launches with pipelines := SMap.modify id f s.launches.pipelines } }

/-- Starts a warp of a pipeline's stage in a slot of its pool. -/
def State.startStage (s : State) (pipe slot stage : Nat) : State :=
  match SMap.get? pipe s.launches.pipelines with
  | none => s
  | some p =>
    match s.launch? p.launch with
    | none => s
    | some l =>
      let w := (findPlace (fun (e : Nat × Nat) => decide (e.1 = slot)) p.pool).getD 0
      let seed := l.stageSeed p.launch p.block w stage
      ((s.enterSlot p.core slot seed.warp).modPipeline pipe (fun p =>
        { p with
          pool := p.pool.map (fun e => if e.1 = slot then (slot, stage + 1) else e),
          order := p.order.filter (· ≠ slot) ++ [slot] })).modLaunch p.launch (fun l =>
          { l with liveWarps := l.liveWarps + 1 })

/-- The stages whose minimum warps a pipeline starts with, in order (R52). -/
def minimumStages (minima : List Nat) : List Nat := (minima.mapIdx (fun k n => List.replicate n k)).flatten

/-- Fetches one word of a table into a core's instruction cache. -/
def State.prefetchWord (s : State) (c tenant va : Nat) : State :=
  match s.translate c tenant va .fetch false with
  | .ok pa _ => (s.usePage c tenant va).keepWord c tenant pa (BitVec.ofNat 32 (Memory.readNum s.mem pa 4))
  | _ => s

/-- The dispatcher prefetches the kernel's first table (R347): its count, and as many words as that names. -/
def State.prefetchTable (s : State) (c tenant a : Nat) : State :=
  if a = 0 ∨ a % 4 ≠ 0 then s
  else match s.translate c tenant a .fetch false with
    | .ok pa _ =>
      let n := Memory.readNum s.mem pa 4
      (List.range (if 2 ≤ n ∧ n ≤ 4096 then n + 1 else 1)).foldl (fun s i => s.prefetchWord c tenant (a + 4 * i)) s
    | _ => s

/-- Banks that a block takes hold nothing beside its window (R37, R248). -/
def zeroBanks (banks : List Nat) (m : SMap Byte) : SMap Byte := m.filter (fun e => !banks.contains (e.1 / 16384))

/-- A block takes its window, zeroed and full, and its warps start. DEDUCED, log entry 56. -/
def State.startBlock (s : State) (id block c : Nat) (g : Grant) : State :=
  match s.launch? id, s.core? c with
  | some l, some k =>
    let r := l.num
    let d := demandOf r l.table
    let bid := k.nextBlock
    let b : Block :=
      { launch := id, tenant := l.tenant, index := block, slots := g.slots, spad := d.spad, barriers := d.barriers,
        banks := g.banks, granules := d.granules, coords := recCoords r (block * recWarps r) }
    -- the record was read as an acquire at HOST, and so were the counters of its waits (R345, R350)
    let s0 := (s.acquire c l.tenant domHost).prefetchTable c l.tenant (recTable r)
    let s1 := s0.modCore c (fun k =>
      { k with nextBlock := bid + 1, blocks := SMap.put bid b k.blocks, spads := zeroBanks g.banks k.spads })
    let s2 := s1.modLaunch id (fun l =>
      { l with waiting := l.waiting.filter (fun e => decide (e.1 ≠ block)), started := true, cores := NSet.add c l.cores })
    match l.pipeline with
    | none =>
      (g.slots.zipIdx).foldl (fun s e =>
        (s.enterSlot c e.1 (l.seed id bid block e.2).warp).modLaunch id (fun l => { l with liveWarps := l.liveWarps + 1 })) s2
    | some p =>
      let t := numOf l.table
      let pipe : Pipeline :=
        { launch := id, core := c, block := bid, minima := (tabAll t).map stageMin, entries := (tabAll t).map stageEntry,
          regs := (tabAll t).map stageRegs, pool := g.slots.map (fun x => (x, 0)) }
      let s3 : State := { s2 with launches := { s2.launches with pipelines := SMap.put p pipe s2.launches.pipelines } }
      (g.slots.zip (minimumStages pipe.minima)).foldl (fun s e => s.startStage p e.1 e.2) s3
  | _, _ => s

/-! ## Choosing what starts (R39, R40) -/

/-- Where an instance can start now: the first core, in the order of its reticle, that grants its demand. -/
def State.placeIn (s : State) (l : Launch) (bank : Option Nat) (ret : Nat) : Option (Nat × Grant) :=
  (s.coreOrder l.tenant ret bank).findSome? (fun c => (s.grant c l.tenant (demandOf l.num l.table)).map (fun g => (c, g)))

/-- The block instances that start together with one: those of its all-or-nothing level instance (R39), or itself. -/
def togetherWith (r block : Nat) : List Nat :=
  match togetherLevel r with
  | some k =>
    let n := levelBlocks r k
    (List.range n).map (fun i => block / n * n + i)
  | none => [block]

/-- The first instance of the group of instances that the reticle level holds together with a block. -/
def groupFirst (r block : Nat) : Nat :=
  match reticleLevel r with
  | some k => block / levelBlocks r k * levelBlocks r k
  | none => block

/-- The reticle that a waiting instance has. -/
def Launch.reticleFor (l : Launch) (block : Nat) : Option Nat := (l.waiting.find? (fun e => decide (e.1 = block))).bind Prod.snd

/-- Reticles that the group of an instance may use: the one chosen, or those of R34 for its first instance. -/
def State.reticlesFor (s : State) (l : Launch) (block : Nat) : List Nat :=
  match l.reticleFor block with
  | some x => [x]
  | none =>
    match s.keyBank l.num l.tenant (groupFirst l.num block) with
    | some b => s.reticleOrder b
    | none => []

/-- Starts instances in one reticle, each where the state after the ones before it lets it; none where one does not fit. -/
def State.startIn (s : State) (id : Nat) (l : Launch) (ret : Nat) : List Nat → Option State
  | [] => some s
  | b :: t =>
    match s.placeIn l (s.keyBank l.num l.tenant b) ret with
    | none => none
    | some (c, g) => (s.startBlock id b c g).startIn id l ret t

/-- Starts instances of one group: in the first reticle that holds them, which is the reticle of the whole group then. -/
def State.startGroup (s : State) (id : Nat) (l : Launch) (rets : List Nat) (blocks : List Nat) : Option State :=
  rets.findSome? (fun x => (s.startIn id l x blocks).map (fun s1 => s1.modLaunch id (fun l =>
    { l with waiting := l.waiting.map (fun e =>
        if (reticleLevel l.num).isSome ∧ blocks.any (fun b => groupFirst l.num b = groupFirst l.num e.1) then (e.1, some x) else e) })))

/-- Gathers instances by their groups, in order. -/
def byGroup (r : Nat) (blocks : List Nat) : List (List Nat) :=
  ((blocks.map (groupFirst r)).dedup).map (fun f => blocks.filter (fun b => decide (groupFirst r b = f)))

/-- Starts groups of instances, or none of them. -/
def State.startGroups (s : State) (id : Nat) (l : Launch) (rets : Nat → List Nat) (groups : List (List Nat)) : Option State :=
  groups.foldl (fun (o : Option State) g => o.bind (fun s => s.startGroup id l (rets (g.headD 0)) g)) (some s)

/-- Starts instance `block` of a launch, with those that must start with it: the new state, or none where it does not fit.
A group without a reticle chooses one with its first instance (R35). -/
def State.tryStart (s : State) (id : Nat) (l : Launch) (block : Nat) : Option State :=
  let r := l.num
  let all := togetherWith r block
  if all.head? ≠ some block ∨ ((l.reticleFor block).isNone ∧ groupFirst r block ≠ block) then none
  else s.startGroups id l (s.reticlesFor l) (byGroup r all)

/-- A launch could start its largest indivisible part on a module without other work (R33, R39). -/
def State.couldStart (s : State) (l : Launch) : Bool :=
  let e : State := { s.emptied with launches := { s.emptied.launches with launches := SMap.put 0 l [] } }
  let n := match togetherLevel l.num with | some k => levelBlocks l.num k | none => 1
  (e.startGroups 0 l (fun _ => List.range Config.reticles) (byGroup l.num (List.range n))).isSome

/-- The waiting instances of all launches: the priority, the launch and the instance with its reticle, in the order of R40. -/
def State.waitingBlocks (s : State) : List (Nat × Nat × Option Nat) :=
  ([3, 2, 1, 0] : List Nat).flatMap (fun p =>
    (s.launches.launches.filter (fun e => decide (recPrio e.2.num = p))).flatMap (fun e => e.2.waiting.map (fun b => (e.1, b.1, b.2))))

/-- Whether saved blocks fit a core (R429): their slots are free in the tenant's quadrants, and their resources can be granted. -/
def State.saveFits (s : State) (v : SavedBlock) (c : Nat) : Bool :=
  match s.core? c with
  | none => false
  | some k =>
    let taken := s.takenSlots c
    let own := k.quadsOf v.tenant
    decide (k.st = 0) && v.block.slots.all (fun p => own.contains (quadOf p) && !taken.contains p) &&
      own.all (fun q => decide (k.granulesHeld q + v.block.granules * (v.block.slots.filter (fun p => quadOf p = q)).length ≤ 256)) &&
      decide (v.block.banks.length ≤ (k.freeBanks v.tenant).length)

/-- Where a saved block can go. -/
def State.placeSaved (s : State) (v : SavedBlock) : Option Nat :=
  let fits (bank : Option Nat) (ret : Nat) : Option Nat := (s.coreOrder v.tenant ret bank).find? (s.saveFits v)
  match v.reticle, (s.launch? v.launch).bind (fun l => s.keyBank l.num l.tenant v.block.index) with
  | some x, b => fits b x
  | none, some b => (s.reticleOrder b).findSome? (fits (some b))
  | none, none => none

/-- The next block that can start or resume: saved ones stand ahead of every instance of their priority (R429). -/
def State.nextStart (s : State) : Option Instr :=
  ([3, 2, 1, 0] : List Nat).findSome? (fun p =>
    let saved := (s.launches.saved.filter (fun v => decide (v.prio = p))).findSome? (fun v =>
      (s.placeSaved v).map (fun c => Instr.blockResume v.tenant v.slot c))
    match saved with
    | some e => some e
    | none =>
      (s.launches.launches.filter (fun e => decide (recPrio e.2.num = p))).findSome? (fun e =>
        e.2.waiting.findSome? (fun b =>
          (s.tryStart e.1 e.2 b.1).bind (fun s1 =>
            -- the core is the one on which the instance then stands
            (s1.cores.find? (fun k => k.2.blocks.any (fun x => decide (x.2.launch = e.1 ∧ x.2.index = b.1)))).map (fun k =>
              Instr.blockStart e.1 b.1 k.1)))))

/-- Gives a reticle of the round to every waiting instance, and saved block, that has neither a tile key's bank nor one (R36). -/
def State.dealReticles (s : State) : State :=
  let deal (s : State) (tenant : Nat) (f : Nat → State → State) : State :=
    match s.roundReticle tenant with
    | none => s
    | some x => f x { s with launches := { s.launches with reticleRound := (x + 1) % Config.reticles } }
  let s1 := s.waitingBlocks.foldl (fun s e =>
    match s.launch? e.1 with
    | none => s
    | some l =>
      let now := (l.waiting.find? (fun b => decide (b.1 = e.2.1))).bind Prod.snd
      let first := groupFirst l.num e.2.1
      if now.isSome || (s.keyBank l.num l.tenant first).isSome then s
      else deal s l.tenant (fun x s => s.modLaunch e.1 (fun l =>
        { l with waiting := l.waiting.map (fun b => if groupFirst l.num b.1 = first then (b.1, some x) else b) }))) s
  s1.launches.saved.foldl (fun s v =>
    if v.reticle.isSome || ((s.launch? v.launch).bind (fun l => s.keyBank l.num l.tenant v.block.index)).isSome then s
    else deal s v.tenant (fun x s =>
      { s with launches := { s.launches with saved := s.launches.saved.map (fun w =>
          if w.tenant = v.tenant ∧ w.slot = v.slot then { w with reticle := some x } else w) } })) s1

/-- A start or a resumption is on its way. -/
def startingEvent : Instr → Bool
  | .blockStart _ _ _ => true
  | .blockResume _ _ _ => true
  | _ => false

/-- The dispatchers look for the next block to start (R40). -/
def State.dispatch (s : State) : State :=
  if s.pending.any startingEvent then s
  else
    let s1 := s.dealReticles
    match s1.nextStart with
    | some e => s1.push e
    | none => s1

end Sys2Proof.Machine
end

