-- ==== Sys2Proof/Machine/Stages.lean ====
section
/-! DEFINITION. Stage-queue headers (R353, R354) and the balancing of a stream pipeline's warps (R52 to R55). -/

namespace Sys2Proof.Machine

/-! ## The header -/

def hdrRslot (h : Nat) : Nat := bitsOf h 303 288
def hdrTslot (h : Nat) : Nat := bitsOf h 287 272
def hdrHslot (h : Nat) : Nat := bitsOf h 271 256
def hdrReady (h : Nat) : Nat := bitsOf h 255 224
def hdrTail (h : Nat) : Nat := bitsOf h 223 192
def hdrHead (h : Nat) : Nat := bitsOf h 191 160
def hdrPipe (h : Nat) : Nat := bitsOf h 111 100
def hdrStage (h : Nat) : Nat := bitsOf h 99 97
def hdrClosed (h : Nat) : Bool := h.testBit 96
def hdrWide (h : Nat) : Bool := h.testBit 80
def hdrLast (h : Nat) : Nat := bitsOf h 79 64
def hdrBase (h : Nat) : Nat := bitsOf h 63 0

/-- Capacity, record size, occupancy, published records. -/
def hdrCap (h : Nat) : Nat := hdrLast h + 1
def hdrSize (h : Nat) : Nat := if hdrWide h then 128 else 64
def hdrHeld (h : Nat) : Nat := (hdrTail h + 2 ^ 32 - hdrHead h) % 2 ^ 32
def hdrThere (h : Nat) : Nat := (hdrReady h + 2 ^ 32 - hdrHead h) % 2 ^ 32

/-- Replaces bits of a number. -/
def putBits (x hi lo v : Nat) : Nat := x - bitsOf x hi lo * 2 ^ lo + v % 2 ^ (hi + 1 - lo) * 2 ^ lo

/-- The next slot of a ring. -/
def hdrNext (h slot : Nat) : Nat := if slot = hdrLast h then 0 else slot + 1

/-- The checks of R354 that the header's own bits decide. -/
def headerOk (h : Nat) : Bool :=
  decide (bitsOf h 159 112 = 0 ∧ bitsOf h 95 81 = 0 ∧ 3 ≤ hdrLast h ∧ hdrHslot h ≤ hdrLast h ∧ hdrTslot h ≤ hdrLast h ∧
    hdrRslot h ≤ hdrLast h)

/-- The physical address of the ring, where the ring lies in one page of the tenant and Caldera holds it. -/
def State.ringAt (s : State) (core tenant h : Nat) : Option Nat :=
  let base := hdrBase h
  let last := base + hdrCap h * hdrSize h - 1
  if 2 ^ 56 ≤ last then none
  else match (s.lookup core tenant base).walk with
    | .page pte bits => if base / 2 ^ bits = last / 2 ^ bits ∧ cached (leafAddr pte bits base) then some (leafAddr pte bits base) else none
    | _ => none

/-- What the core finds where an instruction names a header. -/
inductive HeaderLook where
  /-- The header fails its checks. -/
  | handle
  | page (absent : Bool)
  | poison
  /-- A line is held back that it reads, or that the walk for its page reads. -/
  | stops (line : Nat)
  /-- Its physical address, its bits, and the physical address of its ring. -/
  | ok (pa h ring : Nat)
deriving DecidableEq, Repr

/-- Reads and checks a header (R354, R366). `wide`: what RSZ has to agree with. DEDUCED, log entry 54. -/
def State.lookHeader (s : State) (core tenant va : Nat) (priv : Bool) (wide : Option Bool) : HeaderLook :=
  if va % 128 ≠ 0 ∨ domainOf (s.tenant tenant) va ≠ domDevice then .handle
  else match s.translate core tenant va .read priv with
    | .absent => .page true
    | .fatal => .page false
    | .stops line => .stops line
    | .ok pa _ =>
      if !cached pa then .handle
      else if s.poisoned pa 128 then .poison
      else if s.lineStops (lineOf pa) false [0, 1] tenant then .stops (lineOf pa)
      else
        let h := Memory.readNum s.mem pa 128
        if !headerOk h || ((wide.map (fun w => w != hdrWide h)).getD false) then .handle
        else match s.ringAt core tenant h with
          | some ring => .ok pa h ring
          | none => .handle

/-- Writes a header: the bytes that change. -/
def State.putHeader (s : State) (pa old new : Nat) : State :=
  let cells := ((cellsOf pa 128 old).zip (cellsOf pa 128 new)).filterMap (fun e => if e.1.2 = e.2.2 then none else some e.2)
  if cells.isEmpty then s else (s.writeDirect none 16 cells).1

/-! ## The balance of a pipeline (R52 to R55) -/

/-- Warps that a stage holds. -/
def Pipeline.holds (p : Pipeline) (stage : Nat) : Nat := (p.pool.filter (fun e => decide (e.2 = stage + 1))).length

/-- A pipeline's block stands on a live core and is not being pre-empted: warps may start in its pool (R432). -/
def State.poolOpen (s : State) (p : Pipeline) : Bool :=
  ((s.core? p.core).map (fun k => decide (k.st = 0) && ((SMap.get? p.block k.blocks).map (fun b => b.saving.isNone)).getD false)).getD false

/-- A push has raised the occupancy to 3/4 of the capacity (R53): one more warp for the consumer stage, or a request. -/
def State.askWarp (s : State) (pipe stage : Nat) : State :=
  match SMap.get? pipe s.launches.pipelines with
  | none => s
  | some p =>
    match (if s.poolOpen p then p.pool.find? (fun e => decide (e.2 = 0)) else none) with
    | some e => s.startStage pipe e.1 stage
    | none => if p.requests.contains stage then s else s.modPipeline pipe (fun p => { p with requests := p.requests ++ [stage] })

/-- Marks a warp for reassignment; one that is parked in QPOP wakes (R54, R369). -/
def State.markWarp (s : State) (c slot : Nat) : State :=
  let s1 := s.modWarp c slot (fun w => { w with reassign := true })
  match (s1.warp? c slot).bind (·.parkedBy (fun r => match r with | .queue _ => true | _ => false)) with
  | some r => s1.unparkFrom c slot r
  | none => s1

/-- A pop has lowered the occupancy to 1/4 of the capacity (R54): the stage's request is cancelled, and its youngest unmarked
warp is marked where another stage waits. -/
def State.spareWarp (s : State) (pipe stage : Nat) : State :=
  let s1 := s.modPipeline pipe (fun p => { p with requests := p.requests.filter (· ≠ stage) })
  match SMap.get? pipe s1.launches.pipelines with
  | none => s1
  | some p =>
    if p.requests.isEmpty ∨ p.holds stage ≤ p.minima.getD stage 0 then s1
    else
      let mine := p.order.filter (fun slot => p.pool.contains (slot, stage + 1) &&
        ((s1.warp? p.core slot).map (fun w => !w.reassign && decide (w.stage = some stage))).getD false)
      match mine.getLast? with
      | some slot => s1.markWarp p.core slot
      | none => s1

/-- What a change of a queue's occupancy does to its pipeline. -/
def State.crossed (s : State) (h before after : Nat) : State :=
  let cap := hdrCap h
  if hdrPipe h = 0 then s
  else if 4 * before < 3 * cap ∧ 3 * cap ≤ 4 * after then s.askWarp (hdrPipe h) (hdrStage h)
  else if cap < 4 * before ∧ 4 * after ≤ cap then s.spareWarp (hdrPipe h) (hdrStage h)
  else s

/-- A slot of a pool is free: it passes to the stage at the head of the list, or stays unused (R54). DEDUCED, log entry 32. -/
def State.passSlot (s : State) (pipe slot : Nat) : State :=
  let s1 := s.modPipeline pipe (fun p =>
    { p with pool := p.pool.map (fun e => if e.1 = slot then (slot, 0) else e), order := p.order.filter (· ≠ slot) })
  match SMap.get? pipe s1.launches.pipelines with
  | none => s1
  | some p =>
    match (if s1.poolOpen p then p.requests else []) with
    | stage :: rest => (s1.modPipeline pipe (fun p => { p with requests := rest })).startStage pipe slot stage
    | [] => s1

end Sys2Proof.Machine
end

