-- ==== Sys2Proof/Machine/Queues.lean ====
section
/-! DEFINITION. The queue instructions (R365 to R374) and the steps of a stage queue at its header's anchor (R354): LAUNCH, QPUSH, QPOP, QCLOSE, FCINC, FCWAIT. -/

namespace Sys2Proof.Machine

/-! ## Fence counters (R350, R372, R373, R380) -/

def Tenant.fence (t : Tenant) (k : Nat) : DWord := SMap.get 0 k t.fences

/-- Wakes the FCWAITs that a counter satisfies, and has the launch unit look at its queues again (R380). -/
def State.fenceChanged (s : State) (t k : Nat) : State :=
  let v := (s.tenant t).fence k
  let due := s.cores.flatMap (fun c => c.2.warps.filterMap (fun e =>
    if e.2.tenant = t then
      (e.2.parkedBy (fun r => match r with | .fence j least => decide (j = k ∧ least ≤ v.toNat) | _ => false)).map (fun r => (c.1, e.1, r))
    else none))
  (due.foldl (fun s e => s.unparkFrom e.1 e.2.1 e.2.2) s).pushOnce .launchRecordTake

/-- Changes a fence counter in one step. -/
def State.setFence (s : State) (t k : Nat) (v : DWord) : State :=
  (s.modTenant t (fun tn => { tn with fences := SMap.set 0 k v tn.fences })).fenceChanged t k

/-- Stages: the release is done and the instruction acts; a message is at the header's anchor; a QPOP has been woken; a FCWAIT
has been woken. -/
def stAct : Nat := 16
def stQueue : Nat := 17
def stPop : Nat := 18
def stFenced : Nat := 19

/-- The stage of an instruction that waits for words of another module's memory. -/
def stRemote : Nat := 25

/-- The access of an instruction that holds its group: it waits until the instruction has acted. -/
def State.raiseHeld (s : State) (x : Ctx) (a : Access) (preds : List Nat) : State × Nat :=
  let id := s.accessId x
  (s.modWarp x.core x.slot (fun w =>
    (w.addAccess { a with id := id, needs := [0], firstLid := x.firstLid, mask := x.mask }).addPredDests a.path id x.lanes preds), id)

/-- The held access is done, with what its return writes. -/
def State.doneHeld (s : State) (c slot id : Nat) (f : Access → Access) : State := s.answer c slot id 0 f

/-- Runs what follows the release steps of an instruction at a domain. -/
def afterRelease (dom : Nat) (x : Ctx) (vals : List Nat) (go : List Nat → State → State) (s : State) : State :=
  if x.prog.releasing then (releaseOn x false s).cont x (go x.prog.vals)
  else if x.prog.stage = stAct then go x.prog.vals s
  else (release x false { vals := vals } [dom] s).cont x (go vals)

def Ctx.counter (x : Ctx) : Nat := x.a 1 scalarLane

def lateFence (path : List Path) (x : Ctx) (_ : State) : Late :=
  { paths := if x.lanes.isEmpty then [] else path, handle := if 255 < x.counter then some x.counter else none }

/-- FCINC's step at the launch unit (R372, R382). -/
def fcincGo (x : Ctx) (vals : List Nat) (s : State) : State :=
  let k := vals.getD 1 0
  let old := (s.tenant x.w.tenant).fence k
  let s1 := s.setFence x.w.tenant k (old + BitVec.ofNat 64 (vals.getD 2 0))
  (s1.doneHeld x.core x.slot (vals.getD 0 0) (fun a => { a with values := [(scalarLane, old.toNat)] })).complete x

def fcincEff (x : Ctx) (s : State) : State :=
  if x.prog.stage ≠ 0 then afterRelease domHost x [] (fcincGo x) s
  else if x.lanes.isEmpty then s.complete x
  else
    let (s1, id) := s.raiseHeld x { id := 0, path := .stg, kind := .result, dst := x.f.dst.toNat, regs := 2 } []
    afterRelease domHost x [id, x.counter, x.b 1 scalarLane] (fcincGo x) s1

def execFcinc (f : LX) (s : State) : Result := issue (.fcinc f) (lateFence [.stg]) fcincEff s

/-- DEDUCED, log entry 60. -/
def fcwaitEff (x : Ctx) (s : State) : State :=
  if x.prog.stage = stFenced then acquireDone x [domHost] s
  else if x.lanes.isEmpty then s.complete x
  else if x.b 2 scalarLane ≤ ((s.tenant x.w.tenant).fence x.counter).toNat then acquireDone x [domHost] s
  else s.parkAt x (.fence x.counter (x.b 2 scalarLane)) { stage := stFenced }

def execFcwait (f : LX) (s : State) : Result := issue (.fcwait f) (lateFence []) fcwaitEff s

/-! ## LAUNCH (R367) -/

/-- A queue that the launch unit serves (R344). -/
def LaunchQueue.size (q : LaunchQueue) : Nat := 2 ^ bitsOf q.ctrl.toNat 23 20
def LaunchQueue.on (q : LaunchQueue) : Bool :=
  q.ctrl.getLsbD 0 && decide (2 ≤ bitsOf q.ctrl.toNat 23 20 ∧ bitsOf q.ctrl.toNat 23 20 ≤ 16)
def LaunchQueue.fed (q : LaunchQueue) : Bool := q.ctrl.getLsbD 3
def LaunchQueue.held (q : LaunchQueue) : Nat := (q.tail - q.head).toNat

def Tenant.queue (t : Tenant) (k : Nat) : LaunchQueue := SMap.get {} k t.queues
def State.modQueue (s : State) (t k : Nat) (f : LaunchQueue → LaunchQueue) : State :=
  s.modTenant t (fun tn => { tn with queues := SMap.put k (f (tn.queue k)) tn.queues })

/-- Room for `n` records. -/
def LaunchQueue.room (q : LaunchQueue) (n : Nat) : Bool := decide (q.held + n ≤ q.size)

/-- The lanes that give a child. -/
def Ctx.children (x : Ctx) : List Nat := if x.f.mb 0 0 = 1 then x.lanes.take 1 else x.lanes

/-- Where the records of the lanes stand: their first fault, or lane, virtual and physical address of each. -/
def Ctx.launchParts (x : Ctx) (s : State) : List Nat → Except Bad (List (Nat × Nat × Nat))
  | [] => .ok []
  | p :: t =>
    let va := x.a 2 p
    if va % 128 ≠ 0 then .error { place := p, va := va, what := .misaligned }
    else match x.gpart s .read true 0 p va 128 with
      | .error e => .error { place := p, va := va, what := e }
      | .ok g =>
        match x.launchParts s t with
        | .error e => .error e
        | .ok l => .ok ((p, va, g.pa) :: l)

def lateLaunch (x : Ctx) (s : State) : Late :=
  let q := x.c 1 scalarLane
  let t := (s.tenant x.w.tenant).queue q
  let far := match x.launchParts s x.children with | .ok l => l.any (fun e => s.remote e.2.2) | .error _ => false
  { paths := if x.lanes.isEmpty then [] else .stg :: (if far then [.peer] else []), handle := if 63 < q || !t.on || !t.fed then some q else none }

/-- A child's record: the template with the warp's tenant and, where one is given, a parameter address. -/
def childRecord (r tenant : Nat) (param : Option Nat) : Nat :=
  let r1 := putBits r 818 815 tenant
  match param with
  | some p => putBits r1 127 64 p
  | none => r1

/-- Writes a record at the tail of a queue; one whose slot does not translate is lost, and is rejected when it is taken. -/
def State.appendRecord (s : State) (t q r : Nat) : State :=
  let k := (s.tenant t).queue q
  let va := k.base.toNat + 128 * (k.tail.toNat % k.size)
  let s1 :=
    match s.translate 0 t va .write true with
    | .ok pa _ => if cached pa then (s.writeDirect none t (cellsOf pa 128 r)).1 else s
    | _ => s
  s1.modQueue t q (fun k => { k with tail := k.tail + 1 })

/-- The line of a queue's ring that an append would wait for. -/
def State.ringStops (s : State) (t q n : Nat) : Option Nat :=
  let k := (s.tenant t).queue q
  (List.range n).findSome? (fun i =>
    match s.translate 0 t (k.base.toNat + 128 * ((k.tail.toNat + i) % k.size)) .write true with
    | .ok pa _ => if cached pa && s.lineStops (lineOf pa) true [0, 1] t then some (lineOf pa) else none
    | .stops line => some line
    | _ => none)

/-- The records have been read: the children, given as numbers after the access, the queue and their count, are appended once the
queue has room. -/
def launchAppend (x : Ctx) (vals : List Nat) (s : State) : State :=
  let q := vals.getD 1 0
  let n := vals.getD 2 0
  let keep : Progress := { stage := stAct, note := 1, vals := vals }
  if !((s.tenant x.w.tenant).queue q).room n then s.holdAt x (.launchRoom q n) keep
  else match s.ringStops x.w.tenant q n with
    | some line => s.stopAt x line true keep
    | none =>
      let s1 := (vals.drop 3).foldl (fun s r => s.appendRecord x.w.tenant q r) s
      ((s1.doneHeld x.core x.slot (vals.getD 0 0) (fun a => { a with values := [(scalarLane, n)] })).pushOnce .launchRecordTake).complete x

/-- The lanes' records where they stand, and their parameter addresses. -/
def launchSpans (vals : List Nat) : List (Span × Option Nat) :=
  (List.range (valAt vals 2)).map (fun i =>
    ({ va := valAt vals (3 + 3 * i), pa := valAt vals (4 + 3 * i), n := 128 },
     if valAt vals (5 + 3 * i) = 0 then none else some (valAt vals (5 + 3 * i) - 1)))

/-- The records have been read: children are made of them. -/
def launchChildren (x : Ctx) (vals recs : List Nat) (s : State) : State :=
  launchAppend x (vals.take 3 ++ (recs.zip (launchSpans vals)).map (fun e => childRecord e.1 x.w.tenant e.2.2)) s

/-- The release is done: each lane's record is read, before the queue is looked at; one in another module's memory comes over the Nyrus
Link. -/
def launchGo (x : Ctx) (vals : List Nat) (s : State) : State :=
  let spans := (launchSpans vals).map Prod.fst
  match (spans.filter (fun e => cached e.pa)).findSome? (fun e => s.spanStops e.pa 128 false x.w.tenant) with
  | some line => s.stopAt x line false { stage := stAct, vals := vals }
  | none =>
    if spans.any (fun e => s.remote e.pa) then (s.fetchRemote x spans).holdAt x .event { stage := stRemote, vals := vals }
    else launchChildren x vals (spans.map (fun e => numOf (s.seenBytes x.core x.w.tenant e.pa 128))) s

/-- LAUNCH goes on with records that another module has sent. -/
def launchFetched (x : Ctx) (vals : List Nat) (s : State) : State :=
  let n := valAt vals 2
  let words := vals.drop (3 + 3 * n)
  launchChildren x (vals.take (3 + 3 * n)) ((List.range n).map (fun i => numOf (((words.drop (32 * i)).take 32).flatMap (bytesOf · 4)))) s

def launchEff (x : Ctx) (s : State) : State :=
  if x.prog.stage = stAct ∧ x.prog.note = 1 then launchAppend x x.prog.vals s
  else if x.prog.stage = stRemote then launchFetched x x.prog.vals s
  else if x.prog.stage ≠ 0 then afterRelease domDevice x [] (launchGo x) s
  else if x.children.isEmpty then s.complete x
  else
    match x.launchParts s x.children with
    | .error e => s.trouble x e.place e.va accRead e.what
    | .ok l =>
      let s1 := s.keepPages x (l.map (·.2.1))
      let pages : NSet := l.foldl (fun m e => NSet.add (e.2.1 / 2 ^ 17) m) []
      let (s2, id) := s1.raiseHeld x { id := 0, path := .stg, kind := .result, dst := x.f.dst.toNat, pages := pages } []
      let param (p : Nat) : Nat := if x.f.srcB = 0xFC then 0 else x.b 2 p + 1
      afterRelease domDevice x (id :: x.c 1 scalarLane :: l.length :: l.flatMap (fun e => [e.2.1, e.2.2, param e.1])) (launchGo x) s2

def execLaunch (f : LX) (s : State) : Result := issue (.launch f) lateLaunch launchEff s

/-! ## Messages to a header's anchor -/

def State.message? (s : State) (id : Nat) : Option StageMessage := SMap.get? id s.launches.messages
def State.putMessage (s : State) (id : Nat) (m : StageMessage) : State :=
  { s with launches := { s.launches with messages := SMap.put id m s.launches.messages } }
def State.dropMessage (s : State) (id : Nat) : State :=
  { s with launches := { s.launches with messages := SMap.del id s.launches.messages } }

/-- Sends a message; its number. -/
def State.addMessage (s : State) (m : StageMessage) : State × Nat :=
  let id := s.launches.nextMessage
  ({ s with launches := { s.launches with messages := SMap.put id m s.launches.messages, nextMessage := id + 1 } }, id)

/-- Another message of the kind at the header came before. -/
def State.behind (s : State) (id : Nat) (m : StageMessage) : Bool :=
  s.launches.messages.any (fun e => decide (e.1 < id ∧ e.2.header = m.header ∧ e.2.op = m.op))

/-- The first message of a kind at a header goes on. -/
def State.kick (s : State) (header op : Nat) : State :=
  match s.launches.messages.find? (fun e => decide (e.2.header = header ∧ e.2.op = op)) with
  | some e => s.pushOnce (if op = 0 then .stagePush e.1 else .stagePop e.1)
  | none => s

/-- The group that waits for a message goes on, in a stage. -/
def State.goOn (s : State) (c slot id stage : Nat) : State :=
  s.modWarp c slot (fun w => { w with groups := w.groups.map (fun g =>
    if g.prog.stage = stQueue ∧ g.prog.note = id then { g with hold := .none, prog := { g.prog with stage := stage } } else g) })

/-- Wakes every warp parked in QPOP on a queue. -/
def State.wakeQueue (s : State) (header : Nat) : State :=
  let due := s.cores.flatMap (fun c => c.2.warps.map (fun e => (c.1, e.1)))
  due.foldl (fun s e => s.unparkFrom e.1 e.2 (.queue header)) s

/-- The instruction of a message is still there. -/
def State.stands (s : State) (m : StageMessage) : Bool :=
  (((s.warp? m.core m.slot).bind (·.access? m.access)).map (fun a => !a.returned)).getD false

/-- An access of a queue instruction's, at a header's anchor or a record's, is counted for its warp (R389). DEDUCED, log entry 29. -/
def State.countFor (s : State) (m : StageMessage) (pa : Nat) : State := s.countServed m.core m.slot (s.anchor (lineOf pa))

/-- What an instruction needs of its access once a record is acknowledged. -/
def needRecord (id : Nat) : Nat := needCaldera id

/-! ## QPUSH and STAGE_PUSH (R368, R354) -/

/-- The header that an instruction names. -/
def Ctx.header (x : Ctx) (s : State) (sized : Bool) : HeaderLook :=
  s.lookHeader x.core x.w.tenant (x.a 2 scalarLane) x.w.special.priv (if sized then some (x.f.mb 0 0 == 1) else none)

def lateHeader (sized : Bool) (path : Path) (x : Ctx) (s : State) : Late :=
  { paths := if x.lanes.isEmpty then [] else [path],
    handle := if x.header s sized = .handle then some (x.a 2 scalarLane) else none }

/-- Reads the header for the instruction: a fault of the lowest-LID executing lane, or it goes on. -/
def Ctx.withHeader (x : Ctx) (sized : Bool) (go : Nat → Nat → State → State) (s : State) : State :=
  let va := x.a 2 scalarLane
  let low := x.lanes.headD 0
  match x.header s sized with
  | .handle => s.uniform x causeHandle va
  | .page absent => s.lanePage x absent va low accRead
  | .poison => s.laneFault x causePoison va low accRead
  | .stops line => (s.askLine line true [0, 1] x.w.tenant).waitAt x (.lineStops line true)
  | .ok pa _ ring => go pa ring (s.keepPages x [va])

/-- The pages that an instruction on a queue translates: the header's, and the ring's. -/
def Ctx.queuePages (x : Ctx) (s : State) (pa : Nat) : NSet :=
  NSet.add (hdrBase (Memory.readNum s.mem pa 128) / 2 ^ 17) [x.a 2 scalarLane / 2 ^ 17]

/-- Registers of a record run. -/
def Ctx.recRegs (x : Ctx) : Nat := if x.f.mb 0 0 = 1 then 32 else 16

/-- The release is done: the records go to the header. DEDUCED, log entry 59. -/
def qpushGo (x : Ctx) (vals : List Nat) (s : State) : State :=
  let n := (vals.length - 3) / 2
  let lanes := (List.range n).map (fun i => (vals.getD (3 + 2 * i) 0, vals.getD (4 + 2 * i) 0))
  let (s1, id) := s.addMessage
    { core := x.core, slot := x.slot, access := vals.getD 0 0, header := vals.getD 1 0, ring := vals.getD 2 0, op := 0,
      tenant := x.w.tenant, lanes := lanes, bytes := [] }
  (s1.push (.stagePush id)).holdAt x .event { stage := stQueue, note := id }

def qpushEff (x : Ctx) (s : State) : State :=
  if x.prog.stage = stQueue then s.complete x
  else if x.prog.stage ≠ 0 then afterRelease domDevice x [] (qpushGo x) s
  else if x.lanes.isEmpty then s.complete x
  else x.withHeader true (fun pa ring s =>
    let (s1, id) := s.raiseHeld x { id := 0, path := .stg, ops := [(x.f.dst.toNat, x.recRegs, 0, 0)], pages := x.queuePages s pa } [x.f.dst.toNat]
    afterRelease domDevice x (id :: pa :: ring :: x.lanes.flatMap (fun l => [l, x.c x.recRegs l])) (qpushGo x) s1) s

def execQpush (f : LX) (s : State) : Result := issue (.qpush f) (lateHeader true .stg) qpushEff s

/-- A lane's push has an outcome: its predicate. -/
def State.pushed (s : State) (m : StageMessage) (lane : Nat) (took : Bool) (record : Option Nat) : State :=
  s.modWarp m.core m.slot (fun w => w.modAccess m.access (fun a =>
    { a with
      preds := a.preds ++ [(lane, (a.ops.headD (0, 0, 0, 0)).1, took)],
      needs := match record with | some r => NSet.add (needRecord r) a.needs | none => a.needs }))

/-- The push of one lane is done: the next one follows, or the instruction goes on. -/
def State.nextPush (s : State) (id : Nat) (m : StageMessage) (rest : List (Nat × Nat)) : State :=
  if rest.isEmpty then
    ((s.dropMessage id).goOn m.core m.slot id stQueue).doneHeld m.core m.slot m.access (fun a => a) |>.kick m.header 0
  else (s.putMessage id { m with lanes := rest }).push (.stagePush id)

/-- STAGE_PUSH (R354): one record of a QPUSH reserves its slot, or meets CLOSED; while the queue is full it waits. -/
def execStagePush (id : Nat) (s : State) : Result :=
  let s1 := s.taken (.stagePush id)
  match s1.message? id with
  | none => .next s1
  | some m =>
    if m.op ≠ 0 then .next s1
    else if !s1.stands m then .next ((s1.dropMessage id).kick m.header 0)
    else if s1.behind id m then .next s1
    else if s1.lineStops (lineOf m.header) true then .next (s1.waitLine (lineOf m.header) true (.stagePush id))
    else
      let s1 := s1.countFor m m.header
      let h := Memory.readNum s1.mem m.header 128
      match m.lanes with
      | [] => .next (s1.nextPush id m [])
      | (lane, v) :: rest =>
        if hdrClosed h then .next ((s1.pushed m lane false none).nextPush id m rest)
        else if hdrCap h ≤ hdrHeld h then .next s1
        else
          let slot := hdrTslot h
          let h1 := putBits (putBits h 223 192 (hdrTail h + 1)) 287 272 (hdrNext h slot)
          let s2 := s1.putHeader m.header h h1
          let (s3, r) := s2.addMessage { m with op := 2, lanes := [], bytes := bytesOf v (hdrSize h), place := slot }
          let s4 := ((s3.push (.stageRecordAck r)).pushed m lane true (some r)).crossed h (hdrHeld h) (hdrHeld h + 1)
          .next (s4.nextPush id m rest)

/-- Publishes every consecutive acknowledged slot of a header (R354). -/
def State.publish (s : State) (header : Nat) : Nat → State
  | 0 => s
  | n + 1 =>
    let h := Memory.readNum s.mem header 128
    match s.launches.messages.find? (fun e => decide (e.2.header = header ∧ e.2.op = 3 ∧ e.2.place = hdrRslot h)) with
    | none => s
    | some e =>
      let h1 := putBits (putBits h 255 224 (hdrReady h + 1)) 303 288 (hdrNext h (hdrRslot h))
      ((s.dropMessage e.1).putHeader header h h1).publish header n

/-- STAGE_RECORD_ACK (R354): the record's write is acknowledged. -/
def execStageRecordAck (id : Nat) (s : State) : Result :=
  let s1 := s.taken (.stageRecordAck id)
  match s1.message? id with
  | none => .next s1
  | some m =>
    let pa := m.ring + m.place * m.bytes.length
    if m.op ≠ 2 then .next s1
    else match s1.spanStops pa m.bytes.length true, s1.lineStops (lineOf m.header) true with
    | some l, _ => .next (s1.waitLine l true (.stageRecordAck id))
    | none, true => .next (s1.waitLine (lineOf m.header) true (.stageRecordAck id))
    | none, false =>
      let s2 := ((s1.countFor m pa).writeDirect none m.tenant (m.bytes.mapIdx (fun i b => (pa + i, b)))).1
      let s3 := (s2.putMessage id { m with op := 3 }).publish m.header s2.launches.messages.length
      .next ((s3.answer m.core m.slot m.access (needRecord id) (fun a => a)).wakeQueue m.header)

/-! ## QPOP and STAGE_POP (R369, R354) -/

/-- The predicates of a QPOP in every executing lane: who got a record, END, REA. -/
def Access.popPreds (a : Access) (ended reassigned : Bool) : Access :=
  let f := a.ops.headD (0, 0, 0, 0)
  { a with preds := a.parts.flatMap (fun p =>
      [(p.1, f.1, (SMap.get? p.1 a.values).isSome), (p.1, f.2.1, ended), (p.1, f.2.2.1, reassigned)]) }

/-- Looks at the queue: the mark first, else the message to the anchor. -/
def qpopLook (x : Ctx) (vals : List Nat) (s : State) : State :=
  if x.w.reassign then
    (s.doneHeld x.core x.slot (vals.getD 0 0) (fun a => a.popPreds false true)).complete x
  else
    let (s1, id) := s.addMessage
      { core := x.core, slot := x.slot, access := vals.getD 0 0, header := vals.getD 1 0, ring := vals.getD 2 0, op := 1,
        tenant := x.w.tenant, lanes := x.lanes.map (fun l => (l, 0)), bytes := [] }
    (s1.push (.stagePop id)).holdAt x .event { stage := stQueue, note := id, vals := vals }

def qpopEff (x : Ctx) (s : State) : State :=
  if x.prog.stage = stQueue then s.complete x
  else if x.prog.stage = stPop then qpopLook x x.prog.vals s
  else if x.lanes.isEmpty then s.complete x
  else x.withHeader true (fun pa ring s =>
    let dests := [x.f.mb 3 1, x.f.mb 6 4, x.f.mb 9 7]
    let (s1, id) := s.raiseHeld x
      { id := 0, path := .ldg, kind := .result, dst := x.f.dst.toNat, regs := x.recRegs, parts := x.lanes.map (fun l => (l, 0, 0)),
        ops := [(x.f.mb 3 1, x.f.mb 6 4, x.f.mb 9 7, 0)], pages := x.queuePages s pa } dests
    qpopLook x [id, pa, ring] s1) s

def execQpop (f : LX) (s : State) : Result := issue (.qpop f) (lateHeader true .ldg) qpopEff s

/-- A QPOP has its result. -/
def State.popDone (s : State) (id : Nat) (m : StageMessage) (ended : Bool) : State :=
  ((s.dropMessage id).goOn m.core m.slot id stQueue).doneHeld m.core m.slot m.access (fun a => a.popPreds ended false) |>.kick m.header 1

/-- A QPOP finds nothing: its warp parks, and looks again when it is woken. -/
def State.popParks (s : State) (id : Nat) (m : StageMessage) : State :=
  let s1 := (s.dropMessage id).goOn m.core m.slot id stPop
  (s1.modWarp m.core m.slot (·.parkFor (.queue m.header) (s.cyc m.core))).kick m.header 1

/-- STAGE_POP (R354, R369): one record of a QPOP is taken; the last one is followed by the acquire steps. -/
def execStagePop (id : Nat) (s : State) : Result :=
  let s1 := s.taken (.stagePop id)
  match s1.message? id with
  | none => .next s1
  | some m =>
    if m.op ≠ 1 then .next s1
    else if !s1.stands m then .next ((s1.dropMessage id).kick m.header 1)
    else if s1.behind id m then .next s1
    else
      let h := Memory.readNum s1.mem m.header 128
      let pa := m.ring + hdrHslot h * hdrSize h
      if s1.lineStops (lineOf m.header) true then .next (s1.waitLine (lineOf m.header) true (.stagePop id))
      else if (s1.spanStops pa (hdrSize h) false).isSome then
        .next (s1.waitLine ((s1.spanStops pa (hdrSize h) false).getD 0) false (.stagePop id))
      else if m.place = 0 ∧ hdrThere h = 0 then
        .next (if hdrClosed h && decide (hdrTail h = hdrHead h) then s1.popDone id m true else s1.popParks id m)
      else
        let left := if m.place = 0 then min (hdrThere h) m.lanes.length else m.place - 1
        match m.lanes with
        | [] => .next (s1.popDone id m false)
        | (lane, _) :: rest =>
          let s1 := (linesFrom pa (hdrSize h)).foldl (fun s l => (s.readFor m.tenant l).1) ((s1.countFor m m.header).countFor m pa)
          let v := Memory.readNum s1.mem pa (hdrSize h)
          let h1 := putBits (putBits h 191 160 (hdrHead h + 1)) 271 256 (hdrNext h (hdrHslot h))
          let s2 := s1.putHeader m.header h h1
          let s3 := s2.modWarp m.core m.slot (fun w => w.modAccess m.access (fun a => { a with values := SMap.put lane v a.values }))
          let s4 := (s3.crossed h (hdrHeld h) (hdrHeld h - 1)).kick m.header 0
          if left ≤ 1 then .next ((s4.acquire m.core m.tenant domDevice).popDone id m false)
          else .next ((s4.putMessage id { m with lanes := rest, place := left }).push (.stagePop id))

/-! ## QCLOSE (R370) -/

/-- The release is done: CLOSED is set, and who waits at the queue looks again. -/
def qcloseGo (x : Ctx) (vals : List Nat) (s : State) : State :=
  let header := vals.getD 1 0
  if s.lineStops (lineOf header) true then s.stopAt x (lineOf header) true { stage := stAct, vals := vals }
  else
    let h := Memory.readNum s.mem header 128
    let s1 := s.putHeader header h (putBits h 96 96 1)
    (((s1.wakeQueue header).kick header 0).doneHeld x.core x.slot (vals.getD 0 0) (fun a => a)).complete x

def qcloseEff (x : Ctx) (s : State) : State :=
  if x.prog.stage ≠ 0 then afterRelease domDevice x [] (qcloseGo x) s
  else if x.lanes.isEmpty then s.complete x
  else x.withHeader false (fun pa _ s =>
    let (s1, id) := s.raiseHeld x { id := 0, path := .stg, pages := x.queuePages s pa } []
    afterRelease domDevice x [id, pa] (qcloseGo x) s1) s

def execQclose (f : LX) (s : State) : Result := issue (.qclose f) (lateHeader false .stg) qcloseEff s

end Sys2Proof.Machine
end

