-- ==== Sys2Proof/Machine/Engine.lean ====
section
/-! DEFINITION. The copy engine (R355 to R359, R371): tensor descriptors, the five command instructions, and the steps of a command. -/

namespace Sys2Proof.Machine

/-! ## The tensor descriptor (R356) -/

def descNdim (d : Nat) : Nat := bitsOf d 198 195
def descEsz (d : Nat) : Nat := bitsOf d 194 192
def descSize (d : Nat) : Nat := 2 ^ descEsz d
def descSsp (d : Nat) : Bool := d.testBit 199
def descDsp (d : Nat) : Bool := d.testBit 200
def descIdim (d : Nat) : Nat := bitsOf d 203 201
def descRop (d : Nat) : Nat := bitsOf d 207 204
def descRtype (d : Nat) : Nat := bitsOf d 211 208
def descHint (d : Nat) : Nat := bitsOf d 213 212
def descAux (d : Nat) : Nat := bitsOf d 191 128
def descDst (d : Nat) : Nat := bitsOf d 127 64
def descSrc (d : Nat) : Nat := bitsOf d 63 0
def descDim (d k : Nat) : Nat := bitsOf d (128 * k + 383) (128 * k + 256)
def dimExt (m : Nat) : Nat := bitsOf m 31 0
def dimSstr (m : Nat) : Int := (BitVec.ofNat 48 (bitsOf m 79 32)).toInt
def dimDstr (m : Nat) : Int := (BitVec.ofNat 48 (bitsOf m 127 80)).toInt

/-- The commands by number. -/
def opCopy : Nat := 0
def opGath : Nat := 1
def opScat : Nat := 2
def opRed : Nat := 3
def opFill : Nat := 4

def engineOp : Instr → Nat
  | .xgath _ => opGath | .xscat _ => opScat | .xred _ => opRed | .xfill _ => opFill | _ => opCopy

/-- A descriptor that a command takes (R366). -/
def descOk (op d : Nat) : Bool :=
  decide (bitsOf d 255 214 = 0 ∧ 1 ≤ descNdim d ∧ descNdim d ≤ 8 ∧ descEsz d ≤ 4 ∧ descIdim d < descNdim d) &&
    (List.range (descNdim d)).all (fun k => decide (1 ≤ dimExt (descDim d k))) &&
    (if op = opRed then
      decide (descRop d ≤ 5 ∨ (10 ≤ descRop d ∧ descRop d ≤ 12)) && atomOk (descRop d) (descRtype d) &&
        decide (descSize d = atomBytes (descRtype d))
    else if op = opFill then decide (descEsz d ≠ 4) else true)

/-! ## The command instructions (R371) -/

/-- What the core finds where an instruction names a descriptor. -/
inductive DescLook where
  | handle
  | page (absent : Bool)
  | poison
  | stops (line : Nat)
  /-- Some of its bytes are in another module's memory. -/
  | remote (spans : List Span)
  | ok (d : Nat)
deriving DecidableEq, Repr

/-- Reads and checks a descriptor as a LD of the warp would (R366). -/
def State.lookDesc (s : State) (op core tenant va : Nat) (priv : Bool) : DescLook :=
  if va % 32 ≠ 0 then .handle
  else
    -- the 160 bytes lie in two lines at most, and in one page or two
    match s.translate core tenant va .read priv, s.translate core tenant (va + 128) .read priv with
    | .absent, _ => .page true
    | .fatal, _ => .page false
    | .stops line, _ => .stops line
    | _, .absent => .page true
    | _, .fatal => .page false
    | _, .stops line => .stops line
    | .ok pa _, .ok pb _ =>
      -- bytes 0 to 127 leave their page only where `va` is near its end
      let first := min 128 (2 ^ 17 - va % 2 ^ 17)
      let tail := pb - (128 - first)
      let parts : List Span := [{ va := va, pa := pa, n := first }, { va := va + first, pa := tail, n := 160 - first }]
      let near := parts.filter (fun e => cached e.pa)
      if near.any (fun e => s.readsPoison core 64 tenant e.pa e.n) then .poison
      else match near.findSome? (fun e => s.spanStops e.pa e.n false tenant) with
        | some l => .stops l
        | none =>
          if parts.any (fun e => s.remote e.pa) then .remote parts
          else
            let d := numOf (parts.flatMap (fun e => s.seenBytes core tenant e.pa e.n))
            if descOk op d then .ok d else .handle

def Ctx.descriptor (x : Ctx) (s : State) : DescLook :=
  s.lookDesc (engineOp x.i) x.core x.w.tenant (x.a 2 scalarLane) x.w.special.priv

def DescLook.far : DescLook → Bool
  | .remote _ => true
  | _ => false

def lateEngine (x : Ctx) (s : State) : Late :=
  { paths := if x.lanes.isEmpty then [] else .xen :: (if (x.descriptor s).far then [.peer] else []),
    handle := if x.descriptor s = .handle then some (x.a 2 scalarLane) else none }

/-- Commands of a quadrant in the engine's queue (R355). -/
def Core.engineOf (k : Core) (q : Nat) : List EngineCommand := k.engine.filter (fun e => decide (quadOf e.slot = q))

/-- A command enters the queue of its engine, where its quadrant has an entry left; else its group waits. -/
def enterEngine (vals : List Nat) (x : Ctx) (s : State) : State :=
  let q := quadOf x.slot
  if 4 ≤ (((s.core? x.core).map (fun k => k.engineOf q)).getD []).length then
    s.holdAt x .engineFull { stage := stAct, vals := vals }
  else
    let id := s.accessId x
    let cmd : EngineCommand :=
      { slot := x.slot, access := id, op := engineOp x.i, flags := x.f.mb 1 0, desc := bytesOf (vals.getD 0 0) 160,
        descVa := vals.getD 3 0, src := vals.getD 1 0, dst := vals.getD 2 0, priv := x.w.special.priv, lid := x.firstLid }
    let s1 := s.modCore x.core (fun k => { k with engine := k.engine ++ [cmd] })
    let s2 := s1.modWarp x.core x.slot (·.addAccess { id := id, path := .xen, needs := [1], firstLid := x.firstLid })
    (s2.complete x).pushOnce (.engineCommand x.core q)

/-- A command with its descriptor and its offsets, from the descriptor at `va`. -/
def startEngine (d src dst va : Nat) (x : Ctx) (s : State) : State :=
  enterEngine [d, (descSrc d + src) % 2 ^ 64, (descDst d + dst) % 2 ^ 64, va] x s

def engineEff (x : Ctx) (s : State) : State :=
  if x.prog.stage = stAct then enterEngine x.prog.vals x s
  else if x.prog.stage = stRemote then
    let va := valAt x.prog.vals 2
    let d := numOf ((x.prog.vals.drop 3).flatMap (bytesOf · 4))
    if descOk (engineOp x.i) d then startEngine d (valAt x.prog.vals 0) (valAt x.prog.vals 1) va x s else s.uniform x causeHandle va
  else
    let va := x.a 2 scalarLane
    let src := x.b 2 scalarLane
    let dst := x.c 2 scalarLane
    let low := x.lanes.headD 0
    let pages := (List.range 2).map (fun i => va + 159 * i)
    if x.lanes.isEmpty then s.complete x
    else match x.descriptor s with
      | .handle => s.uniform x causeHandle va
      | .page absent => s.lanePage x absent va low accRead
      | .poison => s.laneFault x causePoison va low accRead
      | .stops line => (s.askLine line false [0, 1] x.w.tenant).waitAt x (.lineStops line false)
      | .remote spans => ((s.keepPages x pages).fetchRemote x spans).holdAt x .event { stage := stRemote, vals := [src, dst, va] }
      | .ok d => startEngine d src dst va x (s.keepPages x pages)

def execXcopy (f : LX) (s : State) : Result := issue (.xcopy f) lateEngine engineEff s
def execXgath (f : LX) (s : State) : Result := issue (.xgath f) lateEngine engineEff s
def execXscat (f : LX) (s : State) : Result := issue (.xscat f) lateEngine engineEff s
def execXred (f : LX) (s : State) : Result := issue (.xred f) lateEngine engineEff s
def execXfill (f : LX) (s : State) : Result := issue (.xfill f) lateEngine engineEff s

/-! ## Elements (R357) -/

def EngineCommand.num (e : EngineCommand) : Nat := numOf e.desc

/-- The number of elements. -/
def descCount (d : Nat) : Nat := (List.range (descNdim d)).foldl (fun p k => p * dimExt (descDim d k)) 1

/-- The index of element `n` in dimension `k`, i0 varying fastest. -/
def descIndex (d n k : Nat) : Nat :=
  n / (List.range k).foldl (fun p j => p * dimExt (descDim d j)) 1 % dimExt (descDim d k)

/-- An address: a base plus signed strides; `ix` stands for the index in dimension IDIM where a command gathers or scatters. -/
def descAddr (d n base : Nat) (stride : Nat → Int) (ix : Option Int) : Nat :=
  let term (k : Nat) : Int :=
    (match ix with
      | some i => if k = descIdim d then i else (descIndex d n k : Int)
      | none => (descIndex d n k : Int)) * stride (descDim d k)
  (((base : Int) + ((List.range (descNdim d)).map term).sum) % 2 ^ 64).toNat

/-- Where an element stands: in the window, at a line with the hint the access acts with, in a peer window. -/
inductive Place where
  | window (o : Nat)
  | memory (pa hint : Nat)
  | peer (pa va : Nat)
deriving DecidableEq, Repr

/-- What stops an element: a fault at an address, a half of a line that is held back, bytes of a peer window that have not come. -/
inductive ElementStop where
  | fault (cause va : Nat) (absent : Bool)
  | wait (line half : Nat) (writes : Bool)
  | remote (pa va : Nat)
deriving DecidableEq, Repr

/-- Finds an element's place, with its faults in the order of R106. -/
def State.placeElement (s : State) (c tenant : Nat) (b : Block) (e : EngineCommand) (inWindow : Bool) (perm : Perm) (reads : Bool)
    (align n va : Nat) : Except ElementStop Place :=
  if va % align ≠ 0 then .error (.fault causeMisaligned va false)
  else if inWindow then
    if b.length < va + n then .error (.fault causeBounds va false)
    else if reads && b.poisoned va n then .error (.fault causePoison va false)
    else .ok (.window va)
  else match s.translate c tenant va perm e.priv with
    | .absent => .error (.fault causePageFault va true)
    | .fatal => .error (.fault causePageFault va false)
    | .stops line => .error (.wait line 0 false)
    | .ok pa pte =>
      let half := pa / 64 % 2
      if !cached pa then
        if perm == .read && (List.range n).any (fun i => (SMap.get? (pa + i) e.got).isNone) then .error (.remote pa va) else .ok (.peer pa va)
      else if reads && s.poisoned pa n then .error (.fault causePoison va false)
      else if s.lineStops (lineOf pa) (perm == .write) [half] tenant then .error (.wait (lineOf pa) half (perm == .write))
      else .ok (.memory pa (effectiveHint (s.tenant tenant) va pte (descHint e.num) (perm == .read)))

/-- The engine's write of a line takes the line out of its core's L1 for every tenant (R358); dirty bytes are written back first. DEDUCED,
log entry 47. -/
def State.purgeL1 (s : State) (c by_ line : Nat) : State :=
  let l := ((s.core? c).map (fun k => k.l1.filter (fun l => decide (l.line = line) && l.lock.isNone))).getD []
  (l.foldl (fun s l => (s.writeBack c by_ l false).1) s).modCore c (fun k =>
    { k with l1 := k.l1.filter (fun l => !(decide (l.line = line) && l.lock.isNone)) })

/-- A write of a core to a line is on its way: a write of its engine follows it. -/
def State.coreWrites (s : State) (c line : Nat) : Bool :=
  s.caldera.requests.any (fun e => decide (e.2.core = c ∧ e.2.line = line) && (match e.2.kind with | .write _ => true | _ => false))

/-- The line of a place is in Caldera (R255), and nothing older of the core's own is on its way to it where the engine writes: false where
the element has to wait for that. -/
def State.reachPlace (s : State) (c tenant slot : Nat) (writes : Bool) : Place → State × Bool
  | .memory pa hint =>
    let s1 := if writes then s.purgeL1 c slot (lineOf pa) else s
    if writes && s1.coreWrites c (lineOf pa) then (s1, false) else s1.bring tenant (lineOf pa) hint
  | _ => (s, true)

/-- An access of the engine at the primary copy of a line that is present: the hint acts (R256); it counts where R257 lets it. -/
def State.engineTouch (s : State) (c slot pa hint : Nat) (forwarded counts : Bool) : State :=
  match s.dir? (lineOf pa) with
  | some d =>
    let s1 := s.touchPrimary (lineOf pa) c slot hint forwarded d
    (if counts then s1.countAccess (lineOf pa) c else s1).applyHint (lineOf pa) hint
  | none => s

/-- Reads an element. -/
def State.readElement (s : State) (c : Nat) (b : Block) (e : EngineCommand) (n : Nat) : Place → State × Nat
  | .window o => (s, b.readNum o n)
  | .memory pa hint => ((s.engineTouch c e.slot pa hint false true).fetchHalf (lineOf pa) (pa / 32 % 4), Memory.readNum s.mem pa n)
  | .peer pa _ => (s, numOf ((List.range n).map (fun i => SMap.get 0 (pa + i) e.got)))

/-- Sends a request of the engine over the Nyrus Link (R357, R452). -/
def State.engineSend (s : State) (c : Nat) (e : EngineCommand) (op pa va : Nat) (bytes : SMap Byte) (aop aty : Nat)
    (lanes : List (Nat × Nat × Nat × Nat)) : State × Nat :=
  s.nyrusSend
    { id := 0, slot := e.slot, access := e.access, op := op, line := lineOf pa, va := va, bytes := bytes, aop := aop, aty := aty,
      lanes := lanes, engine := true } c

/-- What an element's write leaves to wait for: writes to host memory that are to be observed, requests to other modules. -/
structure Written where
  state : State
  acks  : NSet := []
  peers : NSet := []

/-- Writes an element. -/
def State.writeElement (s : State) (c tenant block : Nat) (e : EngineCommand) (n v : Nat) : Place → Written
  | .window o => { state := (s.storeWindow c block o (bytesOf v n)).settleWindow c block }
  | .memory pa hint =>
    let line := lineOf pa
    let (s1, ids) := (s.engineTouch c e.slot pa hint (s.trackedLine line) false).writeLine (some (c, e.slot)) tenant line (cellsOf pa n v)
    { state := s1, acks := ids }
  | .peer pa va =>
    let (s1, id) := s.engineSend c e 1 pa va (cellsOf pa n v) 0 0 []
    { state := s1, peers := [id] }

/-- Collapses that writes of a command's warp have caused are not complete. -/
def State.owing (s : State) (c slot : Nat) : Bool := ((s.warp? c slot).map (fun w => decide (w.collapses ≠ 0))).getD false

/-- Applies a reduction (R86 to R88): in the window, or at the line's anchor as RED does; a state alone while collapses of the warp's writes
are not complete (R262), while the line is not at its anchor, or has replicas. -/
def State.reduceElement (s : State) (c block : Nat) (e : EngineCommand) (op ty v : Nat) (b : Block) : Place → State × Option Written
  | .window o =>
    let n := atomBytes ty
    (s, some { state := (s.storeWindow c block o (bytesOf (atomStore op ty (b.readNum o n) v 0) n)).settleWindow c block })
  | .memory pa hint =>
    let line := lineOf pa
    match (if s.owing c e.slot then none else s.dir? line) with
    | some d =>
      if d.hold ≠ s.anchor line then (s.bringHome line, none)
      else if !d.rmask.isEmpty then ((if d.st = .collapsing then s else s.pushOnce (.collapse line)), none)
      else
        let s1 := (s.engineTouch c e.slot pa hint true false).extern line (fun _ => false)
        (s, some { state := (s1.performAtomic line op ty [(0, pa, v, 0)]).1 })
    | none => (s, none)
  | .peer pa va =>
    if s.owing c e.slot then (s, none)
    else
      let (s1, id) := s.engineSend c e 2 pa va [] op ty [(0, pa, v, 0)]
      (s, some { state := s1, peers := [id] })

/-! ## The steps -/

def State.modEngine (s : State) (c slot access : Nat) (f : EngineCommand → EngineCommand) : State :=
  s.modCore c (fun k => { k with engine := k.engine.map (fun e => if e.slot = slot ∧ e.access = access then f e else e) })

/-- The command that a quadrant's share of the engine works on (R355): the first that is not set aside, none of whose warp's
older commands is. -/
def Core.currentCommand (k : Core) (q : Nat) : Option EngineCommand :=
  let l := k.engineOf q
  l.find? (fun e => e.token.isNone && !(l.takeWhile (· != e)).any (fun p => p.slot == e.slot && p.token.isSome))

/-- A fatal fault ends a command (R359): the warp takes it at the covering WAITC, and no release is performed. DEDUCED, log entry 63. -/
def State.failCommand (s : State) (c : Nat) (e : EngineCommand) (cause : Nat) (writes : Bool) : State :=
  let d : Deferred :=
    { path := .xen, source := 2, cause := cause, addr := e.descVa, lid := e.lid, access := e.access,
      bits := accEngine + (if writes then accWrite else accRead) }
  ((s.modWarp c e.slot (fun w => { w with deferred := w.deferred ++ [d] })).modEngine c e.slot e.access (fun e =>
    { e with done := true, token := none, acks := [], stage := 0, peers := [], flags := e.flags % 2 })).pushOnce
      (.engineCommandDone c (quadOf e.slot))

/-- A replayable fault sets a command aside under a token (R359); where its record is dropped, the fault is fatal. -/
def State.setAside (s : State) (c tenant : Nat) (e : EngineCommand) (va : Nat) (writes : Bool) : State :=
  let token := (s.tenant tenant).nextToken
  let r : FaultInfo :=
    { type := recEngine, cause := causePageFault, access := accEngine + (if writes then accWrite else accRead), addr := va,
      info := e.descVa, core := s.lnumOf c, slot := e.slot, lid := e.lid, cyclo := s.cyc c, token := token }
  match s.post tenant r with
  | (s1, .dropped) => s1.failCommand c e causePageFault writes
  | (s1, _) =>
    let s2 := (s1.modTenant tenant (fun t => { t with nextToken := nextToken t.nextToken })).modEngine c e.slot e.access (fun e =>
      { e with token := some token, writing := writes })
    ({ s2 with launches := { s2.launches with parked := s2.launches.parked ++ [(tenant, token, c, e.slot)] } }).pushOnce
      (.engineCommand c (quadOf e.slot))

/-- An element waits: for a half that the host holds it asks; for bytes of another module it sends a request, once. -/
def State.elementStop (s : State) (c tenant : Nat) (e : EngineCommand) (writes : Bool) : ElementStop → State
  | .wait line half w => (s.askLine line w [half] tenant).retry (.engineCommand c (quadOf e.slot))
  | .remote pa va =>
    let asked := ((s.core? c).map (fun k => k.nyrus.any (fun r =>
      r.engine && decide (r.slot = e.slot ∧ r.access = e.access ∧ r.op = 0 ∧ r.line = lineOf pa)))).getD false
    if asked then s else (s.engineSend c e 0 pa va [] 0 0 []).1
  | .fault cause va absent =>
    if absent && (s.tenant tenant).fqOn then s.setAside c tenant e va writes else s.failCommand c e cause writes

/-- The last element has been carried out: with .rel, the release steps at dom(DST) begin (R358), for what the warp issued before the
command. -/
def State.endCommand (s : State) (c : Nat) (e : EngineCommand) : State :=
  let before := ((s.warp? c e.slot).map (fun w => w.released.filter (· < e.access))).getD []
  let rel := e.flags.testBit 1 && !descDsp e.num
  (s.modEngine c e.slot e.access (fun e =>
    { e with done := true, stage := if rel then stReturns else 0, returns := if rel then before else [] })).pushOnce
      (.engineCommandDone c (quadOf e.slot))

/-- The release of a command goes on (R283, R358): the warp's accesses return, what the release writes back and the command's own writes are
performed, the collapses of the warp's writes complete. True where nothing is left. -/
def State.engineRelease (s : State) (c : Nat) (e : EngineCommand) (w : Warp) : State × Bool :=
  if e.stage = stReturns then
    if e.returns.all w.hasReturned then
      let (s1, ids) := s.writeBackDomain c e.slot w.tenant (domainOf (s.tenant w.tenant) e.dst)
      (s1.modEngine c e.slot e.access (fun e => { e with stage := stAcks, acks := ids.foldl (fun m k => NSet.add k m) e.acks }), false)
    else (s, false)
  else if !e.peers.isEmpty || !s.settled e.acks then (s, false)
  else if e.stage = stAcks && decide (w.collapses ≠ 0) then
    ((s.count c e.slot 0x0B w.collapses).modEngine c e.slot e.access (fun e => { e with stage := stCollapses }), false)
  else (s, e.stage ≠ stCollapses || decide (w.collapses = 0))

/-- An element has been carried out. -/
def State.elementDone (c : Nat) (e : EngineCommand) (n : Nat) (w : Written) : State :=
  let rel := e.flags.testBit 1
  let e1 : EngineCommand :=
    { e with
      next := e.next + 1, got := [],
      acks := if rel then w.acks.foldl (fun m k => NSet.add k m) e.acks else [],
      peers := w.peers.foldl (fun m k => NSet.add k m) e.peers }
  let s1 := (w.state.modEngine c e.slot e.access (fun _ => e1)).count c e.slot 0x11 n
  if descCount e.num ≤ e1.next then s1.endCommand c e1 else s1.push (.engineCommand c (quadOf e.slot))

/-- The index that a gathering or scattering command reads for its element (R357); false where its line has to come first. -/
def State.elementIndex (s : State) (c tenant : Nat) (b : Block) (e : EngineCommand) :
    Except ElementStop (State × Bool × Option Int) :=
  if e.op = opGath ∨ e.op = opScat then
    let d := e.num
    let va := (descAux d + 4 * descIndex d e.next (descIdim d)) % 2 ^ 64
    match s.placeElement c tenant b e false .read true 4 4 va with
    | .error x => .error x
    | .ok p =>
      match s.reachPlace c tenant e.slot false p with
      | (s1, false) => .ok (s1, false, none)
      | (s1, true) =>
        let (s2, v) := s1.readElement c b e 4 p
        .ok (s2, true, some (BitVec.ofNat 32 v).toInt)
  else .ok (s, true, none)

/-- Carries out the next element of a command. -/
def State.element (s : State) (c tenant block : Nat) (b : Block) (e : EngineCommand) : State :=
  let d := e.num
  let n := descSize d
  let again (s : State) : State := s.retry (.engineCommand c (quadOf e.slot))
  match s.elementIndex c tenant b e with
  | .error x => s.elementStop c tenant e false x
  | .ok (s1, false, _) => again s1
  | .ok (s1, true, ix) =>
    let src := descAddr d e.next e.src dimSstr (if e.op = opGath then ix else none)
    let dst := descAddr d e.next e.dst dimDstr (if e.op = opScat then ix else none)
    let from_ : Except ElementStop (Option Place) :=
      if e.op = opFill then .ok none
      else (s1.placeElement c tenant b e (descSsp d) .read true n n src).map some
    match from_ with
    | .error x => s.elementStop c tenant e false x
    | .ok p0 =>
      match s1.placeElement c tenant b e (descDsp d) .write (decide (e.op = opRed)) n n dst with
      | .error x => s.elementStop c tenant e true x
      | .ok p1 =>
        -- both lines are there before anything is done
        match s.reachPlace c tenant e.slot false (p0.getD p1) with
        | (s2, false) => again s2
        | (s2, true) =>
          match s2.reachPlace c tenant e.slot true p1 with
          | (s3, false) => again s3
          | (s3, true) =>
            let s4 := match s3.elementIndex c tenant b e with | .ok (s4, _, _) => s4 | .error _ => s3
            let (s5, v) := match p0 with | none => (s4, descAux d % 2 ^ (8 * n)) | some p => s4.readElement c b e n p
            if e.op = opRed then
              match s5.reduceElement c block e (descRop d) (descRtype d) v b p1 with
              | (_, none) => again (s3.reduceElement c block e (descRop d) (descRtype d) v b p1).1
              | (_, some w) => State.elementDone c e n w
            else State.elementDone c e n (s5.writeElement c tenant block e n v p1)

/-- The quadrant whose turn it is next, among `q` and those with a command and a step on its way (R355): round-robin. -/
def Core.nextTurn (k : Core) (waiting : Nat → Bool) (q : Nat) : Nat :=
  (((List.range 4).map (fun i => (k.engineTurn.quad + 1 + i) % 4)).find? (fun p => decide (p = q) || (waiting p && (k.currentCommand p).isSome))).getD q

/-- What a quadrant's element of `n` bytes comes to: it is carried out in a turn, waits for the next cycle, or lets another quadrant go
first. A turn is 128 bytes, and one turn is served in a cycle. -/
inductive Turn where
  | go (t : EngineTurn) | cycle | after
deriving DecidableEq, Repr

def Core.turnOf (k : Core) (waiting : Nat → Bool) (q n : Nat) : Turn :=
  if k.engineTurn.cyc = some k.cyc then
    if k.engineTurn.quad = q ∧ n ≤ k.engineTurn.left then .go { k.engineTurn with left := k.engineTurn.left - n } else .cycle
  else if k.nextTurn waiting q = q then .go { quad := q, left := 128 - n, cyc := some k.cyc }
  else .after

/-- The next element of a command; before the first one, with .acq, the acquire steps at dom(SRC) (R358). -/
def State.serveElement (s : State) (c : Nat) (w : Warp) (e : EngineCommand) : State :=
  let s1 :=
    if e.next = 0 ∧ e.flags.testBit 0 ∧ e.op ≠ opFill ∧ !descSsp e.num then s.acquire c w.tenant (domainOf (s.tenant w.tenant) e.src)
    else s
  s1.element c w.tenant w.block ((s1.block? c w.block).getD noWindow) e

/-- ENGINE_COMMAND (R355, R357): the next element of the command that a quadrant's share of the engine works on, in its turn. An element
that waits passes the turn. DESIGN CHOICE, log entry 62. -/
def execEngineCommand (core quad : Nat) (s : State) : Result :=
  let me : Instr := .engineCommand core quad
  let s1 := s.taken me
  match s1.core? core, (s1.core? core).bind (fun k => k.currentCommand quad) with
  | some k, some e =>
    match s1.warp? core e.slot with
    | none => .next s1
    | some w =>
      if e.done then .next s1
      else match k.turnOf (fun p => s1.pending.contains (.engineCommand core p)) quad (descSize e.num) with
        | .cycle => .next (s1.retry me)
        | .after => .next (s1.push me)
        | .go t =>
          let s2 := (s1.modCore core (fun k => { k with engineTurn := t })).serveElement core w e
          let waits := ((s2.core? core).map (fun k => k.engine.contains e)).getD false
          .next (if waits then s2.modCore core (fun k => { k with engineTurn := { quad := quad, left := 0, cyc := k.engineTurn.cyc.bind (fun _ =>
            ((s1.core? core).bind (fun k => k.engineTurn.cyc))) } }) else s2)
  | _, _ => .next s1

/-- A request of the engine is answered: its command goes on. -/
def State.engineAnswer (s : State) (c : Nat) (r : NyrusRequest) (data : List Byte) : State :=
  let s1 := s.modEngine c r.slot r.access (fun e =>
    if r.op = 0 then { e with got := (data.mapIdx (fun i b => (128 * r.line + i, b))).foldl (fun m p => SMap.put p.1 p.2 m) e.got }
    else { e with peers := NSet.drop r.id e.peers })
  s1.pushOnce (if r.op = 0 then .engineCommand c (quadOf r.slot) else .engineCommandDone c (quadOf r.slot))

/-- ENGINE_COMMAND_DONE (R355, R358): the command's release is complete, and XEN falls. -/
def execEngineCommandDone (core quad : Nat) (s : State) : Result :=
  let s1 := s.taken (.engineCommandDone core quad)
  match ((s1.core? core).bind (fun k => k.currentCommand quad)) with
  | none => .next s1
  | some e =>
    if !e.done then .next s1
    else match s1.warp? core e.slot with
      | none => .next s1
      | some w =>
        match s1.engineRelease core e w with
        | (s2, false) => .next (s2.retry (.engineCommandDone core quad))
        | (s2, true) =>
          let s3 := s2.modCore core (fun k => { k with engine := k.engine.filter (· != e) })
          .next ((s3.answer core e.slot e.access 1 (fun a => a)).pushOnce (.engineCommand core quad))

end Sys2Proof.Machine
end

