-- ==== Sys2Proof/Machine/Holding.lean ====
section
/-! DEFINITION. What keeps a ready group from issuing its instruction (R50, R110, R121, R188, R231), which two instructions issue in one cycle (R27), and WAITC (R297, R377), which sees the other instruction of its cycle counted. -/

namespace Sys2Proof.Machine

/-! ## The instruction that a group stands at -/

/-- The instruction at a program counter, where it can be fetched and decoded. -/
def State.peek (s : State) (c : Nat) (w : Warp) (mask : BitVec 8) : Option Instr :=
  let pc := w.pcOf mask
  match s.fetchWords c w.tenant pc w.special.priv 0 1 with
  | .words l0 =>
    match s.fetchWords c w.tenant pc w.special.priv 0 (lengthOf (l0.headD 0) / 4) with
    | .words l => decodeWords (l.getD 0 0) (l.getD 1 0) (l.getD 2 0)
    | _ => none
  | _ => none

/-- The instruction as its group would issue it. -/
def State.peekCtx (s : State) (c slot : Nat) (w : Warp) (mask : BitVec 8) : Option Ctx :=
  (s.peek c w mask).map (fun i => s.seenBy i { core := c, slot := slot, mask := mask } w)

/-- The path counters that an instruction raises at issue (R111, R282). -/
def Ctx.pathsUsed (x : Ctx) (s : State) : List Path :=
  match x.i with
  | .ld _ | .atom _ | .pref _ => x.pathsOf s .ldg
  | .st _ | .red _ => x.pathsOf s .stg
  | .sld _ => (lateSld x s).paths
  | .lds _ | .sts _ | .ldf _ | .stf _ | .feset _ | .atoms _ => (lateSpad x s).paths
  | .bara _ | .baraw _ => (lateBarrier x s).paths
  | .mma _ | .mmas _ | .mmav _ => (lateMatrix x s).paths
  | .mldt _ => (lateTile .mmx x s).paths
  | .mstt _ => (lateMstt x s).paths
  | .fcinc _ => (lateFence [.stg] x s).paths
  | .launch _ => (lateLaunch x s).paths
  | .qpush _ => (lateHeader true .stg x s).paths
  | .qpop _ => (lateHeader true .ldg x s).paths
  | .qclose _ => (lateHeader false .stg x s).paths
  | .xcopy _ | .xgath _ | .xscat _ | .xred _ | .xfill _ => (lateEngine x s).paths
  | _ => []

/-- Every other member of the warp's gang waits at its ganged instruction (R239). -/
def Ctx.gangIsHere (x : Ctx) (s : State) : Bool :=
  (gangSlots x.w.gang.toNat (quadOf x.slot)).all (fun m =>
    decide (m = x.slot) || (((s.warp? x.core m).bind (·.latch)).map (·.multiplies)).getD false)

/-- The unit that an instruction needs and finds full: the SFU queue, the divider (R188), the places of a sub-array (R231). -/
def Ctx.unitFull (x : Ctx) (s : State) : Option Hold :=
  let q := ((s.core? x.core).map (fun k => k.quad (quadOf x.slot))).getD {}
  match x.i with
  | .rcp _ | .rsq _ | .sqrt _ | .exp2 _ | .log2 _ | .sinpi _ | .cospi _ | .tanh _ =>
    if !x.places.isEmpty && decide (sfuEntries ≤ q.sfu.length) then some .sfuFull else none
  | .fdiv _ | .fsqrt _ | .idiv _ | .irem _ =>
    if !x.places.isEmpty && decide (dividerEntries ≤ q.divider.length) then some .dividerFull else none
  | .mma _ | .mmas _ | .mmav _ =>
    if !x.lanes.isEmpty && (!x.ganged || x.gangIsHere s) && q.full x.shape x.subArray x.cyc then some (.places x.shape x.subArray) else none
  | .wfuse _ => if x.vectorBusy s then some (.interlock 1) else none
  | _ => none

/-- What keeps the instruction of a group from issuing: an interlock or a path counter at 63 (R110, R121), or a full unit. A group kept
so is not ready under R50, and no selection is spent on it. -/
def State.blockedBy (s : State) (c slot : Nat) (w : Warp) (mask : BitVec 8) : Option Hold :=
  (s.peekCtx c slot w mask).bind (fun x => (x.waits s { paths := x.pathsUsed s }).orElse (fun _ => x.unitFull s))

/-! ## Dual issue (R27) -/

/-- The instruction executes on the scalar path: its destination is a scalar register (R102), or its own rule says so (LEASE, R144;
MODESET, whose pseudocode reads and writes there, R147). An instruction without a destination whose rule does not speak of the
scalar path, such as FMTSET, counts as not. DESIGN CHOICE, log entry 26. -/
def onScalarPath (i : Instr) : Bool :=
  i.sig.scalarDst i.fields ||
    (match i with
      | .lease _ | .modeset _ => true
      | _ => false)

/-- Two instructions may issue in one cycle (R27). -/
def mayPair (i j : Instr) : Bool :=
  !i.neverPairs && !j.neverPairs && !(i.classQ && j.classQ) && !(i.classM && j.classM) && !(onScalarPath i && onScalarPath j)

/-! ## WAITC (R297, R377, R424) -/

def stWaitc : Nat := 7

/-- What the other instruction of a dual issue, which has not run yet, adds to a path counter of the warp in this cycle (R377). -/
def State.mateRaises (s : State) (x : Ctx) (p : Path) : Nat :=
  match s.sel with
  | g :: _ =>
    if g.core = x.core ∧ g.slot = x.slot ∧ ((x.w.group? g.mask).map (·.prog.stage)).getD 1 = 0 then
      match s.peekCtx x.core x.slot x.w g.mask with
      | some y => if (y.pathsUsed s).contains p then 1 else 0
      | none => 0
    else 0
  | [] => 0

/-- The counter is at or below the threshold: a deferred fault of the path that it covers is delivered, oldest first; else
the writes it covers are covered, and the group goes on. -/
def waitcDone (x : Ctx) (p : Path) (s : State) : State :=
  match x.w.deferred.find? (fun d => d.path == p && (x.w.access? d.access).isNone) with
  | some d => s.deliver x d
  | none =>
    (s.complete x).modWarp x.core x.slot (fun w =>
      { w with uncovered := w.uncovered.filter (fun u => !(u.path == p && u.returned)) })

def waitcEff (x : Ctx) (s : State) : State :=
  let p := pathOfNum x.f.dst.toNat
  if x.lanes.isEmpty then s.complete x
  else
    let t := if x.prog.stage = 0 then x.a 1 scalarLane else x.prog.note
    if x.w.paths.get p + s.mateRaises x p ≤ t then waitcDone x p s
    else s.holdAt x (.counter p t) { stage := stWaitc, note := t }

def execWaitc (f : SF) (s : State) : Result := issue (.waitc f) noLate waitcEff s

end Sys2Proof.Machine
end

