-- ==== Sys2Proof/Machine/System.lean ====
section
/-! DEFINITION. System instructions (R436 to R440): TRAP, BKPT, ERET, HALT, NOP, and the special registers (R123 to R130). -/

namespace Sys2Proof.Machine

/-! ## NOP, TRAP, BKPT, HALT, ERET -/

/-- No effect beyond the stall (R440). -/
def nopEff (x : Ctx) (s : State) : State := s.complete x

def execNop (f : LX) (s : State) : Result := issue (.nop f) noLate nopEff s
def execNopS (f : SF) (s : State) : Result := issue (.nopS f) noLate nopEff s

/-- TRAP and BKPT (R437): the entry is at `epc`. -/
def trapEff (cause : Nat) (after : Bool) (x : Ctx) (s : State) : State :=
  if x.lanes.isEmpty then s.complete x
  else (s.countIssue x).raise x.core x.slot x.mask { cause := cause, epc := if after then x.next else x.pc, eval := x.f.mb 11 0 }

def execTrap (f : LX) (s : State) : Result := issue (.trap f) noLate (trapEff causeTrap true) s
def execBkpt (f : LX) (s : State) : Result := issue (.bkpt f) noLate (trapEff causeBreakpoint false) s

/-- A special register as the instruction sees it: either value before a WRSR is visible (R439). -/
def Ctx.special (x : Ctx) (n value : Nat) : Nat := x.w.early x.cyc x.draw (512 + n) scalarLane value

/-- HALT (R440): the warp ends under R422, an active region being aborted first. DESIGN CHOICE, log entry 31. -/
def haltEff (x : Ctx) (s : State) : State :=
  if x.lanes.isEmpty then s.complete x
  else
    let code := x.special 0x12 x.w.special.ecause.toNat % 256
    let s0 := s.countIssue x
    let s1 := if x.w.region.active then s0.abortNow x.core x.slot abFault code else s0
    s1.endWarp x.core x.slot (some x.mask) code x.pc (bitsOf (x.special 0x11 x.w.special.estat.toNat) 15 11) 0 0

def execHalt (f : LX) (s : State) : Result := issue (.halt f) noLate haltEff s

/-- ERET raises Not Converged in a group other than the trapping one (R438). -/
def lateEret (x : Ctx) (_ : State) : Late :=
  { notConverged := decide (x.mask.toNat ≠ bitsOf (x.special 0x11 x.w.special.estat.toNat) 23 16) }

def eretEff (x : Ctx) (s : State) : State :=
  let pc := bitsOf (x.special 0x10 x.w.special.epc.toNat) 47 2 * 4
  (s.completeAt x pc).modCtx x (fun w => w.returnFromTrap x.mask pc)

def execEret (f : LX) (s : State) : Result := issue (.eret f) lateEret eretEff s

/-! ## The special registers -/

/-- CTL (R125). -/
def Special.ctl (p : Special) : Nat := (if p.schk then 1 else 0) + (if p.priv then 2 else 0)

/-- ARS (R307): STATE, CLASS, DEPTH, PART, REASON, DETAIL and EPOCH. -/
def Region.ars (r : Region) : Nat :=
  r.st % 8 * 2 ^ 29 + (if r.rigid then 2 ^ 28 else 0) + r.depth % 8 * 2 ^ 25 + min (r.partners.length + r.part) 16 * 2 ^ 20 +
    r.reason % 16 * 2 ^ 16 + r.detail % 256 * 2 ^ 8 + r.epoch % 128

/-- FFLAGS with every flag that has become visible (R76). DEDUCED, log entry 17. -/
def Warp.fflagsAt (w : Warp) (cyc : Nat) : Nat := (w.settleFlags cyc).special.fflags.toNat

/-- The value of a special register other than LID (R123). -/
def Ctx.readSpecial (x : Ctx) (s : State) (n : Nat) : Nat :=
  let p := x.w.special
  match n with
  | 0x01 => x.slot
  | 0x02 => x.slot / 16
  | 0x03 => ((s.core? x.core).map (·.lnum)).getD 0
  | 0x04 => s.modul.mgen.toNat
  | 0x05 => x.w.tenant
  | 0x06 => x.cyc % 2 ^ 64
  | 0x07 => x.special 0x07 p.ctl
  | 0x08 => x.w.fflagsAt x.cyc
  | 0x09 => x.mode
  | 0x0A => x.fmt
  | 0x0B => x.w.gang.toNat
  | 0x0C => x.w.lease.word
  | 0x0D => x.w.region.ars
  | 0x10 => x.special 0x10 p.epc.toNat
  | 0x11 => x.special 0x11 p.estat.toNat
  | 0x12 => x.special 0x12 p.ecause.toNat
  | 0x13 => x.special 0x13 p.eval.toNat
  | 0x14 => x.special 0x14 p.evec.toNat
  | n => (x.w.coords.getD (n - 0x18) 0).toNat

def rdsrEff (x : Ctx) (s : State) : State :=
  let n := x.f.mb 7 0
  let o : Out :=
    if n = 0 then Out.ofList (x.lanes.map (fun l => x.out l 1 (x.lid l)))
    else if x.lanes.isEmpty then {} else x.out scalarLane (specialRegs n) (x.readSpecial s n)
  (s.complete x).modCtx x (fun w => w.deliver x.cyc x.draw 2 o)

def execRdsr (f : LX) (s : State) : Result := issue (.rdsr f) noLate rdsrEff s

/-- Writes a special register; fields marked R keep their values (R124, R418, R419). -/
def Warp.setSpecial (w : Warp) (n v : Nat) : Warp :=
  let p := w.special
  match n with
  | 0x07 => { w with special := { p with schk := v.testBit 0 } }
  | 0x08 => { w with special := { p with fflags := BitVec.ofNat 5 v } }
  | 0x09 => { w with mode := BitVec.ofNat 32 v }
  | 0x10 => { w with special := { p with epc := BitVec.ofNat 64 v } }
  | 0x11 => { w with special := { p with estat := BitVec.ofNat 32 v &&& 0x00FFFC00 } }
  | 0x12 => { w with special := { p with ecause := BitVec.ofNat 32 v &&& 0xF000FFFF } }
  | 0x13 => { w with special := { p with eval := BitVec.ofNat 64 v } }
  | 0x14 => { w with special := { p with evec := BitVec.ofNat 64 v } }
  | _ => w

/-- Every floating-point instruction that the warp has issued has applied its flags (R124). -/
def Ctx.flagsApplied (x : Ctx) (s : State) : Bool :=
  let q := ((s.core? x.core).map (fun k => k.quad (quadOf x.slot))).getD {}
  x.w.flagsDue.all (fun f => decide (f.1 ≤ x.cyc)) && (q.sfu ++ q.divider).all (fun r => decide (r.slot ≠ x.slot))

def wrsrEff (x : Ctx) (s : State) : State :=
  let n := x.f.mb 7 0
  if x.lanes.isEmpty then s.complete x
  else if n = 0x08 ∧ !x.flagsApplied s then s.holdAt x .flags x.prog
  else
    let v := x.a (specialRegs n) scalarLane
    let old := x.readSpecial s n
    -- an RDSR of FFLAGS that issues after the WRSR sees the written value (R124)
    (s.complete x).modCtx x (fun w =>
      if n = 0x08 then (w.settleFlags x.cyc).setSpecial n v
      else (w.settleFlags x.cyc).writeSpecial n x.cyc old (fun w => w.setSpecial n v))

def execWrsr (f : LX) (s : State) : Result := issue (.wrsr f) noLate wrsrEff s

/-- TRAP_ENTRY (R417): the older writes are done, and the warp enters its handler. -/
def execTrapEntry (core slot : Nat) (s : State) : Result :=
  let s1 := s.taken (.trapEntry core slot)
  match (s1.warp? core slot).bind (fun w => w.trap) with
  | none => .next s1
  | some t => if s1.trapDue core slot then .next (s1.enterTrap core slot t) else .next s1

end Sys2Proof.Machine
end

