-- ==== Sys2Proof/Machine/Image.lean ====
section
/-! DEFINITION. The warp image (R430) and the instructions that save and load it (R441, R442). -/

namespace Sys2Proof.Machine

/-! ## Writing an image -/

/-- Fills a part of an image up to `n` words. -/
def padWords (n : Nat) (l : List Word) : List Word := l.take n ++ List.replicate (n - l.length) 0

/-- A 64-bit item as two words, the low one first. -/
def twoWords (x : Nat) : List Word := [BitVec.ofNat 32 x, BitVec.ofNat 32 (x / 2 ^ 32)]

/-- The lane word of R430: nesting counter, p1 to p7, exited, LID, DONE. -/
def laneWord (nest p : Nat) (exited : Bool) (lid : Nat) (done : Bool) : Word :=
  BitVec.ofNat 32 (nest % 256 + bitsOf p 7 1 * 2 ^ 8 + (if exited then 2 ^ 15 else 0) + lid % 32 * 2 ^ 16 + (if done then 2 ^ 21 else 0))

def Lane.word (l : Lane) : Word := laneWord l.nest.toNat l.p.toNat l.exited l.lid.toNat l.done
def LaneWord.word (l : LaneWord) : Word := laneWord l.nest.toNat l.p.toNat l.exited 0 false

/-- The group of a slice: its place in the rotation, or 0xFF for a retired slice. -/
def Warp.groupOf (w : Warp) (k : Nat) : Nat := (findPlace (fun (g : Group) => inMask g.mask k) w.groups).getD 0xFF

/-- Words of R430 from 0x6200 on. -/
def Warp.registerWords (w : Warp) (cyc : Nat) : List Word :=
  let p := w.special
  [w.mode, 0, BitVec.ofNat 32 w.lease.word, BitVec.ofNat 32 w.region.ars] ++ twoWords w.region.alo.toNat ++ twoWords w.region.ahi.toNat ++
    [BitVec.ofNat 32 (w.fflagsAt cyc), BitVec.ofNat 32 p.ctl] ++ twoWords p.epc.toNat ++ [p.estat, p.ecause] ++
    twoWords p.eval.toNat ++ twoWords p.evec.toNat

/-- Words from 0x6300 on: the flashback latch. -/
def FlashLatch.words (f : FlashLatch) : List Word :=
  [if f.valid then 1 else 0, BitVec.ofNat 32 f.nv, BitVec.ofNat 32 f.ns, BitVec.ofNat 32 f.label] ++ twoWords f.pc.toNat ++
    [f.mode, f.fmt.setWidth 32] ++ (List.range 32).map (fun i => (f.lanes.getD i {}).word)

/-- Words from 0x6400 on: nine counts of 2 bytes, then the commit count. -/
def Region.countWords (r : Region) : List Word :=
  let n := ((List.range 9).map (fun i => SMap.get 0 (i + 1) r.aborts % 65536 * 2 ^ (16 * i))).sum + r.commits % 2 ^ 32 * 2 ^ 144
  (List.range 6).map (fun i => BitVec.ofNat 32 (n / 2 ^ (32 * i)))

/-- Words from 0x6500 on: the region latch. -/
def Region.latchWords (r : Region) : List Word :=
  twoWords r.target.toNat ++ [if r.latchRigid then 1 else 0, r.latchFmt.setWidth 32] ++
    (List.range 32).map (fun i => (r.latch.getD i {}).word)

/-- Bytes of a list of numbers as words. -/
def byteWords (l : List Nat) : List Word := (List.range (l.length / 4)).map (fun i => BitVec.ofNat 32 (numOf ((l.drop (4 * i)).take 4 |>.map (BitVec.ofNat 8))))

/-- The image of a warp; `nv` and `ns` bound the registers that it holds, `kind` is 0 for a full save. DESIGN CHOICE, log entry 66. -/
def Warp.image (w : Warp) (cyc kind nv ns : Nat) : List Word :=
  padWords 6144 ((List.range 192).flatMap (fun i => (List.range 32).map (fun l =>
    if i < min nv w.alloc then SMap.get 0 i (w.lane l).v else 0))) ++
  padWords 64 ((List.range 60).map (fun i => if i < ns then SMap.get 0 i w.s else 0)) ++
  (List.range 32).map (fun l => (w.lane l).word) ++
  (List.range 8).flatMap (fun k => twoWords (w.slice k).pc.toNat) ++
  padWords 16 ((List.range 8).map (fun k => ((w.slice k).fmt.setWidth 32 : Word))) ++
  padWords 64 (w.registerWords cyc) ++ padWords 64 w.flash.words ++ padWords 64 w.region.countWords ++
  padWords 1664 w.region.latchWords ++
  padWords 64 ([1, BitVec.ofNat 32 w.alloc] ++ byteWords ((List.range 8).map w.groupOf) ++
    byteWords ((List.range 8).map (fun i => if i < w.groups.length then i else 0xFF)) ++ [BitVec.ofNat 32 kind])

/-- Bytes of an image. -/
def imageBytes (l : List Word) : List Byte := l.flatMap (fun w => bytesOf w.toNat 4)

/-! ## Reading an image -/

/-- An image as read: its words. -/
abbrev Image := List Word

def Image.word (m : Image) (offset : Nat) : Word := m.getD (offset / 4) 0
def Image.pair (m : Image) (offset : Nat) : Nat := (m.word offset).toNat + 2 ^ 32 * (m.word (offset + 4)).toNat
def Image.byte (m : Image) (offset : Nat) : Nat := (m.word offset).toNat / 2 ^ (8 * (offset % 4)) % 256

/-- The words of 32 KiB of bytes. -/
def wordsOfBytes : List Byte → List Word
  | a :: b :: c :: d :: t => BitVec.ofNat 32 (numOf [a, b, c, d]) :: wordsOfBytes t
  | _ => []

/-- Which bits of a lane word each field takes. -/
def readLaneWord (w : Word) : LaneWord :=
  { p := BitVec.ofNat 8 (bitsOf w.toNat 14 8 * 2 + 1), nest := BitVec.ofNat 8 w.toNat, exited := w.getLsbD 15 }

/-- The registers that a save of the image's kind holds (R430). -/
def Image.kind (m : Image) : Nat := (m.word 0x7F18).toNat
def Image.vectors (m : Image) : Nat :=
  if m.kind = 1 then min (m.word 0x6304).toNat (m.word 0x7F04).toNat else (m.word 0x7F04).toNat
def Image.scalars (m : Image) : Nat := if m.kind = 1 then min (m.word 0x6308).toNat 60 else 60

/-- The bytes of every word that R430 gives contents: the others are written 0. -/
def imageMask (nv ns : Nat) : List Word :=
  let all : Word := 0xFFFFFFFF
  let lanes : List Word := List.replicate 32 0x00FFFFFF
  padWords 6144 (List.replicate (32 * min nv 192) all) ++ padWords 64 (List.replicate (min ns 60) all) ++ lanes ++
  List.replicate 16 all ++ padWords 16 (List.replicate 8 0xFFFF) ++
  padWords 64 (List.replicate 8 all ++ [0xFF, 0xFF] ++ [all, all, 0x00FFFF00, 0xFF00FFFF] ++ List.replicate 4 all) ++
  padWords 64 ([0xFF] ++ List.replicate 6 all ++ [0xFFFF] ++ lanes) ++
  padWords 64 (List.replicate 5 all ++ [0xFFFF]) ++
  padWords 1664 ([all, all, 0xFF, 0xFFFF] ++ lanes) ++ padWords 64 (List.replicate 7 all)

/-- R442 refuses an image: VERSION, ALLOC, GANG, or a byte that a save writes as 0. -/
def Image.refused (m : Image) (alloc : Nat) : Bool :=
  decide ((m.word 0x7F00).toNat ≠ 1 ∨ alloc < (m.word 0x7F04).toNat ∨ m.word 0x6204 ≠ 0) ||
    (m.zip (imageMask m.vectors m.scalars)).any (fun e => decide (e.1 &&& ~~~e.2 ≠ 0))

/-- The slice groups of an image, in rotation order. -/
def Image.groups (m : Image) (readyAt : Nat) (priv : Bool) (trapMask : BitVec 8) : List Group :=
  let nums := (List.range 8).map (fun i => m.byte (0x7F10 + i))
  (nums.filter (· ≠ 0xFF)).filterMap (fun n =>
    let mask : BitVec 8 := BitVec.ofNat 8 (maskOf ((List.range 8).filter (fun k => decide (m.byte (0x7F08 + k) = n))))
    if mask = 0 then none else some { mask := mask, readyAt := readyAt, held := priv && mask != trapMask })

/-- The region registers, latch and counts of an image. -/
def Image.region (m : Image) : Region :=
  let a := (m.word 0x620C).toNat
  let n := ((List.range 6).map (fun i => (m.word (0x6400 + 4 * i)).toNat * 2 ^ (32 * i))).sum
  { alo := BitVec.ofNat 64 (m.pair 0x6210), ahi := BitVec.ofNat 64 (m.pair 0x6218), st := bitsOf a 31 29, rigid := a.testBit 28,
    depth := bitsOf a 27 25, part := bitsOf a 24 20, reason := bitsOf a 19 16, detail := bitsOf a 15 8, epoch := bitsOf a 6 0,
    aborts := (List.range 9).foldl (fun t i => SMap.set 0 (i + 1) (bitsOf n (16 * i + 15) (16 * i)) t) [],
    commits := bitsOf n 175 144, target := BitVec.ofNat 48 (m.pair 0x6500), latchRigid := (m.word 0x6508).getLsbD 0,
    latchFmt := BitVec.ofNat 12 (m.word 0x650C).toNat,
    latch := (List.range 32).map (fun i => readLaneWord (m.word (0x6510 + 4 * i))) }

/-- The flashback latch of an image. -/
def Image.flash (m : Image) : FlashLatch :=
  { valid := (m.word 0x6300).getLsbD 0, nv := (m.word 0x6304).toNat, ns := (m.word 0x6308).toNat, label := (m.word 0x630C).toNat % 4096,
    pc := BitVec.ofNat 48 (m.pair 0x6310 / 4 * 4), mode := m.word 0x6318, fmt := BitVec.ofNat 12 (m.word 0x631C).toNat,
    lanes := (List.range 32).map (fun i => readLaneWord (m.word (0x6320 + 4 * i))) }

/-- Replaces what an image holds of a warp. A DECL above 128 counts as 128, MEAS is taken as it stands. DESIGN CHOICE, log entry 66. -/
def Warp.load (w : Warp) (m : Image) (cyc : Nat) : Warp :=
  let lease := (m.word 0x6208).toNat
  let ctl := (m.word 0x6224).toNat
  let estat : Word := m.word 0x6230 &&& 0x00FFFC00
  let priv := ctl.testBit 1
  { w with
    lanes := (List.range 32).map (fun l =>
      let x := m.word (0x6100 + 4 * l)
      let k := readLaneWord x
      { v := (List.range 192).foldl (fun t i => SMap.set 0 i (m.word (128 * i + 4 * l)) t) [],
        p := k.p, nest := k.nest, exited := k.exited, lid := BitVec.ofNat 5 (bitsOf x.toNat 20 16), done := x.getLsbD 21 }),
    slices := (List.range 8).map (fun k =>
      { pc := BitVec.ofNat 48 (m.pair (0x6180 + 8 * k) / 4 * 4), fmt := BitVec.ofNat 12 (m.word (0x61C0 + 4 * k)).toNat }),
    groups := m.groups (cyc + 1) priv (BitVec.ofNat 8 (bitsOf estat.toNat 23 16)),
    s := (List.range 60).foldl (fun t i => SMap.set 0 i (m.word (0x6000 + 4 * i)) t) [],
    mode := m.word 0x6200, gang := 0,
    lease := { w.lease with decl := min (bitsOf lease 19 12) 128, meas := bitsOf lease 11 0, fixed := lease.testBit 28 },
    region := m.region, flash := m.flash,
    special :=
      { priv := priv, schk := ctl.testBit 0, fflags := BitVec.ofNat 5 (m.word 0x6220).toNat,
        epc := BitVec.ofNat 64 (m.pair 0x6228), estat := estat, ecause := m.word 0x6234 &&& 0xF000FFFF,
        eval := BitVec.ofNat 64 (m.pair 0x6238), evec := BitVec.ofNat 64 (m.pair 0x6240) },
    paths := {}, accesses := [], uncovered := [], undelivered := [], flagsDue := [], latch := none, trap := none }

/-! ## CTXSV and CTXLD -/

/-- Takes a warp out of its latch: the group there will issue its instruction again (R441, R243). -/
def Warp.unlatch (w : Warp) : Warp :=
  match w.latch with
  | none => w
  | some l => { w with latch := none }.modGroup l.mask (fun g => { g with hold := .none, prog := {} })

/-- Withdraws a warp from its latch and its gang: those that wait for it in GANGSET complete without it (R236), its gang dissolves
(R237), and its WFUSE partner goes on waiting (R207). -/
def State.withdraw (s : State) (c slot : Nat) : State :=
  ((s.modWarp c slot (·.unlatch)).gangGone c slot none).dissolve c slot

/-- The stages of CTXSV and CTXLD: waiting for the counters and the older results; for an image in another module's memory, waiting
for the requests that carry it to leave, or for the words that they bring. -/
def stDrain : Nat := 20
def stImage : Nat := 24

/-- What is wrong with an image address (R443): a fault of the lowest-LID executing lane, or the physical address. -/
def Ctx.imageAt (x : Ctx) (s : State) (perm : Perm) : Except LaneTrouble Nat :=
  let va := x.a 2 scalarLane
  if va % 32768 ≠ 0 then .error .misaligned
  else match s.translate x.core x.w.tenant va perm x.w.special.priv with
    | .absent => .error (.page true)
    | .fatal => .error (.page false)
    | .stops line => .error (.walk line)
    | .ok pa _ => if perm == .read && s.poisoned pa 32768 then .error .poison else .ok pa

/-- Earlier stores of a core to bytes that it is about to write at their primary copies: they come before in the coherence order, so
nothing of them is written later. DEDUCED, log entry 46. -/
def State.supersede (s : State) (c pa n : Nat) : State :=
  let inSpan (e : Nat × Byte) : Bool := decide (pa ≤ e.1 ∧ e.1 < pa + n)
  let written (line : Nat) : LineMask :=
    let a := max pa (128 * line)
    byteMask a (min (pa + n) (128 * line + 128) - a)
  ({ s with caldera := { s.caldera with
      requests := s.caldera.requests.map (fun e =>
        match e.2.kind with
        | .write _ => if e.2.core = c then (e.1, { e.2 with bytes := e.2.bytes.filter (fun b => !inSpan b) }) else e
        | _ => e) } } : State).modL1 c (fun l => (linesFrom pa n).contains l.line && l.lock.isNone)
    (fun l => { l with dirty := l.dirty &&& ~~~(written l.line) })

/-- Writes bytes at primary copies for a core, and for a warp where the slot names one: its L1 keeps no copy of the lines. -/
def State.writeImage (s : State) (c slot tenant pa : Nat) (bytes : List Byte) : State :=
  if !cached pa then s
  else
    let s1 := (linesFrom pa bytes.length).foldl (fun s line => s.purgeL1 c slot line) (s.supersede c pa bytes.length)
    (s1.writeDirect (some (c, slot)) tenant (bytes.mapIdx (fun i b => (pa + i, b)))).1

/-- An image goes to another module's memory line by line over the Nyrus Link (R362): one access, on PEER. -/
def State.imageRequests (s : State) (x : Ctx) (pa : Nat) (bytes : List Byte) : State × Nat :=
  let id := ((s.warp? x.core x.slot).map (·.nextAccess)).getD 1
  let (s1, needs) := (List.range 256).foldl (fun (r : State × NSet) k =>
    let (s2, n) := r.1.nyrusSend
      { id := 0, slot := x.slot, access := id, op := 1, line := lineOf pa + k, va := x.a 2 scalarLane + 128 * k,
        bytes := ((bytes.drop (128 * k)).take 128).mapIdx (fun i b => (pa + 128 * k + i, b)) } x.core
    (s2, NSet.add (needNyrus n) r.2)) (s, [])
  (s1.modCtx x (·.addAccess
    { id := id, path := .peer, parts := [(scalarLane, pa, 32768)], needs := needs, firstLid := x.firstLid, mask := x.mask,
      pages := [x.a 2 scalarLane / 2 ^ 17] }), id)

/-- The address within this module's own memory, where a peer address names that. -/
def State.homeOf (s : State) (pa : Nat) : Nat := if physKind pa == .peer then (s.ownPeer pa).getD pa else pa

/-- Reads 32 KiB as a LD of the core's tenant would. -/
def State.readImage (s : State) (c tenant pa : Nat) : Image := wordsOfBytes (s.seenBytes c tenant pa 32768)

/-- The first steps of CTXSV and CTXLD: the address, an active region, the latch and the gang, then the wait. -/
def contextEff (perm : Perm) (access : Nat) (act : Ctx → Nat → State → State) (x : Ctx) (s : State) : State :=
  let va := x.a 2 scalarLane
  let low := x.lanes.headD 0
  if x.prog.releasing then (releaseOn x false s).cont x (fun s => s.complete x)
  else if x.prog.stage = stImage then (release x false {} [domDevice] s).cont x (fun s => s.complete x)
  else if x.prog.stage = stDrain then
    let s1 := s.modCtx x (fun w => { w with drain := false })
    match x.imageAt s perm with
    | .error e => s1.trouble x low va access e
    | .ok at_ =>
      let pa := s.homeOf at_
      match (if cached pa then s.spanStops pa 32768 (perm == .write) x.w.tenant else none) with
      | some line => s.stopAt x line (perm == .write) { stage := stDrain }
      | none => act x pa s1
  else if x.lanes.isEmpty then s.complete x
  else match x.imageAt s perm with
    | .error e => s.trouble x low va access e
    | .ok _ =>
      if x.w.region.active then s.abortNow x.core x.slot abPreempt 0
      else
        let s1 := (s.keepPages x [va]).withdraw x.core x.slot
        (s1.modCtx x (fun w => { w with drain := true })).holdAt x .drain { stage := stDrain }

/-- Steps 4 and 5 of CTXSV: the image, with the issuing group at the next instruction, then the release at DEVICE. -/
def ctxsvAct (x : Ctx) (pa : Nat) (s : State) : State :=
  let w := (s.warp? x.core x.slot).getD x.w
  let bytes := imageBytes ((w.setPc x.mask x.next).image x.cyc 0 w.alloc 60)
  if physKind pa == .peer then
    let (s1, id) := s.imageRequests x pa bytes
    s1.holdAt x .leave { stage := stImage, acks := [id] }
  else (release x false {} [domDevice] (s.writeImage x.core x.slot x.w.tenant pa bytes)).cont x (fun s => s.complete x)

def execCtxsv (f : LX) (s : State) : Result := issue (.ctxsv f) noLate (contextEff .write accWrite ctxsvAct) s

/-- The checks of CTXLD on an image, and the warp as the image has it. -/
def ctxldTake (x : Ctx) (m : Image) (s : State) : State :=
  if m.refused x.w.alloc then s.uniform x causeHandle (x.a 2 scalarLane)
  else
    let s2 := s.complete x
    ((s2.modCtx x (fun w => w.load m x.cyc)).registersWritten x.core x.slot 0 192).checkEnd x.core x.slot

/-- CTXLD: the acquire at DEVICE, then the image. -/
def ctxldAct (x : Ctx) (pa : Nat) (s : State) : State :=
  let s1 := s.acquire x.core x.w.tenant domDevice
  if physKind pa == .peer then (s1.fetchRemote x [{ va := x.a 2 scalarLane, pa := pa, n := 32768 }]).holdAt x .event { stage := stImage }
  else ctxldTake x (s1.readImage x.core x.w.tenant pa) s1

/-- CTXLD goes on with the words that another module has sent. -/
def ctxldEff (x : Ctx) (s : State) : State :=
  if x.prog.stage = stImage then ctxldTake x (x.prog.vals.map (BitVec.ofNat 32)) s else contextEff .read accRead ctxldAct x s

def execCtxld (f : LX) (s : State) : Result := issue (.ctxld f) noLate ctxldEff s

end Sys2Proof.Machine
end

