-- ==== Sys2Proof/Machine/Sorrel.lean ====
section
/-! DEFINITION. The Sorrel admission unit (R41 to R49, R383): leases, the budget, the head, and the steps of an admission cycle. An admission cycle runs between two issue cycles, and stands for the one that opens the later of them. -/

namespace Sys2Proof.Machine

/-- The effective lease in lines (R41). -/
def Lease.effective (l : Lease) : Nat :=
  if l.decl = 0 then l.meas else if l.fixed then 16 * l.decl else max (16 * l.decl) l.meas

/-- The budget of a quadrant in lines (R42). -/
def Quad.budget (q : Quad) (fill : Nat) : Nat := q.wayCount * Config.l1Sets * fill / 8

/-- The warps of a quadrant, with their slots. -/
def Core.warpsOf (k : Core) (q : Nat) : List (Nat × Warp) := k.warps.filter (fun e => decide (quadOf e.1 = q))

/-- Changes every warp of a quadrant. -/
def State.modWarpsOf (s : State) (c q : Nat) (f : Nat → Warp → Warp) : State :=
  s.modCore c (fun k => { k with warps := k.warps.map (fun e => if quadOf e.1 = q then (e.1, f e.1 e.2) else e) })

/-- What the unit sees of a quadrant: its warps, its registers, the budget, and the cycle whose steps it takes. -/
structure Sight where
  warps  : List (Nat × Warp)
  quad   : Quad
  budget : Nat
  now    : Nat
deriving DecidableEq, Repr

def State.sight (s : State) (c q : Nat) : Sight :=
  let k := (s.core? c).getD {}
  { warps := k.warpsOf q, quad := k.quad q, budget := (k.quad q).budget s.modul.fill, now := k.cyc + 1 }

/-- Leases counted in the sum. -/
def Sight.sum (v : Sight) : Nat := ((v.warps.filter (fun e => e.2.lease.counted)).map (fun e => e.2.lease.effective)).sum

/-- The sum register takes the sum of the counted leases. -/
def State.recount (s : State) (c q : Nat) : State := s.modQuad c q (fun x => { x with admitted := (s.sight c q).sum })

/-- Step 1 of R43: leases of warps that parked or finished returning leave the sum; a returned warp waits, its count
restarted. The lease of a warp that ended left with it. -/
def Lease.leave (l : Lease) (now : Nat) : Lease :=
  if l.st = .returning then { l with st := .waiting, waitFrom := now, counted := false }
  else if l.st = .admitted then l
  else { l with counted := false }

def State.leaveSum (s : State) (c q : Nat) : State :=
  let now := s.cyc c + 1
  (s.modWarpsOf c q (fun _ w => { w with lease := w.lease.leave now })).recount c q

/-- Marks a warp as returning (R45, R49), an event of the cycle that the admission steps open (R389). -/
def State.markReturning (s : State) (c slot : Nat) : State :=
  (s.modWarp c slot (fun w => { w with lease := { w.lease with st := .returning } })).modQuad c (quadOf slot) (fun q =>
    { q with marked := slot :: q.marked })

/-- Admitted warps. -/
def Sight.admitted (v : Sight) : List (Nat × Warp) := v.warps.filter (fun e => decide (e.2.lease.st = .admitted))

/-- The last member of a list under an order that says whether the second of two comes later. -/
def lastBy {α : Type} (later : α → α → Bool) : List α → Option α
  | [] => none
  | a :: t =>
    match lastBy later t with
    | none => some a
    | some b => if later b a then some a else some b

/-- The warp that an excess returns (R49): lowest priority, then largest lease, then youngest; none that is admitted alone. -/
def Sight.excess (v : Sight) : Option Nat :=
  let l := v.admitted
  let alone := match l with | [e] => decide (v.budget < e.2.lease.effective) | _ => false
  if decide (v.sum ≤ v.budget) || alone then none
  else (lastBy (fun a b =>
    let pa := a.2.lease.prio
    let pb := b.2.lease.prio
    let ea := a.2.lease.effective
    let eb := b.2.lease.effective
    decide (pb < pa ∨ (pa = pb ∧ (ea < eb ∨ (ea = eb ∧ a.2.age < b.2.age))))) l).map Prod.fst

/-- Step 2 of R43. -/
def State.applyExcess (s : State) (c q : Nat) : State :=
  let s1 := s.recount c q
  match (s1.sight c q).excess with
  | some slot => s1.markReturning c slot
  | none => s1

/-- Warps in the waiting state. -/
def Sight.waiters (v : Sight) : List (Nat × Warp) := v.warps.filter (fun e => decide (e.2.lease.st = .waiting) && !e.2.over)

/-- The warp that qualifies as head (R45): the oldest of those that have waited for 16,384 cycles. -/
def Sight.qualifier (v : Sight) : Option Nat :=
  (lastBy (fun a b => decide (b.2.age < a.2.age))
    (v.waiters.filter (fun e => decide (e.2.lease.waitFrom + 16384 ≤ v.now)))).map Prod.fst

/-- The sum once the marked warps have left. -/
def Sight.staying (v : Sight) : Nat := (v.admitted.map (fun e => e.2.lease.effective)).sum

/-- A lease fits beside a sum; an oversize one fits beside nothing (R44, R46). -/
def Sight.fits (v : Sight) (sum lease : Nat) : Bool := decide (sum + lease ≤ v.budget) || (decide (v.budget < lease) && decide (sum = 0))

/-- The next warp that a head marks: of its priority or below the youngest, or with a widened choice the youngest of the
lowest priority (R45). A warp admitted alone is marked by a widened head only. -/
def Sight.victim (v : Sight) (prio : Nat) : Option Nat :=
  let l := v.admitted
  let alone := match l with | [e] => decide (v.budget < e.2.lease.effective) | _ => false
  if v.quad.widened then
    (lastBy (fun a b => decide (b.2.lease.prio < a.2.lease.prio ∨ (a.2.lease.prio = b.2.lease.prio ∧ a.2.age < b.2.age))) l).map Prod.fst
  else if alone then none
  else (lastBy (fun a b => decide (a.2.age < b.2.age)) (l.filter (fun e => decide (e.2.lease.prio ≤ prio)))).map Prod.fst

/-- The head marks warps until its lease fits or nothing is left to mark. -/
def State.headMarks (s : State) (c q head : Nat) : Nat → State
  | 0 => s
  | n + 1 =>
    let v := s.sight c q
    match s.warp? c head with
    | none => s
    | some w =>
      if v.fits v.staying w.lease.effective then s
      else match v.victim w.lease.prio with
        | some slot => (s.markReturning c slot).headMarks c q head n
        | none => s

/-- Admits a warp. -/
def State.admitSlot (s : State) (c slot : Nat) : State :=
  (s.modWarp c slot (fun w => { w with lease := { w.lease with st := .admitted, counted := true, passed := 0 } })).recount c (quadOf slot)

/-- Waiting warps in the order of R44. -/
def Sight.waiting (v : Sight) : List Nat :=
  (v.waiters.mergeSort (fun a b =>
    decide (b.2.lease.prio < a.2.lease.prio ∨ (a.2.lease.prio = b.2.lease.prio ∧ a.2.age ≤ b.2.age)))).map Prod.fst

/-- Admits a warp that fits. -/
def State.admitFitting (s : State) (c q slot : Nat) : State :=
  let v := s.sight c q
  match s.warp? c slot with
  | some w => if v.fits v.sum w.lease.effective then s.admitSlot c slot else s
  | none => s

/-- Step 4 of R43: the head first; while a head remains, nothing else. -/
def State.admitAll (s : State) (c q : Nat) : State :=
  let s1 :=
    match (s.sight c q).quad.head with
    | none => s
    | some h =>
      let s1 := s.admitFitting c q h
      if ((s1.warp? c h).map (fun w => decide (w.lease.st = .head))).getD false then s1
      else s1.modQuad c q (fun x => { x with head := none, widened := false })
  if (s1.sight c q).quad.head.isSome then s1
  else (s1.sight c q).waiting.foldl (fun s slot => s.admitFitting c q slot) s1

/-- What remains of an admission cycle once the head is known: its marks, then step 4. -/
def State.finishAdmission (s : State) (c q : Nat) : State :=
  let s1 :=
    match (s.sight c q).quad.head with
    | some h => s.headMarks c q h 17
    | none => s
  s1.admitAll c q

/-- A head has been head for a further 16,384 cycles and has not widened its choice (R45). -/
def State.widens (s : State) (c q : Nat) : Bool :=
  let v := s.sight c q
  match v.quad.head with
  | some h => !v.quad.widened && ((s.warp? c h).map (fun w => decide (w.lease.headFrom + 16384 ≤ v.now))).getD false
  | none => false

/-- Puts a step in front of those on their way: it belongs to the one being carried out. -/
def State.pushFirst (s : State) (e : Instr) : State := { s with pending := e :: s.pending }

/-- ADMISSION_CYCLE (R43): steps 1 and 2; then a warp that qualifies becomes head, or a head widens its choice, in the step
that follows at once; else steps 3 and 4 with the head there is. DEDUCED, log entry 25. -/
def execAdmissionCycle (core quad : Nat) (s : State) : Result :=
  let s1 := ((s.taken (.admissionCycle core quad)).leaveSum core quad).applyExcess core quad
  let v := s1.sight core quad
  if v.quad.head.isNone && v.qualifier.isSome then .next (s1.pushFirst (.headQualify core quad))
  else if s1.widens core quad then .next (s1.pushFirst (.headWiden core quad))
  else .next (s1.finishAdmission core quad)

/-- HEAD_QUALIFY (R45): the oldest warp that has waited for 16,384 cycles becomes head and marks warps returning. -/
def execHeadQualify (core quad : Nat) (s : State) : Result :=
  let s1 := s.taken (.headQualify core quad)
  let v := s1.sight core quad
  match v.quad.head, v.qualifier with
  | none, some h =>
    let s2 := (s1.modWarp core h (fun w => { w with lease := { w.lease with st := .head, headFrom := v.now } })).modQuad core quad
      (fun x => { x with head := some h, widened := false })
    .next (s2.finishAdmission core quad)
  | _, _ => .next s1

/-- HEAD_WIDEN (R45). -/
def execHeadWiden (core quad : Nat) (s : State) : Result :=
  let s1 := s.taken (.headWiden core quad)
  if s1.widens core quad then .next ((s1.modQuad core quad (fun x => { x with widened := true })).finishAdmission core quad)
  else .next s1

/-- LEASE_DECAY (R48): a run of 4,096 instructions without a lost-locality event takes 16 lines, down to 16. -/
def execLeaseDecay (core slot : Nat) (s : State) : Result :=
  .next ((s.taken (.leaseDecay core slot)).modWarp core slot (fun w =>
    { w with lease := { w.lease with meas := max (w.lease.meas - 16) 16 } }))

end Sys2Proof.Machine
end

