-- ==== Sys2Proof/Machine/Preempt.lean ====
section
/-! DEFINITION. Pre-emption (R59, R60, R426 to R429): a request stops whole blocks, each warp at its flashback point or in full; a block whose warps have all stopped is saved in a context slot, and resumes from it. -/

namespace Sys2Proof.Machine

/-! ## A slot is given up -/

/-- Who waits for a warp goes on without it (R204, R236, R237). -/
def State.leaveOthers (s : State) (c slot : Nat) : State := ((s.partnerGone c slot).gangGone c slot none).dissolve c slot

/-- Takes a warp out of its slot: its lease, its victim tags, its latches, and what is on its way for it (R48, R142). -/
def State.vacate (s : State) (c slot : Nat) : State :=
  let s1 := (s.leaveOthers c slot).modCore c (fun k =>
    { k with ended := match SMap.get? slot k.warps with | some w => SMap.put slot w k.ended | none => k.ended,
             warps := SMap.del slot k.warps, l1 := k.l1.map (fun l => if l.owner = slot then { l with owner := 64 } else l) })
  let gone (l : List QResult) : List QResult := l.map (fun r => if r.slot = slot then { r with slot := 64 } else r)
  (s1.modQuad c (quadOf slot) (fun q =>
    { q with
      victims := q.victims.filter (fun e => decide (e.2 ≠ slot)), head := if q.head = some slot then none else q.head,
      widened := q.widened && decide (q.head ≠ some slot), sfu := gone q.sfu, divider := gone q.divider,
      matrix := q.matrix.map (fun o => { o with members := o.members.filter (fun m => decide (m.slot ≠ slot)) }),
      latches := q.latches.filter (fun e => !e.2.owner.contains slot) })).unselect c slot

/-! ## The recipe (R428) -/

/-- A word that a core reads as it would fetch it. -/
def State.fetchedWord (s : State) (c tenant va : Nat) : Option Nat :=
  match s.translate c tenant va .fetch false with
  | .ok pa _ => some (s.fetchWord c pa 0).toNat
  | _ => none

/-- The entry of the recipe that a point's label names; none where the warp has to be saved in full. -/
def State.recipeEntry (s : State) (c : Nat) (w : Warp) : Option Nat :=
  let table := ((s.launch? w.launch).map (fun l => recRecipe l.num)).getD 0
  if table = 0 ∨ table % 4 ≠ 0 then none
  else match s.fetchedWord c w.tenant table with
    | none => none
    | some n =>
      if n = 0 ∨ 4096 < n ∨ n ≤ w.flash.label then none
      else (s.fetchedWord c w.tenant (table + 4 * (w.flash.label + 1))).map (fun d =>
        (table + 4 * ((BitVec.ofNat 32 d).signExtend 48).toNat) % 2 ^ 48)

/-! ## Stopping a warp -/

/-- Takes back an access whose lanes will act again: what they have done stays done. -/
def Warp.dropAccess (w : Warp) (id : Nat) : Warp :=
  match w.access? id with
  | some a => (w.modAccess id (fun a => { a with needs := [], returned := true })).settlePath a.path
  | none => w

/-- A parked warp leaves what it waits for: it will meet it again when its instruction issues again. -/
def State.leavePark (s : State) (c slot : Nat) : State :=
  let leave (s : State) (w : Warp) (r : ParkReason) : State :=
    match r with
    | .monitor line _ => s.leaveMonitor c w.tenant line
    | .fullEmpty =>
      let mine := (((s.block? c w.block).map (·.waiters)).getD []).filter (fun e => decide (e.slot = slot))
      (mine.foldl (fun s e => s.modWarp c slot (·.dropAccess e.access)) s).modBlock c w.block (fun b =>
        { b with waiters := b.waiters.filter (fun e => decide (e.slot ≠ slot)) })
    | .pageFault token =>
      { s with launches := { s.launches with parked := s.launches.parked.filter (fun e => decide (e ≠ (w.tenant, token, c, slot))) } }
    | _ => s
  match s.warp? c slot with
  | none => s
  | some w => w.causes.foldl (fun s r => leave s w r) s

/-- Stops a warp: its groups stand at the instructions they wait at. One that goes back to its flashback point discards what
its accesses in flight would write. -/
def State.stopWarp (s : State) (c slot : Nat) (entry : Option Nat) : State :=
  let s1 := ((s.leavePark c slot).withdraw c slot).unselect c slot
  s1.modWarp c slot (fun w =>
    let w1 := w.cancelHeld []
    { w1 with
      park := .none, behind := [], faulted := none, drain := false, preempt := none, saved := some entry,
      groups := w1.groups.map (fun g => { g with hold := .none, prog := {} }),
      accesses := w1.accesses.map (fun a => if entry.isSome then { a with refused := true } else a),
      lease := { w1.lease with st := .parked, leftAt := s.cyc c } })

/-- No access of a warp is in flight and no result is on its way. -/
def State.quiet (s : State) (c slot : Nat) (w : Warp) : Bool :=
  w.paths.allZero && (((s.core? c).map (fun k => k.pendingQ slot)).getD []).isEmpty

/-- A queue instruction of the warp is half served: some of its records have been pushed or taken (R354). It completes before the warp is
stopped. DEDUCED, log entry 64. -/
def State.halfServed (s : State) (c slot : Nat) (w : Warp) : Bool :=
  s.launches.messages.any (fun e => decide (e.2.core = c ∧ e.2.slot = slot) &&
    ((decide (e.2.op = 0) && ((w.access? e.2.access).map (fun a => !a.preds.isEmpty)).getD false) || decide (e.2.op = 1 ∧ e.2.place ≠ 0)))

/-- Whether a warp is to be stopped now, and how: at its flashback point, or in full (R59, R60, R207, R243, R421). DEDUCED, log entry 64. -/
def State.stopDue (s : State) (c slot : Nat) (w : Warp) : Option (Option Nat) :=
  if w.saved.isSome || w.preempt.isNone || w.over || s.halfServed c slot w then none
  else
    let whole := ((s.block? c w.block).map (·.whole)).getD false
    let entry := if w.flash.valid && !w.special.priv && w.trap.isNone && !whole then s.recipeEntry c w else none
    if w.trap.isSome then none
    else if entry.isSome then some entry
    else if w.park ≠ .none || w.latch.any (fun l => l.fusing || l.multiplies || l.ganging.isSome) then some none
    else if w.drain && w.groups.all (fun g => decide (g.prog.stage = 0)) && s.quiet c slot w then some none
    else none

/-- A warp under pre-emption whose valid point has no recipe: it is saved in full at its next boundary (R428). DEDUCED, log entry 65. -/
def State.pointWithoutRecipe (s : State) (c : Nat) (w : Warp) : Bool :=
  w.preempt.isSome && w.saved.isNone && w.flash.valid && !w.special.priv && w.trap.isNone && (s.recipeEntry c w).isNone

/-! ## Saving a block (R427) -/

/-- Writes bytes at virtual addresses for a core, page by page; none where a page does not translate. -/
def State.putVirtual (s : State) (c tenant va : Nat) (bytes : List Byte) : Nat → Option State
  | 0 => some s
  | n + 1 =>
    if bytes.isEmpty then some s
    else match s.translate c tenant va .write true with
      | .ok pa _ =>
        if !cached pa then none
        else
          let k := min bytes.length (2 ^ 17 - va % 2 ^ 17)
          (s.writeImage c 64 tenant pa (bytes.take k)).putVirtual c tenant (va + k) (bytes.drop k) n
      | _ => none

/-- Reads bytes at virtual addresses; none where a page does not translate or a sector is poisoned. -/
def State.getVirtual (s : State) (c tenant va k : Nat) : Nat → Option (List Byte)
  | 0 => some []
  | n + 1 =>
    if k = 0 then some []
    else match s.translate c tenant va .read true with
      | .ok pa _ =>
        let here := min k (2 ^ 17 - va % 2 ^ 17)
        if !cached pa || s.poisoned pa here then none
        else (s.getVirtual c tenant (va + here) (k - here) n).map (fun l => s.seenBytes c tenant pa here ++ l)
      | _ => none

/-- A line that holds back an access of the launch unit's to an area at virtual addresses. -/
def State.areaStops (s : State) (c tenant va n : Nat) (p : Perm) : Option Nat :=
  (List.range ((n + 2 ^ 17 - 1) / 2 ^ 17)).findSome? (fun i =>
    match s.translate c tenant (va + 2 ^ 17 * i) p true with
    | .stops line => some line
    | .ok pa _ => (s.caldera.lines.find? (fun e => decide (128 * e.1 / 2 ^ 17 = pa / 2 ^ 17) && s.lineStops e.1 (p == .write))).map Prod.fst
    | _ => none)

/-- Where a tenant's context slot begins. -/
def Tenant.slotAt (t : Tenant) (k : Nat) : Nat := t.ctxArea.toNat + 2 ^ 22 * k

/-- The full/empty bits of a window, as bytes. -/
def Block.fullBits (b : Block) : List Byte :=
  bytesOf (maskOf ((List.range ((b.length + 3) / 4)).filter (fun i => !b.empty.contains i))) ((b.length + 31) / 32)

/-- The warps of a block, with their slots. -/
def Core.warpsOfBlock (k : Core) (id : Nat) : List (Nat × Warp) := k.warps.filter (fun e => decide (e.2.block = id))
def State.blockWarps (s : State) (c id : Nat) : List (Nat × Warp) := ((s.core? c).map (fun k => k.warpsOfBlock id)).getD []

/-- The context header (R427): the launch record's address, the linear index, COORD1 to COORD7, the grant, and the slot of each warp. What
it holds is said, its layout is not. DESIGN CHOICE, log entry 95. -/
def State.headerBytes (s : State) (c id : Nat) (b : Block) : List Byte :=
  let l := s.launch? b.launch
  let items := ((l.map (·.va)).getD 0) :: b.index :: ((b.coords.drop 1).map BitVec.toNat) ++
    [b.spad, b.barriers, b.banks.length, b.granules] ++ (s.blockWarps c id).map Prod.fst
  (List.range 128).map (Config.headerByte items)

/-- A warp's image as a save writes it: a flashback save holds the live set alone (R59, R430). -/
def Warp.savedImage (w : Warp) (cyc : Nat) : List Byte :=
  let w1 : Warp := { w with gang := 0 }
  match w.saved with
  | some (some _) => imageBytes (w1.image cyc 1 w.flash.nv w.flash.ns)
  | _ => imageBytes (w1.image cyc 0 w.alloc 60)

/-- Writes a context slot. -/
def State.writeContext (s : State) (c id : Nat) (b : Block) (slot : Nat) : Option State :=
  let base := (s.tenant b.tenant).slotAt slot
  let put (va : Nat) (l : List Byte) (s : State) : Option State := s.putVirtual c b.tenant (base + va) l 64
  if !b.poison.isEmpty || b.spoilt then none
  else
    let o := (s.blockWarps c id).foldl (fun (o : Option State) e =>
      o.bind (put (0x8000 * e.2.index) (e.2.savedImage (s.cyc c)))) (some s)
    let o1 := (o.bind (put 0x200000 (b.readBytes 0 b.length))).bind (put 0x280000 b.fullBits)
    (o1.bind (put 0x300000 (s.headerBytes c id b))).map (fun s => { s with tick := s.tick + 1 })

/-- A stopped warp goes on where it stands, or at its recipe with nothing but its live set (R59, R427). -/
def Warp.goesOn (w : Warp) (cyc : Nat) : Warp :=
  let w1 : Warp :=
    { w with saved := none, preempt := none, drain := false, lease := { w.lease with st := .waiting, waitFrom := cyc, counted := false } }
  match w.saved with
  | some (some entry) =>
    let live (l : Lane) : Lane := { l with v := l.v.filter (fun e => decide (e.1 < w.flash.nv)) }
    let w2 : Warp := { w1 with lanes := w1.lanes.map live, s := w1.s.filter (fun e => decide (e.1 < w.flash.ns)), mode := w.flash.mode, undelivered := [] }
    let w3 := w2.restoreLatch w.flash.lanes w.flash.fmt
    let mask := w3.liveMask
    { w3.setPc mask entry with groups := [{ mask := mask, readyAt := cyc + 1 }] }
  | _ => w1

/-- A warp whose state cannot be saved ends (R422, R432): its region aborts with FAULT, what it waits for is let go. -/
def State.failWarp (s : State) (c slot : Nat) : State :=
  let s1 := (s.abortNow c slot abFault causePoison).leavePark c slot
  match s1.warp? c slot with
  | none => s1
  | some w => if w.over then s1 else s1.endWarp c slot none causePoison (w.pcOf ((w.groups.head?.map (·.mask)).getD 1)) 0 0 0

/-- Every warp of a block ends. -/
def State.failBlock (s : State) (c id : Nat) : State := (s.blockWarps c id).foldl (fun s e => s.failWarp c e.1) s

/-- Slots of a pool that stood free meanwhile serve the requests of their pipeline (R54). -/
def State.passFree (s : State) (launch : Nat) : State :=
  ((s.launches.pipelines.filter (fun e => decide (e.2.launch = launch))).flatMap (fun e =>
    (e.2.pool.filter (fun p => decide (p.2 = 0))).map (fun p => (e.1, p.1)))).foldl (fun s e => s.passSlot e.1 e.2) s

/-- The pre-emption of a block is given up: its warps go on, its context slot is free. On a retired core the block fails (R432). -/
def State.abandon (s : State) (c id : Nat) (b : Block) (slot : Nat) : State :=
  let s1 := (s.modTenant b.tenant (fun t => { t with slotsUsed := NSet.drop slot t.slotsUsed })).modBlock c id (fun b =>
    { b with saving := none, flushing := none })
  if b.whole then s1.failBlock c id
  else ((s.blockWarps c id).foldl (fun s e => s.modWarp c e.1 (·.goesOn (s.cyc c))) s1).passFree b.launch

/-- Where a window offset lies: the place of its bank among the granted ones, and the byte in the bank (R248). -/
def bankPlace (n o : Nat) : Nat × Nat := (o / 16 % n, 16 * (o / 16 / n) + o % 16)

/-- A block leaves its window in the banks that it was granted (R248). -/
def State.leaveWindow (s : State) (c : Nat) (b : Block) : State :=
  s.modCore c (fun k =>
    { k with spads := b.window.foldl (fun m e =>
        let p := bankPlace b.banks.length e.1
        SMap.set 0 (16384 * b.banks.getD p.1 0 + p.2) e.2 m) k.spads })

/-- A pipeline whose block is in a context slot stands on no core. -/
def noCore : Nat := 0xFFFF

/-- Takes a saved block off its core; it waits in the launch unit (R429). -/
def State.removeBlock (s : State) (c id : Nat) (b : Block) (slot : Nat) : State :=
  let warps := s.blockWarps c id
  let v : SavedBlock :=
    { tenant := b.tenant, launch := b.launch, slot := slot, prio := ((s.launch? b.launch).map (fun l => recPrio l.num)).getD 0,
      block := { b with window := [], empty := [], waiters := [], saving := none, flushing := none, whole := false }, warps := warps }
  let s1 := ((warps.foldl (fun s e => s.vacate c e.1) s).leaveWindow c b).modCore c (fun k => { k with blocks := SMap.del id k.blocks })
  let s2 : State := { s1 with
    launches := { s1.launches with
      saved := s1.launches.saved ++ [v],
      pipelines := s1.launches.pipelines.map (fun e => if e.2.core = c ∧ e.2.block = id then (e.1, { e.2 with core := noCore }) else e) } }
  s2.dispatch

/-- A block whose warps have all stopped, with nothing in flight. -/
def State.blockStopped (s : State) (c id : Nat) : Bool :=
  (s.blockWarps c id).all (fun e => e.2.saved.isSome && s.quiet c e.1 e.2)

/-- What a block under pre-emption can do now: stop a warp, write its context slot, or leave its core. -/
def State.saveDue (s : State) (c id : Nat) (b : Block) : Bool :=
  b.saving.isSome &&
    ((s.blockWarps c id).any (fun e => (s.stopDue c e.1 e.2).isSome) ||
      (s.blockStopped c id && (match b.flushing with
        | none => true
        | some ids => s.settled ids && (s.blockWarps c id).all (fun e => e.2.collapses == 0))))

/-- The next step of a block's pre-emption. -/
def State.saveStep (s : State) (c id : Nat) : State :=
  let s0 := (s.blockWarps c id).foldl (fun s e =>
    if s.pointWithoutRecipe c e.2 then s.modWarp c e.1 (fun w => { w with drain := true }) else s) s
  let s1 := (s0.blockWarps c id).foldl (fun s e =>
    match (s.warp? c e.1).bind (s.stopDue c e.1) with
    | some entry => s.stopWarp c e.1 entry
    | none => s) s0
  match s1.block? c id with
  | none => s1
  | some b =>
    match b.saving with
    | none => s1
    | some slot =>
      if !s1.blockStopped c id then s1
      else match b.flushing with
        | none =>
          match s1.areaStops c b.tenant ((s1.tenant b.tenant).slotAt slot) (2 ^ 22) .write, s1.writeContext c id b slot with
          | some line, _ => s1.askLine line true [0, 1] b.tenant
          | none, none => s1.abandon c id b slot
          | none, some s2 =>
            let (s3, ids) := s2.writeBackDomain c 64 b.tenant domDevice
            let seen := s3.caldera.observing.foldl (fun m e => e.2.foldl (fun m w => NSet.add w.1 m) m) ids
            s3.modBlock c id (fun b => { b with flushing := some seen })
        | some ids =>
          if s1.settled ids && (s1.blockWarps c id).all (fun e => e.2.collapses == 0) then s1.removeBlock c id b slot else s1

/-- FLASHBACK_SAVE (R59, R427): the block of a warp takes the next step of its pre-emption. -/
def execFlashbackSave (core slot : Nat) (s : State) : Result :=
  let s1 := s.taken (.flashbackSave core slot)
  match s1.warp? core slot with
  | none => .next s1
  | some w => .next (s1.saveStep core w.block)

/-! ## Requests -/

/-- The lowest free context slot of a tenant (R427). -/
def Tenant.freeSlot (t : Tenant) : Option Nat :=
  if t.ctxArea = 0 then none else (List.range t.ctxSlots.toNat).find? (fun k => !t.slotsUsed.contains k)

/-- A warp is told to stop (R60, R421): an active region is aborted, after a fault that is to be taken first (R431); a handler goes to its
next boundary. -/
def State.askToStop (s : State) (c slot : Nat) (drain : Bool) : State :=
  let s1 := if ((s.warp? c slot).map (·.trap.isSome)).getD false then s else s.abortNow c slot abPreempt 0
  s1.modWarp c slot (fun w => { w with preempt := some 0, drain := drain || w.special.priv || w.trap.isSome })

/-- A block is to be pre-empted: it takes a context slot; false where there is none. -/
def State.preemptBlock (s : State) (c id : Nat) (whole : Bool) : State × Bool :=
  match s.block? c id with
  | none => (s, true)
  | some b =>
    if b.saving.isSome then
      -- its core has been retired meanwhile: what has not stopped issues nothing more (R432)
      ((if whole then
        (s.blockWarps c id).foldl (fun s e => if e.2.saved.isSome then s else s.askToStop c e.1 true)
          (s.modBlock c id (fun b => { b with whole := true }))
        else s), true)
    else match (s.tenant b.tenant).freeSlot with
      | none => (s, false)
      | some slot =>
        let s1 := (s.modTenant b.tenant (fun t => { t with slotsUsed := NSet.add slot t.slotsUsed })).modBlock c id (fun b =>
          { b with saving := some slot, whole := whole })
        (((s.blockWarps c id).foldl (fun s e => s.askToStop c e.1 whole) s1).saveStep c id, true)

/-- PREEMPT_REQUEST (R426): every block with a warp in the quadrant is pre-empted whole, where its tenant has a free context
slot. -/
def execPreemptRequest (core quad : Nat) (s : State) : Result :=
  let ids := ((s.core? core).map (fun k => (k.blocks.filter (fun e =>
    (k.warpsOfBlock e.1).any (fun w => decide (quadOf w.1 = quad)))).map Prod.fst)).getD []
  .next (ids.foldl (fun s id => (s.preemptBlock core id false).1) s)

/-- RUNON_LIMIT (R60): 4,096 instructions since the request; the warp stops at its next boundary. -/
def execRunonLimit (core slot : Nat) (s : State) : Result :=
  let s1 := s.taken (.runonLimit core slot)
  .next (s1.modWarp core slot (fun w =>
    if w.saved.isNone && decide (4096 ≤ w.preempt.getD 0) then { w with drain := true } else w))

/-! ## Resuming (R429) -/

/-- A warp as its image and what was kept of it make it. -/
def Warp.resumed (w : Warp) (m : Image) (age cyc : Nat) : Warp :=
  let w1 := w.load m cyc
  let prio := bitsOf (m.word 0x6208).toNat 27 26
  let w2 : Warp := { w1 with age := age, collapses := 0, lease := { w1.lease with prio := prio, passed := 0 } }
  w2.goesOn cyc

/-- BLOCK_RESUME (R429): a saved block is placed, its window and its warps are restored, its context slot is freed. Where its
slot cannot be read, it waits on. -/
def execBlockResume (tenant block core : Nat) (s : State) : Result :=
  let s1 := s.taken (.blockResume tenant block core)
  match s1.launches.saved.find? (fun v => decide (v.tenant = tenant ∧ v.slot = block)), s1.core? core with
  | some v, some k =>
    let at_ := (s1.tenant tenant).slotAt block
    let read (va n : Nat) : Option (List Byte) := s1.getVirtual core tenant (at_ + va) n 64
    let images := v.warps.map (fun e => (read (0x8000 * e.2.index) 0x8000).map wordsOfBytes)
    match read 0x200000 v.block.length, read 0x280000 ((v.block.length + 31) / 32) with
    | some win, some bits =>
      if !s1.saveFits v core || images.any (·.isNone) then .next s1
      else match s1.areaStops core tenant at_ (2 ^ 22) .read with
      | some line => .next (s1.waitLine line false (.blockResume tenant block core) tenant)
      | none =>
        let id := k.nextBlock
        let full := numOf bits
        let b : Block :=
          { v.block with
            banks := (k.freeBanks tenant).take v.block.banks.length,
            window := (win.zipIdx).foldl (fun m e => SMap.set 0 e.2 e.1 m) [],
            empty := (List.range ((v.block.length + 3) / 4)).filter (fun i => !full.testBit i) }
        let s2 := (s1.acquire core tenant domDevice).modCore core (fun k =>
          { k with nextBlock := id + 1, blocks := SMap.put id b k.blocks, spads := zeroBanks b.banks k.spads })
        let s3 := (v.warps.zip images).foldl (fun s e =>
          s.enterSlot core e.1.1 (fun age cyc => { e.1.2.resumed (e.2.getD []) age cyc with block := id })) s2
        let s4 : State := { s3 with
          launches := { s3.launches with
            saved := s3.launches.saved.filter (fun w => !(decide (w.tenant = tenant ∧ w.slot = block))),
            pipelines := s3.launches.pipelines.map (fun e =>
              if e.2.launch = v.launch then (e.1, { e.2 with core := core, block := id }) else e) } }
        let s5 := (s4.modTenant tenant (fun t => { t with slotsUsed := NSet.drop block t.slotsUsed })).modLaunch v.launch (fun l =>
          { l with cores := NSet.add core l.cores })
        .next (s5.passFree v.launch).dispatch
    | _, _ => .next s1
  | _, _ => .next s1

end Sys2Proof.Machine
end

