-- ==== Sys2Proof/Machine/Launch.lean ====
section
/-! DEFINITION. The launch unit (R33, R346, R349, R352) and the life of a launch: its records are taken, its blocks start, its warps end, it completes (R350). -/

namespace Sys2Proof.Machine

/-! ## Reading at primary copies -/

/-- Pieces of 64 bytes at virtual addresses of a tenant, as the launch unit reads them; none where one does not translate. DEDUCED, log entry 55. -/
def State.primaryBytes (s : State) (tenant va : Nat) : Nat → Option (List Byte)
  | 0 => some []
  | n + 1 =>
    match s.translate 0 tenant va .read true with
    | .ok pa _ =>
      if cached pa then (s.primaryBytes tenant (va + 64) n).map (fun l => Memory.readBytes s.mem pa 64 ++ l) else none
    | _ => none

/-- The first line of those pieces, or of a walk for them, that is held back. -/
def State.primaryStops (s : State) (tenant va n : Nat) : Option Nat :=
  (List.range n).findSome? (fun i =>
    match s.translate 0 tenant (va + 64 * i) .read true with
    | .ok pa _ => if cached pa then s.spanStops pa 64 false tenant else none
    | .stops line => some line
    | _ => none)

/-- Some of those pieces are poisoned. -/
def State.primaryPoison (s : State) (tenant va n : Nat) : Bool :=
  (List.range n).any (fun i => match s.translate 0 tenant (va + 64 * i) .read true with | .ok pa _ => s.poisoned pa 64 | _ => false)

/-- The pieces are read: their pages are used, and their lines come into Caldera (R255, R270). -/
def State.readPrimary (s : State) (tenant va n : Nat) : State :=
  (List.range n).foldl (fun s i =>
    match s.translate 0 tenant (va + 64 * i) .read true with
    | .ok pa _ =>
      let s1 := s.usePage 0 tenant (va + 64 * i)
      if cached pa then (s1.readFor tenant (lineOf pa) [pa / 64 % 2]).1 else s1
    | _ => s) s

/-! ## The waits of a record (R350) -/

/-- The address of the record at the head of a queue. -/
def LaunchQueue.headAt (q : LaunchQueue) : Nat := q.base.toNat + 128 * (q.head.toNat % q.size)

/-- A wait of a record is met (R350). -/
def Tenant.waitMet (t : Tenant) (r i : Nat) : Bool :=
  let w := recWait r i
  !w.1 || decide (w.2.2 ≤ (t.fence w.2.1).toNat)

/-! ## Checking a record -/

/-- What the launch unit makes of a record. -/
inductive Taken where
  /-- Rejected, with a cause (R33, R346, R349, R352). -/
  | reject (cause : Nat)
  /-- A line that it reads or writes is held back. -/
  | stops (line : Nat) (writes : Bool)
  /-- Accepted, with its stage table and the headers that it names: number of the queue, address and bits. -/
  | good (table : List Byte) (headers : List (Nat × Nat × Nat))
deriving DecidableEq, Repr

/-- The headers that a stage table names, in order, or why the record cannot be taken. -/
def State.headersOf (s : State) (t table : Nat) : Except Taken (List (Nat × Nat × Nat)) :=
  ((List.range 7).filter (fun k => decide (tabQueue table k ≠ 0))).foldr (fun k o =>
    match s.lookHeader 0 t (tabQueue table k) true none, o with
    | .ok pa h _, .ok l => if s.lineStops (lineOf pa) true then .error (.stops (lineOf pa) true) else .ok ((k, pa, h) :: l)
    | .ok _ _ _, .error e => .error e
    | .stops line, _ => .error (.stops line false)
    | .poison, _ => .error (.reject causePoison)
    | _, _ => .error (.reject causeHandle)) (.ok [])

/-- Resources of a block, and co-residency (R33, R39). -/
def State.grantable (s : State) (t r : Nat) (bytes table : List Byte) (pipe : Option Nat) : Bool :=
  s.couldStart
    { tenant := t, queue := 0, va := 0, record := bytes, table := table, pipeline := pipe,
      waiting := (List.range (recBlocks r)).map (fun b => (b, none)) }

/-- Checks a record that has been read. -/
def State.checkRecord (s : State) (t : Nat) (bytes : List Byte) : Taken :=
  let r := numOf bytes
  if !recordOk r t || !hierarchyOk r then .reject causeHandle
  else if !recPipe r then (if s.grantable t r bytes [] none then .good [] [] else .reject causeHandle)
  else
    let at_ := recKeyBase r
    if at_ % 64 ≠ 0 then .reject causeHandle
    else match s.primaryStops t at_ 3, s.primaryBytes t at_ 3 with
      | some line, _ => .stops line false
      | none, none => .reject causePageFault
      | none, some table =>
        let n := numOf table
        if s.primaryPoison t at_ 3 then .reject causePoison
        else if !tableOk n || !pipeLevelsOk r n then .reject causeHandle
        else match s.headersOf t n with
          | .error e => e
          | .ok hs => if s.grantable t r bytes table (some 0) then .good table hs else .reject causeHandle

/-- The head record of a queue: its bytes, if it translates. A poisoned record or stage table is rejected with that cause. DESIGN CHOICE, log
entry 107. -/
def State.lookRecord (s : State) (t : Nat) (q : LaunchQueue) : Taken × List Byte :=
  match s.primaryStops t q.headAt 2, s.primaryBytes t q.headAt 2 with
  | some line, _ => (.stops line false, [])
  | none, none => (.reject causePageFault, [])
  | none, some l => if s.primaryPoison t q.headAt 2 then (.reject causePoison, []) else (s.checkRecord t l, l)

/-- The head record of a queue, with its stage table, is read. -/
def State.readRecord (s : State) (t : Nat) (q : LaunchQueue) (bytes : List Byte) : State :=
  let r := numOf bytes
  let s1 := s.readPrimary t q.headAt 2
  if bytes ≠ [] ∧ recPipe r ∧ recKeyBase r % 64 = 0 then s1.readPrimary t (recKeyBase r) 3 else s1

/-! ## Choosing a record (R346) -/

/-- The launch unit may take the head record of a queue. A record that is rejected, or does not translate, waits on no fence
counter (R33). -/
def State.mayTake (s : State) (t : Nat) (q : LaunchQueue) : Bool :=
  q.on && decide (q.tail ≠ q.head) &&
    (match s.lookRecord t q with
      | (.good _ _, l) => (s.tenant t).waitMet (numOf l) 0 && (s.tenant t).waitMet (numOf l) 1
      | (.reject _, _) => true
      | (.stops _ _, _) => false)

def LaunchQueue.prio (q : LaunchQueue) : Nat := bitsOf q.ctrl.toNat 2 1

/-- Queues whose head record may be taken: tenant, queue number, priority. -/
def State.takeable (s : State) : List (Nat × Nat × Nat) :=
  s.tenants.flatMap (fun t => (t.2.queues.filter (fun q => s.mayTake t.1 q.2)).map (fun q => (t.1, q.1, q.2.prio)))

/-- The first member of a list at or after a number, else the first one: a round. -/
def roundFrom (n : Nat) (l : List Nat) : Option Nat :=
  match l.find? (fun k => decide (n ≤ k)) with
  | some k => some k
  | none => l.head?

/-- The queue that is served next: highest priority, then tenants in turn, then the tenant's queues in turn. -/
def State.nextQueue (s : State) : Option (Nat × Nat) :=
  let l := s.takeable
  let top := (l.map (·.2.2)).foldl max 0
  let mine := l.filter (fun (e : Nat × Nat × Nat) => decide (e.2.2 = top))
  (roundFrom s.launches.round (mine.map (·.1))).bind (fun t =>
    (roundFrom (SMap.get 0 t s.launches.queueRounds) ((mine.filter (fun e => decide (e.1 = t))).map (·.2.1))).map (fun q => (t, q)))

/-! ## Taking it -/

/-- A pipeline number that no running pipeline has (R352). -/
def State.freePipeline (s : State) : Option Nat :=
  ((List.range 4095).map (· + 1)).find? (fun n => s.launches.launches.all (fun l => decide (l.2.pipeline ≠ some n)))

/-- The head record is taken: QHEAD advances, and the rounds turn. -/
def State.advanceQueue (s : State) (t q : Nat) : State :=
  let s1 := s.modQueue t q (fun k => { k with head := k.head + 1 })
  { s1 with launches := { s1.launches with round := t + 1, queueRounds := SMap.put t (q + 1) s1.launches.queueRounds } }

/-- A rejected record starts nothing; it is counted and reported (R33, R343, R360). -/
def State.rejectRecord (s : State) (t q cause : Nat) : State :=
  let k := (s.tenant t).queue q
  let s1 := (s.advanceQueue t q).modQueue t q (fun k =>
    { k with stat := if bitsOf k.stat.toNat 15 0 = 0xFFFF then k.stat else k.stat + 1 })
  (s1.post t { type := recRejected, cause := cause, access := accRecord, addr := k.headAt, info := q + k.head.toNat * 2 ^ 32 }).1

/-- An accepted record: a launch, whose block instances wait for their places. -/
def State.acceptRecord (s : State) (t q : Nat) (bytes table : List Byte) (headers : List (Nat × Nat × Nat)) (pipe : Option Nat) : State :=
  let k := (s.tenant t).queue q
  let s1 := s.advanceQueue t q
  let s2 :=
    match pipe with
    | some n => headers.foldl (fun (s : State) (e : Nat × Nat × Nat) =>
        s.putHeader e.2.1 e.2.2 (putBits (putBits e.2.2 111 100 n) 99 97 (e.1 + 1))) s1
    | none => s1
  let l : Launch :=
    { tenant := t, queue := q, va := k.headAt, record := bytes, table := table, pipeline := pipe,
      waiting := (List.range (recBlocks (numOf bytes))).map (fun b => (b, none)) }
  let id := s2.launches.nextLaunch
  ({ s2 with launches := { s2.launches with launches := SMap.put id l s2.launches.launches, nextLaunch := id + 1 } } : State).dispatch

/-- What head records of the queues that are served wait for is asked for: a line's fill, or a half that the host holds. -/
def State.askRecords (s : State) : State :=
  (s.tenants.flatMap (fun t => t.2.queues.filterMap (fun q =>
    if q.2.on && decide (q.2.tail ≠ q.2.head) then
      (match s.lookRecord t.1 q.2 with | (.stops line writes, _) => some (t.1, line, writes) | _ => none)
    else none))).foldl (fun s e => s.askLine e.2.1 e.2.2 [0, 1] e.1) s

/-- LAUNCH_RECORD_TAKE (R346): one record. A pipeline for which no number is free is tried again in a later cycle. -/
def execLaunchRecordTake (s : State) : Result :=
  let s0 := s.taken .launchRecordTake
  if !s0.modul.booted then .next s0
  else match s0.nextQueue with
    | none => .next s0.askRecords
    | some (t, q) =>
      let k := (s0.tenant t).queue q
      let s1 := s0.askRecords.readRecord t k (s0.lookRecord t k).2
      match s0.lookRecord t k with
      | (.stops _ _, _) => .next s1
      | (.reject cause, _) => .next (s1.rejectRecord t q cause)
      | (.good table hs, bytes) =>
        if recPipe (numOf bytes) then
          match s1.freePipeline with
          | some n => .next (s1.acceptRecord t q bytes table hs (some n))
          | none => .next s1
        else .next (s1.acceptRecord t q bytes table hs none)

/-- BLOCK_START (R37): the instance starts on the core, with those that have to start with it; the next one is looked for. -/
def execBlockStart (launch block core : Nat) (s : State) : Result :=
  let s1 := s.taken (.blockStart launch block core)
  match s1.launch? launch with
  | none => .next s1.dispatch
  | some l =>
    if !l.waiting.any (fun e => decide (e.1 = block)) then .next s1.dispatch
    else match s1.tryStart launch l block with
      | none => .next s1.dispatch
      | some s2 =>
        if (s2.core? core).any (fun k => k.blocks.any (fun b => decide (b.2.launch = launch ∧ b.2.index = block))) then .next s2.dispatch
        else .next s1.dispatch

/-! ## The end of a warp (R142) and of a launch (R350) -/

/-- The last warp of a launch has ended, and no instance waits. -/
def Launch.over (l : Launch) : Bool := l.started && l.waiting.isEmpty && decide (l.liveWarps = 0)

/-- A block without a warp gives its resources back (R37). -/
def State.endBlock (s : State) (c id : Nat) : State :=
  match s.block? c id with
  | none => s
  | some b =>
    if !(s.blockWarps c id).isEmpty then s
    else
      let s1 := (s.leaveWindow c b).modCore c (fun k => { k with blocks := SMap.del id k.blocks })
      match b.saving with
      | some slot => s1.modTenant b.tenant (fun t => { t with slotsUsed := NSet.drop slot t.slotsUsed })
      | none => s1

/-- What a reset of a tenant's function leaves of it: its page tables and region table. -/
def Tenant.reset (t : Tenant) : Tenant := { troot := t.troot, regions := t.regions }

/-- Steps 3 and 4 of a function-level reset (R449), once the tenant's warps have ended: its L1 lines are written back and invalidated on every
core, and its registers are reset. -/
def State.finishReset (s : State) (t : Nat) : State :=
  if !(s.tenant t).resetting || s.cores.any (fun k => k.2.warps.any (fun e => decide (e.2.tenant = t))) then s
  else (s.cores.foldl (fun s k => (s.flushTenant k.1 64 t).1.dropTenant k.1 t) s).modTenant t Tenant.reset

/-- WARP_END (R142): the warp leaves its slot; a slot of a pool passes on (R54); the last warp of a block frees the block, the
last one of a launch completes it. -/
def execWarpEnd (core slot : Nat) (s : State) : Result :=
  let s1 := s.taken (.warpEnd core slot)
  match s1.warp? core slot with
  | none => .next s1
  | some w =>
    if !w.atEnd then .next s1
    else
      let s2 := (s1.vacate core slot).modLaunch w.launch (fun l => { l with liveWarps := l.liveWarps - 1 })
      let s3 :=
        match (s2.launch? w.launch).bind (·.pipeline) with
        | some p => s2.passSlot p slot
        | none => s2
      let s4 := s3.endBlock core w.block
      let s5 := if ((s4.launch? w.launch).map (·.over)).getD false then s4.pushOnce (.launchCompletion w.launch) else s4
      .next (s5.finishReset w.tenant).dispatch

/-- The collapses that writes of a launch have caused are complete (R262). -/
def State.launchCollapsed (s : State) (l : Launch) : Bool :=
  s.caldera.lines.all (fun d => d.2.rmask.isEmpty || d.2.writers.all (fun w => !l.cores.contains w.1))

/-- Increments that a completed launch makes (R350). -/
def State.increments (s : State) (l : Launch) : State :=
  if l.failed then s
  else ([0, 1] : List Nat).foldl (fun s i =>
    let e := recInc l.num i
    if e.1 then s.setFence l.tenant e.2 ((s.tenant l.tenant).fence e.2 + 1) else s) s

/-- LAUNCH_COMPLETION (R350): the tenant's dirty sectors are written back; once that and the collapses are done, the fence
counters rise, and the launch is gone. -/
def execLaunchCompletion (launch : Nat) (s : State) : Result :=
  let s1 := s.taken (.launchCompletion launch)
  match s1.launch? launch with
  | none => .next s1
  | some l =>
    if !l.over then .next s1
    else if !l.flushed then
      let (s2, ids) := l.cores.foldl (fun (r : State × NSet) c =>
        let (s, ids) := r.1.flushTenant c 64 l.tenant
        (s, ids.foldl (fun m k => NSet.add k m) r.2)) (s1, [])
      let seen := s2.caldera.observing.foldl (fun m e => e.2.foldl (fun m w => NSet.add w.1 m) m) ids
      .next (s2.modLaunch launch (fun l => { l with flushed := true, acks := seen }))
    else if s1.settled l.acks && s1.launchCollapsed l then
      let s2 : State := { s1 with
        launches := { s1.launches with
          launches := SMap.del launch s1.launches.launches,
          pipelines := s1.launches.pipelines.filter (fun e => decide (e.2.launch ≠ launch)) } }
      .next (s2.increments l).dispatch
    else .next s1

/-- What the launch unit can do in a cycle: take a record, complete a launch. -/
def State.unitDue (s : State) : List Instr :=
  (if s.modul.booted && s.tenants.any (fun t => t.2.queues.any (fun q => q.2.on && decide (q.2.tail ≠ q.2.head))) then [.launchRecordTake] else []) ++
    (s.launches.launches.filter (fun e => e.2.over && (!e.2.flushed || (s.settled e.2.acks && s.launchCollapsed e.2)))).map
      (fun e => .launchCompletion e.1)

end Sys2Proof.Machine
end

