-- ==== Sys2Proof/Machine/Regions.lean ====
section
/-! DEFINITION. Atomic regions (R303 to R326): their six instructions, the visits and grants of a commit, FINAL, RELEASE and the abort. -/

namespace Sys2Proof.Machine

/-! ## RGBEG (R309) -/

/-- Stages of the region instructions: waiting for the counters, for the grants, and with every grant in hand. -/
def stRegion : Nat := 13
def stCommit : Nat := 14
def stDecide : Nat := 15

def lateGanged (x : Ctx) (_ : State) : Late := { notConverged := !x.w.fullyGanged }

/-- An outermost region begins. -/
def Warp.beginRegion (w : Warp) (x : Ctx) : Warp :=
  let p := w.pickEarly x.cyc x.draw
  let rigid := x.f.mb 0 0 == 1
  { w with region :=
      { w.region with
        epoch := (w.region.epoch + 1) % 128, alo := 1, ahi := noBound, st := 1, rigid := rigid, depth := 1, reason := 0, detail := 0,
        partners := [], part := 0, cause := none, reads := [], writes := [], toVisit := [], granted := [], floor := 0, ceiling := 0,
        target := BitVec.ofNat 48 (x.target x.offset), latchRigid := rigid, latchFmt := p.fmtOf x.mask, latch := p.laneWords } }

def rgbegEff (x : Ctx) (s : State) : State :=
  if x.w.region.depth = 0 then
    if x.w.paths.ldg = 0 ∧ x.w.paths.stg = 0 ∧ x.w.paths.peer = 0 then (s.complete x).modCtx x (·.beginRegion x)
    else s.holdAt x .regionStart { stage := stRegion }
  else if x.w.region.depth < 7 then
    (s.complete x).modCtx x (fun w => { w with region := { w.region with depth := w.region.depth + 1 } })
  else s.abortLater x.core x.slot abNest 0

def execRgbeg (f : LX) (s : State) : Result := issue (.rgbeg f) lateGanged rgbegEff s

/-! ## RGEND (R318) -/

/-- The region has committed at position p (step 4): FINAL to banks and partners, the locked lines, the acquire steps,
ARS and dst. -/
def commitAt (x : Ctx) (p : Nat) (s : State) : State :=
  let r := x.w.region
  let id := x.region
  let s1 := s.modCore x.core (fun k => { k with l1 := k.l1.filter (fun l => l.lock ≠ some x.slot) })
  let s2 := s1.modCtx x (fun w =>
    { w with region :=
        { w.region with
          st := 3, depth := 0, partners := [], part := 0, reason := 0, detail := 0, cause := none, reads := [], writes := [], toVisit := [],
          granted := [], floor := 0, ceiling := 0, commits := (w.region.commits + 1) % 2 ^ 32 } })
  let s3 := (s2.pushAll (r.granted.map (fun b => .finalMsg id b p))).pushAll (r.partners.map (fun q => .finalAtPartner q.region id p))
  let s4 := (s3.acquire x.core x.w.tenant domDevice).count x.core x.slot 0x0E 1
  (s4.complete x).modCtx x (fun w => w.deliver x.cyc x.draw 2 (x.out scalarLane 2 p))

/-- Step 3: the position, or the abort. -/
def decideCommit (x : Ctx) (s : State) : State :=
  let r := x.w.region
  let p := max r.alo.toNat r.floor
  let top := if r.granted.isEmpty then r.ahi.toNat else min r.ahi.toNat r.ceiling
  if top < p then s.abortNow x.core x.slot abConflict 0 else commitAt x p s

/-- Step 2: the banks are visited in ascending order, one at a time. -/
def visitBanks (x : Ctx) (s : State) : State :=
  match s.banksOf x.region with
  | [] => decideCommit x s
  | b :: rest =>
    ((s.holdAt x .event { stage := stCommit }).modCtx x (fun w =>
      { w with region := { w.region with toVisit := b :: rest, granted := [], floor := 0, ceiling := noBound.toNat } })).push
      (.commitVisit x.region b)

def rgendEff (x : Ctx) (s : State) : State :=
  if x.prog.releasing then (releaseOn x false s).cont x (visitBanks x)
  else if x.prog.stage = stDecide then decideCommit x s
  else if x.w.region.depth = 0 then s.complete x
  else if 2 ≤ x.w.region.depth then
    (s.complete x).modCtx x (fun w => { w with region := { w.region with depth := w.region.depth - 1 } })
  else
    let s1 := s.modCtx x (fun w => { w with region := { w.region with st := 2 } })
    (release x false {} [domDevice] s1).cont x (visitBanks x)

def execRgend (f : LX) (s : State) : Result := issue (.rgend f) lateGanged rgendEff s

/-! ## RGABT, RGBND, RGNAR, RGST (R317, R325, R326) -/

def rgabtEff (x : Ctx) (s : State) : State :=
  if x.lanes.isEmpty || !x.w.region.active then s.complete x
  else (s.complete x).abortLater x.core x.slot abExplicit (x.a 1 scalarLane % 256)

def execRgabt (f : LX) (s : State) : Result := issue (.rgabt f) noLate rgabtEff s

def rgbndEff (x : Ctx) (s : State) : State :=
  if x.lanes.isEmpty then s.complete x
  else (s.complete x).modCtx x (fun w =>
    w.deliver x.cyc x.draw 2 (x.out scalarLane 4 (x.w.region.alo.toNat + 2 ^ 64 * x.w.region.ahi.toNat)))

def execRgbnd (f : LX) (s : State) : Result := issue (.rgbnd f) noLate rgbndEff s

def rgnarEff (x : Ctx) (s : State) : State :=
  if x.lanes.isEmpty || !x.w.region.active then s.complete x
  else (s.complete x).narrowBounds x.core x.slot 0 (BitVec.ofNat 64 (x.a 2 scalarLane))

def execRgnar (f : LX) (s : State) : Result := issue (.rgnar f) noLate rgnarEff s

/-- The items of RGST. -/
def Region.item (r : Region) (n : Nat) : Nat :=
  if n = 0 then r.ars else if n ≤ 9 then SMap.get 0 n r.aborts else r.commits

def rgstEff (x : Ctx) (s : State) : State :=
  if x.lanes.isEmpty then s.complete x
  else (s.complete x).modCtx x (x.writeScalar (x.w.region.item (x.f.mb 3 0)))

def execRgst (f : LX) (s : State) : Result := issue (.rgst f) noLate rgstEff s

/-! ## Visits and grants (R318) -/

/-- The lines on which a region has entries at a bank. -/
def Bank.linesOf (b : Bank) (region : Nat) : NSet :=
  (b.conflicts.filter (fun e => e.region = region)).foldl (fun m e => NSet.add e.line m) []

/-- The buffered bytes of a region's written lines that are anchored at a bank. -/
def State.buffered (s : State) (region bank : Nat) : SMap Byte :=
  let lines := ((s.core? (regionCore region)).map (·.l1)).getD []
  (lines.filter (fun l => decide (l.lock = some (regionSlot region) ∧ s.anchor l.line = bank))).foldl (fun m l =>
    l.dirtyCells.foldl (fun m c => SMap.put c.1 c.2 m) m) []

/-- COMMIT_VISIT: the visit reaches the bank and waits for its grant. -/
def execCommitVisit (region bank : Nat) (s : State) : Result :=
  let s1 := s.taken (.commitVisit region bank)
  match s1.regionWarp? region with
  | none => .next s1
  | some w =>
    if w.region.toVisit.head? ≠ some bank || (s1.bank bank).visits.any (fun v => v.region = region) then .next s1
    else
      let v : Visit := { region := region, lines := (s1.bank bank).linesOf region, bytes := s1.buffered region bank }
      .next ((s1.modBank bank (fun b => { b with visits := b.visits ++ [v] })).push (.commitGrant region bank))

/-- A bank may grant a visit: no other region holds its grant on the lines, and no earlier visit that still waits shares
one. -/
def Bank.mayGrant (b : Bank) (v : Visit) : Bool :=
  let earlier := b.visits.takeWhile (fun u => u.region ≠ v.region)
  !b.retiring && !(b.conflicts.any (fun e => e.grant && decide (e.region ≠ v.region) && v.lines.contains e.line)) &&
    !(earlier.any (fun u => !u.granted && u.lines.any v.lines.contains))

/-- The lines that a region has written, among those of a bank. -/
def Bank.written (b : Bank) (region : Nat) : NSet :=
  (b.conflicts.filter (fun e => e.region = region && e.write)).foldl (fun m e => NSet.add e.line m) []

/-- The halves of a written line that its bytes touch. -/
def Visit.halves (v : Visit) (line : Nat) : List Nat :=
  ((v.bytes.filter (fun e => e.1 / 128 = line)).map (fun e => e.1 / 64 % 2)).dedup

/-- The floor of a bank's grant, and its ceiling (R318). -/
def State.grantFloor (s : State) (bank region : Nat) : Nat :=
  (((s.bank bank).conflicts.filter (fun e => e.region = region)).map (fun e =>
    if e.write then ((s.dir? e.line).map (fun d => max d.wpos.toNat d.rpos.toNat + 1)).getD 0 else e.rver.toNat + 1)).foldl max 0
def State.grantCeiling (s : State) (bank region : Nat) : Nat :=
  (((s.bank bank).conflicts.filter (fun e => e.region = region)).map (fun e => e.hi.toNat)).foldl min noBound.toNat

/-- The bank has answered a visit: the next bank is visited, or the region decides. -/
def Warp.grantedBy (w : Warp) (bank floor ceiling : Nat) : Warp :=
  let rest := w.region.toVisit.drop 1
  let w1 : Warp :=
    { w with region :=
        { w.region with
          toVisit := rest, granted := NSet.add bank w.region.granted, floor := max w.region.floor floor,
          ceiling := min w.region.ceiling ceiling } }
  if rest.isEmpty then
    { w1 with groups := w1.groups.map (fun g =>
        if g.prog.stage = stCommit then { g with hold := .none, prog := { stage := stDecide } } else g) }
  else w1

/-- COMMIT_GRANT: the bank sets GRANT and begins to hold requests to the lines; with every replica of a written line
collapsed, and no half that it writes with the host (R271), it returns its floor and ceiling. -/
def execCommitGrant (region bank : Nat) (s : State) : Result :=
  let s1 := s.taken (.commitGrant region bank)
  match s1.regionWarp? region, (s1.bank bank).visits.find? (fun v => v.region = region) with
  | some w, some v =>
    if w.region.granted.contains bank || !(v.granted || (s1.bank bank).mayGrant v) then .next s1
    else
      let s2 := s1.modBank bank (fun b =>
        { b with
          visits := b.visits.map (fun u => if u.region = region then { u with granted := true } else u),
          conflicts := b.conflicts.map (fun e => if e.region = region then { e with grant := true } else e) })
      let lines := (s2.bank bank).written region
      let dirs := lines.filterMap (fun l => (s2.dir? l).map (fun d => (l, d)))
      let copied := dirs.filter (fun d => !d.2.rmask.isEmpty || d.2.st != .resident)
      if !copied.isEmpty then
        .next (copied.foldl (fun s d => if d.2.st = .collapsing then s else s.pushOnce (.collapse d.1)) s2)
      else if dirs.any (fun d => d.2.hostStops d.1 (v.halves d.1) true) then
        .next (dirs.foldl (fun s d => s.askHost d.1 (v.halves d.1) true) s2)
      else
        let s3 := s2.modWarp (regionCore region) (regionSlot region) (fun w =>
          w.grantedBy bank (s2.grantFloor bank region) (s2.grantCeiling bank region))
        .next (match w.region.toVisit.drop 1 with
          | b :: _ => s3.push (.commitVisit region b)
          | [] => s3)
  | _, _ => .next s1

/-! ## FINAL and RELEASE (R319, R320, R324) -/

/-- Banks that wait to be retired look again (R431). -/
def State.retryRetirements (s : State) : State :=
  (s.caldera.banks.filter (fun b => b.2.retiring)).foldl (fun s b => s.pushOnce (.bankRetirement b.1)) s

/-- The requests that a bank has held for lines are served, and its waiting visits look again. -/
def State.freeLines (s : State) (bank : Nat) (lines : NSet) : State :=
  ((s.replayAll lines).retryVisits bank).retryRetirements

/-- Step 2 of R319: other regions that have read a written line are bounded below p. -/
def State.boundReaders (s : State) (bank region p : Nat) (line : Nat) : State :=
  let readers := (s.bank bank).conflicts.filter (fun e => decide (e.line = line ∧ e.region ≠ region) && e.read)
  let hi := posBelow (BitVec.ofNat 64 p)
  readers.foldl (fun s e =>
    (s.modBank bank (fun b => b.refresh e.region 0 hi)).push
      (.narrowMsg { src := bank, region := e.region, partner := noPartner, pre := false, fol := false, lo := 0, hi := hi })) s

/-- FINAL at a bank (R319). -/
def execFinalMsg (region bank p : Nat) (s : State) : Result :=
  let s1 := s.taken (.finalMsg region bank p)
  match (s1.bank bank).visits.find? (fun v => v.region = region) with
  | none => .next s1
  | some v =>
    if !v.granted then .next s1
    else
      let written := (s1.bank bank).written region
      let s2 := written.foldl (fun s line =>
        (s.performWrite line (v.bytes.filter (fun e => e.1 / 128 = line))).modDir line (fun d => { d with wpos := BitVec.ofNat 64 p })) s1
      let onlyRead := v.lines.filter (fun l => !written.contains l)
      let s3 := onlyRead.foldl (fun s line => s.modDir line (fun d => { d with rpos := maxPos d.rpos (BitVec.ofNat 64 p) })) s2
      let s4 := written.foldl (fun s line => s.boundReaders bank region p line) s3
      .next ((s4.modBank bank (·.free region)).freeLines bank v.lines)

/-- FINAL at a partner (R320). -/
def execFinalAtPartner (partner region p : Nat) (s : State) : Result :=
  let s1 := s.taken (.finalAtPartner partner region p)
  match s1.regionWarp? partner with
  | none => .next s1
  | some w =>
    match w.region.partners.find? (fun q => q.region = region) with
    | none => .next s1
    | some q =>
      let c := regionCore partner
      let slot := regionSlot partner
      let pos : DWord := BitVec.ofNat 64 p
      let hi : DWord := if q.fol then posBelow pos else noBound
      -- nothing lies above the last position
      if q.pre && pos == noBound then .next (s1.abortLater c slot abConflict 0)
      else .next (s1.narrowBounds c slot (if q.pre then pos + 1 else 0) hi)

/-- RELEASE (R322, R324): the region's entries and grants at the bank are freed. -/
def execReleaseMsg (region bank : Nat) (s : State) : Result :=
  let s1 := s.taken (.releaseMsg region bank)
  if (s1.regionWarp? region).isSome then .next s1
  else
    let lines := (s1.bank bank).linesOf region
    .next ((s1.modBank bank (·.free region)).freeLines bank lines)

/-- REGION_ABORT (R322): the first cause that has arrived takes effect; where a trap is pending, with its entry (R417). -/
def execRegionAbort (core slot : Nat) (s : State) : Result :=
  let s1 := s.taken (.regionAbort core slot)
  match (s1.warp? core slot).bind (fun w => if w.trap.isSome then none else w.region.cause) with
  | some (reason, detail) => .next (s1.abortNow core slot reason detail)
  | none => .next s1

end Sys2Proof.Machine
end

