-- ==== Sys2Proof/Machine/Tables.lean ====
section
/-! DEFINITION. The table instructions (R393 to R414): TLBINV, CCTL, TBLRD and TBLWR over the items of management space, the directory probe (R404) and the writing of a partition entry (R401). -/

namespace Sys2Proof.Machine

/-! ## TLBINV (R412) -/

/-- Stages: the accesses in flight are waited for; a cache operation's acknowledgements; a table write. -/
def stTlb : Nat := 21
def stCache : Nat := 22
def stTable : Nat := 23

/-- Removes cached translations from every TLB and translation cache. -/
def State.dropTranslations (s : State) (which : TlbEntry → Bool) : State :=
  let keep (l : List TlbEntry) : List TlbEntry := l.filter (fun e => !which e)
  { s with
    cores := s.cores.map (fun e => (e.1, { e.2 with tlb := keep e.2.tlb })),
    caches := s.caches.map (fun e => (e.1, keep e.2)) }

/-- A number that names an access of a warp on a core. -/
def accessName (c slot id : Nat) : Nat := id * 2 ^ 17 + c * 2 ^ 6 + slot

/-- What TLBINV waits for (R412). -/
inductive InFlight where
  /-- An access of a warp. -/
  | access (c slot id : Nat)
  /-- A request of a core's copy engine to another module. -/
  | engine (c id : Nat)
  /-- A request at Caldera that belongs to no access: MONW's check. -/
  | check (id : Nat)
deriving DecidableEq, Repr

/-- Its number among the values of a held TLBINV. -/
def InFlight.code : InFlight → Nat
  | .access c slot id => 4 * accessName c slot id
  | .engine c id => 4 * (id * 2 ^ 11 + c) + 1
  | .check id => 4 * id + 2

/-- What a number names. -/
def InFlight.ofCode (n : Nat) : InFlight :=
  if n % 4 = 0 then .access (n / 4 / 2 ^ 6 % 2 ^ 11) (n / 4 % 2 ^ 6) (n / 4 / 2 ^ 17)
  else if n % 4 = 1 then .engine (n / 4 % 2 ^ 11) (n / 4 / 2 ^ 11)
  else .check (n / 4)

/-- Cached translations that a test picks, in every TLB and translation cache. -/
def State.cachedBy (s : State) (which : TlbEntry → Bool) : List TlbEntry :=
  (s.cores.flatMap (fun e => e.2.tlb) ++ s.caches.flatMap Prod.snd).filter which

/-- A page is translated by what a TLBINV names, or by an entry that it removes. -/
def usesRemoved (which : TlbEntry → Bool) (removed : List TlbEntry) (tenant page : Nat) : Bool :=
  which { tenant := tenant, va := page * 2 ^ 17, bits := 17, pte := 0 } || removed.any (fun e => e.covers tenant (page * 2 ^ 17))

/-- Accesses of a tenant's warps that have used a removed translation and are not performed, with those of its copy-engine commands and
MONW's checks. DEDUCED, log entry 48. -/
def State.translated (s : State) (tenant : Nat) (used : Nat → Bool) : List InFlight :=
  s.cores.flatMap (fun k =>
    let mine := k.2.warps.filter (fun e => decide (e.2.tenant = tenant))
    mine.flatMap (fun e => (e.2.accesses.filter (fun a => a.pages.any used && !a.returned)).map (fun a => .access k.1 e.1 a.id)) ++
      (k.2.nyrus.filter (fun r => r.engine && mine.any (fun e => decide (e.1 = r.slot)) && used (r.va / 2 ^ 17))).map (fun r =>
        .engine k.1 r.id)) ++
  (s.caldera.requests.filter (fun e =>
    (match e.2.kind with | .monitor _ _ _ => true | _ => false) && decide (e.2.tenant = tenant) && used (e.2.va / 2 ^ 17))).map (fun e =>
      .check e.1)

/-- It has been performed. -/
def State.isOver (s : State) : InFlight → Bool
  | .access c slot id => ((s.warp? c slot).map (fun w => w.hasReturned id)).getD true
  | .engine c id => !((s.core? c).map (fun k => k.nyrus.any (fun r => decide (r.id = id)))).getD false
  | .check id => (SMap.get? id s.caldera.requests).isNone

/-- All that the values of a held TLBINV name has been performed. -/
def State.accessesReturned (s : State) (l : List Nat) : Bool := l.all (fun n => s.isOver (.ofCode n))

/-- The removal, with the wait for every access that used a removed translation. -/
def tlbinvGo (x : Ctx) (tenant : Nat) (which : TlbEntry → Bool) (s : State) : State :=
  let s1 := s.dropTranslations which
  let l := (s1.translated tenant (usesRemoved which (s.cachedBy which) tenant)).map InFlight.code
  if s1.accessesReturned l then s1.complete x else s1.holdAt x .settles { stage := stTlb, vals := l }

/-- TLBINV: the release steps at DEVICE, then the removal. `which` reads the values the instruction issued with. -/
def tlbinvEff (vals : Ctx → List Nat) (tenant : List Nat → Nat) (which : List Nat → TlbEntry → Bool) (x : Ctx) (s : State) : State :=
  let go (v : List Nat) (s : State) : State := tlbinvGo x (tenant v) (which v) s
  if x.prog.releasing then (releaseOn x false s).cont x (go x.prog.vals)
  else if x.prog.stage = stTlb then s.complete x
  else if x.lanes.isEmpty then s.complete x
  else (release x false { vals := vals x } [domDevice] s).cont x (go (vals x))

/-- TLBINV.page: the page that holds the address in srcA, for the warp's tenant. -/
def execTlbinvPage (f : LX) (s : State) : Result :=
  issue (.tlbinvPage f) noLate
    (tlbinvEff (fun x => [x.w.tenant, x.a 2 scalarLane]) (valAt · 0) (fun v e => e.covers (valAt v 0) (valAt v 1))) s

/-- TLBINV.all: every translation of the warp's tenant. -/
def execTlbinvAll (f : LX) (s : State) : Result :=
  issue (.tlbinvAll f) noLate (tlbinvEff (fun x => [x.w.tenant]) (valAt · 0) (fun v e => decide (e.tenant = valAt v 0))) s

/-- TLBINV.glob: a tenant above 15, and a tenant other than 0 that issues it. -/
def lateGlob (x : Ctx) (_ : State) : Late :=
  { illegalOperand := decide (15 < x.b 1 scalarLane), privilege := decide (x.w.tenant ≠ 0) }

/-- TLBINV.glob: every translation of the tenant in srcB. -/
def execTlbinvGlob (f : LX) (s : State) : Result :=
  issue (.tlbinvGlob f) lateGlob
    (tlbinvEff (fun x => [x.b 1 scalarLane]) (valAt · 0) (fun v e => decide (e.tenant = valAt v 0))) s

/-! ## CCTL (R411) -/

/-- CCTL.icinv: the core's instruction cache is empty (R93). -/
def icinvEff (x : Ctx) (s : State) : State :=
  if x.lanes.isEmpty then s.complete x else (s.modCore x.core (fun k => { k with icache := [] })).complete x

def execCctlIcinv (f : LX) (s : State) : Result := issue (.cctlIcinv f) noLate icinvEff s

/-- Every write of a list is acknowledged to whom waits for it. -/
def State.ackAll (s : State) (ids : NSet) : State :=
  { s with caldera := { s.caldera with
      requests := s.caldera.requests.map (fun e => if ids.contains e.1 then (e.1, { e.2 with ack := true }) else e) } }

/-- Waits for write-backs, or goes on. -/
def cctlWait (x : Ctx) (ids : NSet) (vals : List Nat) (go : State → State) (s : State) : State :=
  if ids.isEmpty then go s else (s.ackAll ids).holdAt x .acks { stage := stCache, acks := ids, vals := vals }

/-- CCTL.l1wb and CCTL.l1inv: every dirty sector is written back; with `drop`, the tenant's unlocked lines go. -/
def l1Eff (drop : Bool) (x : Ctx) (s : State) : State :=
  if x.prog.stage = stCache then (if x.prog.acks.isEmpty then s.complete x else s.holdAt x .acks x.prog)
  else if x.lanes.isEmpty then s.complete x
  else
    let (s1, ids) := s.flushTenant x.core x.slot x.w.tenant
    cctlWait x ids [] (fun s => s.complete x) (if drop then s1.dropTenant x.core x.w.tenant else s1)

def execCctlL1wb (f : LX) (s : State) : Result := issue (.cctlL1wb f) noLate (l1Eff false) s
def execCctlL1inv (f : LX) (s : State) : Result := issue (.cctlL1inv f) noLate (l1Eff true) s

/-- Writes back and invalidates a tenant's unlocked copy of a line; the writes of the line that are on their way. -/
def State.lineBack (s : State) (c by_ tenant line : Nat) : State × NSet :=
  let s1 :=
    match s.l1Find c tenant line with
    | some l => (s.writeBack c by_ l true).1.modCore c (fun k => { k with l1 := k.l1.filter (fun l => !l.isCopy tenant line) })
    | none => s
  (s1, (s1.caldera.requests.filter (fun e =>
    match e.2.kind with
    | .write _ => decide (e.2.core = c ∧ e.2.tenant = tenant ∧ e.2.line = line)
    | _ => false)).map Prod.fst)

/-- The line leaves Caldera, where R264 lets it. -/
def State.evictIfMay (s : State) (line : Nat) : State := if s.mayEvict line then s.evictLine line else s

/-- CCTL.linewb and, with `evict`, CCTL.evict, which goes on at the line's anchor once its bytes are there. -/
def lineEff (evict : Bool) (x : Ctx) (s : State) : State :=
  let go (line : Nat) (s : State) : State := (if evict then s.evictIfMay line else s).complete x
  if x.prog.stage = stCache then (if x.prog.acks.isEmpty then go (valAt x.prog.vals 0) s else s.holdAt x .acks x.prog)
  else match x.lanes with
    | [] => s.complete x
    | low :: _ =>
      let va := x.a 2 scalarLane
      match s.translate x.core x.w.tenant va .read x.w.special.priv with
      | .absent => s.lanePage x true va low accRead
      | .fatal => s.lanePage x false va low accRead
      | .stops line => (s.askLine line false [0, 1] x.w.tenant).waitAt x (.lineStops line false)
      | .ok pa _ =>
        let line := lineOf pa
        let (s1, ids) := (s.keepPages x [va]).lineBack x.core x.slot x.w.tenant line
        cctlWait x ids [line] (go line) s1

def execCctlLinewb (f : LX) (s : State) : Result := issue (.cctlLinewb f) noLate (lineEff false) s
def execCctlEvict (f : LX) (s : State) : Result := issue (.cctlEvict f) noLate (lineEff true) s

/-! ## The items of management space (R393) -/

/-- An item, by what its offset names. -/
inductive TableItem where
  | troot (tenant : Nat)
  | poisons (tenant : Nat)
  | region (tenant entry : Nat)
  | partition (core quad : Nat)
  | liveCore (core : Nat)
  | placement (bank : Nat)
  | channelAt (position : Nat)
  | watermark
  /-- Entries `e` and `e + 1` of a row-remap copy. -/
  | remap (channel copy entry : Nat)
  | probe
  | probeWord (word : Nat)
  /-- A word of a monitor-table entry. -/
  | monitor (core entry word : Nat)
  | mgen
  | lmBase
  | threshold
  | fill
  | pcfg (core quad counter : Nat)
  | pc (core quad counter : Nat)
  | lost (core quad : Nat)
  /-- Two error counts: the offset of the word. -/
  | errors (offset : Nat)
deriving DecidableEq, Repr

/-- The item at an offset below 0x0100_0000: the functions' tables. -/
def tenantItem (o : Nat) : Option TableItem :=
  let t := o / 0x100000
  let r := o % 0x100000
  if r = 0 then some (.troot t)
  else if r = 8 then some (.poisons t)
  else if 0x1000 ≤ r ∧ r < 0x1800 then some (.region t ((r - 0x1000) / 8))
  else none

/-- The item of the maps, from 0x0200_0000 on. -/
def mapItem (o : Nat) : Option TableItem :=
  if o < 0x02000000 + 8 * Config.cores then some (.liveCore ((o - 0x02000000) / 8))
  else if 0x02100000 ≤ o ∧ o < 0x02100000 + 8 * bankCount then some (.placement ((o - 0x02100000) / 8))
  else if 0x02200000 ≤ o ∧ o < 0x02203000 then some (.channelAt ((o - 0x02200000) / 8))
  else if o = 0x02203000 then some .watermark
  else if 0x02300000 ≤ o ∧ o < 0x02300000 + 0x800 * Config.channels ∧ o % 0x800 < 0x600 then
    some (.remap ((o - 0x02300000) / 0x800) (o % 0x800 / 0x200) (o % 0x200 / 4))
  else none

/-- The item of a quadrant's counters, from 0x1000_0000 on. -/
def counterItem (o : Nat) : Option TableItem :=
  let n := (o - 0x10000000) / 0x100
  let r := o % 0x100
  if 4 * Config.cores ≤ n then none
  else if r < 0x20 then some (.pcfg (n / 4) (n % 4) (r / 8))
  else if r < 0x40 then some (.pc (n / 4) (n % 4) ((r - 0x20) / 8))
  else if r = 0x40 then some (.lost (n / 4) (n % 4))
  else none

/-- The item of the error counts, from 0x1100_0000 on. -/
def errorItem (o : Nat) : Option TableItem :=
  if o < 0x11000000 + 0x80 * Config.cores then some (.errors o)
  else if 0x11100000 ≤ o ∧ o < 0x11100000 + 0x20 * bankCount then some (.errors o)
  else if 0x11200000 ≤ o ∧ o < 0x11200000 + 0x20 * Config.channels then some (.errors o)
  else if 0x11300000 ≤ o ∧ o < 0x11300000 + 0x20 * 74 then some (.errors o)
  else none

/-- The item at an offset; none where the offset is unassigned or no multiple of 8. DEDUCED, log entry 53. -/
def tableItem (o : Nat) : Option TableItem :=
  if o % 8 ≠ 0 then none
  else if o < 0x01000000 then tenantItem o
  else if o < 0x01000000 + 0x40 * Config.cores then
    (if o % 0x40 < 0x20 then some (.partition ((o - 0x01000000) / 0x40) (o % 0x40 / 8)) else none)
  else if o < 0x02000000 then none
  else if o < 0x03000000 then mapItem o
  else if o = 0x03000000 then some .probe
  else if o < 0x03000038 then some (.probeWord ((o - 0x03000008) / 8))
  else if o < 0x04000000 then none
  else if o < 0x04000000 + 0x400 * Config.cores then
    some (.monitor ((o - 0x04000000) / 0x400) (o % 0x400 / 16) (o % 16 / 8))
  else if o = 0x05000000 then some .mgen
  else if o = 0x05000008 then some .lmBase
  else if o = 0x05000010 then some .threshold
  else if o = 0x05000018 then some .fill
  else if o < 0x10000000 then none
  else if o < 0x11000000 then counterItem o
  else errorItem o

/-- An item that TBLWR may write. -/
def TableItem.writable : TableItem → Bool
  | .troot _ | .region _ _ | .partition _ _ | .remap _ _ _ | .probe | .threshold | .fill | .pcfg _ _ _ | .pc _ _ _ | .lost _ _
  | .errors _ => true
  | _ => false

/-- The item that a privileged warp of a tenant may reach (R394). -/
def State.reaches (s : State) (tenant : Nat) (writes : Bool) (i : TableItem) : Bool :=
  let owns (c q : Nat) : Bool := decide (((s.core? c).map (fun k => (k.quad q).tenant)).getD 0 = tenant)
  decide (tenant = 0) ||
    match i with
    | .troot t | .poisons t | .region t _ => decide (t = tenant)
    | .pcfg c q _ | .pc c q _ | .lost c q => owns c q
    | .probe | .probeWord _ => true
    | .mgen => !writes
    | _ => false

/-- The checks of R400 on an entry with V set. -/
def regionOk (v : Nat) : Bool :=
  let k := bitsOf v 62 57
  !v.testBit 63 || (decide (17 ≤ k ∧ k ≤ 56) && decide (bitsOf v 55 17 * 2 ^ 17 % 2 ^ k = 0) && decide (bitsOf v 16 14 ≤ 4))

/-! ## Reading an item -/

/-- A directory entry as the probe sees it (R404). -/
def State.snapshotOf (s : State) (line : Nat) : BitVec 384 :=
  let floor := (s.bank (s.anchor line)).floor.toNat
  match s.dir? line with
  | none => BitVec.ofNat 384 (line * 2 ^ 331 + floor * 2 ^ 64 + floor)
  | some d =>
    let st := match d.st with | .resident => 1 | .moving => 2 | .collapsing => 3
    let bit (b : Bool) (n : Nat) : Nat := if b then 2 ^ n else 0
    BitVec.ofNat 384 (line * 2 ^ 331 + d.hold % 2 ^ 13 * 2 ^ 318 + maskOf d.rmask * 2 ^ 276 + st * 2 ^ 274 + bit d.pin 273 +
      bit d.stream 272 + bit d.apin 271 + d.astamp % 2 ^ 13 * 2 ^ 258 + d.use % 16 * 2 ^ 254 + d.pull % 64 * 2 ^ 248 +
      d.h1 % 4 * 2 ^ 246 + d.h0 % 4 * 2 ^ 244 + bit (!d.watch.isEmpty) 243 + d.mtgt.getD 0 % 2 ^ 13 * 2 ^ 230 +
      d.rpos.toNat * 2 ^ 64 + d.wpos.toNat)

/-- A partition entry (R401). -/
def Quad.partition (q : Quad) : Nat :=
  (if q.en then 2 ^ 44 else 0) + q.tenant % 16 * 2 ^ 40 + q.ways.toNat * 2 ^ 32 + q.banks.toNat

/-- A placement-map entry (R403). -/
def State.placementEntry (s : State) (g : Nat) : Nat :=
  let b := s.bank g
  (if b.listed then 2 ^ 15 else 0) + (if b.redir then 2 ^ 14 else 0) + (if b.live then 2 ^ 13 else 0) + b.target % 2 ^ 13

/-- A monitor-table entry (R405). -/
def MonitorEntry.word (m : MonitorEntry) : Nat :=
  2 ^ 127 + m.tenant % 16 * 2 ^ 123 + m.waiters % 128 * 2 ^ 116 + m.line * 2 ^ 63

/-- The value of an item, for a warp. PROBE is written only: what a read of it gives is not said. -/
def State.readItem (s : State) (w : Warp) (i : TableItem) : Nat :=
  let core (c : Nat) : Core := (s.core? c).getD {}
  match i with
  | .troot t => (s.tenant t).troot.toNat
  | .poisons t => (s.tenant t).poisons.toNat
  | .region t n => (SMap.get 0 n (s.tenant t).regions).toNat
  | .partition c q => ((core c).quad q).partition
  | .liveCore c => (core c).st % 4 * 2 ^ 18 + (core c).lnum % 2 ^ 16
  | .placement g => s.placementEntry g
  | .channelAt j => (s.hbm.entry j).st % 4 * 2 ^ 12 + (s.hbm.entry j).ch % 2 ^ 11
  | .watermark => s.hbm.watermark
  | .remap ch k e => ((s.hbm.channel ch).remapAt k e).toNat + 2 ^ 32 * ((s.hbm.channel ch).remapAt k (e + 1)).toNat
  | .probe => (Config.freeWord s.tick).toNat + 2 ^ 32 * (Config.freeWord (s.tick + 2 ^ 32)).toNat
  | .probeWord n => w.probe.toNat / 2 ^ (64 * n) % 2 ^ 64
  | .monitor c m n => (((core c).monitors.find? (fun e => e.place = m)).map MonitorEntry.word).getD 0 / 2 ^ (64 * n) % 2 ^ 64
  | .mgen => s.modul.mgen.toNat
  | .lmBase => s.modul.lmBase.toNat
  | .threshold => s.modul.threshold
  | .fill => s.modul.fill
  | .pcfg c q k => (((core c).quad q).pcfg.getD k 0).toNat
  | .pc c q k => ((core c).quad q).pcOld.getD k 0
  | .lost c q => ((core c).quad q).lost
  | .errors o => (SMap.get 0 o s.modul.errors).toNat + 2 ^ 32 * (SMap.get 0 (o + 4) s.modul.errors).toNat

/-! ## TBLRD and TBLWR -/

/-- The checks of R394 and R413 on an offset. -/
def lateTable (writes : Bool) (x : Ctx) (s : State) : Late :=
  let o := x.a 2 scalarLane
  match tableItem o with
  | none => { handle := some o }
  | some i =>
    let bad := writes && (!i.writable || (match i with | .region _ _ => !regionOk (x.b 2 scalarLane) | _ => false))
    { privilege := !s.reaches x.w.tenant writes i, handle := if bad then some o else none }

/-- TBLRD: a snapshot of the item goes to dst. -/
def tblrdEff (x : Ctx) (s : State) : State :=
  match x.lanes, tableItem (x.a 2 scalarLane) with
  | _ :: _, some i => (s.complete x).modCtx x (x.writePair (s.readItem x.w i))
  | _, _ => s.complete x

def execTblrd (f : LX) (s : State) : Result := issue (.tblrd f) (lateTable false) tblrdEff s

/-- A policy value within its limits (R459). -/
def clamp (lo hi v : Nat) : Nat := max lo (min hi v)

/-- Writes an item whose write takes one step. A performance counter takes its new value with the next cycle (R390). DEDUCED, log entry 49. -/
def State.writeItem (s : State) (i : TableItem) (v : Nat) : State :=
  let quad (c q : Nat) (f : Quad → Quad) : State := s.modQuad c q f
  match i with
  | .troot t =>
    (s.modTenant t (fun tn => { tn with troot := BitVec.ofNat 64 v &&& 0x0FFFFFFFFFFE0001 })).dropTranslations (fun e => decide (e.tenant = t))
  | .region t n => s.modTenant t (fun tn => { tn with regions := SMap.set 0 n (BitVec.ofNat 64 v &&& 0xFEFFFFFFFFFFFC00) tn.regions })
  | .remap ch k e =>
    s.modChannel ch (fun c => { c with
      remap := SMap.set 0 (128 * k + e + 1) (BitVec.ofNat 32 (v / 2 ^ 32)) (SMap.set 0 (128 * k + e) (BitVec.ofNat 32 v) c.remap) })
  | .threshold => { s with modul := { s.modul with threshold := clamp 2 15 (v % 16) } }
  | .fill => { s with modul := { s.modul with fill := clamp 1 8 (v % 16) } }
  | .pcfg c q k => quad c q (fun q => { q with pcfgSet := q.pcfgSet.set k (some (BitVec.ofNat 32 v)) })
  | .pc c q k => quad c q (fun q => { q with pcSet := q.pcSet.set k (some (v % 2 ^ 48)) })
  | .lost c q => quad c q (fun q => { q with lost := v % 2 ^ 48 })
  | .errors o => { s with modul := { s.modul with errors := SMap.del o (SMap.del (o + 4) s.modul.errors) } }
  | _ => s

/-- A write of a partition entry on its way. -/
def writesPartition (c q : Nat) : Instr → Bool
  | .partitionWrite a b _ => decide (a = c ∧ b = q)
  | _ => false

/-- A partition entry has no write on its way. -/
def State.partitioned (s : State) (c q : Nat) : Bool := !(s.pending ++ s.later).any (writesPartition c q)

/-- TBLWR. A partition entry and the probe are written in steps of their own, for which the group is held; in a region, whose own lines a
partition write may wait for, for one step alone. -/
def tblwrEff (x : Ctx) (s : State) : State :=
  if x.prog.stage = stTable then s.complete x
  else
    let v := x.b 2 scalarLane
    let later (e : Instr) (h : Hold) : State := (s.push e).holdAt x h { stage := stTable }
    match x.lanes, tableItem (x.a 2 scalarLane) with
    | _ :: _, some (.partition c q) => later (.partitionWrite c q (BitVec.ofNat 64 v)) (if x.w.region.active then .none else .partition c q)
    | _ :: _, some .probe => later (.directoryProbe x.core x.slot v) .none
    | _ :: _, some i => (s.writeItem i v).complete x
    | _, _ => s.complete x

def execTblwr (f : LX) (s : State) : Result := issue (.tblwr f) (lateTable true) tblwrEff s

/-- DIRECTORY_PROBE (R404): the snapshot of a line's entry at its anchor. -/
def execDirectoryProbe (core slot addr : Nat) (s : State) : Result :=
  let s1 := s.taken (.directoryProbe core slot addr)
  .next (s1.modWarp core slot (fun w => { w with probe := s1.snapshotOf (bitsOf addr 59 7) }))

/-! ## Partitions (R401) -/

/-- The lines of a way, and those of the ways that a quadrant owns. -/
def Core.linesOfWay (k : Core) (w : Nat) : List L1Line := k.l1.filter (fun l => decide (l.way = w))
def Core.linesOfQuad (k : Core) (q : Nat) : List L1Line := k.l1.filter (fun l => (k.quad q).ways.getLsbD l.way)

/-- Writes back and invalidates lines. -/
def State.dropLines (s : State) (c : Nat) (l : List L1Line) : State :=
  l.foldl (fun s x => (s.writeBack c 64 x false).1.modCore c (fun k => { k with l1 := dropFirst (· == x) k.l1 })) s

/-- One bit of a vector of ways or banks, cleared or set. -/
def withoutBit {n : Nat} (x : BitVec n) (i : Nat) : BitVec n := x &&& ~~~(BitVec.ofNat n (1 <<< i))
def withBit {n : Nat} (x : BitVec n) (i : Nat) : BitVec n := x ||| BitVec.ofNat n (1 <<< i)

/-- The other quadrant that owns a way. -/
def Core.otherOwner (k : Core) (q w : Nat) : Option Nat :=
  ([0, 1, 2, 3] : List Nat).find? (fun p => decide (p ≠ q) && (k.quad p).ways.getLsbD w)

/-- A way moves to a quadrant, if another one owns it: its lines are written back and invalidated first (R253). -/
def State.moveWay (s : State) (c q w : Nat) : State :=
  match s.core? c with
  | none => s
  | some k =>
    match k.otherOwner q w with
    | none => s
    | some p =>
      ((s.dropLines c (k.linesOfWay w)).modQuad c p (fun x => { x with ways := withoutBit x.ways w })).modQuad c q
        (fun x => { x with ways := withBit x.ways w })

/-- A named way that is to move holds a locked line, which is never evicted: the write waits for the line. DESIGN CHOICE, log entry 45. -/
def State.waysLocked (s : State) (c q : Nat) (ways : List Nat) : Bool :=
  match s.core? c with
  | none => false
  | some k => ways.any (fun w => (k.otherOwner q w).isSome && (k.linesOfWay w).any (fun l => l.lock.isSome))

/-- A bank that goes to another tenant holds zeros. -/
def State.clearBank (s : State) (c b tenant : Nat) : State :=
  s.modCore c (fun k =>
    if k.quads.any (fun q => q.banks.getLsbD b && decide (q.tenant ≠ tenant)) then { k with spads := zeroBanks [b] k.spads } else k)

/-- Exactly one quadrant owns a bank. -/
def State.changeBank (s : State) (c q b : Nat) : State :=
  ([0, 1, 2, 3] : List Nat).foldl (fun s p =>
    s.modQuad c p (fun x => { x with banks := if p = q then withBit x.banks b else withoutBit x.banks b })) s

/-- A bank moves to a quadrant, unless a block holds it; one that changes tenant is zero-filled (R248). -/
def State.moveBank (s : State) (c q b : Nat) : State :=
  let held := ((s.core? c).map (fun k => k.blocks.any (fun e => e.2.banks.contains b))).getD true
  if held then s
  else (s.clearBank c b (((s.core? c).map (fun k => (k.quad q).tenant)).getD 0)).changeBank c q b

/-- TENANT and EN, where the quadrant holds no warp: the lines of its ways go with its old tenant. -/
def State.setOwner (s : State) (c q tenant : Nat) (en : Bool) : State :=
  match s.core? c with
  | none => s
  | some k =>
    if (k.warps.any (fun e => decide (quadOf e.1 = q))) then s
    else
      let s1 := if (k.quad q).tenant = tenant then s else s.dropLines c ((k.linesOfQuad q).filter (fun l => l.lock.isNone))
      let s2 := (List.range 32).foldl (fun s b => if (k.quad q).banks.getLsbD b then s.clearBank c b tenant else s) s1
      s2.modQuad c q (fun x => { x with tenant := tenant, en := en })

/-- PARTITION_WRITE (R401): the moves are made together, once no named way holds a locked line; writes of one entry in their order. -/
def execPartitionWrite (core quad : Nat) (value : DWord) (s : State) : Result :=
  let s1 := s.taken (.partitionWrite core quad value)
  let v := value.toNat
  let ways := (List.range 8).filter (fun w => v.testBit (32 + w))
  if s1.later.any (writesPartition core quad) || s1.waysLocked core quad ways then .next (s1.retry (.partitionWrite core quad value))
  else
    let s2 := ((List.range 32).filter (fun b => v.testBit b)).foldl (fun s b => s.moveBank core quad b) s1
    let s3 := ways.foldl (fun s w => s.moveWay core quad w) s2
    .next ((s3.setOwner core quad (bitsOf v 43 40) (v.testBit 44)).dispatch)

end Sys2Proof.Machine
end

