-- ==== Sys2Proof/Machine/Retire.lean ====
section
/-! DEFINITION. Errors and retirement: scrub (R272), cores (R18, R20, R432), banks (R265), channels and the re-interleave (R268, R406). -/

namespace Sys2Proof.Machine

/-! ## Cores (R432) -/

/-- CORE_RETIREMENT: the core issues nothing more; its blocks are saved in full, or fail. DESIGN CHOICE, log entry 67. -/
def execCoreRetirement (core : Nat) (s : State) : Result :=
  let s1 := s.taken (.coreRetirement core)
  match s1.core? core with
  | none => .next s1
  | some k =>
    if k.st ≠ 0 then .next s1
    else
      let s2 : State :=
        { s1.modCore core (fun k => { k with st := 3, lnum := 0xFFFF }) with
          modul := { s1.modul with probation := NSet.add core s1.modul.probation } }
      .next ((SMap.keys k.blocks).foldl (fun s id =>
        match s.preemptBlock core id true with
        | (s3, true) => s3
        | (s3, false) => s3.failBlock core id) s2)

/-! ## Banks (R265) -/

/-- The lines that a bank holds or anchors. -/
def State.linesAt (s : State) (g : Nat) : NSet :=
  SMap.keys (s.caldera.lines.filter (fun e => decide (e.2.hold = g ∨ s.anchor e.1 = g)))

/-- Entries of conflict tables on lines. -/
def State.entriesOn (s : State) (lines : NSet) : List Conflict :=
  lines.flatMap (fun l => (s.bank (s.anchor l)).conflicts.filter (fun e => e.line = l))

/-- The bank that takes over: the next live one of the reticle in ascending order, wrapping; else the first live one. -/
def State.successor (s : State) (g : Nat) : Nat :=
  let n := Config.banksPerReticle
  let here := (List.range n).map (fun i => g / n * n + (g + 1 + i) % n)
  ((here ++ List.range bankCount).find? (fun b => decide (b ≠ g) && (s.bank b).live)).getD g

/-- Moves towards a bank are given up. -/
def State.cancelMovesTo (s : State) (g : Nat) : State :=
  (s.caldera.lines.filter (fun e => e.2.mtgt == some g)).foldl (fun s e => (s.cancelMove e.1).replay e.1) s

/-- The bank leaves the placement map: its lines and replicas are gone, its anchor duties pass. The floor of the successor
covers the positions of the lines it takes over. -/
def State.retireBank (s : State) (g : Nat) : State :=
  let t := s.successor g
  -- requests that it holds are replayed at the new anchor in the order in which they came
  let (held, s0) := s.takeHeld (s.linesAt g)
  let s1 := ((s.linesAt g).foldl (fun s l => s.evictLine l) s0).resend held
  let s2 := ((s1.bank g).lru).foldl (fun s l => s.dropReplica l (bankReticle g)) s1
  let f := (s2.bank g).floor
  let s3 := (s2.modBank g (fun b => { b with redir := true, live := false, target := t, retiring := false, lru := [], tags := [] })).modBank t
    (fun b => { b with floor := maxPos b.floor f })
  ({ s3 with modul := { s3.modul with retiredBanks := NSet.add g s3.modul.retiredBanks } } : State).cancelMovesTo g

/-- BANK_RETIREMENT (R265, R431): regions that the bank has not granted abort with FAULT; a grant completes first. DESIGN CHOICE, log entry 68. -/
def execBankRetirement (bank : Nat) (s : State) : Result :=
  let s1 := s.taken (.bankRetirement bank)
  if !(s1.bank bank).live then .next s1
  else
    let s2 := s1.modBank bank (fun b => { b with retiring := true })
    let lines := s2.linesAt bank
    let moving := s2.caldera.lines.any (fun e => e.2.st == .moving && (lines.contains e.1 || e.2.mtgt == some bank))
    let entries := s2.entriesOn lines
    let s3 := (entries.filter (fun e => !e.grant)).foldl (fun s e => s.abortRegion e.region abFault) s2
    if moving then .next (s3.push (.bankRetirement bank))
    else if entries.any (·.grant) then .next s3
    else .next (s3.retireBank bank)

/-! ## Channels (R268, R406) -/

/-- Rows of a channel: 2 GiB in granules of 256 bytes. -/
def channelRows : Nat := 2 ^ 23

/-- Positions of the list, and the participating ones. -/
def positions : List Nat := List.range Config.channels
def dataPositions : List Nat := List.range Config.participating

/-- The place of a channel that participates or is degraded. -/
def Hbm.placeOf (h : Hbm) (ch : Nat) : Option Nat := dataPositions.find? (fun j => decide ((h.entry j).ch = ch))

/-- More channels are degraded than there are reserves for: a ninth retirement (R268). -/
def Hbm.overdrawn (h : Hbm) : Bool :=
  decide ((positions.filter (fun j => decide ((h.entry j).st = 1))).length < (dataPositions.filter (fun j => decide ((h.entry j).st = 2))).length)

/-- The first reserve channel. -/
def Hbm.reserve (h : Hbm) : Option Nat := positions.find? (fun j => decide ((h.entry j).st = 1))

/-- The position whose channel is replaced next: the one that has waited longest. The ninth retired channel finds no reserve (R268). -/
def Hbm.degraded (h : Hbm) : Option Nat := h.retired.head?

/-- The first row in which another channel of a position's group has failed. DEDUCED, log entry 71. -/
def Hbm.failedWith (h : Hbm) (j : Nat) : Option Nat :=
  if dataPositions.any (fun i => decide (i ≠ j ∧ i / 32 = j / 32 ∧ (h.entry i).st = 2)) then some 0
  else match h.moving with
    | some (i, _) => if i ≠ j ∧ i / 32 = j / 32 then some h.watermark else none
    | none => none

def State.modHbm (s : State) (f : Hbm → Hbm) : State := { s with hbm := f s.hbm }

/-- Every stripe of a group from a row on is poisoned data (R268). -/
def Hbm.loseStripes (h : Hbm) (group row : Nat) : Hbm :=
  { h with
    lost := SMap.put group (min row ((SMap.get? group h.lost).getD channelRows)) h.lost,
    rewritten := h.rewritten.filter (fun k =>
      !(decide ((channelPlace (32 * k)).1 / 32 = group ∧ row ≤ (channelPlace (32 * k)).2 / 256))) }

/-- The channel at a position is degraded; a second fault in its group loses the stripes that both touch. -/
def Hbm.degrade (h : Hbm) (j : Nat) : Hbm :=
  let h1 := match h.failedWith j with | some row => h.loseStripes (j / 32) row | none => h
  { h1 with list := SMap.put j { st := 2, ch := (h.entry j).ch } h1.list, retired := h1.retired ++ [j] }

/-- A channel of the reserve has a lasting fault: it is retired, and joins no set any more (R18). DESIGN CHOICE, log entry 70. -/
def Hbm.dropReserve (h : Hbm) (channel : Nat) : Hbm :=
  match positions.find? (fun j => decide ((h.entry j).st = 1 ∧ (h.entry j).ch = channel)) with
  | some j => { h with list := SMap.put j { st := 3, ch := channel } h.list }
  | none => h

/-- CHANNEL_RETIREMENT (R268): a participating channel is degraded; one of the reserve leaves it. A channel for which no reserve is left
then is reported to the physical function. -/
def execChannelRetirement (channel : Nat) (s : State) : Result :=
  let s1 := s.taken (.channelRetirement channel)
  match s1.hbm.placeOf channel with
  | none =>
    let s2 := s1.modHbm (·.dropReserve channel)
    .next (if s2.hbm.overdrawn && !s1.hbm.overdrawn then s2.report (.degraded (((s2.hbm.retired.getLast?).map (fun j => (s2.hbm.entry j).ch)).getD channel)) else s2)
  | some j =>
    if (s1.hbm.entry j).st ≠ 0 then .next s1
    else
      let s2 := s1.modHbm (·.degrade j)
      .next (if s2.hbm.overdrawn then s2.report (.degraded channel) else s2)

/-- The HBM address of the granule that a position holds in a row; none where it holds the row's parity. -/
def granuleAt (j row : Nat) : Option Nat :=
  ((List.range 1480).find? (fun k => decide ((channelPlace (256 * (1480 * row + k))).1 = j))).map (fun k => 256 * (1480 * row + k))

/-- A re-interleave can begin, or is under way. -/
def Hbm.reinterleaves (h : Hbm) : Bool := h.moving.isSome || (h.degraded.isSome && h.reserve.isSome)

/-- The first unit of a re-interleave puts a reserve channel into the place of the degraded one. -/
def Hbm.beginMove (h : Hbm) : Hbm :=
  match h.moving, h.degraded, h.reserve with
  | none, some j, some r =>
    let old := h.entry j
    { h with
      before := [(j, old)], watermark := 0, retired := h.retired.filter (· ≠ j),
      list := SMap.put r { st := 3, ch := old.ch } (SMap.put j { st := 0, ch := (h.entry r).ch } h.list) }
  | _, _, _ => h

/-- A unit copies the granule of one row, and the watermark rises. What its group could not rebuild stays poisoned. -/
def Hbm.copyRow (h : Hbm) : Hbm :=
  if h.moving.isNone then h
  else { h with watermark := h.watermark + 1, before := if channelRows ≤ h.watermark + 1 then [] else h.before }

/-- The banks at which the next unit runs: those of the lines of the granule that it copies. -/
def State.moveBanks (s : State) : List Nat :=
  let h := s.hbm.beginMove
  match h.moving.bind (fun m => granuleAt m.1 h.watermark) with
  | some a => [s.anchor (a / 128), s.anchor (a / 128 + 1)]
  | none => []

/-- REINTERLEAVE_UNIT (R268): a unit of class 4, which does not start while work of a higher class waits (R266). -/
def execReinterleaveUnit (s : State) : Result :=
  let s1 := s.taken .reinterleaveUnit
  .next (if s1.modul.stopped || s1.moveBanks.any (s1.higherAt 4) then s1 else s1.modHbm (fun h => h.beginMove.copyRow))

/-! ## Scrub (R272, R386) -/

/-- The error counts of a component: the offset of its block, the places of its transient and lasting counts. -/
structure CountBlock where
  base      : Nat
  transient : Nat
  lasting   : Nat
deriving DecidableEq, Repr

def ScrubTarget.counts : ScrubTarget → CountBlock
  | .l1 c | .scratchpad c | .registers c _ => { base := 0x11000000 + 0x80 * c, transient := 0x48, lasting := 0x4C }
  | .bank g | .directory g => { base := 0x11100000 + 0x20 * g, transient := 0x10, lasting := 0x14 }
  | .channel ch | .combining ch => { base := 0x11200000 + 0x20 * ch, transient := 0x10, lasting := 0x14 }
  | .lane l => { base := 0x11300000 + 0x20 * l, transient := 4, lasting := 8 }
  | .cxl p => { base := 0x11300900 + 0x20 * p, transient := 4, lasting := 8 }

/-- What retires the component of a lasting fault, beside a Nyrus lane, which goes at once; a CXL port is not retired. -/
def ScrubTarget.retirement : ScrubTarget → Option Instr
  | .l1 c | .scratchpad c | .registers c _ => some (.coreRetirement c)
  | .bank g | .directory g => some (.bankRetirement g)
  | .channel ch | .combining ch => some (.channelRetirement ch)
  | .lane _ | .cxl _ => none

/-- The count of a detection that was corrected. -/
def ScrubTarget.corrected : ScrubTarget → Nat
  | .l1 _ | .bank _ => 4
  | .scratchpad _ => 0x10
  | .registers _ q => 0x1C + 0xC * q
  | .directory _ => 0xC
  | .channel _ | .combining _ | .lane _ | .cxl _ => 0

/-- Poisons a sector of the primary copies. -/
def State.poisonSector (s : State) (k : Nat) : State := { s with poison := NSet.add k s.poison }

/-- Poisons a sector of a write-combining buffer, of which Caldera may hold newer bytes. -/
def State.poisonBuffered (s : State) (k : Nat) : State :=
  match SMap.get? k s.hbm.buffers with
  | some v => s.modHbm (fun h => { h with buffers := SMap.put k (v.1, true) h.buffers })
  | none => s.poisonSector k

/-- The dirty bytes of a sector in a core's L1 are lost: the sector is poisoned. -/
def State.loseSector (s : State) (c k : Nat) : State :=
  let m := ~~~(sectorMask (k % 4))
  (s.modL1 c (fun l => decide (l.line = k / 4)) (fun l => { l with valid := l.valid &&& m, dirty := l.dirty &&& m })).poisonSector k

/-- The scratchpad word that an address of a scrub names: a block, and an offset in its window. -/
def scrubWord (addr : Nat) : Nat × Nat := (addr / 2 ^ 19, addr % 2 ^ 19 / 4)

/-- An error that its code cannot correct: the count it adds to, and what is lost (R272). Clean data is fetched again, poisoned
where the HBM has lost it (R274); a channel is rebuilt from parity while its group has it. -/
def State.uncorrectable (s : State) (addr : Nat) : ScrubTarget → State × Nat
  | .l1 c =>
    let dirty := ((s.core? c).map (fun k => k.l1.any (fun l =>
      decide (l.line = addr / 128) && l.dirty &&& sectorMask (addr / 32 % 4) != 0))).getD false
    if dirty then (s.loseSector c (addr / 32), 8)
    else (s.modL1 c (fun l => decide (l.line = addr / 128) && l.lock.isNone) (fun l => l.dropClean (sectorMask (addr / 32 % 4))), 0)
  | .scratchpad c =>
    let (id, w) := scrubWord addr
    (s.modBlock c id (fun b => { b with poison := NSet.add w b.poison }), 0x14)
  | .bank _ =>
    let dirty := ((s.dir? (addr / 128)).map (fun d => d.dirty.contains (addr / 32))).getD false
    if dirty then (s.poisonSector (addr / 32), 8)
    else if (s.dir? (addr / 128)).isSome && s.hbm.lostAt addr && !(s.hbm.buffered (addr / 128)).contains (addr / 32) then
      ((s.poisonSector (addr / 32)).report (.page addr), 0)
    else (s, 0)
  | .registers c q =>
    -- a word of the warp in the slot that the address names
    let id := ((s.warp? c (16 * q + addr % 16)).map (·.block)).getD 0
    (s.modBlock c id (fun b => { b with spoilt := true }), 0x20 + 0xC * q)
  | .directory _ =>
    let line := addr / 128
    if (s.dir? line).isSome then
      (([0, 1, 2, 3] : List Nat).foldl (fun s k => s.poisonSector (4 * line + k)) (s.evictLine line), 8)
    else (s, 8)
  | .combining ch =>
    if s.hbm.channelOf addr = ch && (s.hbm.buffered (addr / 128)).contains (addr / 32) then (s.poisonBuffered (addr / 32), 8) else (s, 8)
  | .lane _ | .cxl _ => (s, 0)
  | .channel ch =>
    let gone := match s.hbm.placeOf ch with
      | some j => (s.hbm.failedWith j).isSome || decide ((s.hbm.entry j).st = 2)
      | none => false
    if gone && (s.dir? (addr / 128)).isNone then ((s.poisonSector (addr / 32)).report (.page addr), 8) else (s, 4)

/-- A lane of Nyrus is out of service, and its fault counted and recorded (R386, R393, R454). -/
def State.retireLane (s : State) (lane : Nat) : State :=
  if 72 ≤ lane then s
  else (({ s with modul := { s.modul with lanesRetired := NSet.add lane s.modul.lanesRetired } } : State).countError
    (0x11300008 + 0x20 * lane) 1).record (.lane lane)

/-- The retry of an operation: a transient fault, or a lasting one, which retires the component (R272, R432). -/
def State.logRetry (s : State) (target : ScrubTarget) (lasting : Bool) : State :=
  let b := ScrubTarget.counts target
  if !lasting then s.countError (b.base + b.transient) 1
  else match target, ScrubTarget.retirement target with
    | .lane l, _ => s.retireLane l
    | _, some e => ((s.countError (b.base + b.lasting) 1).record target).pushOnce e
    | _, none => (s.countError (b.base + b.lasting) 1).record target

/-- The registers of a warp are as they were where the retry succeeded. -/
def State.found (s : State) (addr : Nat) (target : ScrubTarget) (lasting : Bool) : State × Nat :=
  let (s1, n) := s.uncorrectable addr target
  match target with
  | .registers _ _ => (if lasting then s1 else s, n)
  | _ => (s1, n)

/-- A read of protected data, and what its code has found. -/
def State.scrub (s : State) (target : ScrubTarget) (found : ScrubFound) : State :=
  match found with
  | .clean => s
  | .corrected lasting => (s.countError ((ScrubTarget.counts target).base + ScrubTarget.corrected target) 1).logRetry target lasting
  | .uncorrectable lasting addr =>
    let (s1, n) := s.found addr target lasting
    (s1.countError ((ScrubTarget.counts target).base + n) 1).logRetry target lasting

/-- The bank of a target. -/
def ScrubTarget.bank? : ScrubTarget → Option Nat
  | .bank g | .directory g => some g
  | _ => none

/-- SCRUB_UNIT (R272): a read of protected data, by a scrub or by an access, and what its code has found. At a Caldera bank it is a unit of
class 4, which waits there while work of a higher class does (R266). DESIGN CHOICE, log entry 51. -/
def execScrubUnit (target : ScrubTarget) (found : ScrubFound) (s : State) : Result :=
  let waits := ((ScrubTarget.bank? target).map (fun g => s.higherAt 4 g || s.caldera.scrubs.any (fun e => ScrubTarget.bank? e.1 == some g))).getD false
  .next (if waits then { s with caldera := { s.caldera with scrubs := s.caldera.scrubs ++ [(target, found)] } } else s.scrub target found)

/-- The oldest unit of class 4 that waits at a bank: of a scrub, else of the re-interleave. -/
def State.forceScrub (s : State) (bank : Nat) : State :=
  match s.caldera.scrubs.find? (fun e => ScrubTarget.bank? e.1 == some bank) with
  | some e => ({ s with caldera := { s.caldera with scrubs := dropFirst (· == e) s.caldera.scrubs } } : State).scrub e.1 e.2
  | none => if s.hbm.reinterleaves && !s.modul.stopped && s.moveBanks.contains bank then s.modHbm (fun h => h.beginMove.copyRow) else s

/-- FORCED_UNIT (R266): the oldest waiting unit of a class at a bank runs, before the class-1 work that waits there where its class has been
passed over for its span. -/
def execForcedUnit (bank cls : Nat) (s : State) : Result :=
  let s1 := s.taken (.forcedUnit bank cls)
  .next (if cls = 4 then s1.forceScrub bank else s1.forceUnit bank cls)

end Sys2Proof.Machine
end

