-- ==== Sys2Proof/Machine/Nyrus.lean ====
section
/-! DEFINITION. The Nyrus Link (R362 to R364, R452 to R454): peer requests leave a core, their responses come back or do not; requests of other modules are served. -/

namespace Sys2Proof.Machine

/-! ## Answers to a peer request -/

def Core.nyrusOf (k : Core) (id : Nat) : Option NyrusRequest := k.nyrus.find? (fun r => decide (r.id = id))
def State.nyrus? (s : State) (c id : Nat) : Option NyrusRequest := (s.core? c).bind (·.nyrusOf id)

/-- A request is done with, and its response buffer free. -/
def State.dropNyrus (s : State) (c id : Nat) : State :=
  s.modCore c (fun k => { k with nyrus := k.nyrus.filter (fun r => decide (r.id ≠ id)) })

/-- The old values that a response brings, lane by lane. -/
def laneValues (n : Nat) : List (Nat × Nat × Nat × Nat) → List Byte → List (Nat × Nat)
  | [], _ => []
  | l :: t, data => (l.1, numOf (data.take n)) :: laneValues n t (data.drop n)

/-- What a response gives the access: the bytes of the line, the old values of the lanes, or an acknowledgement. -/
def NyrusRequest.give (r : NyrusRequest) (data : List Byte) (a : Access) : Access :=
  if r.op = 0 then
    let d : LineData := BitVec.ofNat 1024 (numOf data)
    (List.range 4).foldl (fun a k => a.take r.line k d) a
  else if r.op = 2 then
    { a with values := (laneValues (atomBytes r.aty) r.lanes data).foldl (fun v o => SMap.put o.1 o.2 v) a.values }
  else a

/-- A response arrives. -/
def State.nyrusAnswer (s : State) (c : Nat) (r : NyrusRequest) (data : List Byte) : State :=
  if r.engine then (s.dropNyrus c r.id).engineAnswer c r data
  else (s.dropNyrus c r.id).answer c r.slot r.access (needNyrus r.id) (r.give data)

/-- Bytes that no rule gives. -/
def State.freeBytes (s : State) (n : Nat) : List Byte := (List.range n).map (fun i => (Config.freeWord (2 ^ 10 * s.tick + i)).setWidth 8)

/-- A request fails (R364, R452): its lanes take Peer Timeout, deferred, at WAITC on PEER; what their registers then hold is open. So does
the warp of a command of the copy engine, once the command has ended, which goes on with such bytes. DEDUCED, log entry 82. -/
def State.nyrusFails (s : State) (c : Nat) (r : NyrusRequest) : State :=
  let lid := (((s.warp? c r.slot).bind (·.access? r.access)).map (·.firstLid)).getD 0
  let d : Deferred :=
    { path := .peer, source := 3, cause := causePeerTimeout, addr := r.va, lid := lid, access := r.access,
      bits := (if r.engine then accEngine else 0) + (if r.op = 0 then accRead else if r.op = 1 then accWrite else accAtomic) }
  let s1 := s.modWarp c r.slot (fun w => { w with deferred := w.deferred ++ [d] })
  { s1.nyrusAnswer c r (s.freeBytes 256) with tick := s.tick + 1 }

/-! ## Leaving (R362) and serving at home (R452) -/

/-- Replicas of a line stand in the way of a write: their collapse is asked for first. -/
def State.clearsReplicas (s : State) (line : Nat) : Bool := s.uncollapsed line

/-- A request that waits at the anchor for replicas asks for their collapse (R453). -/
def State.askClear (s : State) (line op : Nat) : State :=
  if op = 0 || s.clearsReplicas line || ((s.dir? line).map (fun d => d.st == .collapsing)).getD true then s
  else s.pushOnce (.collapse line)

/-- The halves of a line that a request touches. -/
def ownHalves (op : Nat) (bytes : SMap Byte) (lanes : List (Nat × Nat × Nat × Nat)) : List Nat :=
  if op = 0 then [0, 1]
  else if op = 1 then (bytes.map (fun e => e.1 / 64 % 2)).dedup
  else (lanes.map (fun e => e.2.1 / 64 % 2)).dedup

/-- A request of this module's own is served at the line's anchor, where an Absent line is filled first; no answer where it has to
wait. -/
def State.serveOwn (s : State) (line op aop aty : Nat) (bytes : SMap Byte) (lanes : List (Nat × Nat × Nat × Nat)) :
    State × Option (List Byte) :=
  let halves := ownHalves op bytes lanes
  if s.lineStops line (op ≠ 0) halves then (s.askLine line (op ≠ 0) halves, none)
  else if op ≠ 0 && !s.clearsReplicas line then (s.askClear line op, none)
  else match s.bring 16 line 0 with
    | (s1, false) => (s1, none)
    | (s1, true) =>
      let away := ((s1.dir? line).map (fun d => decide (d.hold ≠ s1.anchor line))).getD false
      if op = 2 && away then (s1.bringHome line, none)
      else
        let s2 := s1.touchFor none line
        if op = 0 then (s2, some (Memory.readBytes s2.mem (128 * line) 128))
        else if op = 1 then ((s2.writeLine none 16 line bytes).1, some [])
        else
          let (s3, old) := (s2.extern line (fun _ => false)).performAtomic line aop aty lanes
          (s3, some (old.flatMap (fun o => bytesOf o.2 (atomBytes aty))))

/-- The lane group that carries a line of a module (R9, R453). -/
def homeGroup (pa : Nat) : Nat := bitsOf pa 9 7 ^^^ peerModule pa % 8

/-- A lane group is in service: one of its nine lanes works. -/
def State.groupLive (s : State) (g : Nat) : Bool := (List.range 9).any (fun i => !s.modul.lanesRetired.contains (9 * g + i))

/-- Requests that left on a lane group have neither been answered nor timed out. -/
def State.groupBusy (s : State) (g : Nat) : Bool :=
  s.cores.any (fun k => k.2.nyrus.any (fun r => r.sent.isSome && decide (r.group = g)))

/-- The group on which requests of a group leave now: a group without lanes passes them on once its own are over; none while they
are held at egress (R454). -/
def State.egress (s : State) : Nat → Nat → Option Nat
  | 0, _ => none
  | n + 1, g => if s.groupLive g then some g else if s.groupBusy g then none else s.egress n ((g + 1) % 8)

/-- A request is answered with an error at egress (R452): it names no module, none of the route table beside this one, or no HBM. -/
def State.noWay (s : State) (pa : Nat) : Bool :=
  decide (9216 ≤ peerModule pa ∨ hbmEnd ≤ peerAddress pa) || (s.modul.noRoute.contains (peerModule pa) && (s.ownPeer pa).isNone)

/-- The next request of a core to leave, and its lane group: requests of one group leave in the order in which they came. One that is
answered at egress, or by the module itself, needs no group (R452). -/
def State.leaving (s : State) (k : Core) : Option (NyrusRequest × Nat) :=
  k.nyrus.findSome? (fun r =>
    let g := homeGroup (128 * r.line)
    if r.sent.isSome then none
    else if s.noWay (128 * r.line) || (s.ownPeer (128 * r.line)).isSome then some (r, g)
    else (s.egress 8 g).map (fun g => (r, g)))

/-- NYRUS_REQUEST_LEAVE (R362, R453): the oldest request of a core that its lane group takes leaves while a response buffer is free. A request to the module
itself is served at its anchor; one that names no module, or no HBM of one, is answered with an error (R452). DESIGN CHOICE, log entry 82. -/
def execNyrusRequestLeave (core id : Nat) (s : State) : Result :=
  let s1 := s.taken (.nyrusRequestLeave core id)
  match s1.core? core with
  | none => .next s1
  | some k =>
    match s1.leaving k with
    | none => .next s1
    | some (r, g) =>
      let pa := 128 * r.line
      let out := (k.nyrus.filter (fun q => q.sent.isSome)).length
      if r.id ≠ id ∨ 8 ≤ out then .next s1
      else if s1.noWay pa then .next (s1.nyrusFails core r)
      else match s1.ownPeer pa with
        | some a =>
          let home (b : Nat) : Nat := a + (b - pa)
          match s1.serveOwn (lineOf a) r.op r.aop r.aty (r.bytes.map (fun e => (home e.1, e.2)))
              (r.lanes.map (fun l => (l.1, home l.2.1, l.2.2.1, l.2.2.2))) with
          | (s2, some data) => .next (s2.nyrusAnswer core r data)
          | (s2, none) => .next s2
        | none => .next (s1.modCore core (fun k =>
            { k with nyrus := k.nyrus.map (fun q => if q.id = id then { q with sent := some k.cyc, group := g } else q) }))

/-! ## Responses and time-outs -/

/-- NYRUS_RESPONSE (R362): one that comes after its time-out names no request, and is discarded (R364). -/
def execNyrusResponse (core id : Nat) (data : List Byte) (s : State) : Result :=
  match s.nyrus? core id with
  | some r => if r.sent.isSome then .next (s.nyrusAnswer core r data) else .next s
  | none => .next s

/-- PEER_TIMEOUT (R364). -/
def execPeerTimeout (core id : Nat) (s : State) : Result :=
  let s1 := s.taken (.peerTimeout core id)
  match s1.nyrus? core id with
  | some r =>
    match r.sent with
    | some t => if t + s1.modul.peerTimeout ≤ s1.cyc core then .next (s1.nyrusFails core r) else .next s1
    | none => .next s1
  | none => .next s1

/-! ## Requests of other modules (R453) -/

/-- The line of a peer request, its operation, its bytes and its lanes. -/
def PeerRequest.parts : PeerRequest → Nat × Nat × SMap Byte × List (Nat × Nat × Nat × Nat)
  | .read a _ => (a, 0, [], [])
  | .write a data => (a, 1, data.mapIdx (fun i b => (a + i, b)), [])
  | .atomic a _ _ _ x y => (a, 2, [], [(0, a, x.toNat, y.toNat)])

/-- The operation and the type of a peer's atomic. -/
def PeerRequest.atomicOp : PeerRequest → Nat × Nat
  | .atomic _ _ op ty _ _ => (op, ty)
  | _ => (0, 0)

/-- The bytes of a response: of a read, those it asked for, and none where they are poisoned. -/
def PeerRequest.answer (r : PeerRequest) (s : State) (data : List Byte) : List Byte :=
  match r with
  | .read a n => if s.poisoned a n then [] else (data.drop (a % 128)).take n
  | _ => data

/-- PEER_REQUEST_SERVE (R453): a request that has to wait at its anchor is not served yet; an address outside the HBM range is
answered with an error; a module that is not up serves none (R456). DESIGN CHOICE, log entry 78. -/
def execPeerRequestServe (req : PeerRequest) (s : State) : Result :=
  let (a, op, bytes, lanes) := PeerRequest.parts req
  let say (s : State) (l : List Byte) : State := { s with modul := { s.modul with answers := s.modul.answers ++ [l] } }
  if !s.modul.booted then .next s
  else if hbmEnd ≤ a then .next (say s [])
  else
    let (aop, aty) := PeerRequest.atomicOp req
    match s.serveOwn (lineOf a) op aop aty bytes lanes with
    | (s1, some data) => .next (say s1 (PeerRequest.answer req s data))
    | (s1, none) => .next s1

/-- NYRUS_LANE_RETIRE (R454). -/
def execNyrusLaneRetire (lane : Nat) (s : State) : Result := .next (s.retireLane lane)

end Sys2Proof.Machine
end

