-- ==== Sys2Proof/Machine/Host.lean ====
section
/-! DEFINITION. The register space of a function (R343 to R345, R361, R380, R381, R416, R448) and the function-level reset of a virtual function (R449). -/

namespace Sys2Proof.Machine

/-! ## Launch queues (R343 to R345) -/

/-- A queue whose registers a host may write: its tail, where LAUNCH does not feed it. -/
def LaunchQueue.tailOk (q : LaunchQueue) (v : Word) : Bool :=
  decide (q.held ≤ (v - q.head).toNat ∧ (v - q.head).toNat ≤ q.size)

/-- QSTAT with one more ignored write of QTAIL. -/
def ignoredTail (w : Word) : Word := if bitsOf w.toNat 31 16 = 0xFFFF then w else w + 0x10000

/-- A host write of QTAIL (R345): one that moves backwards, or beyond the ring, is ignored and counted; during a reset, ignored (R449). -/
def State.writeTail (s : State) (t q : Nat) (v : Word) : State :=
  let k := (s.tenant t).queue q
  if k.fed || (s.tenant t).resetting then s
  else if k.tailOk v then (s.modQueue t q (fun k => { k with tail := v })).pushOnce .launchRecordTake
  else s.modQueue t q (fun k => { k with stat := ignoredTail k.stat })

/-- QTAIL_WRITE. -/
def execQtailWrite (tenant queue : Nat) (value : Word) (s : State) : Result :=
  .next (if tenant < 16 ∧ queue < 64 then s.writeTail tenant queue value else s)

/-- QCTRL as a write leaves it (R344): LOG2SIZE and FEED change only while ENABLE is 0. -/
def qctrlWrite (old v : Word) : Word :=
  if old.getLsbD 0 then (old &&& 0x00F00008) ||| (v &&& 0x00000007) else v &&& 0x00F0000F

/-! ## Tokens (R361, R416, R423) -/

/-- Who is parked on a token: cores and slots. -/
def State.parkedOn (s : State) (t token : Nat) : List (Nat × Nat) :=
  (s.launches.parked.filter (fun e => decide (e.1 = t ∧ e.2.1 = token))).map (fun e => e.2.2)

def State.unpark (s : State) (t token : Nat) : State :=
  { s with launches := { s.launches with parked := s.launches.parked.filter (fun e => !(decide (e.1 = t ∧ e.2.1 = token))) } }

/-- A warp of a tenant is parked on a token. -/
def State.waitsOn (s : State) (c slot t token : Nat) : Bool :=
  ((s.warp? c slot).map (fun w => decide (w.tenant = t) && w.causes.contains (.pageFault token))).getD false

/-- Commands of a slot that are set aside on a token. -/
def State.asideOn (s : State) (c slot token : Nat) : List EngineCommand :=
  ((s.core? c).map (fun k => k.engine.filter (fun e => decide (e.slot = slot ∧ e.token = some token)))).getD []

/-- RESUME (R361, R423): every warp and command parked on the token goes on; one that names none is ignored, and so is any during a
reset (R449). -/
def State.resume (s : State) (t token : Nat) : State :=
  let who := if (s.tenant t).resetting then [] else s.parkedOn t token
  (who.foldl (fun s e =>
    let s1 := if s.waitsOn e.1 e.2 t token then s.unparkFrom e.1 e.2 (.pageFault token) else s
    (s1.asideOn e.1 e.2 token).foldl (fun s x =>
      (s.modEngine e.1 x.slot x.access (fun x => { x with token := none })).pushOnce (.engineCommand e.1 (quadOf x.slot))) s1) s).unpark t token

/-- RESUME. -/
def execResumeWrite (tenant token : Nat) (s : State) : Result := .next (s.resume tenant token)

/-- FQFAIL (R416, R423): the warp wakes into its handler with a fatal Page Fault; a command ends with one. -/
def State.failToken (s : State) (t token : Nat) : State :=
  let who := s.parkedOn t token
  (who.foldl (fun s e =>
    let s1 :=
      match (s.warp? e.1 e.2).bind (·.faulted) with
      | some p =>
        if s.waitsOn e.1 e.2 t token then (s.unparkFrom e.1 e.2 (.pageFault token)).raisePending e.1 e.2 p else s
      | none => s
    (s1.asideOn e.1 e.2 token).foldl (fun s x => s.failCommand e.1 x causePageFault x.writing) s1) s).unpark t token

def execFqfail (tenant token : Nat) (s : State) : Result := .next (s.failToken tenant token)

/-! ## Fault queues (R361) -/

/-- The token of a waiting record. -/
def recordToken (r : List Byte) : Nat := numOf ((r.drop 4).take 4)

/-- A record with the phase of its pass. -/
def withPhase (r : List Byte) (phase : Nat) : List Byte :=
  match r with
  | [] => []
  | b :: t => (b &&& 0xFE ||| BitVec.ofNat 8 phase) :: t

/-- What writing a record that has waited comes to, in a state that has asked for what it waits for: it is written, it waits on, its slot does
not translate. -/
def State.writeWaiting (s : State) (t : Nat) (r : List Byte) : State × Posted :=
  let tn := s.tenant t
  let wait (line : Nat) : State × Posted := (s.askLine line true [0, 1] t, .waits)
  match s.translate 0 t tn.fqSlot .write true with
  | .ok pa _ =>
    let cells := cellsOf pa 64 (numOf (withPhase r tn.fqPhase))
    if cached pa && s.lineStops (lineOf pa) true [pa / 64 % 2] t then wait (lineOf pa)
    else ((if cached pa then ((s.usePage 0 t tn.fqSlot).writeDirect none t cells).1 else s).modTenant t (fun tn => { tn with fqTail := tn.fqTail + 1 }),
      .written)
  | .stops line => wait line
  | _ => (s, .dropped)

/-- Waiting records go into the space there is, the oldest first, a record of losses before them; one that cannot be written is dropped, and
its fault becomes fatal. While the queue is off, all of them are. -/
def State.drainFaults (s : State) (t : Nat) : Nat → State
  | 0 => s
  | n + 1 =>
    let tn := s.tenant t
    match tn.fqWait with
    | [] => s
    | r :: rest =>
      let next (s : State) : State := s.modTenant t (fun tn => { tn with fqWait := rest })
      if !tn.fqOn then
        (((next s).modTenant t (fun tn => { tn with fqLost := satInc tn.fqLost })).failToken t (recordToken r)).drainFaults t n
      else if tn.fqFull then s
      else if tn.lostSince ≠ 0 then
        match s.writeWaiting t (FaultInfo.bytes { type := recLost, info := tn.lostSince } t s.modul.mgen 0) with
        | (s1, .written) => (s1.modTenant t (fun tn => { tn with lostSince := 0 })).drainFaults t n
        | (s1, .waits) => s1
        | (s1, .dropped) => (((next s1).dropRecord t).failToken t (recordToken r)).drainFaults t n
      else match s.writeWaiting t r with
        | (s1, .written) => (next s1).drainFaults t n
        | (s1, .waits) => s1
        | (s1, .dropped) => (((next s1).dropRecord t).failToken t (recordToken r)).drainFaults t n

/-- Records of a tenant that wait go on. -/
def State.drainQueue (s : State) (t : Nat) : State := s.drainFaults t ((s.tenant t).fqWait.length + 1)

/-- Records that wait for the line of their slot go on. -/
def State.drainQueues (s : State) : State :=
  (SMap.keys (s.tenants.filter (fun t => !t.2.fqWait.isEmpty))).foldl (fun s t => s.drainQueue t) s

/-- FQHEAD_WRITE: the driver has consumed records. -/
def State.writeFqHead (s : State) (t : Nat) (v : Word) : State :=
  (s.modTenant t (fun tn => { tn with fqHead := v })).drainQueue t

def execFqheadWrite (tenant : Nat) (value : Word) (s : State) : Result :=
  .next (if tenant < 16 then s.writeFqHead tenant value else s)

/-! ## Fence counters (R380, R381) -/

/-- FCVAL_WRITE. -/
def execFcvalWrite (tenant counter : Nat) (value : DWord) (s : State) : Result :=
  .next (if tenant < 16 ∧ counter < 256 then s.setFence tenant counter value else s)

/-- FCADD_WRITE. -/
def execFcaddWrite (tenant counter : Nat) (value : DWord) (s : State) : Result :=
  .next (if tenant < 16 ∧ counter < 256 then s.setFence tenant counter ((s.tenant tenant).fence counter + value) else s)

/-! ## Writes of the other registers (R343, R416, R448) -/

/-- A write of a register of a launch queue, at an offset within its 32 bytes. DEDUCED, log entry 73. -/
def State.writeQueueRegister (s : State) (t q r : Nat) (v : DWord) : State :=
  let w : Word := v.setWidth 32
  let on := ((s.tenant t).queue q).ctrl.getLsbD 0
  if r = 0x00 then (if on then s else s.modQueue t q (fun k => { k with base := v &&& ~~~0x7F }))
  else if r = 0x08 then (s.modQueue t q (fun k => { k with ctrl := qctrlWrite k.ctrl w })).pushOnce .launchRecordTake
  else if r = 0x10 then s.writeTail t q w
  else s

/-- A write of a register of the fault queue, or of a tenant's trap and context registers. -/
def State.writeTenantRegister (s : State) (t o : Nat) (v : DWord) : State :=
  let w : Word := v.setWidth 32
  if o = 0x10800 then s.modTenant t (fun tn => { tn with fqBase := v &&& ~~~0x3F })
  else if o = 0x10808 then
    (s.modTenant t (fun tn => { tn with fqCtrl := w &&& 0x00F00001 })).drainQueue t
  else if o = 0x1080C then s.writeFqHead t w
  else if o = 0x10818 then s.resume t w.toNat
  else if o = 0x1081C then s.failToken t w.toNat
  else if o = 0x12008 then (if v &&& 0xFFFF000000000003 = 0 then s.modTenant t (fun tn => { tn with tvec := v }) else s)
  else if o = 0x12010 then
    s.modTenant t (fun tn => if tn.slotsUsed.isEmpty then { tn with ctxArea := v &&& ~~~0x3FFFFF } else tn)
  else if o = 0x12018 then
    s.modTenant t (fun tn => if tn.slotsUsed.isEmpty then { tn with ctxSlots := w &&& 0xFFFF } else tn)
  else s

/-- `n` bytes of the mailbox. -/
def State.writeMbox (s : State) (o n : Nat) (v : DWord) : State :=
  { s with modul := { s.modul with
      mbox := ((bytesOf v.toNat (min n 8)).zipIdx).foldl (fun m b => if o + b.2 < 0x1000 then SMap.set 0 (o + b.2) b.1 m else m) s.modul.mbox } }

/-- The offsets of the fence counters, which take accesses of 64 bits alone (R381). -/
def fenceOffset (o : Nat) : Bool := decide (0x11000 ≤ o ∧ o < 0x12000)

/-- A write of `n` bytes to a register by its offset in the function's space; an offset that is not listed ignores it. -/
def State.writeRegister (s : State) (t o n : Nat) (v : DWord) : State :=
  if fenceOffset o ∧ n ≠ 8 then s else
  if 0x10000 ≤ o ∧ o < 0x10800 then s.writeQueueRegister t ((o - 0x10000) / 0x20) (o % 0x20) v
  else if 0x11000 ≤ o ∧ o < 0x11800 ∧ o % 8 = 0 then s.setFence t ((o - 0x11000) / 8) v
  else if 0x11800 ≤ o ∧ o < 0x12000 ∧ o % 8 = 0 then
    s.setFence t ((o - 0x11800) / 8) ((s.tenant t).fence ((o - 0x11800) / 8) + v)
  else if 0x20000 ≤ o ∧ o < 0x21000 then (if t = 0 then s.writeMbox (o - 0x20000) n v else s)
  else s.writeTenantRegister t o v

/-- REGISTER_WRITE. -/
def execRegisterWrite (tenant offset : Nat) (data : RegisterData) (s : State) : Result :=
  .next (if tenant < 16 then s.writeRegister tenant offset data.bytes data.value else s)

/-! ## Reads -/

/-- QUADS: bit 4c + q for each quadrant of the first 16 cores that a tenant owns. -/
def State.quadsMask (s : State) (t : Nat) : Nat :=
  maskOf ((List.range 64).filter (fun i => ((s.core? (i / 4)).map (fun k => decide ((k.quad (i % 4)).tenant = t))).getD false))

/-- What a host read of `n` bytes of a register returns (R343, R381, R416, R448). -/
def State.readRegister (s : State) (t o n : Nat) : Nat :=
  if (fenceOffset o ∧ n ≠ 8) ∨ (o = 0x12000 ∧ n ≠ 4) then 0 else
  let tn := s.tenant t
  let q := tn.queue ((o - 0x10000) / 0x20)
  if 0x10000 ≤ o ∧ o < 0x10800 then
    (match o % 0x20 with
      | 0x00 => q.base.toNat | 0x08 => q.ctrl.toNat | 0x0C => q.head.toNat | 0x10 => q.tail.toNat | 0x14 => q.stat.toNat
      | _ => 0)
  else if 0x11000 ≤ o ∧ o < 0x11800 ∧ o % 8 = 0 then (tn.fence ((o - 0x11000) / 8)).toNat
  else if 0x20000 ≤ o ∧ o < 0x21000 then
    (if t = 0 then numOf ((List.range 8).map (fun i => SMap.get 0 (o - 0x20000 + i) s.modul.mbox)) else 0)
  else match o with
    | 0x0 => t
    | 0x8 => s.modul.mgen.toNat
    | 0xC => s.modul.modid.toNat
    | 0x10 => s.quadsMask t
    | 0x10800 => tn.fqBase.toNat
    | 0x10808 => tn.fqCtrl.toNat
    | 0x1080C => tn.fqHead.toNat
    | 0x10810 => tn.fqTail.toNat
    | 0x10814 => tn.fqLost.toNat
    | 0x12000 => tn.poisons.toNat
    | 0x12008 => tn.tvec.toNat
    | 0x12010 => tn.ctxArea.toNat
    | 0x12018 => tn.ctxSlots.toNat
    | _ => 0

/-! ## Function-level reset (R449) -/

/-- Ends a warp as by R422, without a record. -/
def State.dropWarp (s : State) (c slot : Nat) : State :=
  match s.warp? c slot with
  | none => s
  | some w =>
    if w.over then s
    else
      let s1 := (if w.region.active then s.abortNow c slot abFault 0 else s).leavePark c slot
      let pc := w.pcOf ((w.groups.head?.map (·.mask)).getD 1)
      let s2 := ((s1.modWarp c slot (fun w => w.terminate none 0 pc 0)).unselect c slot).failLaunch w.launch
      let aside := ((s2.core? c).map (fun k => k.engine.filter (fun e => decide (e.slot = slot) && e.token.isSome))).getD []
      (aside.foldl (fun s e => s.failCommand c e causePageFault false) s2).checkEnd c slot

/-- The launches of a tenant are abandoned: nothing of them starts any more, and none increments a counter. -/
def State.abandonLaunches (s : State) (t : Nat) : State :=
  let saved := s.launches.saved.filter (fun v => decide (v.tenant = t))
  let s1 := saved.foldl (fun s v => s.modLaunch v.launch (fun l => { l with liveWarps := l.liveWarps - v.warps.length })) s
  let l := s1.launches.launches.map (fun e =>
    if e.2.tenant = t then (e.1, { e.2 with waiting := [], failed := true }) else e)
  { s1 with
    launches := { s1.launches with
      saved := s1.launches.saved.filter (fun v => decide (v.tenant ≠ t)),
      launches := l.filter (fun e => !(decide (e.2.tenant = t) && !e.2.started)),
      pipelines := s1.launches.pipelines.map (fun e =>
        if ((s1.launch? e.2.launch).map (fun l => decide (l.tenant = t))).getD false then (e.1, { e.2 with requests := [] }) else e),
      parked := s1.launches.parked.filter (fun e => decide (e.1 ≠ t)) } }

/-- Every warp of a tenant, by core and slot. -/
def State.warpsOfTenant (s : State) (t : Nat) : List (Nat × Nat) :=
  s.cores.flatMap (fun k => (k.2.warps.filter (fun e => decide (e.2.tenant = t))).map (fun e => (k.1, e.1)))

/-- ENABLE of a tenant's launch and fault queues is clear, and its reset is under way. -/
def Tenant.stop (t : Tenant) : Tenant :=
  { t with
    resetting := true, fqCtrl := t.fqCtrl &&& ~~~1, fqWait := [],
    queues := t.queues.map (fun q => (q.1, { q.2 with ctrl := q.2.ctrl &&& ~~~1 })) }

/-- The reset of a function t > 0: steps 1 and 2, and what follows once its warps have left their slots. DEDUCED, log entry 81. -/
def State.resetFunction (s : State) (t : Nat) : State :=
  let s1 := s.modTenant t Tenant.stop
  ((((s1.warpsOfTenant t).foldl (fun s e => s.dropWarp e.1 e.2) s1).abandonLaunches t).finishReset t).dispatch

end Sys2Proof.Machine
end

