-- ==== Sys2Proof/Machine/Digest.lean ====
section
/-! DEFINITION. The SM3 digest that bring-up and the measurements take (R456, R457): the spec names the standard and does not print it. PRESUMED, log entry 109. -/

namespace Sys2Proof.Machine

/-- The words of a digest under way. -/
structure Sm3 where
  a : Word
  b : Word
  c : Word
  d : Word
  e : Word
  f : Word
  g : Word
  h : Word
deriving DecidableEq, Repr

def sm3Start : Sm3 :=
  { a := 0x7380166F, b := 0x4914B2B9, c := 0x172442D7, d := 0xDA8A0600, e := 0xA96F30BC, f := 0x163138AA, g := 0xE38DEE4D, h := 0xB0FB0E4E }

def Sm3.xor (x y : Sm3) : Sm3 :=
  { a := x.a ^^^ y.a, b := x.b ^^^ y.b, c := x.c ^^^ y.c, d := x.d ^^^ y.d, e := x.e ^^^ y.e, f := x.f ^^^ y.f, g := x.g ^^^ y.g, h := x.h ^^^ y.h }

def Sm3.bytes (x : Sm3) : List Byte :=
  [x.a, x.b, x.c, x.d, x.e, x.f, x.g, x.h].flatMap (fun w => (bytesOf w.toNat 4).reverse)

def sm3P0 (x : Word) : Word := x ^^^ x.rotateLeft 9 ^^^ x.rotateLeft 17
def sm3P1 (x : Word) : Word := x ^^^ x.rotateLeft 15 ^^^ x.rotateLeft 23

/-- The message with its padding: 1, zeros, the length in bits. -/
def sm3Pad (m : List Byte) : List Byte :=
  m ++ [0x80] ++ List.replicate ((119 - m.length % 64) % 64) 0 ++ (bytesOf (8 * m.length) 8).reverse

/-- Words from bytes, the highest byte first. -/
def sm3Words (l : List Byte) : List Word := (List.range (l.length / 4)).map (fun i => BitVec.ofNat 32 (numOf ((l.drop (4 * i)).take 4).reverse))

/-- `n` more words of the expanded message. -/
def sm3Expand : Nat → List Word → List Word
  | 0, w => w
  | n + 1, w =>
    let k := w.length
    let at_ (i : Nat) : Word := w.getD (k - i) 0
    sm3Expand n (w ++ [sm3P1 (at_ 16 ^^^ at_ 9 ^^^ (at_ 3).rotateLeft 15) ^^^ (at_ 13).rotateLeft 7 ^^^ at_ 6])

/-- A round with the words `w` and `v` of the expanded message. -/
def Sm3.round (x : Sm3) (j : Nat) (w v : Word) : Sm3 :=
  let t : Word := if j < 16 then 0x79CC4519 else 0x7A879D8A
  let ss1 := (x.a.rotateLeft 12 + x.e + t.rotateLeft (j % 32)).rotateLeft 7
  let ss2 := ss1 ^^^ x.a.rotateLeft 12
  let ff := if j < 16 then x.a ^^^ x.b ^^^ x.c else (x.a &&& x.b) ||| (x.a &&& x.c) ||| (x.b &&& x.c)
  let gg := if j < 16 then x.e ^^^ x.f ^^^ x.g else (x.e &&& x.f) ||| (~~~x.e &&& x.g)
  { a := ff + x.d + ss2 + (w ^^^ v), b := x.a, c := x.b.rotateLeft 9, d := x.c,
    e := sm3P0 (gg + x.h + ss1 + w), f := x.e, g := x.f.rotateLeft 19, h := x.g }

/-- A block of 64 bytes. -/
def Sm3.block (x : Sm3) (l : List Byte) : Sm3 :=
  let w := sm3Expand 52 (sm3Words l)
  x.xor ((List.range 64).foldl (fun y j => y.round j (w.getD j 0) (w.getD (j + 4) 0)) x)

/-- The digest of a message: 32 bytes. -/
def sm3 (m : List Byte) : List Byte :=
  let p := sm3Pad m
  ((List.range (p.length / 64)).foldl (fun x i => x.block ((p.drop (64 * i)).take 64)) sm3Start).bytes

end Sys2Proof.Machine
end

