-- ==== Sys2Proof/Machine/Manage.lean ====
section
/-! DEFINITION. Management (R448, R449, R456 to R461): the reset of the module, Lahar bring-up, the mailbox, measurements, snapshots, and the power and thermal limits. -/

namespace Sys2Proof.Machine

def State.modModule (s : State) (f : Module → Module) : State := { s with modul := f s.modul }

/-! ## The reset of the whole module (R449) -/

/-- The dirty sectors of Caldera and of the write-combining buffers are gone: memory holds what lay below them (R275). -/
def State.loseDirty (s : State) : State :=
  { s with
    mem := s.hbm.under.foldl (fun m e => Memory.writeBytes m (32 * e.1) (bytesOf e.2.1.toNat 32)) s.mem,
    poison := s.hbm.under.foldl (fun p e => if e.2.2 then NSet.add e.1 p else NSet.drop e.1 p) s.poison,
    hbm := { s.hbm with under := [], buffers := [] } }

/-- What outlives the reset of the module: memory and its poison, the channel list, the retirement records, the image. DESIGN CHOICE, log entry 74. -/
def State.resetModule (s : State) : State :=
  let s1 := s.loseDirty
  let m := s1.modul
  { State.reset with
    mem := s1.mem, poison := s1.poison, hbm := { s1.hbm with channels := [] }, agenda := s1.agenda, tick := s1.tick,
    modul :=
      { mgen := m.mgen, lmBase := m.lmBase, image := m.image, imageOk := m.imageOk, modid := m.modid, program := m.program, resent := m.resent, probation := m.probation,
        passedOnce := m.passedOnce, approved := m.approved, retiredBanks := m.retiredBanks, records := m.records, chosen := m.chosen,
        lanesRetired := m.lanesRetired, reports := m.reports, answers := m.answers } }

/-- FUNCTION_LEVEL_RESET (R449): of function 0 it resets the module, which then comes up anew. -/
def execFunctionLevelReset (tenant : Nat) (s : State) : Result :=
  .next (if tenant = 0 then s.resetModule else if tenant < 16 then s.resetFunction tenant else s)

/-- FIRMWARE_RELOAD (R456, R460): the image is loaded, and the module comes up with it. DEDUCED, log entry 80. -/
def execFirmwareReload (image : List Byte) (signed : Bool) (s : State) : Result :=
  .next (s.resetModule.modModule (fun m => { m with image := image, imageOk := signed }))

/-! ## Lahar bring-up (R456) -/

/-- A core fails the bring-up: its self-test, its reticle, or its image, which it was sent again (R456). -/
def SelfTest.fails (t : SelfTest) (c : Nat) : Bool :=
  t.cores.contains c || t.reticles.contains (reticleOf c) || t.images.contains (c, true)

/-- The state of a core at bring-up (R409, R435): fused off, retired, or live. A core that was retired in the field comes back
once it has passed two self-tests in a row and its return has been approved at this generation. DEDUCED, log entry 69. -/
def State.coreState (s : State) (t : SelfTest) (c : Nat) : Nat :=
  let m := s.modul
  if t.fused.contains c then 1
  else if SelfTest.fails t c then 2
  else if m.probation.contains c && !(m.passedOnce.contains c && m.approved.contains c) then 2
  else 0

/-- The banks that are not in service. -/
def State.deadBanks (s : State) (t : SelfTest) : NSet :=
  (List.range bankCount).filter (fun g => t.banks.contains g || t.reticles.contains (bankReticle g) || s.modul.retiredBanks.contains g)

/-- The minima of R17 for cores and banks are met. -/
def minimaMet (live : List Nat) (dead : NSet) : Bool :=
  decide (1824 ≤ live.length ∧ dead.length ≤ 256) &&
    (List.range Config.reticles).all (fun r =>
      decide (40 ≤ (live.filter (fun c => decide (reticleOf c = r))).length ∧ (dead.filter (fun g => decide (bankReticle g = r))).length ≤ 16))

/-- No channel, Nyrus lane, CXL port or Ethernet port is out of service, as R17 asks. -/
def State.linksWhole (s : State) (t : SelfTest) : Bool :=
  t.channels.isEmpty && (List.range Config.channels).all (fun j => decide ((s.hbm.entry j).st < 2)) &&
    t.lanes.isEmpty && s.modul.lanesRetired.isEmpty && t.cxl.isEmpty && t.ethernet.isEmpty

/-- The latency matrix that the ping sweep writes (R410): bank by bank, two bytes for each core. -/
def latencyBytes (live : List Nat) (dead : NSet) : List Byte :=
  (List.range bankCount).flatMap (fun g => (List.range Config.cores).flatMap (fun c =>
    bytesOf (if live.contains c && !dead.contains g then Config.ping g c else 0xFFFF) 2))

/-- The maps of a new generation, and the parts as they start in it. -/
def State.broughtUp (s : State) (t : SelfTest) : State :=
  let live := (List.range Config.cores).filter (fun c => decide (s.coreState t c = 0))
  let dead := s.deadBanks t
  let m := s.modul
  let passed := m.probation.filter (fun c => !SelfTest.fails t c && !t.fused.contains c)
  let back := passed.filter (fun c => live.contains c)
  { s with
    cores := (List.range Config.cores).map (fun c =>
      (c, { st := s.coreState t c, lnum := if live.contains c then logicalNumber live c else 0xFFFF })),
    caldera := { dead := dead, banks := dead.map (fun g => (g, { listed := false, live := false })) },
    mem := Memory.writeBytes s.mem m.lmBase.toNat (latencyBytes live dead),
    pending := t.channels.map (fun c => .channelRetirement c),
    sel := [], turn := 0,
    modul :=
      { m with
        booted := true, mgen := m.mgen + 1, chosen := true, errors := [],
        probation := m.probation.filter (fun c => !back.contains c), passedOnce := passed.filter (fun c => !back.contains c),
        program := Config.programImage m.image, resent := t.images.foldl (fun l e => NSet.add e.1 l) [],
        approved := [], lanesRetired := t.lanes.foldl (fun l k => NSet.add k l) m.lanesRetired,
        cxlDown := t.cxl.foldl (fun l k => NSet.add k l) [], ethDown := t.ethernet.foldl (fun l k => NSet.add k l) [],
        reports := if minimaMet live dead && s.linksWhole t then m.reports else m.reports ++ [.shortfall] } }

/-- LAHAR_BRING_UP: an image that is not the vendor's stops the module (step 1). -/
def execLaharBringUp (tests : SelfTest) (s : State) : Result :=
  let s1 := s.taken (.laharBringUp tests)
  if s1.modul.booted then .next s1
  else if !s1.modul.imageOk then .next (if s1.modul.reports.contains .unbooted then s1 else s1.report .unbooted)
  else .next (s1.broughtUp tests)

/-! ## The mailbox (R458, R459) -/

/-- Command codes of the model: R458 names the commands and gives them no numbers. -/
def cmdApprove : Nat := 0
def cmdThreshold : Nat := 1
def cmdFill : Nat := 2
def cmdPeerTimeout : Nat := 3
def cmdPowerCap : Nat := 4
def cmdModid : Nat := 5
def cmdMatrixBase : Nat := 6
def cmdPort : Nat := 7
def cmdRowLimit : Nat := 8
def cmdRemap : Nat := 9
def cmdRoute : Nat := 10
def cmdRetire : Nat := 11
def cmdTrip : Nat := 12

/-- The reason of a rejection stands in the mailbox; how it is written there is not said. -/
def State.rejectCommand (s : State) : State :=
  let l := (List.range 8).map (fun i => (i, (Config.freeWord (8 * s.tick + i)).setWidth 8))
  { s.modModule (fun m => { m with mbox := l.foldl (fun b e => SMap.set 0 e.1 e.2 b) m.mbox }) with tick := s.tick + 1 }

/-- A retirement that firmware has proposed is approved (R459): of a core, a bank, a channel or a Nyrus lane. -/
def State.approveRetirement (s : State) (kind n : Nat) : State :=
  if kind = 0 then s.pushOnce (.coreRetirement n)
  else if kind = 1 then s.pushOnce (.bankRetirement n)
  else if kind = 2 then s.pushOnce (.channelRetirement n)
  else if kind = 3 then s.retireLane n
  else s.rejectCommand

/-- Carries out a command: a core return is recorded for the next bring-up; policy is clamped to the limits of R459. -/
def State.carryOut (s : State) (code : Nat) (a : List Nat) : State :=
  let x := a.getD 0 0
  if code = cmdApprove then s.modModule (fun m => { m with approved := NSet.add x m.approved })
  else if code = cmdThreshold then s.modModule (fun m => { m with threshold := clamp 2 15 x })
  else if code = cmdFill then s.modModule (fun m => { m with fill := clamp 1 8 x })
  else if code = cmdPeerTimeout then s.modModule (fun m => { m with peerTimeout := clamp (2 ^ 12) (2 ^ 26) x })
  else if code = cmdPowerCap then s.modModule (fun m => { m with powerCap := clamp 4000 16000 x })
  else if code = cmdModid then s.modModule (fun m => { m with modid := BitVec.ofNat 14 x })
  else if code = cmdMatrixBase then s.modModule (fun m => { m with lmBase := BitVec.ofNat 64 x })
  else if code = cmdRowLimit then s.modModule (fun m => { m with rowLimit := some (max 1 x) })
  else if code = cmdRetire then s.approveRetirement x (a.getD 1 0)
  else if code = cmdTrip then s.modModule (fun m => { m with trip := some (min x Config.junctionTrip) })
  else if code = cmdRemap then
    -- firmware writes the copies of an entry in their order (R408)
    ([0, 1, 2] : List Nat).foldl (fun s k => s.modChannel (x % Config.channels) (fun c =>
      { c with remap := SMap.set 0 (128 * k + a.getD 1 0 % 128) (BitVec.ofNat 32 (a.getD 2 0)) c.remap })) s
  else if code = cmdRoute then
    s.modModule (fun m => { m with noRoute := if a.getD 1 0 = 0 then NSet.add x m.noRoute else NSet.drop x m.noRoute })
  else if code = cmdPort ∧ x < 8 ∧ !s.modul.ethDown.contains x then
    s.modModule (fun m => { m with
      ports := SMap.put x { SMap.get {} x m.ports with owner := some (a.getD 1 0 % 16), rxHeader := a.getD 2 0, txHeader := a.getD 3 0 } m.ports })
  else s.rejectCommand

/-- MBOX_COMMAND: the first two operands are the module's number and its map generation. DESIGN CHOICE, log entry 72. -/
def execMboxCommand (cmd : MboxCommand) (s : State) : Result :=
  let a := cmd.args.map BitVec.toNat
  .next (if cmd.signed && decide (a.getD 0 0 = s.modul.modid.toNat ∧ a.getD 1 0 = s.modul.mgen.toNat) && decide (2 ≤ a.length) then
    s.carryOut cmd.code (a.drop 2)
  else s.rejectCommand)

/-! ## Measurements (R457) and snapshots (R391) -/

/-- The live maps of the generation: the live-core map, the placement map, the anchor list and the channel list. -/
def State.mapBytes (s : State) : List Byte :=
  s.cores.flatMap (fun e => bytesOf (e.2.st % 4 * 2 ^ 18 + e.2.lnum % 2 ^ 16) 8) ++
    (List.range bankCount).flatMap (fun g => bytesOf (s.placementEntry g) 8) ++
    ((List.range bankCount).filter (fun g => !s.caldera.dead.contains g)).flatMap (fun g => bytesOf g 2) ++
    positions.flatMap (fun j => bytesOf ((s.hbm.entry j).st % 4 * 2 ^ 18 + (s.hbm.entry j).ch % 2 ^ 16) 8)

/-- What a measurement response carries. -/
def State.measurements (s : State) : List Byte :=
  sm3 s.modul.image ++ sm3 s.modul.program ++ bytesOf s.modul.mgen.toNat 4 ++ sm3 s.mapBytes

/-- SPDM_REQUEST: the answer is signed; its form is the protocol's. -/
def execSpdmRequest (request : List Byte) (s : State) : Result :=
  .next (s.modModule (fun m => { m with answers := m.answers ++ [Config.spdmAnswer request s.measurements] }))

/-- The counters of a quadrant, by their offsets. -/
def Quad.counters (q : Quad) (base : Nat) : SMap Nat :=
  (q.pc.zipIdx).map (fun e => (base + 0x20 + 8 * e.2, e.1)) ++ [(base + 0x40, q.lost)]

/-- Every counter of a reticle. -/
def State.countersOf (s : State) (reticle : Nat) : SMap Nat :=
  let cores := s.cores.filter (fun e => decide (reticleOf e.1 = reticle))
  let own (o : Nat) : Bool :=
    (decide (0x11000000 ≤ o ∧ o < 0x11000000 + 0x80 * Config.cores) && decide (reticleOf ((o - 0x11000000) / 0x80) = reticle)) ||
      (decide (0x11100000 ≤ o ∧ o < 0x11100000 + 0x20 * bankCount) && decide (bankReticle ((o - 0x11100000) / 0x20) = reticle))
  cores.flatMap (fun e => (e.2.quads.zipIdx).flatMap (fun q => q.1.counters (0x10000000 + 0x100 * (4 * e.1 + q.2)))) ++
    (s.modul.errors.filter (fun e => own e.1)).map (fun e => (e.1, e.2.toNat))

/-- MONITOR_SNAPSHOT: with the cycle of the reticle's lowest-numbered live core. -/
def execMonitorSnapshot (reticle : Nat) (s : State) : Result :=
  let live := s.cores.filter (fun e => decide (reticleOf e.1 = reticle ∧ e.2.st = 0))
  let first := lastBy (fun (a b : Nat × Core) => decide (b.2.lnum < a.2.lnum)) live
  .next (s.modModule (fun m => { m with
    snapshots := SMap.put reticle ((first.map (fun e => e.2.cyc)).getD 0, s.countersOf reticle) m.snapshots }))

/-! ## Power and temperature (R461) -/

/-- POWER_CAP_REACHED: the clock goes down by one sixteenth. DESIGN CHOICE, log entry 75. -/
def execPowerCapReached (s : State) : Result := .next (s.modModule (fun m => { m with clock := max 1 (m.clock - 1) }))

/-- THERMAL_TRIP and TEMPERATURE_BELOW_TRIP: the clock is halved, until the temperature has fallen. -/
def execThermalTrip (s : State) : Result := .next (s.modModule (fun m => { m with halved := true }))
def execTemperatureBelowTrip (s : State) : Result := .next (s.modModule (fun m => { m with halved := false }))

/-- CRITICAL_TEMPERATURE: warps stop issuing, those among them that were about to, the HBM is in self-refresh, and the host is told. -/
def execCriticalTemperature (s : State) : Result :=
  .next (({ s with sel := [] }.modModule (fun m => { m with stopped := true })).report .critical)

end Sys2Proof.Machine
end

