-- ==== Sys2Proof/Machine/Ports.lean ====
section
/-! DEFINITION. The CXL ports (R270, R271, R451): snoops, requests of the host, global observation, back-invalidate responses; and the Ethernet ports (R455). -/

namespace Sys2Proof.Machine

/-! ## Host lines (R270, R451) -/

def State.say (s : State) (l : List Byte) : State := s.modModule (fun m => { m with answers := m.answers ++ [l] })

/-- The half of a line that an address names. -/
def halfOf (addr : Nat) : Nat := addr / 64 % 2
def halfBase (addr : Nat) : Nat := addr / 64 * 64

/-- A write of a half that the host has not acknowledged. -/
def State.unobserved (s : State) (addr : Nat) : Bool :=
  (SMap.get [] (lineOf addr) s.caldera.observing).any (fun e => e.2.bytes.any (fun b => decide (b.1 / 64 = addr / 64)))

/-- The bytes that the host gives of its own, within the half. -/
def hostBytes (addr : Nat) (data : List Byte) : SMap Byte := (data.take (64 - addr % 64)).mapIdx (fun i b => (addr + i, b))

/-- A snoop acts on a half: its state, the dirty bytes it gives up, and what the host then writes. -/
def State.snoop (s : State) (addr : Nat) (invalidate : Bool) (data : List Byte) : State :=
  let line := lineOf addr
  let h := halfOf addr
  let old : Nat := ((s.dir? line).map (fun d => d.half h)).getD 0
  let new := if decide (old = 0) || invalidate then 0 else 1
  let s1 := (s.modDir line (fun d =>
    { d.setHalf h new with dirty := d.dirty.filter (fun k => decide (k / 2 ≠ addr / 64)) })).toHost [2 * (addr / 64), 2 * (addr / 64) + 1]
  let given := if old = 3 then (if s1.poisoned (halfBase addr) 64 then [] else Memory.readBytes s1.mem (halfBase addr) 64) else []
  let s2 := s1.say (BitVec.ofNat 8 old :: given)
  if !invalidate then s2 else (if data.isEmpty then s2 else s2.writeMem (hostBytes addr data)).notify line

/-- The host answers that a write of a half has been observed: a snoop that has waited finds the half Invalid. -/
def State.snoopWaited (s : State) (addr : Nat) (invalidate : Bool) (data : List Byte) : State :=
  (s.modDir (lineOf addr) (fun d =>
    { d.setHalf (halfOf addr) 0 with dirty := d.dirty.filter (fun k => decide (k / 2 ≠ addr / 64)) })).snoop addr invalidate data

/-- HOST_SNOOP: a half with a write-back in flight makes it wait. Only CXL.io of a module that is not up answers (R456). DEDUCED, log entry 76. -/
def execHostSnoop (addr : Nat) (invalidate : Bool) (data : List Byte) (s : State) : Result :=
  if !s.modul.booted || physKind addr != .host then .next s
  else if s.unobserved addr then
    .next { s with caldera := { s.caldera with
      snoops := SMap.put (lineOf addr) (SMap.get [] (lineOf addr) s.caldera.snoops ++ [(addr, invalidate, data)]) s.caldera.snoops } }
  else .next (s.snoop addr invalidate data)

/-- GLOBAL_OBSERVATION_RESPONSE (R451): the oldest write of the line is observed; snoops of halves without one go on. -/
def execGlobalObservationResponse (line : Nat) (s : State) : Result :=
  let s1 := s.taken (.globalObservationResponse line)
  match SMap.get [] line s1.caldera.observing with
  | [] => .next s1
  | (id, r) :: rest =>
    let s2 : State := { s1 with caldera := { s1.caldera with
      observing := if rest.isEmpty then SMap.del line s1.caldera.observing else SMap.put line rest s1.caldera.observing } }
    let s3 := s2.acknowledge id r
    let waiting := SMap.get [] line s3.caldera.snoops
    let (stay, go) := waiting.partition (fun w => s3.unobserved w.1)
    let s4 : State := { s3 with caldera := { s3.caldera with
      snoops := if stay.isEmpty then SMap.del line s3.caldera.snoops else SMap.put line stay s3.caldera.snoops } }
    .next (go.foldl (fun s w => s.snoopWaited w.1 w.2.1 w.2.2) s4)

/-! ## HBM as the host sees it (R271) -/

/-- What a request of the host asks for: to read a half, to own it, or to write it. -/
def hostWrites (w : Option (List Byte)) : Bool := w.isSome

/-- Half states after a request: the host may hold the half, and after an ownership request it may hold it modified. -/
def heldAfter (w : Option (List Byte)) : Nat := match w with | some [] => 3 | _ => 1

/-- A request is served at the line's anchor, where an Absent line is filled first (R255); one that has to wait there is not served
yet. The line is to stay at its anchor from then on (R256). -/
def State.serveHost (s : State) (addr : Nat) (w : Option (List Byte)) : State :=
  let line := lineOf addr
  let s := (s.bring 16 line 0).1
  match s.dir? line with
  | none => s
  | some d =>
    if d.st == .moving || s.grantedTo line noRegion then s
    else if hostWrites w && !d.rmask.isEmpty then s.askClear line 1
    else
      let s1 := ((s.touchBanks line 0 false d).modDir line (fun d => d.setHalf (halfOf addr) (heldAfter w))).bringHome line
      match w with
      | none => s1.say (if s1.poisoned (halfBase addr) 64 then [] else Memory.readBytes s1.mem (halfBase addr) 64)
      | some [] =>
        (s1.extern line (fun _ => false)).say (if s1.poisoned (halfBase addr) 64 then [] else Memory.readBytes s1.mem (halfBase addr) 64)
      | some data => (s1.extern line (fun _ => false)).performWrite line (hostBytes addr data)

/-- The CXL port of an address: bit 8 selects it (R450). -/
def cxlPort (addr : Nat) : Nat := addr / 256 % 2

/-- HOST_CXL_MEM_REQUEST: an address outside the HDM range is answered with poison (R450). DEDUCED, log entry 77. -/
def execHostCxlMemRequest (addr : Nat) (transfer : HostTransfer) (s : State) : Result :=
  .next (if !s.modul.booted then s else if hbmEnd ≤ addr ∨ transfer.port ≠ cxlPort addr then s.say [] else s.serveHost addr transfer.write)

/-- BACK_INVALIDATE_RESPONSE: the host no longer holds the half, whose modified bytes it returns; what waited goes on. -/
def execBackInvalidateResponse (addr : Nat) (data : Option (List Byte)) (s : State) : Result :=
  let line := lineOf addr
  -- the host may hold a half of a line that has left Caldera
  let s := if (SMap.get? line s.caldera.hostHeld).isSome then (s.bring 16 line 0).1 else s
  match s.dir? line with
  | none => .next s
  | some d =>
    if hostLine line || d.half (halfOf addr) == 0 then .next s
    else
      let s1 := s.modDir line (fun d => { d.setHalf (halfOf addr) 0 with snooped := NSet.drop (halfOf addr) d.snooped })
      let s2 :=
        match data with
        | some b => (s1.extern line (fun _ => false)).performWrite line (hostBytes (halfBase addr) b)
        | none => s1
      .next ((s2.replay line).retryVisits (s2.anchor line))

/-! ## Ethernet ports (R455) -/

def State.port (s : State) (p : Nat) : EthPort := SMap.get {} p s.modul.ports
def State.modPort (s : State) (p : Nat) (f : EthPort → EthPort) : State :=
  s.modModule (fun m => { m with ports := SMap.put p (f (s.port p)) m.ports })

/-- Frame lengths that the MAC accepts. -/
def frameOk (n : Nat) : Bool := decide (64 ≤ n ∧ n ≤ 9216)

/-- LEN, BUF and STAT of a record. -/
def ethLen (r : Nat) : Nat := bitsOf r 79 64
def ethBuf (r : Nat) : Nat := bitsOf r 63 0

/-- The pieces of a buffer, each within a line: address and length. -/
def bufferPieces (va : Nat) (n : Nat) : List (Nat × Nat) :=
  (List.range ((n + 127) / 128)).map (fun i => (va + 128 * i, min 128 (n - 128 * i)))

/-- Why a port does not get at a buffer: it is misaligned, does not translate, or is not memory that Caldera holds; or a line holds it back. -/
inductive PortStop where
  | fault
  | line (line : Nat) (writes : Bool)
deriving DecidableEq, Repr

/-- Where a buffer stands, piece by piece. -/
def State.bufferAt (s : State) (t va n : Nat) (p : Perm) : Except PortStop (List (Nat × Nat)) :=
  if va % 128 ≠ 0 then .error .fault
  else (bufferPieces va n).foldr (fun e (o : Except PortStop (List (Nat × Nat))) =>
    match s.translate 0 t e.1 p false, o with
    | .ok pa _, .ok l =>
      if !cached pa then .error .fault
      else if s.lineStops (lineOf pa) (p == .write) [0, 1] t then .error (.line (lineOf pa) (p == .write))
      else .ok ((pa, e.2) :: l)
    | .ok _ _, .error e => .error e
    | .stops line, _ => .error (.line line false)
    | _, _ => .error .fault) (.ok [])

/-- Reads a buffer's lines at their primary copies, those halves that it needs. -/
def State.readBuffer (s : State) (t : Nat) (l : List (Nat × Nat)) : State :=
  l.foldl (fun s e => (s.readFor t (lineOf e.1) (if e.2 ≤ 64 then [0] else [0, 1])).1) s

/-- The bytes of a buffer; none where some of them are poisoned. -/
def State.bufferBytes (s : State) (l : List (Nat × Nat)) : Option (List Byte) :=
  if l.any (fun e => s.poisoned e.1 e.2) then none else some (l.flatMap (fun e => Memory.readBytes s.mem e.1 e.2))

/-- Cells of a frame in its buffer. -/
def bufferCells : List (Nat × Nat) → List Byte → SMap Byte
  | [], _ => []
  | e :: t, data => ((data.take e.2).mapIdx (fun i b => (e.1 + i, b))) ++ bufferCells t (data.drop e.2)

/-- A record with its length and its status; the reserved bits are 0. -/
def ethRecord (buf len stat : Nat) : Nat := stat * 2 ^ 96 + len % 2 ^ 16 * 2 ^ 64 + buf

/-- The queue that a port's header names. -/
def State.portQueue (s : State) (t header : Nat) : HeaderLook := s.lookHeader 0 t header false (some true)

/-- What a transmit record comes to: its status, and the frame that is sent with the pieces it was read from; or the line that holds
it back. -/
def State.sendFrame (s : State) (t r : Nat) : Except (Nat × Bool) (Nat × Option (List Byte × List (Nat × Nat))) :=
  if !frameOk (ethLen r) then .ok (2, none)
  else match s.bufferAt t (ethBuf r) (ethLen r) .read with
    | .error .fault => .ok (3, none)
    | .error (.line line writes) => .error (line, writes)
    | .ok l => match s.bufferBytes l with
      | some b => .ok (0, some (b, l))
      | none => .ok (3, none)

/-- The port sends the record at the head of its queue, and writes its status. -/
def State.transmit (s : State) (port t pa h ring : Nat) : State :=
  let slot := ring + 128 * hdrHslot h
  if hdrThere h = 0 then s
  else match [lineOf pa, lineOf slot].find? (fun l => s.lineStops l true [0, 1] t) with
    | some line => s.askLine line true [0, 1] t
    | none =>
      let r := Memory.readNum s.mem slot 128
      match s.sendFrame t r with
      | .error (line, writes) => s.askLine line writes [0, 1] t
      | .ok (stat, frame) =>
        let s1 := match frame with | some f => s.readBuffer t f.2 | none => s
        let h1 := putBits (putBits h 191 160 (hdrHead h + 1)) 271 256 (hdrNext h (hdrHslot h))
        let s2 := ((s1.putHeader pa h h1).writeDirect none t (cellsOf slot 128 (ethRecord (ethBuf r) (ethLen r) stat))).1
        let s3 := match frame with | some f => s2.modPort port (fun p => { p with sent := f.1 :: p.sent }) | none => s2
        (s3.crossed h (hdrHeld h) (hdrHeld h - 1)).kick pa 0

/-- ETH_TRANSMIT: the port pops a record, sends its frame, and writes the status into the record's slot; what holds it back is asked for.
No port serves a queue of a module that is not up (R456). DESIGN CHOICE, log entry 79. -/
def execEthTransmit (port : Nat) (s : State) : Result :=
  let s1 := s.taken (.ethTransmit port)
  match (s1.port port).owner with
  | none => .next s1
  | some t =>
    if !s1.modul.booted then .next s1
    else match s1.portQueue t (s1.port port).txHeader with
      | .ok pa h ring => .next (s1.transmit port t pa h ring)
      | .stops line => .next (s1.askLine line false [0, 1] t)
      | _ => .next s1

/-- Lines of a receive that replicas stand on: their collapse is asked for first, so that the push follows it (R283). -/
def State.askAll (s : State) (lines : List Nat) : State := lines.foldl (fun s l => s.askClear l 1) s

/-- What a receive writes: the status, and the pieces of the buffer that take the frame. -/
def State.receiveStatus (s : State) (t buf : Nat) (frame : List Byte) (fcsOk : Bool) : Except (Nat × Bool) (Nat × List (Nat × Nat)) :=
  if !frameOk frame.length then .ok (2, [])
  else match s.bufferAt t buf frame.length .write with
    | .error .fault => .ok (3, [])
    | .error (.line line writes) => .error (line, writes)
    | .ok l => .ok (if fcsOk then 0 else 1, l)

/-- The port pushes one record for a frame, whose bytes are in the record's buffer before; what holds it back is asked for, and the frame
has not arrived yet. -/
def State.receive (s : State) (t pa h ring : Nat) (frame : List Byte) (fcsOk : Bool) : State :=
  let slot := ring + 128 * hdrTslot h
  match [lineOf pa, lineOf slot].find? (fun l => s.lineStops l true [0, 1] t) with
  | some line => s.askLine line true [0, 1] t
  | none =>
    let buf := ethBuf (Memory.readNum s.mem slot 128)
    match s.receiveStatus t buf frame fcsOk with
    | .error (line, writes) => s.askLine line writes [0, 1] t
    | .ok (stat, l) =>
      let lines := (lineOf slot :: l.map (fun e => lineOf e.1)).dedup
      if lines.any (fun x => !s.uncollapsed x) then s.askAll lines
      else
        let s1 := (s.writeDirect none t (bufferCells l frame)).1
        let s2 := (s1.writeDirect none t (cellsOf slot 128 (ethRecord buf frame.length stat))).1
        let h1 := putBits (putBits h 223 192 (hdrTail h + 1)) 287 272 (hdrNext h (hdrTslot h))
        let (s3, id) := (s2.putHeader pa h h1).addMessage
          { core := 0xFFFF, slot := 64, access := 0, header := pa, ring := ring, op := 3, tenant := t, lanes := [], place := hdrTslot h }
        let s4 := (s3.publish pa s3.launches.messages.length).crossed h (hdrHeld h) (hdrHeld h + 1)
        (if (s4.message? id).isNone then s4.wakeQueue pa else s4).kick pa 1

/-- ETH_FRAME_RECEIVE: one record for the frame; a frame for which there is none is dropped and counted. A module that is not up takes no
frame (R456). -/
def execEthFrameReceive (port : Nat) (frame : List Byte) (fcsOk : Bool) (s : State) : Result :=
  let drop : State := s.modPort port (fun p => { p with drops := p.drops + 1 })
  match (s.port port).owner with
  | none => .next s
  | some t =>
    if !s.modul.booted then .next s
    else match s.portQueue t (s.port port).rxHeader with
      | .ok pa h ring =>
        if hdrClosed h || decide (hdrCap h ≤ hdrHeld h) then .next drop
        else .next (s.receive t pa h ring frame fcsOk)
      | .stops line => .next (s.askLine line false [0, 1] t)
      | _ => .next drop

/-- Ports whose transmit queue has a record, or is not known yet. -/
def State.portsDue (s : State) : List Instr :=
  (s.modul.ports.filter (fun e =>
    match e.2.owner with
    | some t =>
      s.modul.booted && (match s.portQueue t e.2.txHeader with
        | .ok _ h _ => decide (hdrThere h ≠ 0)
        | .stops _ => true
        | _ => false)
    | none => false)).map (fun e => .ethTransmit e.1)

end Sys2Proof.Machine
end

