-- ==== Sys2Proof/Machine/Issue.lean ====
section
/-! DEFINITION. The issue selector (R27, R50, R107), and what each core cycle brings due: class-Q results (R188), matrix steps, timeouts, admission (R43), saves, counters (R377, R378, R389). -/

namespace Sys2Proof.Machine

/-! ## Readiness -/

/-- What a hold waits for has come about. -/
def State.holdMet (s : State) (c slot : Nat) (w : Warp) (g : Group) : Bool :=
  let k := (s.core? c).getD {}
  let q := k.quad (quadOf slot)
  match g.hold with
  | .none => true
  | .counter p t => decide (w.paths.get p ≤ t)
  | .counters => w.paths.allZero
  | .regionStart => decide (w.paths.ldg = 0 ∧ w.paths.stg = 0 ∧ w.paths.peer = 0)
  | .interlock _ | .sfuFull | .dividerFull | .places _ _ | .pathFull _ => true
  | .acks => g.prog.acks.isEmpty
  | .collapses => decide (w.collapses = 0)
  | .flags => w.flagsDue.all (fun f => decide (f.1 ≤ k.cyc)) && (q.sfu ++ q.divider).all (fun r => decide (r.slot ≠ slot))
  | .drain => w.paths.allZero && (k.pendingQ slot).isEmpty
  | .returns => g.prog.acks.all w.hasReturned
  | .leave => !k.unsent slot g.prog.acks
  | .regang _ _ _ _ => false
  | .launchRoom queue n => ((s.tenant w.tenant).queue queue).room n
  | .engineFull => decide ((k.engineOf (quadOf slot)).length < 4)
  | .lineStops line writes => !s.lineStops line writes [0, 1] w.tenant
  | .partition c q => s.partitioned c q
  | .settles => s.accessesReturned g.prog.vals
  | .barrierAhead => !w.barrierAhead
  | .event => false

/-- The warp may issue: it is admitted, or marked this cycle, and nothing stops it. -/
def Warp.mayIssue (w : Warp) : Bool :=
  decide (w.lease.st = .admitted ∨ w.lease.st = .returning) && decide (w.park = .none) && w.trap.isNone && !w.over && w.saved.isNone

/-- What a warp has issued may go on: also while a trap is pending or a handler runs (R417), and after a terminal fault (R422). -/
def Warp.mayGoOn (w : Warp) : Bool :=
  (decide (w.lease.st = .admitted ∨ w.lease.st = .returning) || w.over) && decide (w.park = .none) && w.saved.isNone

/-- A group has issued its instruction, was held, and can go on with it; not the group of a trap that is pending. -/
def State.goesOn (s : State) (c slot : Nat) (w : Warp) (g : Group) : Bool :=
  decide (g.prog.stage ≠ 0) && !w.trap.any (fun t => t.mask == g.mask) && decide (g.readyAt ≤ s.cyc c) && s.holdMet c slot w g

/-- A group's turn to issue has come but for what its instruction needs: no stall, no wait. -/
def State.awaits (s : State) (c slot : Nat) (w : Warp) (now : Nat) (g : Group) : Bool :=
  decide (g.prog.stage = 0) && !g.held && !w.drain && decide (g.readyAt ≤ now) && s.holdMet c slot w g

/-- A group is ready to issue at a cycle (R50). -/
def State.ready (s : State) (c slot : Nat) (w : Warp) (now : Nat) (g : Group) : Bool :=
  s.awaits c slot w now g && (s.blockedBy c slot w g.mask).isNone

/-! ## Instructions that go on -/

/-- Every group of a core that can go on with the instruction at which it was held. DEDUCED, log entry 27. -/
def State.goingOn (s : State) (c : Nat) : List Selected :=
  if s.modul.stopped then []
  else (((s.core? c).map (·.warps)).getD []).flatMap (fun e =>
    if e.2.mayGoOn then
      (e.2.groups.filter (s.goesOn c e.1 e.2)).map (fun g => { core := c, slot := e.1, mask := g.mask })
    else [])

/-- Those groups go on once in a cycle. -/
def State.sendOn (s : State) (l : List Selected) : State :=
  let s1 := l.foldl (fun s g => s.modWarp g.core g.slot (fun w =>
    w.modGroup g.mask (fun q => { q with readyAt := s.cyc g.core + 1 }))) s
  { s1 with sel := s1.sel ++ l }

/-! ## Selection (R50) and dual issue (R27) -/

/-- A ready warp, as the selector sees it. -/
structure Candidate where
  slot   : Nat
  prio   : Nat
  age    : Nat
  passed : Nat
  /-- Its ready groups, in rotation order. -/
  masks  : List (BitVec 8)
deriving DecidableEq, Repr

/-- The ready warps of a quadrant. -/
def State.candidates (s : State) (c q now : Nat) : List Candidate :=
  (((s.core? c).map (fun k => k.warpsOf q)).getD []).filterMap (fun e =>
    let masks := (e.2.groups.filter (s.ready c e.1 e.2 now)).map (·.mask)
    if e.2.mayIssue && !masks.isEmpty then
      some { slot := e.1, prio := e.2.lease.prio, age := e.2.age, passed := e.2.lease.passed, masks := masks }
    else none)

/-- The oldest of candidates. -/
def oldest (l : List Candidate) : Option Candidate := lastBy (fun a b => decide (b.age < a.age)) l

/-- The candidate that the selector chooses: one passed over 15 times, else of the highest priority the first one after the
warp last selected at that priority. -/
def choose (last : SMap Nat) (l : List Candidate) : Option Candidate :=
  match oldest (l.filter (fun a => decide (15 ≤ a.passed))) with
  | some a => some a
  | none =>
    let top := (l.map (·.prio)).foldl max 0
    let mine := l.filter (fun a => decide (a.prio = top))
    match (SMap.get? top last).bind (fun n => oldest (mine.filter (fun a => decide (n < a.age)))) with
    | some a => some a
    | none => oldest mine

/-- The groups that issue of a chosen warp: its first ready one, and the next one where the two may pair. -/
def State.issuing (s : State) (c : Nat) (a : Candidate) : List (BitVec 8) :=
  match a.masks with
  | m :: n :: _ =>
    match s.warp? c a.slot with
    | some w =>
      match s.peek c w m, s.peek c w n with
      | some i, some j => if mayPair i j then [m, n] else [m]
      | _, _ => [m]
    | none => [m]
  | l => l

/-- The rotation puts each issuing group after all others. -/
def Warp.rotate (w : Warp) (masks : List (BitVec 8)) : Warp :=
  { w with groups := w.groups.filter (fun g => !masks.contains g.mask) ++ masks.filterMap w.group? }

/-- One quadrant selects (R50): the warp that issues, and the counts of those passed over. DESIGN CHOICE, log entry 26. -/
def State.selectIn (s : State) (c q : Nat) : State :=
  let l := s.candidates c q (s.cyc c)
  match choose ((s.sight c q).quad.last) l with
  | none => s
  | some a =>
    let masks := s.issuing c a
    let s1 := l.foldl (fun s b => s.modWarp c b.slot (fun w =>
      { w with lease := { w.lease with passed := if b.slot = a.slot then 0 else w.lease.passed + 1 } })) s
    let s2 := (s1.modWarp c a.slot (·.rotate masks)).modQuad c q (fun x => { x with last := SMap.put a.prio a.age x.last })
    let s3 := if 2 ≤ masks.length then s2.count c a.slot 0x02 1 else s2
    { s3 with sel := s3.sel ++ masks.map (fun m => { core := c, slot := a.slot, mask := m }) }

/-! ## What a cycle counts (R389) -/

/-- An event that no warp causes: a counter that watches one warp does not see it. -/
def Quad.countCycle (q : Quad) : Quad :=
  let hit (p : Word) : Bool := p.getLsbD 31 && decide (bitsOf p.toNat 7 0 = 0) && !p.getLsbD 15
  { q with
    pc := q.pc.mapIdx (fun k v => if hit (q.pcfg.getD k 0) then (v + 1) % 2 ^ 48 else v),
    pcfg := q.pcfg.mapIdx (fun k p => if hit p && decide (q.pc.getD k 0 + 1 = 2 ^ 48) then p ||| 0x40000000 else p) }

/-- Sub-arrays that an instruction keeps busy at a cycle, charged to its first member. -/
def MatrixOp.busy (o : MatrixOp) (now : Nat) : Nat :=
  match o.start with
  | some st => if st ≤ now ∧ now < st + 96 then o.arrays.length else 0
  | none => 0

/-- The events of a quadrant that are counted per cycle. DEDUCED, log entry 29. -/
def State.countCycle (s : State) (c q : Nat) : State :=
  let v := s.sight c q
  let s1 := s.modQuad c q (fun q => q.newCycle.countCycle)
  let s2 := v.warps.foldl (fun s e =>
    let w := e.2
    let unitFull (g : Group) : Bool :=
      w.mayIssue && s1.awaits c e.1 w (s1.cyc c) g && (match s1.blockedBy c e.1 w g.mask with
        | some .sfuFull | some .dividerFull => true
        | _ => false)
    let add (event n : Nat) (s : State) : State := if n = 0 then s else s.count c e.1 event n
    add 0x03 (if w.lease.st = .admitted then 1 else 0)
      (add 0x04 (if w.lease.st = .waiting ∨ w.lease.st = .head then 1 else 0)
        (add 0x0C (w.groups.filter unitFull).length
          (add 0x10 (w.groups.filter (fun g => decide (g.hold = .leave))).length s)))) s1
  v.quad.matrix.foldl (fun s o =>
    match o.members.head? with
    | some m => if o.busy (s.cyc c) = 0 then s else s.count c m.slot 0x0D (o.busy (s.cyc c))
    | none => s) s2

/-! ## What comes due (R188, R231, R141, R295, R364) -/

/-- A matrix instruction as a cycle finds it: a fetch that ended in an earlier one is over. -/
def MatrixOp.fetchedBy (o : MatrixOp) (now : Nat) : MatrixOp :=
  { o with fetch := o.fetch.filter (fun t => decide (now ≤ t)) }

/-- Steps of a quadrant that are due by the next cycle. -/
def Quad.due (x : Quad) (c q now : Nat) : List Instr :=
  let first (l : List QResult) (d : Bool) : List Instr :=
    match l with
    | r :: _ => if r.due ≤ now then [.classQResult c q d] else []
    | [] => []
  let arrived (o : MatrixOp) : Bool := match o.fetch with | some t => decide (t ≤ now) | none => false
  let written (o : MatrixOp) : Bool := match o.start with | some st => decide (st + 100 ≤ now) | none => false
  first x.sfu false ++ first x.divider true ++ (x.matrix.filter written).map (fun o => .matrixWriteback c q o.id) ++
    (x.matrix.filter arrived).map (fun o => .matrixOperandFetched c q o.id) ++
    (x.matrix.filter (fun o => x.mayStart (o.fetchedBy now) now)).map (fun o => .matrixStart c q o.id)

/-- Steps of a warp that are due. -/
def State.warpDue (s : State) (c slot : Nat) (w : Warp) : List Instr :=
  let pcs := (w.groups.filterMap (fun g => match g.hold with | .regang _ _ _ _ => some (w.pcOf g.mask) | _ => none)).dedup
  ((pcs.filter (fun pc => w.regangExpired pc (s.cyc c))).map (fun pc => .regangTimeout c slot pc)) ++
    (match w.monitorPark with
      | some (_, some e) => if e ≤ s.cyc c then [.monwBoundExpiry c slot] else []
      | _ => []) ++
    (if s.trapDue c slot then [.trapEntry c slot] else [])

/-- Peer requests of a core that can leave, or whose time is over (R362, R364). -/
def State.nyrusDue (s : State) (k : Core) (c timeout : Nat) : List Instr :=
  let out := (k.nyrus.filter (fun r => r.sent.isSome)).length
  (match s.leaving k with
    | some (r, _) => if out < 8 then [.nyrusRequestLeave c r.id] else []
    | none => []) ++
    (k.nyrus.filter (fun r => match r.sent with | some t => decide (t + timeout ≤ k.cyc) | none => false)).map (fun r => .peerTimeout c r.id)

/-- Blocks under pre-emption that can take a step. -/
def State.saveEvents (s : State) (c : Nat) : List Instr :=
  (((s.core? c).map (·.blocks)).getD []).filterMap (fun e =>
    if s.saveDue c e.1 e.2 then ((s.blockWarps c e.1).head?).map (fun w => .flashbackSave c w.1) else none)

/-- Everything that a cycle of a core brings due, and the admission steps that open the next one. -/
def State.cycleDue (s : State) (c : Nat) : List Instr :=
  match s.core? c with
  | none => []
  | some k =>
    ([0, 1, 2, 3] : List Nat).flatMap (fun q => (k.quad q).due c q (k.cyc + 1)) ++
      k.warps.flatMap (fun e => s.warpDue c e.1 e.2) ++ s.nyrusDue k c s.modul.peerTimeout ++ s.saveEvents c ++
      (([0, 1, 2, 3] : List Nat).filter (fun q => !(k.warpsOf q).isEmpty || decide ((k.quad q).admitted ≠ 0))).map
        (fun q => .admissionCycle c q)

/-! ## The issue cycle -/

/-- The core whose cycle follows that of another one: the clocks of cores are not related (R379), and the model lets them
turn in order. -/
def State.coreAfter (s : State) (c : Nat) : Nat :=
  match s.cores.find? (fun e => decide (c < e.1)) with
  | some e => e.1
  | none => (s.cores.head?.map (·.1)).getD 0

/-- ISSUE_CYCLE (R50): instructions that were held go on first; then the core's cycle advances, its quadrants select, and
what comes due is on its way. -/
def execIssueCycle (core : Nat) (s : State) : Result :=
  let s1 := s.taken (.issueCycle core)
  if (s1.core? core).isNone then .next { s1 with turn := s1.coreAfter core }
  else
    let on := s1.goingOn core
    if !on.isEmpty then .next (s1.sendOn on)
    else
      let s2 : State := { s1.modCore core (fun k => { k with cyc := k.cyc + 1 }) with turn := s1.coreAfter core }
      let s3 := ([0, 1, 2, 3] : List Nat).foldl (fun s q => s.countCycle core q) s2
      let s4 := if s3.modul.stopped then s3 else ([0, 1, 2, 3] : List Nat).foldl (fun s q => s.selectIn core q) s3
      let unit := if s4.cores.head?.map Prod.fst = some core then s4.unitDue ++ s4.portsDue else []
      let s5 : State := { s4 with pending := s4.pending ++ s4.later, later := [] }
      let s6 := if s4.cores.head?.map Prod.fst = some core then s5.drainQueues else s5
      .next ((s4.cycleDue core ++ unit).foldl (fun s e => s.pushOnce e) s6)

/-- CLASS_Q_RESULT (R188): the oldest operation of the SFU or of the divider writes its result and its flags. -/
def execClassQResult (core quad : Nat) (divider : Bool) (s : State) : Result :=
  let s1 := s.taken (.classQResult core quad divider)
  let q := ((s1.core? core).map (fun k => k.quad quad)).getD {}
  match (if divider then q.divider else q.sfu) with
  | [] => .next s1
  | r :: rest =>
    let now := s1.cyc core + 1
    if now < r.due then .next s1
    else
      let s2 := ((s1.modQuad core quad (fun q => if divider then { q with divider := rest } else { q with sfu := rest })).modWarp core r.slot
        (·.writeResult r)).registersWritten core r.slot r.code (if r.code < 192 then r.regs else 0)
      match rest with
      | n :: _ => .next (if n.due ≤ now then s2.push (.classQResult core quad divider) else s2)
      | [] => .next s2

/-! ## The world outside -/

/-- A step that the world outside takes: the host, the management controller, other modules, the physics of the part. -/
def Instr.isInput : Instr → Bool
  | .qtailWrite _ _ _ | .resumeWrite _ _ | .fqfail _ _ | .fqheadWrite _ _ | .fcvalWrite _ _ _ | .fcaddWrite _ _ _ => true
  | .registerWrite _ _ _ | .mboxCommand _ | .functionLevelReset _ | .firmwareReload _ _ | .spdmRequest _ => true
  | .monitorSnapshot _ | .powerCapReached | .thermalTrip | .criticalTemperature | .temperatureBelowTrip | .hostSnoop _ _ _ => true
  | .hostCxlMemRequest _ _ | .peerRequestServe _ | .nyrusLaneRetire _ | .ethFrameReceive _ _ _ | .scrubUnit _ _ | .coreRetirement _ => true
  | .preemptRequest _ _ | .nyrusResponse _ _ _ | .backInvalidateResponse _ _ => true
  | _ => false

/-- The sender and the receiver of a message whose order the mesh keeps (R295, R324): banks by their numbers, cores after them; write
notices and check replies as one pair of a bank and a core. -/
def State.route (s : State) : Instr → Option (Nat × Nat × Bool)
  | .narrowMsg m => some (m.src, bankCount + regionCore m.region, false)
  | .finalMsg r b _ | .releaseMsg r b => some (bankCount + regionCore r, b, false)
  | .finalAtPartner q r _ => some (bankCount + regionCore r, bankCount + regionCore q, false)
  | .writeNotice c line => some (s.anchor line, c, true)
  | .monwCheckReply c slot v =>
    ((s.warp? c slot).bind (·.replied v.toNat)).map (fun g => (s.anchor (g.prog.vals.getD 0 0), c, true))
  | _ => none

/-- An earlier message of the same sender to the same receiver is still on its way. -/
def State.overtakes (s : State) (e : Instr) : Bool :=
  match s.route e with
  | none => false
  | some r => (s.pending.takeWhile (fun d => d != e)).any (fun d => s.route d == some r)

/-- A step that the world may choose to come next: one of its own, one of the machine's that is on its way, the cycle of any
core when nothing is, a bring-up of a module that is not up, a unit of a re-interleave, whose pace firmware sets, a unit of a bank that is forced.
Messages do not overtake each other. DESIGN CHOICE, log entry 7. -/
def State.admits (s : State) (e : Instr) : Bool :=
  match e with
  | .laharBringUp _ => !s.modul.booted
  | .reinterleaveUnit => s.hbm.reinterleaves
  | .forcedUnit b cls =>
    (cls == 4 && (s.hbm.reinterleaves || s.caldera.scrubs.any (fun e => ScrubTarget.bank? e.1 == some b))) || s.pending.any (fun e => s.unitBank e == some (cls, b))
  | .issueCycle c => s.sel.isEmpty && s.pending.isEmpty && s.modul.booted && (s.core? c).isSome
  | _ => e.isEvent && (Instr.isInput e || (s.pending.contains e && !s.overtakes e))

end Sys2Proof.Machine
end

