-- ==== Sys2Proof/Machine/Dispatch.lean ====
section
/-! DEFINITION. One arm per constructor of Instr: the meaning of each step of the part. -/

namespace Sys2Proof.Machine

def exec (i : Instr) (s : State) : Host.Outcome State Fault Refusal :=
  match i with
  | .iaddS f => Sys2Proof.Machine.execIaddS f s
  | .isubS f => Sys2Proof.Machine.execIsubS f s
  | .inegS f => Sys2Proof.Machine.execInegS f s
  | .andS f => Sys2Proof.Machine.execAndS f s
  | .orS f => Sys2Proof.Machine.execOrS f s
  | .xorS f => Sys2Proof.Machine.execXorS f s
  | .notS f => Sys2Proof.Machine.execNotS f s
  | .movS f => Sys2Proof.Machine.execMovS f s
  | .shlS f => Sys2Proof.Machine.execShlS f s
  | .shrS f => Sys2Proof.Machine.execShrS f s
  | .braS f => Sys2Proof.Machine.execBraS f s
  | .bendS f => Sys2Proof.Machine.execBendS f s
  | .belseS f => Sys2Proof.Machine.execBelseS f s
  | .exitS f => Sys2Proof.Machine.execExitS f s
  | .yieldS f => Sys2Proof.Machine.execYieldS f s
  | .electS f => Sys2Proof.Machine.execElectS f s
  | .fmtsetS f => Sys2Proof.Machine.execFmtsetS f s
  | .waitc f => Sys2Proof.Machine.execWaitc f s
  | .retS f => Sys2Proof.Machine.execRetS f s
  | .nopS f => Sys2Proof.Machine.execNopS f s
  | .iadd f => Sys2Proof.Machine.execIadd f s
  | .isub f => Sys2Proof.Machine.execIsub f s
  | .iaddc f => Sys2Proof.Machine.execIaddc f s
  | .imul f => Sys2Proof.Machine.execImul f s
  | .imulh f => Sys2Proof.Machine.execImulh f s
  | .imad f => Sys2Proof.Machine.execImad f s
  | .imadw f => Sys2Proof.Machine.execImadw f s
  | .idiv f => Sys2Proof.Machine.execIdiv f s
  | .irem f => Sys2Proof.Machine.execIrem f s
  | .imin f => Sys2Proof.Machine.execImin f s
  | .imax f => Sys2Proof.Machine.execImax f s
  | .iabs f => Sys2Proof.Machine.execIabs f s
  | .ineg f => Sys2Proof.Machine.execIneg f s
  | .andL f => Sys2Proof.Machine.execAnd f s
  | .orL f => Sys2Proof.Machine.execOr f s
  | .xorL f => Sys2Proof.Machine.execXor f s
  | .andn f => Sys2Proof.Machine.execAndn f s
  | .notL f => Sys2Proof.Machine.execNot f s
  | .lop3 f => Sys2Proof.Machine.execLop3 f s
  | .shl f => Sys2Proof.Machine.execShl f s
  | .shr f => Sys2Proof.Machine.execShr f s
  | .rotl f => Sys2Proof.Machine.execRotl f s
  | .shf f => Sys2Proof.Machine.execShf f s
  | .bfx f => Sys2Proof.Machine.execBfx f s
  | .bfi f => Sys2Proof.Machine.execBfi f s
  | .popc f => Sys2Proof.Machine.execPopc f s
  | .clz f => Sys2Proof.Machine.execClz f s
  | .ctz f => Sys2Proof.Machine.execCtz f s
  | .brev f => Sys2Proof.Machine.execBrev f s
  | .perm f => Sys2Proof.Machine.execPerm f s
  | .selL f => Sys2Proof.Machine.execSel f s
  | .icmp f => Sys2Proof.Machine.execIcmp f s
  | .plop f => Sys2Proof.Machine.execPlop f s
  | .ppack f => Sys2Proof.Machine.execPpack f s
  | .punpk f => Sys2Proof.Machine.execPunpk f s
  | .mov f => Sys2Proof.Machine.execMov f s
  | .movl f => Sys2Proof.Machine.execMovl f s
  | .lea f => Sys2Proof.Machine.execLea f s
  | .idot4 f => Sys2Proof.Machine.execIdot4 f s
  | .fadd f => Sys2Proof.Machine.execFadd f s
  | .fsub f => Sys2Proof.Machine.execFsub f s
  | .fmul f => Sys2Proof.Machine.execFmul f s
  | .ffma f => Sys2Proof.Machine.execFfma f s
  | .fmin f => Sys2Proof.Machine.execFmin f s
  | .fmax f => Sys2Proof.Machine.execFmax f s
  | .fcmp f => Sys2Proof.Machine.execFcmp f s
  | .fclass f => Sys2Proof.Machine.execFclass f s
  | .frnd f => Sys2Proof.Machine.execFrnd f s
  | .fscale f => Sys2Proof.Machine.execFscale f s
  | .fexp f => Sys2Proof.Machine.execFexp f s
  | .cvt f => Sys2Proof.Machine.execCvt f s
  | .pack8 f => Sys2Proof.Machine.execPack8 f s
  | .unpk8 f => Sys2Proof.Machine.execUnpk8 f s
  | .pack4 f => Sys2Proof.Machine.execPack4 f s
  | .unpk4 f => Sys2Proof.Machine.execUnpk4 f s
  | .qscale f => Sys2Proof.Machine.execQscale f s
  | .fmtset f => Sys2Proof.Machine.execFmtset f s
  | .modeset f => Sys2Proof.Machine.execModeset f s
  | .rcp f => Sys2Proof.Machine.execRcp f s
  | .rsq f => Sys2Proof.Machine.execRsq f s
  | .sqrt f => Sys2Proof.Machine.execSqrt f s
  | .exp2 f => Sys2Proof.Machine.execExp2 f s
  | .log2 f => Sys2Proof.Machine.execLog2 f s
  | .sinpi f => Sys2Proof.Machine.execSinpi f s
  | .cospi f => Sys2Proof.Machine.execCospi f s
  | .tanh f => Sys2Proof.Machine.execTanh f s
  | .fdiv f => Sys2Proof.Machine.execFdiv f s
  | .fsqrt f => Sys2Proof.Machine.execFsqrt f s
  | .shfl f => Sys2Proof.Machine.execShfl f s
  | .vote f => Sys2Proof.Machine.execVote f s
  | .redux f => Sys2Proof.Machine.execRedux f s
  | .scan f => Sys2Proof.Machine.execScan f s
  | .matchL f => Sys2Proof.Machine.execMatch f s
  | .elect f => Sys2Proof.Machine.execElect f s
  | .rdlane f => Sys2Proof.Machine.execRdlane f s
  | .wrlane f => Sys2Proof.Machine.execWrlane f s
  | .wfuse f => Sys2Proof.Machine.execWfuse f s
  | .hash f => Sys2Proof.Machine.execHash f s
  | .hashc f => Sys2Proof.Machine.execHashc f s
  | .partL f => Sys2Proof.Machine.execPart f s
  | .pcount f => Sys2Proof.Machine.execPcount f s
  | .sld f => Sys2Proof.Machine.execSld f s
  | .scmp f => Sys2Proof.Machine.execScmp f s
  | .shash f => Sys2Proof.Machine.execShash f s
  | .sfind f => Sys2Proof.Machine.execSfind f s
  | .spfx f => Sys2Proof.Machine.execSpfx f s
  | .sutf f => Sys2Proof.Machine.execSutf f s
  | .scase f => Sys2Proof.Machine.execScase f s
  | .mma f => Sys2Proof.Machine.execMma f s
  | .mmas f => Sys2Proof.Machine.execMmas f s
  | .mmav f => Sys2Proof.Machine.execMmav f s
  | .gangset f => Sys2Proof.Machine.execGangset f s
  | .mldt f => Sys2Proof.Machine.execMldt f s
  | .mstt f => Sys2Proof.Machine.execMstt f s
  | .ld f => Sys2Proof.Machine.execLd f s
  | .st f => Sys2Proof.Machine.execSt f s
  | .lds f => Sys2Proof.Machine.execLds f s
  | .sts f => Sys2Proof.Machine.execSts f s
  | .ldf f => Sys2Proof.Machine.execLdf f s
  | .stf f => Sys2Proof.Machine.execStf f s
  | .feset f => Sys2Proof.Machine.execFeset f s
  | .atom f => Sys2Proof.Machine.execAtom f s
  | .red f => Sys2Proof.Machine.execRed f s
  | .atoms f => Sys2Proof.Machine.execAtoms f s
  | .pref f => Sys2Proof.Machine.execPref f s
  | .fence f => Sys2Proof.Machine.execFence f s
  | .bara f => Sys2Proof.Machine.execBara f s
  | .barw f => Sys2Proof.Machine.execBarw f s
  | .monw f => Sys2Proof.Machine.execMonw f s
  | .baraw f => Sys2Proof.Machine.execBaraw f s
  | .rgbeg f => Sys2Proof.Machine.execRgbeg f s
  | .rgend f => Sys2Proof.Machine.execRgend f s
  | .rgabt f => Sys2Proof.Machine.execRgabt f s
  | .rgbnd f => Sys2Proof.Machine.execRgbnd f s
  | .rgnar f => Sys2Proof.Machine.execRgnar f s
  | .rgst f => Sys2Proof.Machine.execRgst f s
  | .bra f => Sys2Proof.Machine.execBra f s
  | .brx f => Sys2Proof.Machine.execBrx f s
  | .call f => Sys2Proof.Machine.execCall f s
  | .ret f => Sys2Proof.Machine.execRet f s
  | .bif f => Sys2Proof.Machine.execBif f s
  | .belse f => Sys2Proof.Machine.execBelse f s
  | .bend f => Sys2Proof.Machine.execBend f s
  | .bbrk f => Sys2Proof.Machine.execBbrk f s
  | .bloop f => Sys2Proof.Machine.execBloop f s
  | .regang f => Sys2Proof.Machine.execRegang f s
  | .exit f => Sys2Proof.Machine.execExit f s
  | .yield f => Sys2Proof.Machine.execYield f s
  | .lease f => Sys2Proof.Machine.execLease f s
  | .flash f => Sys2Proof.Machine.execFlash f s
  | .launch f => Sys2Proof.Machine.execLaunch f s
  | .qpush f => Sys2Proof.Machine.execQpush f s
  | .qpop f => Sys2Proof.Machine.execQpop f s
  | .qclose f => Sys2Proof.Machine.execQclose f s
  | .xcopy f => Sys2Proof.Machine.execXcopy f s
  | .xgath f => Sys2Proof.Machine.execXgath f s
  | .xscat f => Sys2Proof.Machine.execXscat f s
  | .xred f => Sys2Proof.Machine.execXred f s
  | .xfill f => Sys2Proof.Machine.execXfill f s
  | .fcinc f => Sys2Proof.Machine.execFcinc f s
  | .fcwait f => Sys2Proof.Machine.execFcwait f s
  | .trap f => Sys2Proof.Machine.execTrap f s
  | .eret f => Sys2Proof.Machine.execEret f s
  | .rdsr f => Sys2Proof.Machine.execRdsr f s
  | .wrsr f => Sys2Proof.Machine.execWrsr f s
  | .bkpt f => Sys2Proof.Machine.execBkpt f s
  | .tlbinvPage f => Sys2Proof.Machine.execTlbinvPage f s
  | .tlbinvAll f => Sys2Proof.Machine.execTlbinvAll f s
  | .tlbinvGlob f => Sys2Proof.Machine.execTlbinvGlob f s
  | .tblrd f => Sys2Proof.Machine.execTblrd f s
  | .tblwr f => Sys2Proof.Machine.execTblwr f s
  | .halt f => Sys2Proof.Machine.execHalt f s
  | .nop f => Sys2Proof.Machine.execNop f s
  | .cctlIcinv f => Sys2Proof.Machine.execCctlIcinv f s
  | .cctlL1wb f => Sys2Proof.Machine.execCctlL1wb f s
  | .cctlL1inv f => Sys2Proof.Machine.execCctlL1inv f s
  | .cctlLinewb f => Sys2Proof.Machine.execCctlLinewb f s
  | .cctlEvict f => Sys2Proof.Machine.execCctlEvict f s
  | .ctxsv f => Sys2Proof.Machine.execCtxsv f s
  | .ctxld f => Sys2Proof.Machine.execCtxld f s
  | .directoryProbe core slot addr => Sys2Proof.Machine.execDirectoryProbe core slot addr s
  | .partitionWrite core quad value => Sys2Proof.Machine.execPartitionWrite core quad value s
  | .launchRecordTake => Sys2Proof.Machine.execLaunchRecordTake s
  | .blockStart launch block core => Sys2Proof.Machine.execBlockStart launch block core s
  | .warpEnd core slot => Sys2Proof.Machine.execWarpEnd core slot s
  | .launchCompletion launch => Sys2Proof.Machine.execLaunchCompletion launch s
  | .admissionCycle core quad => Sys2Proof.Machine.execAdmissionCycle core quad s
  | .headQualify core quad => Sys2Proof.Machine.execHeadQualify core quad s
  | .headWiden core quad => Sys2Proof.Machine.execHeadWiden core quad s
  | .leaseDecay core slot => Sys2Proof.Machine.execLeaseDecay core slot s
  | .issueCycle core => Sys2Proof.Machine.execIssueCycle core s
  | .classQResult core quad divider => Sys2Proof.Machine.execClassQResult core quad divider s
  | .accessReturn core slot id => Sys2Proof.Machine.execAccessReturn core slot id s
  | .matrixOperandFetched core quad id => Sys2Proof.Machine.execMatrixOperandFetched core quad id s
  | .matrixStart core quad id => Sys2Proof.Machine.execMatrixStart core quad id s
  | .matrixWriteback core quad id => Sys2Proof.Machine.execMatrixWriteback core quad id s
  | .regangTimeout core slot pc => Sys2Proof.Machine.execRegangTimeout core slot pc s
  | .wfuseLatchEntry core slot => Sys2Proof.Machine.execWfuseLatchEntry core slot s
  | .flashLatch core slot => Sys2Proof.Machine.execFlashLatch core slot s
  | .flashbackSave core slot => Sys2Proof.Machine.execFlashbackSave core slot s
  | .runonLimit core slot => Sys2Proof.Machine.execRunonLimit core slot s
  | .blockResume tenant block core => Sys2Proof.Machine.execBlockResume tenant block core s
  | .trapEntry core slot => Sys2Proof.Machine.execTrapEntry core slot s
  | .coreRetirement core => Sys2Proof.Machine.execCoreRetirement core s
  | .calderaRequest id => Sys2Proof.Machine.execCalderaRequest id s
  | .calderaFill line => Sys2Proof.Machine.execCalderaFill line s
  | .moveStart line => Sys2Proof.Machine.execMoveStart line s
  | .moveInstall line => Sys2Proof.Machine.execMoveInstall line s
  | .moveComplete line => Sys2Proof.Machine.execMoveComplete line s
  | .replicaDropNotice line reticle => Sys2Proof.Machine.execReplicaDropNotice line reticle s
  | .collapse line => Sys2Proof.Machine.execCollapse line s
  | .replicaInvalidation line reticle => Sys2Proof.Machine.execReplicaInvalidation line reticle s
  | .collapseAck line reticle => Sys2Proof.Machine.execCollapseAck line reticle s
  | .anchorUnpin line => Sys2Proof.Machine.execAnchorUnpin line s
  | .bankRetirement bank => Sys2Proof.Machine.execBankRetirement bank s
  | .forcedUnit bank cls => Sys2Proof.Machine.execForcedUnit bank cls s
  | .wcBufferDrain channel => Sys2Proof.Machine.execWcBufferDrain channel s
  | .channelRetirement channel => Sys2Proof.Machine.execChannelRetirement channel s
  | .reinterleaveUnit => Sys2Proof.Machine.execReinterleaveUnit s
  | .rowCooldownRelease channel => Sys2Proof.Machine.execRowCooldownRelease channel s
  | .writeNotice core line => Sys2Proof.Machine.execWriteNotice core line s
  | .monwBoundExpiry core slot => Sys2Proof.Machine.execMonwBoundExpiry core slot s
  | .tlbWalk core tenant vpage => Sys2Proof.Machine.execTlbWalk core tenant vpage s
  | .regionTrackedRead id => Sys2Proof.Machine.execRegionTrackedRead id s
  | .writeIntent id => Sys2Proof.Machine.execWriteIntent id s
  | .narrowMsg msg => Sys2Proof.Machine.execNarrowMsg msg s
  | .commitVisit region bank => Sys2Proof.Machine.execCommitVisit region bank s
  | .commitGrant region bank => Sys2Proof.Machine.execCommitGrant region bank s
  | .finalMsg region bank p => Sys2Proof.Machine.execFinalMsg region bank p s
  | .finalAtPartner partner region p => Sys2Proof.Machine.execFinalAtPartner partner region p s
  | .releaseMsg region bank => Sys2Proof.Machine.execReleaseMsg region bank s
  | .regionAbort core slot => Sys2Proof.Machine.execRegionAbort core slot s
  | .stagePush id => Sys2Proof.Machine.execStagePush id s
  | .stageRecordAck id => Sys2Proof.Machine.execStageRecordAck id s
  | .stagePop id => Sys2Proof.Machine.execStagePop id s
  | .engineCommand core quad => Sys2Proof.Machine.execEngineCommand core quad s
  | .engineCommandDone core quad => Sys2Proof.Machine.execEngineCommandDone core quad s
  | .nyrusRequestLeave core id => Sys2Proof.Machine.execNyrusRequestLeave core id s
  | .peerTimeout core id => Sys2Proof.Machine.execPeerTimeout core id s
  | .ethTransmit port => Sys2Proof.Machine.execEthTransmit port s
  | .laharBringUp tests => Sys2Proof.Machine.execLaharBringUp tests s
  | .writeBackAcknowledgement core slot id => Sys2Proof.Machine.execWriteBackAcknowledgement core slot id s
  | .globalObservationResponse line => Sys2Proof.Machine.execGlobalObservationResponse line s
  | .monwCheckReply core slot value => Sys2Proof.Machine.execMonwCheckReply core slot value s
  | .qtailWrite tenant queue value => Sys2Proof.Machine.execQtailWrite tenant queue value s
  | .resumeWrite tenant token => Sys2Proof.Machine.execResumeWrite tenant token s
  | .fqfail tenant token => Sys2Proof.Machine.execFqfail tenant token s
  | .fqheadWrite tenant value => Sys2Proof.Machine.execFqheadWrite tenant value s
  | .fcvalWrite tenant counter value => Sys2Proof.Machine.execFcvalWrite tenant counter value s
  | .fcaddWrite tenant counter value => Sys2Proof.Machine.execFcaddWrite tenant counter value s
  | .registerWrite tenant offset data => Sys2Proof.Machine.execRegisterWrite tenant offset data s
  | .mboxCommand cmd => Sys2Proof.Machine.execMboxCommand cmd s
  | .functionLevelReset tenant => Sys2Proof.Machine.execFunctionLevelReset tenant s
  | .firmwareReload image signed => Sys2Proof.Machine.execFirmwareReload image signed s
  | .spdmRequest request => Sys2Proof.Machine.execSpdmRequest request s
  | .monitorSnapshot reticle => Sys2Proof.Machine.execMonitorSnapshot reticle s
  | .powerCapReached => Sys2Proof.Machine.execPowerCapReached s
  | .thermalTrip => Sys2Proof.Machine.execThermalTrip s
  | .criticalTemperature => Sys2Proof.Machine.execCriticalTemperature s
  | .temperatureBelowTrip => Sys2Proof.Machine.execTemperatureBelowTrip s
  | .hostSnoop addr invalidate data => Sys2Proof.Machine.execHostSnoop addr invalidate data s
  | .hostCxlMemRequest addr transfer => Sys2Proof.Machine.execHostCxlMemRequest addr transfer s
  | .peerRequestServe req => Sys2Proof.Machine.execPeerRequestServe req s
  | .nyrusLaneRetire lane => Sys2Proof.Machine.execNyrusLaneRetire lane s
  | .ethFrameReceive port frame fcsOk => Sys2Proof.Machine.execEthFrameReceive port frame fcsOk s
  | .scrubUnit target found => Sys2Proof.Machine.execScrubUnit target found s
  | .preemptRequest core quad => Sys2Proof.Machine.execPreemptRequest core quad s
  | .nyrusResponse core id data => Sys2Proof.Machine.execNyrusResponse core id data s
  | .backInvalidateResponse addr data => Sys2Proof.Machine.execBackInvalidateResponse addr data s

end Sys2Proof.Machine
end

