-- ==== Sys2Proof/Machine/Step.lean ====
section
/-! DEFINITION. One step of the part, and the placing of an instruction where the next step fetches it. -/

namespace Sys2Proof.Machine

/-- One step. First what the world outside chooses, where that may come next; else the selected slice group issues its instruction; else a step of
the machine's own that is on its way; else the next issue cycle. DESIGN CHOICE, log entry 6. -/
def step (s : State) : Host.Outcome State Fault Refusal :=
  match s.agenda with
  | e :: rest => if s.admits e then exec e { s with agenda := rest } else .next { s with agenda := rest }
  | [] =>
    if s.sel.isEmpty then
      match s.pending with
      | e :: rest => if e.isEvent then exec e s else .next { s with pending := rest }
      | [] => exec s.nextTurn s
    else match s.fetch with
      | .idle s' => .next s'
      | .trapped s' => .next s'
      | .run i s' => exec i s'

/-- `s` with the instruction whose bits are `w` where the next step fetches. -/
def State.withFetchWord (s : State) (nbits w : Nat) : State := s.place (bytesOf (w % 2 ^ nbits) 12)

end Sys2Proof.Machine
end

