-- ==== Sys2Proof/Safety.lean ====
section
/-! DEFINITION. What counts as a safe run, and the words in which the statements speak of one: an instruction that nothing stops, what it may change, and what its results are. -/

namespace Sys2Proof.Machine

/-- A step that answers a next state. -/
def Continues (o : Host.Outcome State Fault Refusal) : Prop := ∃ s', o = .next s'

/-! ## An instruction that nothing stops -/

/-- `g` is the first selected group and `w` its warp. -/
def State.selects (s : State) (g : Selected) (w : Warp) : Prop := s.sel.head? = some g ∧ s.warp? g.core g.slot = some w

/-- Nothing stops the instruction: its group has not been held at it, no interlock and no full counter makes it wait (R110, R121),
no warp-uniform fault of R106 arises, it is not forbidden in an active region (R312), no deferred fault is to be delivered
(R424), no register that it names is read too early under SCHK (R112), and no older barrier arrival of the warp is still in its release
steps where it works on the window (R287). -/
def State.clear (s : State) (i : Instr) (late : Ctx → State → Late) (g : Selected) (w : Warp) : Bool :=
  let x := s.seenBy i g w
  let l := late x s
  ((w.group? g.mask).map (fun q => decide (q.prog.stage = 0))).getD false && (x.waits s l).isNone && (x.uniformFault l).isNone &&
    !(w.region.active && (i.forbidden || l.forbidden)) && x.deferredAt.isNone && x.stallViolation.isNone

/-- The state in which the effect of a selected instruction begins: the selection is consumed. -/
def State.begun (s : State) : State := { s with sel := s.sel.tail, tick := s.tick + 1 }

/-! ## What an instruction changes -/

/-- Outside its warp, an instruction changes nothing but the performance counters of its quadrant, the matrix latches that held
registers it writes (R234), and what comes due. All bytes of memory are the same: the primary copies, the L1 lines, the scratchpad windows. -/
structure OnlyWarp (x : Ctx) (s t : State) : Prop where
  state  : t = { s with cores := t.cores, sel := s.sel.tail, tick := s.tick + 1, pending := t.pending }
  due    : ∃ l, t.pending = s.pending ++ l
  warps  : ∀ c p, c ≠ x.core ∨ p ≠ x.slot → t.warp? c p = s.warp? c p
  cores  : ∀ c k, s.core? c = some k → ∃ k', t.core? c = some k' ∧ k' = { k with warps := k'.warps, quads := k'.quads }
  quads  : ∀ c k k' q, s.core? c = some k → t.core? c = some k' →
    k'.quad q = { k.quad q with pc := (k'.quad q).pc, pcfg := (k'.quad q).pcfg, latches := (k'.quad q).latches }
  latches : ∀ c k k' q, s.core? c = some k → t.core? c = some k' → ∀ e,
    (e ∈ (k'.quad q).latches → e ∈ (k.quad q).latches) ∧
    (e ∈ (k.quad q).latches → e.2.overwritten (e.1 % 2 == 1) x.slot x.writtenRun.1 x.writtenRun.2 = false → e ∈ (k'.quad q).latches)

/-- The group goes on at `pc` (bits 1:0 of a PC are zero, R91) and may issue again after its stall (R107). -/
structure GroupGoes (x : Ctx) (w' : Warp) (pc : Nat) : Prop where
  slices : ∀ k, (w'.slice k).pc = if inMask x.mask k ∧ k < x.w.slices.length then BitVec.ofNat 48 (pc / 4 * 4) else (x.w.slice k).pc
  groups : w'.groups = x.w.groups.map (fun g =>
    if g.mask == x.mask then { g with readyAt := x.cyc + 1 + x.f.stall.toNat, hold := .none, prog := {} } else g)

/-- A warp after an instruction that only writes registers, predicates and flags. -/
structure OnlyResults (x : Ctx) (w' : Warp) : Prop where
  warp   : w' = { x.w with
    lanes := w'.lanes, s := w'.s, slices := w'.slices, groups := w'.groups, undelivered := w'.undelivered, flagsDue := w'.flagsDue,
    special := { x.w.special with fflags := w'.special.fflags }, lease := { x.w.lease with run := x.w.lease.run + 1 },
    preempt := x.w.preempt.map (· + 1) }
  lanes  : ∀ i, w'.lane i = { x.w.lane i with v := (w'.lane i).v, p := (w'.lane i).p }
  fmt    : ∀ k, (w'.slice k).fmt = (x.w.slice k).fmt

/-- The flags of a warp, those that are not visible yet among them (R76). -/
def Warp.flagsInAll (w : Warp) : Flags := w.flagsDue.foldl (fun a f => a ||| f.2) w.special.fflags

/-- Register `code` at a place is one that an instruction with a destination run of `n` registers writes. -/
def Ctx.writesReg (x : Ctx) (n code place : Nat) : Prop :=
  x.f.dst.toNat ≤ code ∧ code < x.f.dst.toNat + n ∧ ((192 ≤ code ∧ x.places ≠ []) ∨ place ∈ x.places)

/-- The results of a register instruction, where no earlier result of the warp is still on its way (R107, R109): the run of `n`
registers at dst holds `value` at every place, the lowest-numbered register its low word (R100); each executing lane has the
predicates that `preds` gives it; every other register and predicate keeps its value; code 0xFC discards (R98). -/
structure HoldsResults (x : Ctx) (w' : Warp) (n : Nat) (value : Nat → Nat) (preds : Nat → List (Nat × Bool)) : Prop where
  run    : ∀ p ∈ x.places, ∀ k, k < n → (if x.scalarPath then x.f.dst.toNat + k < 252 else x.f.dst.toNat + k < 192 ∧ p < x.w.lanes.length) →
    w'.regWord (x.f.dst.toNat + k) p = BitVec.ofNat 32 (value p / 2 ^ (32 * k))
  rest   : ∀ code p, code < 252 → ¬x.writesReg n code p → w'.regWord code p = x.w.regWord code p
  written : ∀ l ∈ x.lanes, l < x.w.lanes.length → ∀ e ∈ preds l, 0 < e.1 → e.1 < 8 → (w'.lane l).pred e.1 = e.2
  kept   : ∀ l k, (l ∉ x.lanes ∨ ∀ e ∈ preds l, e.1 ≠ k) → (w'.lane l).pred k = (x.w.lane l).pred k

/-- What a register instruction answers: a next state with its results and nothing else. -/
def RegisterStep (i : Instr) (x : Ctx) (s : State) (n : Nat) (value : Nat → Nat) (preds : Nat → List (Nat × Bool)) (flags : Flags) : Prop :=
  ∃ t w', exec i s = .next t ∧ t.warp? x.core x.slot = some w' ∧ OnlyWarp x s t ∧ OnlyResults x w' ∧ GroupGoes x w' x.next ∧
    (x.w.undelivered = [] → HoldsResults x w' n value preds) ∧ w'.flagsInAll = x.w.flagsInAll ||| flags

/-- A warp after an instruction that moves its group and may write scalar registers: everything else of the warp is the same. -/
structure OnlyFlow (x : Ctx) (w' : Warp) : Prop where
  warp   : w' = { x.w with
    s := w'.s, slices := w'.slices, groups := w'.groups, undelivered := w'.undelivered, flagsDue := w'.flagsDue,
    special := { x.w.special with fflags := w'.special.fflags }, lease := { x.w.lease with run := x.w.lease.run + 1 },
    preempt := x.w.preempt.map (· + 1) }
  fmt    : ∀ k, (w'.slice k).fmt = (x.w.slice k).fmt
  flags  : w'.flagsInAll = x.w.flagsInAll

/-- A warp after a region instruction that has gone on: its region and its group have changed, of its registers at most scalar ones; a
commit instruction ends the flashback point (R58). -/
structure OnlyRegion (x : Ctx) (w' : Warp) : Prop where
  warp   : w' = { x.w with
    s := w'.s, slices := w'.slices, groups := w'.groups, undelivered := w'.undelivered, flagsDue := w'.flagsDue, region := w'.region,
    flash := w'.flash, special := { x.w.special with fflags := w'.special.fflags }, lease := { x.w.lease with run := x.w.lease.run + 1 },
    preempt := x.w.preempt.map (· + 1) }
  fmt    : ∀ k, (w'.slice k).fmt = (x.w.slice k).fmt
  flags  : w'.flagsInAll = x.w.flagsInAll
  flash  : w'.flash = if x.i.isCommit then { x.w.flash with valid := false } else x.w.flash

/-- The scalar run of `n` registers at dst holds `value`, the lowest-numbered register its low word, and every other scalar
register keeps its value, where no earlier result of the warp is on its way; code 0xFC discards (R98, R100). -/
def HoldsScalars (x : Ctx) (w' : Warp) (n value : Nat) : Prop :=
  x.w.undelivered = [] → ∀ code, 192 ≤ code → code < 252 → w'.regWord code scalarLane =
    if x.f.dst.toNat ≤ code ∧ code < x.f.dst.toNat + n then BitVec.ofNat 32 (value / 2 ^ (32 * (code - x.f.dst.toNat)))
    else x.w.regWord code scalarLane

/-- A slice has an executing lane, or an active one. -/
def Ctx.sliceRuns (x : Ctx) (k : Nat) : Prop := ∃ l ∈ x.lanes, l / 4 = k
def Ctx.sliceLives (x : Ctx) (k : Nat) : Prop := ∃ i, i < 4 ∧ x.w.active (4 * k + i) = true

/-- A slice takes a branch (R133): where it has an executing lane; without an active lane, where the lowest-numbered slice
that has one takes it. -/
def Ctx.takes (x : Ctx) (k : Nat) : Prop :=
  x.sliceRuns k ∨ (¬x.sliceLives k ∧ ∃ j, inMask x.mask j = true ∧ x.sliceLives j ∧ x.sliceRuns j ∧
    ∀ i, i < j → inMask x.mask i = true → ¬x.sliceLives i)

/-- No lane of the group is active. -/
def Ctx.idle (x : Ctx) : Prop := ∀ k, k < 8 → inMask x.mask k = true → ¬x.sliceLives k

/-- The instruction answers a next state in which only its warp and what comes due have changed. -/
def Reaches (i : Instr) (x : Ctx) (s : State) (post : State → Warp → Prop) : Prop :=
  ∃ t w', exec i s = .next t ∧ t.warp? x.core x.slot = some w' ∧ OnlyWarp x s t ∧ post t w'

/-! ## The sums of a group of products (R79 to R81) -/

/-- The number that a finite value is, its sign, and whether a value is a NaN, an infinity of a sign, or zero. -/
def FVal.num : FVal → ℚ
  | .fin n m e => (if n then -1 else 1) * m * 2 ^ e
  | _ => 0
def FVal.negative : FVal → Bool
  | .fin n _ _ | .inf n => n
  | .nan _ => false
def FVal.isNan (v : FVal) : Prop := ∃ s, v = .nan s
def FVal.isInf (v : FVal) : Prop := ∃ n, v = .inf n
def FVal.isZero (v : FVal) : Prop := ∃ n e, v = .fin n 0 e

/-- The code of element `k` of a row of 192 bytes that begins at a byte, of the element format `c` (R222). -/
def elementCode (c : Nat) (bytes : List Byte) (row k : Nat) : Nat :=
  let byte (i : Nat) : Nat := (bytes.getD (row + i) 0).toNat
  if elemBits c = 16 then byte (2 * k) + 256 * byte (2 * k + 1) else if elemBits c = 4 then byte (k / 2) / 16 ^ (k % 2) % 16 else byte k

/-- A product is no number, or an infinity of a sign (R80). -/
def badProduct (a b : FVal) : Prop := a.isNan ∨ b.isNan ∨ (a.isInf ∧ b.isZero) ∨ (a.isZero ∧ b.isInf)
def infProduct (n : Bool) (a b : FVal) : Prop := ¬badProduct a b ∧ (a.isInf ∨ b.isInf) ∧ (a.negative ^^ b.negative) = n

/-- A number truncated towards zero to a multiple of 2^q. -/
def truncated (q : ℤ) (x : ℚ) : ℚ := (if x < 0 then -(⌊-x / 2 ^ q⌋ : ℚ) else ⌊x / 2 ^ q⌋) * 2 ^ q

/-- The sum of a group's products (R80); of 16-bit formats each truncated to the grid of the largest (R81). -/
def GroupSum (wide : Bool) (ps : List ℚ) (S : ℚ) : Prop :=
  if wide then
    (∀ p ∈ ps, p = 0) ∧ S = 0 ∨
      ∃ E : ℤ, (∃ p ∈ ps, p ≠ 0 ∧ Int.log 2 |p| = E) ∧ (∀ p ∈ ps, p ≠ 0 → Int.log 2 |p| ≤ E) ∧ S = (ps.map (truncated (E - 48))).sum
  else S = ps.sum

/-- The value of a group in f32 (R80, R81), of the elements of its two sides in pairs and the E8M0 codes of its two scales. The sign of
a zero product is that of its factors, of MXINT8 too (log entry 88). -/
def GroupValue (wide : Bool) (ea eb : Nat) (ps : List (FVal × FVal)) (v : Nat) : Prop :=
  let nan := ea = 255 ∨ eb = 255 ∨ ∃ p ∈ ps, badProduct p.1 p.2
  let inf (n : Bool) := ∃ p ∈ ps, infProduct n p.1 p.2
  (nan ∨ (inf false ∧ inf true) → v = 0x7FC00000) ∧
    (¬nan → inf false → ¬inf true → v = 0x7F800000) ∧ (¬nan → ¬inf false → inf true → v = 0xFF800000) ∧
    (¬nan → ¬inf false → ¬inf true → ∃ S, GroupSum wide (ps.map (fun p => p.1.num * p.2.num)) S ∧
      (S = 0 → (v = 2 ^ 31 ∧ (∀ p ∈ ps, (p.1.isZero ∨ p.2.isZero) ∧ (p.1.negative ^^ p.2.negative) = true)) ∨
        (v = 0 ∧ ∃ p ∈ ps, ¬((p.1.isZero ∨ p.2.isZero) ∧ (p.1.negative ^^ p.2.negative) = true))) ∧
      (S ≠ 0 → ∃ (n : Bool) (y : Nat) (e : ℤ), (if n then -1 else 1) * (y : ℚ) * 2 ^ e = S * 2 ^ ((ea : ℤ) + eb - 254) ∧
        v = (roundFin .f32 0 false n y e).bits))

/-- An element of a product with an f32 accumulator (R79): the groups of K in ascending order, each added to the last sum and rounded.
`row` and `column` are the bytes of the two sides, of the formats `fa` and `fb`; `sa` and `sb` give a group's scale codes. -/
def FloatElement (fa fb : Nat) (row column : Nat → Nat) (sa sb : Nat → Nat) (c d : Nat) : Prop :=
  let size := if elemBits fa = 16 then 8 else 32
  ∃ v : Nat → Nat,
    (∀ g, GroupValue (decide (elemBits fa = 16)) (sa g) (sb g)
      ((List.range size).map (fun k => (elemValue fa (row (size * g + k)), elemValue fb (column (size * g + k))))) (v g)) ∧
    d = (List.range (1536 / elemBits fa / size)).foldl (fun acc g => (fAdd .f32 0 (Fmt.f32.value acc) (Fmt.f32.value (v g))).bits) c

/-! ## Accesses to memory -/

/-- An instruction that has issued and was held goes on: its group is selected again, with the progress it was held with, in a warp that
is neither parked nor over; no handler holds the group. -/
def Resumes (s : State) (g : Selected) (w : Warp) (p : Progress) : Prop :=
  s.selects g w ∧ (w.group? g.mask).map (·.prog) = some p ∧ p.stage ≠ 0 ∧ w.park = .none ∧ w.ending = none ∧
    (w.group? g.mask).map (·.held) = some false

/-- The state in which an access acts: the selection is consumed and the pages of its addresses have been used (R398); what their walks
have filled has not touched its warp. -/
def Ctx.paged (x : Ctx) (s : State) (vas : List Nat) (s1 : State) : Prop :=
  s1 = s.begun.keepPages x vas ∧ s1.warp? x.core x.slot = s.warp? x.core x.slot

/-- The bytes of a line that an L1 line holds. -/
def L1Line.holds (l : L1Line) (a : Nat) : Prop := l.line = lineOf a ∧ l.valid.getLsbD (a % 128) = true
def L1Line.byteAt (l : L1Line) (a : Nat) : Byte := l.data.extractLsb' (8 * (a % 128)) 8

/-- An instruction that sends work away: every register, predicate and flag of its warp, its modes, its special, region and lease
registers are the same; a commit instruction ends the flashback point (R58). -/
structure KeepsRegisters (x : Ctx) (w' : Warp) : Prop where
  warp   : w' = { x.w with
    slices := w'.slices, groups := w'.groups, accesses := w'.accesses, uncovered := w'.uncovered, nextAccess := w'.nextAccess,
    paths := w'.paths, flash := w'.flash, lease := w'.lease, preempt := w'.preempt }
  fmt    : ∀ k, (w'.slice k).fmt = (x.w.slice k).fmt
  flash  : w'.flash = x.w.flash ∨ w'.flash = { x.w.flash with valid := false }
  lease  : w'.lease = { x.w.lease with run := w'.lease.run, meas := w'.lease.meas }

/-- A line's dirty bytes are on their way to Caldera. -/
def L1Line.leaves (l : L1Line) (c : Nat) (t : State) : Prop :=
  ∃ id r, SMap.get? id t.caldera.requests = some r ∧ r.core = c ∧ r.tenant = l.tenant ∧ r.line = l.line ∧ r.bytes = l.dirtyCells

/-- What an access instruction leaves as it was, once its pages have been used: its registers, every other warp, every primary copy, the
scratchpad windows, the tenants, the launches and the module; and of the L1 every locked line, and every line of another core or another
tenant but those that an unlocked way of its quadrant gives up (R252), whose dirty bytes go to Caldera. -/
structure OnlySends (x : Ctx) (s t : State) (w' : Warp) : Prop where
  regs   : KeepsRegisters x w'
  state  : t = { s with
    cores := t.cores, caldera := { s.caldera with requests := t.caldera.requests, nextRequest := t.caldera.nextRequest }, pending := t.pending }
  cores  : ∀ c k, s.core? c = some k → ∃ k', t.core? c = some k' ∧
    k' = { k with warps := k'.warps, quads := k'.quads, l1 := k'.l1, nyrus := k'.nyrus, nextId := k'.nextId }
  warps  : ∀ c p, c ≠ x.core ∨ p ≠ x.slot → t.warp? c p = s.warp? c p
  lines  : ∀ c k k', s.core? c = some k → t.core? c = some k' → ∀ l ∈ k.l1,
    (l.lock ≠ none ∨ (l.valid ≠ 0 ∧ (c ≠ x.core ∨ l.tenant ≠ x.w.tenant))) → l ∈ k'.l1 ∨
      (c = x.core ∧ l.lock = none ∧ (k.quad (quadOf x.slot)).ways.getLsbD l.way = true ∧ (l.dirty ≠ 0 → l.leaves c t))

/-- An instruction that works on its block's window: outside its core nothing changes, and there only warps, quadrants, L1 lines and
its own block. -/
structure OnlyCore (x : Ctx) (s t : State) : Prop where
  state  : t = { s with cores := t.cores, sel := s.sel.tail, tick := s.tick + 1, pending := t.pending }
  other  : ∀ c, c ≠ x.core → t.core? c = s.core? c
  own    : ∀ k, s.core? x.core = some k → ∃ k', t.core? x.core = some k' ∧
    k' = { k with warps := k'.warps, quads := k'.quads, blocks := k'.blocks, l1 := k'.l1 } ∧
    ∀ id, id ≠ x.w.block → SMap.get? id k'.blocks = SMap.get? id k.blocks

/-- Nobody waits for the window of a block: no lane stands at its words, no warp is parked at its barriers. -/
def State.windowQuiet (s : State) (c : Nat) (b : Block) : Prop :=
  b.waiters = [] ∧ ∀ slot ∈ b.slots, ∀ w, s.warp? c slot = some w → ∀ o ph, ParkReason.barrier o ph ∉ w.causes

/-- The bytes that stores of `n` bytes at the places' offsets leave, a later place's remaining (R281). -/
def windowCells (places : List Nat) (n : Nat) (offset data : Nat → Nat) : SMap Byte :=
  places.foldl (fun m p => (cellsOf (offset p) n (data p)).foldl (fun m c => SMap.put c.1 c.2 m) m) []

/-- One access joins those of the warp, and its path counter rises by one (R111, R282). -/
def Joins (x : Ctx) (w' : Warp) (a : Access) : Prop :=
  w'.accesses = x.w.accesses ++ [a] ∧ w'.paths = x.w.paths.set a.path (x.w.paths.get a.path + 1) ∧ a.returned = false

/-- A request that an access waits for is on its way to Caldera. -/
def Asks (t : State) (a : Access) (r : Request) : Prop :=
  ∃ id, needCaldera id ∈ a.needs ∧ SMap.get? id t.caldera.requests = some r

/-- The number that the warp's next access gets belongs to no access or peer request of it that is on its way. -/
def Ctx.fresh (x : Ctx) (s : State) : Prop :=
  (∀ a ∈ x.w.accesses, a.id ≠ x.w.nextAccess) ∧
    ∀ k, s.core? x.core = some k → ∀ r ∈ k.nyrus, r.slot = x.slot → r.access ≠ x.w.nextAccess

/-- A release has nothing to wait for: the warp has no access in flight and no collapse outstanding, and its tenant has no dirty
line on the core and no write on its way from it (R283). -/
def Ctx.nothingToRelease (x : Ctx) (s : State) : Prop :=
  x.w.accesses = [] ∧ x.w.collapses = 0 ∧
    (∀ k, s.core? x.core = some k → ∀ l ∈ k.l1, l.tenant = x.w.tenant → l.dirty = 0) ∧
    ∀ e ∈ s.caldera.requests, ∀ rel, e.2.kind = .write rel → ¬(e.2.core = x.core ∧ e.2.tenant = x.w.tenant)

/-- The instruction is the next to issue, and nothing stops it. -/
def Runs (i : Instr) (s : State) (g : Selected) (w : Warp) (late : Ctx → State → Late := noLate) : Prop :=
  s.selects g w ∧ s.clear i late g w = true

/-- The flags that the results of all places raise together. -/
def Ctx.flagsOf (x : Ctx) (flags : Nat → Flags) : Flags := x.places.foldr (fun p a => flags p ||| a) 0

/-- No predicate is written. -/
def noPreds (_ : Nat) : List (Nat × Bool) := []

/-- The place at which a lane's result is computed: the scalar path's, or the lane itself (R102, R103). -/
def Ctx.placeFor (x : Ctx) (lane : Nat) : Nat := if x.scalarPath then scalarLane else lane

/-- Wherever nothing stops the instruction, it writes `value` to its destination run of `n` registers at every place, the
predicates `preds` in every executing lane, raises `flags`, and goes on: nothing else changes. -/
def Computes (i : Instr) (n : Ctx → Nat) (value : Ctx → Nat → Nat) (preds : Ctx → Nat → List (Nat × Bool) := fun _ => noPreds)
    (flags : Ctx → Nat → Flags := fun _ _ => 0) (late : Ctx → State → Late := noLate) : Prop :=
  ∀ s g w, Runs i s g w late → RegisterStep i (s.seenBy i g w) s (n (s.seenBy i g w)) (value (s.seenBy i g w))
    (preds (s.seenBy i g w)) ((s.seenBy i g w).flagsOf (flags (s.seenBy i g w)))

/-- A quadrant keeps everything but its counters and what is named. -/
def Quad.keeps (q q' : Quad) : Prop := q' = { q with pc := q'.pc, pcfg := q'.pcfg }

/-- The group waits where it is: nothing of its warp changes but why it waits. -/
def Stays (i : Instr) (x : Ctx) (s : State) (h : Hold) : Prop :=
  ∃ t w', exec i s = .next t ∧ t.warp? x.core x.slot = some w' ∧ w' = { x.w with groups := w'.groups } ∧
    ∀ y ∈ w'.groups, y.mask = x.mask → y.hold = h

/-! ## Exceptions (R415 to R422) -/

/-- An instruction issues: its group is selected and has not been held at it, nothing makes it wait, and its words raise no fault
of the causes 1 to 3. -/
def Starts (i : Instr) (late : Ctx → State → Late) (s : State) (g : Selected) (w : Warp) : Prop :=
  let x := s.seenBy i g w
  s.selects g w ∧ (w.group? g.mask).map (·.prog.stage) = some 0 ∧ x.waits s (late x s) = none ∧
    i.sig.illegalInstr x.f = false ∧ (late x s).illegalInstr = false ∧ i.sig.illegalOperand x.f = false ∧
    (late x s).illegalOperand = false ∧ i.sig.registerRange x.f w.alloc = false ∧ (late x s).registerRange = false

/-- No older class-Q or accumulator write of a warp is on its way (R189, R243). -/
def State.noOlder (s : State) (c p : Nat) : Prop := ∀ k, s.core? c = some k → k.pendingQ p = []

/-- Where a trap of a warp goes (R416): EVEC, else the tenant's TVEC; 0 is nowhere. -/
def State.vector (s : State) (w : Warp) : Nat :=
  if w.special.evec ≠ 0 then w.special.evec.toNat else (s.tenant w.tenant).tvec.toNat

/-- Nothing but one warp of the machine has changed, and what was selected of it is dropped. -/
structure OnlyTrap (c p : Nat) (s t : State) : Prop where
  state : t = { s with cores := t.cores, sel := s.sel.filter (fun g => !decide (g.core = c ∧ g.slot = p)) }
  warps : ∀ d q, d ≠ c ∨ q ≠ p → t.warp? d q = s.warp? d q
  cores : ∀ d k, s.core? d = some k → ∃ k', t.core? d = some k' ∧ k' = { k with warps := k'.warps }

/-- A warp at its handler (R417, R418, R419, R421): EPC, ESTAT, ECAUSE and EVAL are written, the mode is privileged, the slices of the
trapping group are at the handler, every other group is held. -/
structure AtHandler (mask : BitVec 8) (w w' : Warp) (handler epc eval cause : Nat) : Prop where
  warp    : w' = { w with slices := w'.slices, groups := w'.groups, special := w'.special, trap := none }
  special : w'.special = { w.special with
    priv := true, epc := BitVec.ofNat 64 (epc % 2 ^ 48 / 4 * 4), estat := BitVec.ofNat 32 (mask.toNat * 2 ^ 16),
    ecause := BitVec.ofNat 32 cause, eval := BitVec.ofNat 64 eval }
  slices  : ∀ k, w'.slice k = { w.slice k with
    pc := if inMask mask k ∧ k < w.slices.length then BitVec.ofNat 48 (handler / 4 * 4) else (w.slice k).pc }
  groups  : w'.groups = w.groups.map (fun g =>
    if g.mask = mask then { g with hold := .none, prog := {}, held := false } else { g with held := true })

/-- A step of the machine's own, or of the world's, answers a next state of which `post` holds. -/
def Becomes (e : Instr) (s : State) (post : State → Prop) : Prop := ∃ t, exec e s = .next t ∧ post t

/-- The warp of a slot is another one afterwards, and no other warp is. -/
def Rewrites (c p : Nat) (s t : State) (w' : Warp) : Prop :=
  t.warp? c p = some w' ∧ ∀ d q, d ≠ c ∨ q ≠ p → t.warp? d q = s.warp? d q

/-- A warp may issue (R50): it is admitted, or marked in this cycle, and nothing stops it. -/
def Warp.mayRun (w : Warp) : Prop :=
  (w.lease.st = .admitted ∨ w.lease.st = .returning) ∧ w.park = .none ∧ w.trap = none ∧ w.ending = none ∧ w.groups ≠ [] ∧ w.saved = none

/-- Two warps are the only ones of a quadrant. -/
def Core.holdsTwo (k : Core) (q p r : Nat) (w v : Warp) : Prop :=
  p ≠ r ∧ (k.warps.filter (fun e => decide (e.1 / 16 = q)) = [(p, w), (r, v)] ∨ k.warps.filter (fun e => decide (e.1 / 16 = q)) = [(r, v), (p, w)])

/-- A run of registers at `code` holds, at each listed lane, the number beside it, the lowest-numbered register its low word. -/
def HoldsRun (w : Warp) (code n : Nat) (l : List (Nat × Nat)) : Prop :=
  ∀ e ∈ l, ∀ j, j < n → w.regWord (code + j) e.1 = BitVec.ofNat 32 (e.2 / 2 ^ (32 * j))

/-- A class-Q instruction (R188): without an executing lane it only goes on; where its unit is full its group waits; else one operation
joins the queue, `n` registers for `dst` with the result of every place, due no earlier than its latency after it can start, and
the group goes on. Nothing else of the machine changes. -/
def Enters (i : Instr) (divider : Bool) (latency n : Ctx → Nat) (result : Ctx → Nat → FRes) : Prop :=
  ∀ s g w k, Runs i s g w → s.core? g.core = some k → quadOf g.slot < k.quads.length →
    let x := s.seenBy i g w
    let queue (k : Core) : List QResult := if divider then (k.quad (quadOf g.slot)).divider else (k.quad (quadOf g.slot)).sfu
    let full := if divider then 4 else 8
    (x.lanes = [] → Reaches i x s fun _ w' => OnlyFlow x w' ∧ GroupGoes x w' x.next ∧ w'.s = x.w.s) ∧
    (x.lanes ≠ [] → full ≤ (queue k).length → Stays i x s (if divider then .dividerFull else .sfuFull)) ∧
    (x.lanes ≠ [] → (queue k).length < full →
      ∃ t w' k' r, exec i s = .next t ∧ t.warp? g.core g.slot = some w' ∧ t.core? g.core = some k' ∧ KeepsRegisters x w' ∧
        OnlyCore x s t ∧ GroupGoes x w' x.next ∧ queue k' = queue k ++ [r] ∧
        (∀ j, Quad.keeps (if j ≠ quadOf g.slot then k.quad j
          else if divider then { k.quad j with divider := queue k' } else { k.quad j with sfu := queue k' }) (k'.quad j)) ∧
        r.slot = g.slot ∧ r.code = x.f.dst.toNat ∧ r.regs = n x ∧ r.values = x.places.map (fun p => (p, (result x p).bits)) ∧
        r.flags = x.flagsOf (fun p => (result x p).flags) ∧ r.due = r.start + latency x ∧ x.cyc ≤ r.start ∧
        (∀ e, (queue k).getLast? = some e → if divider then e.due ≤ r.start else e.start < r.start))

end Sys2Proof.Machine
end

