-- ==== Sys2Proof/WellFormed.lean ====
section
/-! DEFINITION. Well-formed instructions: those whose words the static rules R95 to R100 accept. An ill-formed instruction still decodes; when it issues, it takes the trap that R106 names. -/

namespace Sys2Proof

/-- The TLBINV scope and the CCTL operation stand in the modifier, so the constructor fixes those bits (R411). -/
def Instr.splitOk : Instr → Bool
  | .tlbinvPage f => f.mb 1 0 == 0
  | .tlbinvAll f => f.mb 1 0 == 1
  | .tlbinvGlob f => f.mb 1 0 == 2
  | .cctlIcinv f => f.mb 3 0 == 0
  | .cctlL1wb f => f.mb 3 0 == 1
  | .cctlL1inv f => f.mb 3 0 == 2
  | .cctlLinewb f => f.mb 3 0 == 3
  | .cctlEvict f => f.mb 3 0 == 4
  | _ => true

/-- The instruction has an encoding whose modifier, guard, unused fields and operand codes are all legal. -/
def Instr.wellFormed (i : Instr) : Bool :=
  match i.form with
  | .event => false
  | .short _ _ => !i.sig.illegalInstr i.fields && !i.sig.illegalOperand i.fields
  | .long _ f => i.splitOk && !i.sig.illegalInstr f && !i.sig.illegalOperand f

/-- The instruction has an encoding, and its constructor agrees with the modifier bits that choose it. -/
def Instr.encodable (i : Instr) : Bool := i.form != .event && i.splitOk

end Sys2Proof
end

