-- ==== Sys2Proof/Certificates/Slice0/Obligations.lean ====
section
/-! DEFINITION. The statements about the machine, each a rule of the spec or what follows from several. -/

open Sys2Proof Sys2Proof.Machine

/-! ## Integers, bits, addresses and predicates (R148 to R168) -/

/-- R153. IADD, ISUB and IADDC, with .sat, the carry-out in its predicate, and nothing else changed; the S forms are type .n32. -/
def Obligations.AddAndSubtract : Prop :=
  ∀ f : LX, ∀ h : SF,
    let a (x : Ctx) (p : Nat) : Nat := x.rdInt x.f.srcA p
    let b (x : Ctx) (p : Nat) : Nat := x.rdInt x.f.srcB p
    let cin (x : Ctx) (p : Nat) : Nat := if x.pdAt p x.f.srcC.toNat then 1 else 0
    let add (x : Ctx) (p : Nat) : Int :=
      let e := numInt x.ty (a x p) + numInt x.ty (b x p)
      if x.f.mb 4 4 = 1 then max (intMin x.ty) (min (intMax x.ty) e) else e
    let sub (x : Ctx) (p : Nat) : Int :=
      let e := numInt x.ty (a x p) - numInt x.ty (b x p)
      if x.f.mb 4 4 = 1 then max (intMin x.ty) (min (intMax x.ty) e) else e
    let carry (x : Ctx) (l : Nat) : List (Nat × Bool) :=
      [(x.f.mb 7 5, decide (2 ^ intWidth x.ty ≤ a x (x.placeFor l) + b x (x.placeFor l)))]
    let noBorrow (x : Ctx) (l : Nat) : List (Nat × Bool) := [(x.f.mb 7 5, decide (b x (x.placeFor l) ≤ a x (x.placeFor l)))]
    let result (e : Ctx → Nat → Int) (x : Ctx) (p : Nat) : Nat := extendInt x.ty (wrapInt (intWidth x.ty) (e x p))
    Computes (.iadd f) (fun x => intRegs x.ty) (result add) carry ∧
      Computes (.iaddS h) (fun x => intRegs x.ty) (result add) carry ∧
      Computes (.isub f) (fun x => intRegs x.ty) (result sub) noBorrow ∧
      Computes (.isubS h) (fun x => intRegs x.ty) (result sub) noBorrow ∧
      Computes (.iaddc f) (fun x => intRegs x.ty)
        (result (fun x p => if x.f.mb 4 4 = 1 then (a x p : Int) - b x p - (1 - cin x p) else (a x p : Int) + b x p + cin x p))
        (fun x l =>
          let p := x.placeFor l
          [(x.f.mb 7 5, if x.f.mb 4 4 = 1 then decide (b x p + (1 - cin x p) ≤ a x p)
            else decide (2 ^ intWidth x.ty ≤ a x p + b x p + cin x p))])

/-- R154, R155. IMUL, IMULH, IMAD, IMADW and IDOT4. -/
def Obligations.Multiply : Prop :=
  ∀ f : LX,
    let a (x : Ctx) (p : Nat) : Int := numInt x.ty (x.rdInt x.f.srcA p)
    let b (x : Ctx) (p : Nat) : Int := numInt x.ty (x.rdInt x.f.srcB p)
    let c (x : Ctx) (p : Nat) : Int := numInt x.ty (x.rdInt x.f.srcC p)
    let result (e : Ctx → Nat → Int) (x : Ctx) (p : Nat) : Nat := extendInt x.ty (wrapInt (intWidth x.ty) (e x p))
    let byteA (x : Ctx) (p k : Nat) : Int := intOf (x.f.mb 4 4 == 1) 8 (x.a 1 p / 256 ^ k)
    let byteB (x : Ctx) (p k : Nat) : Int := intOf (x.f.mb 5 5 == 1) 8 (x.b 1 p / 256 ^ k)
    Computes (.imul f) (fun x => intRegs x.ty) (result (fun x p => a x p * b x p)) ∧
      Computes (.imulh f) (fun x => intRegs x.ty) (result (fun x p => a x p * b x p / 2 ^ intWidth x.ty)) ∧
      Computes (.imad f) (fun x => intRegs x.ty) (result (fun x p => a x p * b x p + c x p)) ∧
      Computes (.imadw f) (fun _ => 2)
        (fun x p => wrapInt 64 (numInt x.ty (x.a 1 p) * numInt x.ty (x.b 1 p) + x.c 2 p (intExt x.ty))) ∧
      Computes (.idot4 f) (fun _ => 1) (fun x p =>
        let s := numInt x.ty (x.c 1 p) + ((List.range 4).map (fun k => byteA x p k * byteB x p k)).sum
        wrapInt 32 (if x.f.mb 6 6 = 1 then max (intMin x.ty) (min (intMax x.ty) s) else s))

/-- R157, R78. IMIN, IMAX, IABS and INEG, numbers of the type compared and the smallest one kept by IABS and INEG. -/
def Obligations.MinMaxAbsNeg : Prop :=
  ∀ f : LX, ∀ h : SF,
    let a (x : Ctx) (p : Nat) : Int := numInt x.ty (x.rdInt x.f.srcA p)
    let b (x : Ctx) (p : Nat) : Int := numInt x.ty (x.rdInt x.f.srcB p)
    let result (e : Ctx → Nat → Int) (x : Ctx) (p : Nat) : Nat := extendInt x.ty (wrapInt (intWidth x.ty) (e x p))
    Computes (.imin f) (fun x => intRegs x.ty) (result (fun x p => min (a x p) (b x p))) ∧
      Computes (.imax f) (fun x => intRegs x.ty) (result (fun x p => max (a x p) (b x p))) ∧
      Computes (.iabs f) (fun x => intRegs x.ty) (result (fun x p => |a x p|)) ∧
      Computes (.ineg f) (fun x => intRegs x.ty) (result (fun x p => -a x p)) ∧
      Computes (.inegS h) (fun x => intRegs x.ty) (result (fun x p => -a x p))

/-- R158. AND, OR, XOR, ANDN, NOT and LOP3, bit by bit over the type's width. -/
def Obligations.BitwiseLogic : Prop :=
  ∀ f : LX, ∀ h : SF,
    let bit (op : Ctx → Bool → Bool → Bool → Bool) (x : Ctx) (p : Nat) : Nat :=
      extendInt x.ty (∑ i ∈ Finset.range (intWidth x.ty),
        if op x ((x.rdInt x.f.srcA p).testBit i) ((x.rdInt x.f.srcB p).testBit i) ((x.rdInt x.f.srcC p).testBit i) then 2 ^ i else 0)
    let n (x : Ctx) : Nat := intRegs x.ty
    Computes (.andL f) n (bit (fun _ a b _ => a && b)) ∧ Computes (.andS h) n (bit (fun _ a b _ => a && b)) ∧
      Computes (.orL f) n (bit (fun _ a b _ => a || b)) ∧ Computes (.orS h) n (bit (fun _ a b _ => a || b)) ∧
      Computes (.xorL f) n (bit (fun _ a b _ => a != b)) ∧ Computes (.xorS h) n (bit (fun _ a b _ => a != b)) ∧
      Computes (.andn f) n (bit (fun _ a b _ => a && !b)) ∧
      Computes (.notL f) n (bit (fun _ a _ _ => !a)) ∧ Computes (.notS h) n (bit (fun _ a _ _ => !a)) ∧
      Computes (.lop3 f) n (bit (fun x a b c =>
        (x.f.mb 11 4).testBit ((if a then 1 else 0) + 2 * (if b then 1 else 0) + 4 * (if c then 1 else 0))))

/-- R159. SHL, SHR, ROTL and SHF: the amount is taken modulo the width. -/
def Obligations.Shifts : Prop :=
  ∀ f : LX, ∀ h : SF,
    let a (x : Ctx) (p : Nat) : Nat := x.rdInt x.f.srcA p
    let n (x : Ctx) (p : Nat) : Nat := x.b 1 p % intWidth x.ty
    let shl (x : Ctx) (p : Nat) : Nat := extendInt x.ty (a x p * 2 ^ n x p % 2 ^ intWidth x.ty)
    let shr (x : Ctx) (p : Nat) : Nat := extendInt x.ty (wrapInt (intWidth x.ty) (⌊(numInt x.ty (a x p) : ℚ) / 2 ^ n x p⌋))
    Computes (.shl f) (fun x => intRegs x.ty) shl ∧ Computes (.shlS h) (fun x => intRegs x.ty) shl ∧
      Computes (.shr f) (fun x => intRegs x.ty) shr ∧ Computes (.shrS h) (fun x => intRegs x.ty) shr ∧
      Computes (.rotl f) (fun x => intRegs x.ty)
        (fun x p => extendInt x.ty ((a x p * 2 ^ n x p ||| a x p / 2 ^ (intWidth x.ty - n x p)) % 2 ^ intWidth x.ty)) ∧
      Computes (.shf f) (fun x => intRegs x.ty) (fun x p =>
        let v := x.rdInt x.f.srcC p * 2 ^ intWidth x.ty + a x p
        (if x.f.mb 4 4 = 0 then v / 2 ^ n x p else v * 2 ^ n x p / 2 ^ intWidth x.ty) % 2 ^ intWidth x.ty)

/-- R160, R161, R162. Bit fields, counts, reversal and byte permutation, each result bit or byte from the bit or byte that the
rule names. -/
def Obligations.FieldsAndCounts : Prop :=
  ∀ f : LX,
    let a (x : Ctx) (p : Nat) : Nat := x.rdInt x.f.srcA p
    let w (x : Ctx) : Nat := intWidth x.ty
    let sum (x : Ctx) (bit : Nat → Bool) : Nat := ∑ i ∈ Finset.range (w x), if bit i then 2 ^ i else 0
    let ones (x : Ctx) (p : Nat) : Finset Nat := (Finset.range (w x)).filter (fun i => (a x p).testBit i)
    -- bit i of a, extended above its width by the type
    let ext (x : Ctx) (p i : Nat) : Bool := if i < w x then (a x p).testBit i else intSigned x.ty && (a x p).testBit (w x - 1)
    Computes (.bfx f) (fun x => intRegs x.ty) (fun x p =>
        let pos := x.b 1 p % 256
        let n := min (x.c 1 p % 256) (w x)
        extendInt x.ty (sum x (fun i => if i < n then ext x p (pos + i) else intSigned x.ty && decide (0 < n) && ext x p (pos + n - 1)))) ∧
      Computes (.bfi f) (fun x => intRegs x.ty) (fun x p =>
        let pos := x.c 1 p % 256
        let n := min (x.c 1 p / 256 % 256) (w x)
        extendInt x.ty (sum x (fun i => if pos ≤ i ∧ i < pos + n then (x.rdInt x.f.srcB p).testBit (i - pos) else (a x p).testBit i))) ∧
      Computes (.popc f) (fun _ => 1) (fun x p => (ones x p).card) ∧
      Computes (.clz f) (fun _ => 1) (fun x p => if a x p = 0 then w x else w x - 1 - Nat.log2 (a x p)) ∧
      Computes (.ctz f) (fun _ => 1) (fun x p => ((List.range (w x)).find? (fun i => (a x p).testBit i)).getD (w x)) ∧
      Computes (.brev f) (fun x => intRegs x.ty) (fun x p => extendInt x.ty (sum x (fun i => (a x p).testBit (w x - 1 - i)))) ∧
      Computes (.perm f) (fun _ => 1) (fun x p =>
        ∑ k ∈ Finset.range 4, 2 ^ (8 * k) *
          (let sel := x.c 1 p / 16 ^ k % 16
           let y := (if sel % 8 < 4 then x.a 1 p / 256 ^ (sel % 8) else x.b 1 p / 256 ^ (sel % 8 - 4)) % 256
           if 8 ≤ sel then (if 128 ≤ y then 0xFF else 0) else y))

/-- R163, R164, R167. MOV, MOVL, SEL, LEA and PPACK. -/
def Obligations.Moves : Prop :=
  ∀ f : LX, ∀ h : SF,
    let mov (x : Ctx) (p : Nat) : Nat := extendInt x.ty (x.rdInt x.f.srcA p)
    Computes (.mov f) (fun x => intRegs x.ty) mov ∧ Computes (.movS h) (fun x => intRegs x.ty) mov ∧
      Computes (.movl f) (fun _ => 2) (fun x p => x.a 1 p + 2 ^ 32 * x.b 1 p) ∧
      Computes (.selL f) (fun x => intRegs x.ty) (fun x p =>
        extendInt x.ty (if (if x.f.mb 4 4 = 1 then !x.pdAt p x.f.srcC.toNat else x.pdAt p x.f.srcC.toNat) then x.rdInt x.f.srcA p
          else x.rdInt x.f.srcB p)) ∧
      Computes (.lea f) (fun _ => 2) (fun x p =>
        wrapInt 64 ((x.a 2 p : Int) + numInt x.ty (x.b 1 p) * 2 ^ x.f.mb 6 4 + intOf true 32 (x.c 1 p))) ∧
      Computes (.ppack f) (fun _ => 1) (fun x p => ∑ k ∈ Finset.range 8, if x.pdAt p k then 2 ^ k else 0)

/-- R165, R166, R167, R174. ICMP, PLOP, PUNPK and FCMP write predicates, in each executing lane, and no register; FCMP raises
NV for a signalling NaN, and in its .signal form for an unordered pair. -/
def Obligations.PredicateWriters : Prop :=
  ∀ f : LX,
    let combined (x : Ctx) (l : Nat) (c : Bool) : Bool :=
      let q := if x.f.mb 9 9 = 1 then !x.pd l (x.f.srcC.toNat % 8) else x.pd l (x.f.srcC.toNat % 8)
      if x.f.mb 8 7 = 0 then c else if x.f.mb 8 7 = 1 then c && q else if x.f.mb 8 7 = 2 then c || q else c != q
    let icond (x : Ctx) (l : Nat) : Bool :=
      let a := numInt x.ty (x.rdInt x.f.srcA l)
      let b := numInt x.ty (x.rdInt x.f.srcB l)
      if x.f.mb 6 4 = 0 then decide (a = b) else if x.f.mb 6 4 = 1 then decide (a ≠ b) else if x.f.mb 6 4 = 2 then decide (a < b)
      else if x.f.mb 6 4 = 3 then decide (a ≤ b) else if x.f.mb 6 4 = 4 then decide (a > b) else decide (a ≥ b)
    let fa (x : Ctx) (l : Nat) : FVal := (floatFmt x.fty).value (x.rdFloat x.f.srcA l)
    let fb (x : Ctx) (l : Nat) : FVal := (floatFmt x.fty).value (x.rdFloat x.f.srcB l)
    let fcond (x : Ctx) (l : Nat) : Bool :=
      let o := cmpVal (fa x l) (fb x l)
      if x.f.mb 5 3 = 0 then o == some .eq else if x.f.mb 5 3 = 1 then !(o == some .eq) else if x.f.mb 5 3 = 2 then o == some .lt
      else if x.f.mb 5 3 = 3 then o == some .lt || o == some .eq else if x.f.mb 5 3 = 4 then o == some .gt
      else if x.f.mb 5 3 = 5 then o == some .gt || o == some .eq else if x.f.mb 5 3 = 6 then o == none else !(o == none)
    Computes (.icmp f) (fun _ => 0) (fun _ _ => 0) (fun x l => [(x.f.dst.toNat, combined x l (icond x l))]) ∧
      Computes (.plop f) (fun _ => 0) (fun _ _ => 0) (fun x l =>
        [(x.f.dst.toNat, (x.f.mb 11 4).testBit ((if x.pd l x.f.srcA.toNat then 1 else 0) + 2 * (if x.pd l x.f.srcB.toNat then 1 else 0) +
          4 * (if x.pd l x.f.srcC.toNat then 1 else 0)))]) ∧
      Computes (.punpk f) (fun _ => 0) (fun _ _ => 0) (fun x l =>
        ((List.range 8).filter (fun k => decide (1 ≤ k) && (decide (x.f.mb 11 5 = 0) || x.f.modi.getLsbD (k + 4)))).map
          (fun k => (k, (x.a 1 l).testBit k))) ∧
      Computes (.fcmp f) (fun _ => 0) (fun _ _ => 0) (fun x l => [(x.f.dst.toNat, combined x l (fcond x l))])
        (fun x l => if (fa x l).isSnan ∨ (fb x l).isSnan ∨ (x.f.mb 6 6 = 1 ∧ cmpVal (fa x l) (fb x l) = none) then flagNV else 0)

/-! ## Floating point, conversions, keys and strings (R169 to R185, R208 to R219) -/

/-- R170, R171, R172, R173, R85, R86. FADD, FSUB, FMUL, FFMA, FMIN and FMAX: each element is the operation on the elements of
the operands, rounded once by the rounding code, and the flags of both elements join. -/
def Obligations.FloatArithmetic : Prop :=
  ∀ f : LX,
    let el (x : Ctx) (code : BitVec 8) (p k : Nat) : Nat :=
      if x.fty ≤ 1 then x.rdFloat code p else x.rdFloat code p / 65536 ^ k % 65536
    let val (x : Ctx) (code : BitVec 8) (p k : Nat) : FVal := (floatFmt x.fty).value (el x code p k)
    let round (x : Ctx) : Nat := x.rm (x.f.mb 5 3) (floatFmt x.fty)
    let bits (r : Ctx → Nat → Nat → FRes) (x : Ctx) (p : Nat) : Nat :=
      if x.fty ≤ 1 then (r x p 0).bits else (r x p 0).bits + 65536 * (r x p 1).bits
    let flags (r : Ctx → Nat → Nat → FRes) (x : Ctx) (p : Nat) : Flags :=
      if x.fty ≤ 1 then (r x p 0).flags else (r x p 0).flags ||| (r x p 1).flags
    let n (x : Ctx) : Nat := if x.fty = 1 then 2 else 1
    let add (x : Ctx) (p k : Nat) : FRes := fAdd (floatFmt x.fty) (round x) (val x x.f.srcA p k) (val x x.f.srcB p k)
    let sub (x : Ctx) (p k : Nat) : FRes := fAdd (floatFmt x.fty) (round x) (val x x.f.srcA p k) (val x x.f.srcB p k).negate
    let mul (x : Ctx) (p k : Nat) : FRes := fMul (floatFmt x.fty) (round x) (val x x.f.srcA p k) (val x x.f.srcB p k)
    let fma (x : Ctx) (p k : Nat) : FRes :=
      fFma (floatFmt x.fty) (round x) (decide (x.f.mb 6 6 = 1)) (val x x.f.srcA p k) (val x x.f.srcB p k)
        (if x.f.mb 7 7 = 1 then (val x x.f.srcC p k).negate else val x x.f.srcC p k)
    let minmax (isMax : Bool) (x : Ctx) (p k : Nat) : FRes :=
      let a := el x x.f.srcA p k
      let b := el x x.f.srcB p k
      let av := val x x.f.srcA p k
      let bv := val x x.f.srcB p k
      let fl : Flags := if av.isSnan ∨ bv.isSnan then flagNV else 0
      -- a NaN beside a number leaves the number, or under .nanp the canonical NaN
      if cmpVal av av = none ∧ cmpVal bv bv = none then { bits := (floatFmt x.fty).nan, flags := fl }
      else if cmpVal av av = none then { bits := if x.f.mb 6 6 = 1 then (floatFmt x.fty).nan else b, flags := fl }
      else if cmpVal bv bv = none then { bits := if x.f.mb 6 6 = 1 then (floatFmt x.fty).nan else a, flags := fl }
      else { bits := if (if isMax then totalLess av bv else totalLess bv av) then b else a, flags := fl }
    Computes (.fadd f) n (bits add) (flags := flags add) ∧
      Computes (.fsub f) n (bits sub) (flags := flags sub) ∧
      Computes (.fmul f) n (bits mul) (flags := flags mul) ∧
      Computes (.ffma f) n (bits fma) (flags := flags fma) ∧
      Computes (.fmin f) n (bits (minmax false)) (flags := flags (minmax false)) ∧
      Computes (.fmax f) n (bits (minmax true)) (flags := flags (minmax true))

/-- R175, R176, R177, R178. FCLASS, FRND, FSCALE and FEXP. -/
def Obligations.FloatUnary : Prop :=
  ∀ f : LX,
    let el (x : Ctx) (p k : Nat) : Nat := if x.fty ≤ 1 then x.rdFloat x.f.srcA p else x.rdFloat x.f.srcA p / 65536 ^ k % 65536
    let val (x : Ctx) (p k : Nat) : FVal := (floatFmt x.fty).value (el x p k)
    let round (x : Ctx) : Nat := x.rm (x.f.mb 5 3) (floatFmt x.fty)
    let bits (r : Ctx → Nat → Nat → FRes) (x : Ctx) (p : Nat) : Nat :=
      if x.fty ≤ 1 then (r x p 0).bits else (r x p 0).bits + 65536 * (r x p 1).bits
    let flags (r : Ctx → Nat → Nat → FRes) (x : Ctx) (p : Nat) : Flags :=
      if x.fty ≤ 1 then (r x p 0).flags else (r x p 0).flags ||| (r x p 1).flags
    let n (x : Ctx) : Nat := if x.fty = 1 then 2 else 1
    -- the power of two: the low 32 bits, or the half that stands beside the element
    let power (x : Ctx) (p k : Nat) : Int := if x.fty ≤ 1 then intOf true 32 (x.b 1 p) else intOf true 16 (x.b 1 p / 65536 ^ k)
    let special (x : Ctx) (p k : Nat) (fin : Bool → Nat → Int → FRes) : FRes :=
      match val x p k with
      | .nan signalling => { bits := (floatFmt x.fty).nan, flags := if signalling then flagNV else 0 }
      | .inf _ => { bits := el x p k }
      | .fin neg m e => fin neg m e
    let frnd (x : Ctx) (p k : Nat) : FRes := special x p k (fun neg m e =>
      let (low, rest) := steps m e 0
      let whole := if roundsUp (round x) neg (decide (low % 2 = 1)) rest then low + 1 else low
      { bits := (roundFin (floatFmt x.fty) 0 false neg whole 0).bits, flags := if x.f.mb 6 6 = 1 ∧ rest ≠ .exact then flagNX else 0 })
    let fscale (x : Ctx) (p k : Nat) : FRes := special x p k (fun neg m e =>
      roundFin (floatFmt x.fty) (round x) false neg m (e + max (-5000) (min 5000 (power x p k))))
    let exponent (x : Ctx) (p : Nat) : FRes :=
      match val x p 0 with
      | .nan _ => { bits := 0x80000000, flags := flagNV }
      | .inf _ => { bits := 0x7FFFFFFF, flags := flagNV }
      | .fin _ m e => if m = 0 then { bits := 0x80000000, flags := flagNV } else { bits := wrapInt 32 (Nat.log2 m + e) }
    let classBit (x : Ctx) (p : Nat) : Nat :=
      match val x p 0 with
      | .nan signalling => if signalling then 8 else 9
      | .inf neg => if neg then 0 else 7
      | .fin neg m e =>
        if m = 0 then (if neg then 3 else 4)
        else if (Nat.log2 m : Int) + e < 1 - (floatFmt x.fty).bias then (if neg then 2 else 5)
        else if neg then 1 else 6
    Computes (.fclass f) (fun _ => 1) (fun x p => 2 ^ classBit x p) ∧
      Computes (.frnd f) n (bits frnd) (flags := flags frnd) ∧
      Computes (.fscale f) n (bits fscale) (flags := flags fscale) ∧
      Computes (.fexp f) (fun _ => 1) (fun x p => (exponent x p).bits) (flags := fun x p => (exponent x p).flags)

/-- R72, R179, R180, R181. CVT between integers, floating-point types and the elements of FMT; an element .i8 or .n8 is that integer
type, and a conversion to a wider float does not saturate.
That two formats of one width count as narrowing is the model's reading (log entry 93), as is the extension of a .fa result (log entry 103). -/
def Obligations.Convert : Prop :=
  ∀ f : LX,
    let side (x : Ctx) (t : Nat) : Nat := if t = 15 ∧ x.fmt % 16 = 7 then 7 else if t = 15 ∧ x.fmt % 16 = 8 then 6 else t
    let dst (x : Ctx) : Nat := side x (x.f.mb 3 0)
    let src (x : Ctx) : Nat := side x (x.f.mb 7 4)
    let width (x : Ctx) (t : Nat) : Nat := if t = 8 then 32 else if t = 9 then 64 else if t = 10 ∨ t = 11 then 16 else elemBits (x.fmt % 16)
    let widens (x : Ctx) : Bool := decide (7 < src x ∧ 7 < dst x ∧ width x (src x) < width x (dst x))
    let source (x : Ctx) (p : Nat) : Nat := x.a (cvtRegs (src x)) p (cvtExt (src x))
    let field (x : Ctx) : Nat := cvtModeField (dst x) x.fmt
    let round (x : Ctx) : Nat := if x.f.mb 10 8 = 7 then modeRound x.mode (field x) else x.f.mb 10 8
    let sat (x : Ctx) : Bool := if x.f.mb 10 8 = 7 then modeSat x.mode (field x) else decide (x.f.mb 11 11 = 1)
    let value (x : Ctx) (p : Nat) : FVal :=
      if src x ≤ 7 then FVal.ofInt (numInt (src x) (source x p))
      else if src x = 8 then Fmt.f32.value (source x p) else if src x = 9 then Fmt.f64.value (source x p)
      else if src x = 10 then Fmt.f16.value (source x p) else if src x = 11 then Fmt.bf16.value (source x p)
      else elemValue (x.fmt % 16) (source x p)
    let result (x : Ctx) (p : Nat) : FRes :=
      if src x ≤ 7 ∧ dst x ≤ 7 then
        let v := numInt (src x) (source x p)
        { bits := extendInt (dst x) (wrapInt (intWidth (dst x)) (if sat x then max (intMin (dst x)) (min (intMax (dst x)) v) else v)) }
      else if dst x ≤ 7 then
        let r := toInt (intSigned (dst x)) (intWidth (dst x)) (round x) (sat x) (value x p)
        { bits := extendInt (dst x) r.bits, flags := r.flags }
      else if dst x = 8 then convert .f32 (round x) (sat x && !widens x) (value x p)
      else if dst x = 9 then convert .f64 (round x) (sat x && !widens x) (value x p)
      else if dst x = 10 then convert .f16 (round x) (sat x && !widens x) (value x p)
      else if dst x = 11 then convert .bf16 (round x) (sat x && !widens x) (value x p)
      else toElem (x.fmt % 16) (round x) (sat x && !widens x) (value x p)
    Computes (.cvt f) (fun x => if dst x = 2 ∨ dst x = 3 ∨ dst x = 9 then 2 else 1) (fun x p => (result x p).bits)
      (flags := fun x p => (result x p).flags) (late := lateCvt)

/-- R182, R183, R184, R185. PACK and UNPK move elements between a wide run and the fields of one register, scaled by a power of
two; QSCALE gives the scale code.
That the scale 0xFF raises no flag is the model's reading (log entry 20), as is the 254 of a NaN or an infinity (log entry 94); a literal's
zeros above a run of two registers are the model's choice (log entry 103). -/
def Obligations.PackAndScale : Prop :=
  ∀ f : LX,
    let elem (x : Ctx) : Nat := x.fmt % 16
    let sel (x : Ctx) : Nat := x.f.mb 5 4
    let wide (x : Ctx) : Fmt := if sel x = 0 then .f32 else if sel x = 1 then .f16 else .bf16
    let round (x : Ctx) : Nat := if x.f.mb 2 0 = 7 then modeRound x.mode (elemModeField (elem x)) else x.f.mb 2 0
    let sat (x : Ctx) : Bool := if x.f.mb 2 0 = 7 then modeSat x.mode (elemModeField (elem x)) else decide (x.f.mb 3 3 = 1)
    let scaled (x : Ctx) (e : Nat) (up : Bool) (v : FVal) : FVal :=
      if x.f.mb 6 6 = 0 then v else if e = 255 then .nan false else v.scale (if up then (e : Int) - 127 else 127 - e)
    -- element k of the wide run: a register of an f32 run, a half of a packed one
    let wideElem (x : Ctx) (run k : Nat) : Nat := if sel x = 0 then run / 2 ^ (32 * k) % 2 ^ 32 else run / 2 ^ (16 * k) % 2 ^ 16
    let pack (run e : Ctx → Nat → Nat) (x : Ctx) (p k : Nat) : FRes :=
      toElem (elem x) (round x) (sat x) (scaled x (e x p % 256) false ((wide x).value (wideElem x (run x p) k)))
    let unpack (w : Nat) (e : Ctx → Nat → Nat) (first : Ctx → Nat) (x : Ctx) (p k : Nat) : FRes :=
      convert (wide x) (x.rm (x.f.mb 2 0) (wide x)) false
        (scaled x (e x p % 256) true (elemValue (elem x) (x.a 1 p / 2 ^ (w * (first x + k)) % 2 ^ w)))
    let packed (w n : Nat) (r : Ctx → Nat → Nat → FRes) (x : Ctx) (p : Nat) : Nat :=
      ∑ k ∈ Finset.range n, 2 ^ (w * k) * ((r x p k).bits % 2 ^ w)
    let widened (n : Ctx → Nat) (r : Ctx → Nat → Nat → FRes) (x : Ctx) (p : Nat) : Nat :=
      ∑ k ∈ Finset.range (n x), 2 ^ ((wide x).bits * k) * (r x p k).bits
    let flags (n : Ctx → Nat) (r : Ctx → Nat → Nat → FRes) (x : Ctx) (p : Nat) : Flags :=
      ((List.range (n x)).map (fun k => (r x p k).flags)).foldl (· ||| ·) 0
    let run4 (x : Ctx) (p : Nat) : Nat := x.a 4 p + (if sel x = 0 then 2 ^ 128 * x.b 4 p else 0)
    let pack8 := pack (fun x p => x.a (if sel x = 0 then 4 else 2) p) (fun x p => x.b 1 p)
    let pack4 := pack run4 (fun x p => x.c 1 p)
    let unpk8 := unpack 8 (fun x p => x.b 1 p) (fun _ => 0)
    let unpk4 := unpack 4 (fun x p => x.b 1 p) (fun x => if sel x = 0 ∧ x.f.mb 7 7 = 1 then 4 else 0)
    let n4 (x : Ctx) : Nat := if sel x = 0 then 4 else 8
    let scale (x : Ctx) (p : Nat) : FRes :=
      match Fmt.f32.value (x.a 1 p % 2 ^ 31) with
      | .nan signalling => { bits := 254, flags := if signalling then flagNV else 0 }
      | .inf _ => { bits := 254 }
      | .fin _ m e =>
        if m = 0 then { bits := 0 }
        else if x.f.mb 0 0 = 1 then { bits := ((List.range 254).find? (fun c => scaleFits m e (elem x) c)).getD 254 }
        else { bits := (max 0 (min 254 ((Nat.log2 m : Int) + e - elemEmax (elem x) + 127))).toNat }
    Computes (.pack8 f) (fun _ => 1) (packed 8 4 pack8) (flags := flags (fun _ => 4) pack8) (late := latePack [2, 3, 4, 6, 7, 8]) ∧
      Computes (.pack4 f) (fun _ => 1) (packed 4 8 pack4) (flags := flags (fun _ => 8) pack4) (late := latePack [5]) ∧
      Computes (.unpk8 f) (fun x => if sel x = 0 then 4 else 2) (widened (fun _ => 4) unpk8) (flags := flags (fun _ => 4) unpk8)
        (late := latePack [2, 3, 4, 6, 7, 8]) ∧
      Computes (.unpk4 f) (fun _ => 4) (widened n4 unpk4) (flags := flags n4 unpk4) (late := latePack [5]) ∧
      Computes (.qscale f) (fun _ => 1) (fun x p => (scale x p).bits) (flags := fun x p => (scale x p).flags)
        (late := latePack [2, 3, 4, 5, 6])

/-- R70. A finite value that a format with an exponent field holds is delivered as it stands, without a flag, whatever the
rounding code and the saturation. -/
def Obligations.HeldValuesStay : Prop :=
  ∀ (fmt : Fmt) (code mode : Nat) (sat neg : Bool) (m : Nat) (e : Int), fmt ≠ .k8 → fmt ≠ .mxint8 → code < 2 ^ fmt.bits →
    fmt.value code = .fin neg m e → convert fmt mode sat (fmt.value code) = { bits := code, flags := 0 }

/-- R208, R209, R210. HASH, HASHC and PART. R212, R214 to R219. The string instructions on fragments of at most 16 bytes, of which those past the length are 0. -/
def Obligations.KeysAndStrings : Prop :=
  (∀ f : LX,
     let k32 (key seed : BitVec 32) : BitVec 32 :=
       let h := (key ^^^ seed) * 0x2C1B3C6D#32
       let h := (h ^^^ (h >>> 12)) * 0x297A2D39#32
       h ^^^ (h >>> 15)
     let w (v : Nat) : BitVec 32 := BitVec.ofNat 32 v
     Computes (.hash f) (fun _ => 1) (fun x p =>
         if x.f.mb 0 0 = 0 then (k32 (w (x.a 1 p)) (w (x.b 1 p))).toNat
         else
           let high := k32 (w (x.a 2 p / 2 ^ 32)) (w (x.b 1 p))
           (k32 (w (x.a 2 p) ^^^ high) (w (x.b 1 p) ^^^ 0x6A09E667#32)).toNat) ∧
       Computes (.hashc f) (fun _ => 1) (fun x p => (k32 (w (x.a 1 p) ^^^ w (x.b 1 p) * 0x9E3779B9#32) 0#32).toNat) ∧
       Computes (.partL f) (fun _ => 1) (fun x p =>
         if x.f.mb 0 0 = 1 then x.a 1 p * x.b 1 p / 2 ^ 32 else (x.a 1 p >>> (x.b 1 p % 32)) &&& x.c 1 p)) ∧
  (∀ f : LX,
     let byte (run n k : Nat) : Nat := if k < n then run / 256 ^ k % 256 else 0
     let lower (b : Nat) : Nat := if 0x41 ≤ b ∧ b ≤ 0x5A then b + 0x20 else b
     let upper (b : Nat) : Nat := if 0x61 ≤ b ∧ b ≤ 0x7A then b - 0x20 else b
     let hashc (h word : BitVec 32) : BitVec 32 :=
       let v := (h ^^^ word * 0x9E3779B9#32) * 0x2C1B3C6D#32
       let v := (v ^^^ (v >>> 12)) * 0x297A2D39#32
       v ^^^ (v >>> 15)
     Computes (.scmp f) (fun _ => 1) (fun x p =>
         let la := min (x.c 1 p % 32) 16
         let lb := min (x.c 1 p / 256 % 32) 16
         let fa (k : Nat) : Nat := if x.f.mb 0 0 = 1 then lower (byte (x.a 4 p) la k) else byte (x.a 4 p) la k
         let fb (k : Nat) : Nat := if x.f.mb 0 0 = 1 then lower (byte (x.b 4 p) lb k) else byte (x.b 4 p) lb k
         match (List.range (min la lb)).find? (fun k => decide (fa k ≠ fb k)) with
         | some k => 256 * k + (if fa k < fb k then 1 else 2)
         | none => 256 * min la lb + (if la = lb then 0 else if la < lb then 1 else 2)) ∧
       Computes (.shash f) (fun _ => 1) (fun x p =>
         let n := min (x.b 1 p) 16
         let word (k : Nat) : BitVec 32 := BitVec.ofNat 32 (∑ j ∈ Finset.range 4, 256 ^ j * byte (x.a 4 p) n (4 * k + j))
         let h := (List.range ((n + 3) / 4)).foldl (fun h k => hashc h (word k)) (BitVec.ofNat 32 (x.c 1 p))
         if x.f.mb 0 0 = 1 then h.toNat else (hashc (h ^^^ BitVec.ofNat 32 n) 0#32).toNat) ∧
       Computes (.sfind f) (fun _ => 1) (fun x p =>
         let n := min (x.c 1 p) 16
         let hits := (List.range n).filter (fun k => decide (byte (x.a 4 p) n k = x.b 1 p % 256))
         if hits = [] then 0xFFFFFFFF else if x.f.mb 0 0 = 1 then hits.foldl max 0 else hits.foldl min 16) ∧
       Computes (.spfx f) (fun _ => 2) (fun x p =>
         ∑ k ∈ Finset.range 8, 256 ^ (7 - k) *
           (if x.f.mb 0 0 = 1 then upper (byte (x.a 4 p) (min (x.b 1 p) 16) k) else byte (x.a 4 p) (min (x.b 1 p) 16) k)) ∧
       Computes (.sutf f) (fun _ => 1) (fun x p =>
         let n := min (x.b 1 p) 16
         utfScan ((List.range 16).map (byte (x.a 4 p) n)) n 17 0 0) ∧
       Computes (.scase f) (fun _ => 4) (fun x p =>
         ∑ k ∈ Finset.range 16, 256 ^ k *
           (if x.f.mb 0 0 = 1 then upper (byte (x.a 4 p) (min (x.b 1 p) 16) k) else lower (byte (x.a 4 p) (min (x.b 1 p) 16) k))))

/-! ## Lanes together (R192 to R203) -/

/-- R195, R201, R202. SHFL, MATCH and PCOUNT: every executing lane reads the registers of executing lanes of its group, named by
logical lane identifier. R196, R197. VOTE and ELECT over the executing lanes. -/
def Obligations.ExchangeAndVote : Prop :=
  (∀ f : LX,
     let lid (x : Ctx) (l : Nat) : Nat := (x.w.lane l).lid.toNat
     -- SHFL: the source LID within segments of 32, 16, 8, 4 or 2 lanes, where there is one
     let source (x : Ctx) (l : Nat) : Option Nat :=
       let w := 32 / 2 ^ x.f.mb 4 2
       let first := lid x l / w * w
       let b := x.b 1 l
       if x.f.mb 1 0 = 0 then some (first + b % w)
       else if x.f.mb 1 0 = 1 then (if first + b ≤ lid x l then some (lid x l - b) else none)
       else if x.f.mb 1 0 = 2 then (if lid x l + b < first + w then some (lid x l + b) else none)
       else some (first + (lid x l ^^^ b) % w)
     let from? (x : Ctx) (l : Nat) : Option Nat := (source x l).bind (fun i => x.lanes.find? (fun j => decide (lid x j = i)))
     let nShfl (x : Ctx) : Nat := if x.f.mb 8 8 = 1 then 2 else 1
     let same (n : Ctx → Nat) (x : Ctx) (l : Nat) : List Nat := x.lanes.filter (fun j => decide (x.a (n x) j = x.a (n x) l))
     let nMatch (x : Ctx) : Nat := if x.f.mb 0 0 = 1 then 2 else 1
     let nCount (x : Ctx) : Nat := if x.f.mb 1 1 = 1 then 2 else 1
     Computes (.shfl f) nShfl (fun x l => x.a (nShfl x) ((from? x l).getD l)) (fun x l => [(x.f.mb 7 5, (from? x l).isSome)]) ∧
       Computes (.matchL f) (fun _ => 1) (fun x l => ∑ i ∈ Finset.range 32, if ∃ j ∈ same nMatch x l, lid x j = i then 2 ^ i else 0)
         (fun x l => [(x.f.mb 3 1, decide ((same nMatch x l).head? = some l))]) ∧
       Computes (.pcount f) (fun _ => 1) (fun x l =>
         if x.f.mb 0 0 = 1 then (same nCount x l).length else ((same nCount x l).filter (fun j => decide (lid x j < lid x l))).length)) ∧
  (∀ f : LX, ∀ h : SF,
     let vote (x : Ctx) (l : Nat) : Bool := if x.f.mb 2 2 = 1 then !x.pd l x.f.srcA.toNat else x.pd l x.f.srcA.toNat
     let all (x : Ctx) : Bool := decide (∀ l ∈ x.lanes, vote x l = true)
     let any (x : Ctx) : Bool := decide (∃ l ∈ x.lanes, vote x l = true)
     let elect (x : Ctx) (l : Nat) : List (Nat × Bool) := [(x.f.dst.toNat, decide (x.lanes.head? = some l))]
     Computes (.vote f) (fun x => if x.f.mb 1 0 = 3 then 1 else 0)
         (fun x _ => ∑ i ∈ Finset.range 32, if ∃ l ∈ x.lanes, vote x l = true ∧ (x.w.lane l).lid.toNat = i then 2 ^ i else 0)
         (fun x _ =>
           if x.f.mb 1 0 = 3 then []
           else [(x.f.dst.toNat, if x.f.mb 1 0 = 0 then all x else if x.f.mb 1 0 = 1 then any x else all x || !any x)]) ∧
       Computes (.elect f) (fun _ => 0) (fun _ _ => 0) elect ∧ Computes (.electS h) (fun _ => 0) (fun _ _ => 0) elect)

/-- R198, R199, R200, R83, R84. REDUX and SCAN: integers are combined exactly, or by the order of their type; floating-point
values in the fixed orders of R83 and R84, REDUX's the tree that the model's reduxFloat writes out.
Which sums' flags an exclusive floating-point SCAN raises is the model's choice (log entry 89). -/
def Obligations.ReduceAndScan : Prop :=
  ∀ f : LX,
    let ty (x : Ctx) : Nat := x.f.mb 7 4
    let op (x : Ctx) : Nat := x.f.mb 3 0
    let float (x : Ctx) : Bool := decide (6 ≤ op x)
    let n (x : Ctx) : Nat := if float x then floatRegs (ty x) else intRegs (ty x)
    let value (x : Ctx) (l : Nat) : Nat := x.a (n x) l (if float x then .float else intExt (ty x))
    let num (x : Ctx) (l : Nat) : Int := numInt (ty x) (value x l)
    let ones (x : Ctx) : Nat := 2 ^ intWidth (ty x) - 1
    -- the integer combination of some lanes; of none it is the identity
    let ints (x : Ctx) (ls : List Nat) : Nat :=
      if op x = 0 then (ls.map (value x)).sum % 2 ^ intWidth (ty x)
      else if op x = 1 then wrapInt (intWidth (ty x)) ((ls.map (num x)).foldl min (intMax (ty x)))
      else if op x = 2 then wrapInt (intWidth (ty x)) ((ls.map (num x)).foldl max (intMin (ty x)))
      else if op x = 3 then (ls.map (value x)).foldl (· &&& ·) (ones x)
      else if op x = 4 then (ls.map (value x)).foldl (· ||| ·) 0
      else (ls.map (value x)).foldl (· ^^^ ·) 0
    let reduced (x : Ctx) : FRes := reduxFloat (op x) (floatFmt (ty x)) (x.lanes.map (value x))
    -- the lanes up to a lane, in ascending LID
    let upTo (x : Ctx) (l : Nat) : List Nat := x.lanes.take (x.lanes.idxOf l + 1)
    let scanned (x : Ctx) (l : Nat) : FRes :=
      match (upTo x l).map (value x) with
      | [] => { bits := 0 }
      | a :: t => t.foldl (fun acc b => stepFloat (op x) (floatFmt (ty x)) acc { bits := b }) (laneSingle (op x) (floatFmt (ty x)) a)
    Computes (.redux f) n (fun x _ => if float x then (reduced x).bits else ints x x.lanes)
        (flags := fun x _ => if float x then (reduced x).flags else 0) ∧
      Computes (.scan f) n (fun x l =>
          if x.f.mb 8 8 = 0 then (if float x then (scanned x l).bits else ints x (upTo x l))
          else if x.lanes.head? = some l then laneIdentity (op x) (ty x)
          else
            let before := (x.lanes.getD (x.lanes.idxOf l - 1) 0)
            if float x then (scanned x before).bits else ints x (upTo x before))
        (flags := fun x l => if float x then (scanned x l).flags else 0)

/-! ## Registers of one lane by its identifier, modes and special registers (R123 to R130, R144, R146, R147, R203) -/

/-- R203. RDLANE reads the registers of the group's lane with the LID in srcB, whether it executes or not, or 0 where there is
none that is not exited; WRLANE writes that lane alone. -/
def Obligations.LaneByIdentifier : Prop :=
  ∀ f : LX,
    let n (x : Ctx) : Nat := if x.f.mb 0 0 = 1 then 2 else 1
    let named (x : Ctx) (l : Nat) : Prop :=
      l < 32 ∧ inMask x.mask (l / 4) = true ∧ (x.w.lane l).lid.toNat = x.b 1 scalarLane ∧ (x.w.lane l).exited = false
    (∀ s g w, Runs (.rdlane f) s g w →
      let x := s.seenBy (.rdlane f) g w
      (∀ l, named x l → (∀ j, named x j → j = l) → RegisterStep (.rdlane f) x s (n x) (fun _ => x.a (n x) l) noPreds 0) ∧
      ((∀ l, ¬named x l) → RegisterStep (.rdlane f) x s (n x) (fun _ => 0) noPreds 0)) ∧
    (∀ s g w, Runs (.wrlane f) s g w →
      let x := s.seenBy (.wrlane f) g w
      Reaches (.wrlane f) x s fun _ w' => OnlyResults x w' ∧ GroupGoes x w' x.next ∧ w'.flagsInAll = x.w.flagsInAll ∧
        (∀ l k, (w'.lane l).pred k = (x.w.lane l).pred k) ∧
        (x.w.undelivered = [] → ∀ code p, code < 252 →
          (∀ l, named x l → (∀ j, named x j → j = l) → x.lanes ≠ [] → p < x.w.lanes.length →
            -- a scalar register is the same one at every place
            w'.regWord code p = if x.f.dst.toNat ≤ code ∧ code < x.f.dst.toNat + n x ∧ (192 ≤ code ∨ p = l) then
              BitVec.ofNat 32 (x.a (n x) scalarLane / 2 ^ (32 * (code - x.f.dst.toNat))) else x.w.regWord code p) ∧
          (x.lanes = [] ∨ (∀ l, ¬named x l) → w'.regWord code p = x.w.regWord code p)))

/-- R146, R147, R144. FMTSET writes FMT of the slices of its group, MODESET the fields of MODE that its mask names (0 meaning
all), LEASE the declared lease and the growth bit; the last two read the old value to dst. With no executing lane none of them has
an effect. -/
def Obligations.ModesAndLease : Prop :=
  ∀ f : LX, ∀ h : SF,
    let fmt (i : Instr) : Prop := ∀ s g w, Runs i s g w →
      let x := s.seenBy i g w
      Reaches i x s fun _ w' =>
        w' = { x.w with
          slices := w'.slices, groups := w'.groups, undelivered := w'.undelivered,
          lease := { x.w.lease with run := x.w.lease.run + 1 }, preempt := x.w.preempt.map (· + 1) } ∧
        GroupGoes x w' x.next ∧
        ∀ k, (w'.slice k).fmt = if inMask x.mask k ∧ k < x.w.slices.length ∧ x.lanes ≠ [] then BitVec.ofNat 12 (x.a 1 scalarLane)
          else (x.w.slice k).fmt
    fmt (.fmtset f) ∧ fmt (.fmtsetS h) ∧
    (∀ s g w, Runs (.modeset f) s g w →
      let x := s.seenBy (.modeset f) g w
      Reaches (.modeset f) x s fun _ w' =>
        w' = { x.w with
          s := w'.s, mode := w'.mode, slices := w'.slices, groups := w'.groups, undelivered := w'.undelivered, flagsDue := w'.flagsDue,
          special := { x.w.special with fflags := w'.special.fflags },
          lease := { x.w.lease with run := x.w.lease.run + 1 }, preempt := x.w.preempt.map (· + 1) } ∧
        GroupGoes x w' x.next ∧ w'.flagsInAll = x.w.flagsInAll ∧
        (∀ b, b < 32 → w'.mode.getLsbD b =
          if x.lanes ≠ [] ∧ (x.f.mb 7 0 = 0 ∨ (x.f.mb 7 0).testBit (b / 4)) then (x.a 1 scalarLane).testBit b else x.w.mode.getLsbD b) ∧
        (x.lanes = [] → w'.s = x.w.s) ∧ (x.lanes ≠ [] → HoldsScalars x w' 1 x.w.mode.toNat)) ∧
    (∀ s g w, Runs (.lease f) s g w →
      let x := s.seenBy (.lease f) g w
      Reaches (.lease f) x s fun _ w' =>
        w' = { x.w with
          s := w'.s, slices := w'.slices, groups := w'.groups, undelivered := w'.undelivered, flagsDue := w'.flagsDue,
          special := { x.w.special with fflags := w'.special.fflags }, lease := w'.lease, preempt := x.w.preempt.map (· + 1) } ∧
        GroupGoes x w' x.next ∧ w'.flagsInAll = x.w.flagsInAll ∧
        (x.lanes = [] → w'.s = x.w.s ∧ w'.lease = { x.w.lease with run := x.w.lease.run + 1 }) ∧
        (x.lanes ≠ [] → HoldsScalars x w' 1 x.w.lease.word ∧ w'.lease =
          { x.w.lease with
            run := x.w.lease.run + 1, decl := min (x.a 1 scalarLane) 128,
            fixed := if x.f.mb 1 0 = 1 then false else if x.f.mb 1 0 = 2 then true else x.w.lease.fixed }))

/-- R123, R124, R125, R126. RDSR reads the special register that its modifier names, LID in every executing lane and every other
one to a scalar run; while no result of the warp is on its way the value is the one the register holds.
That FFLAGS reads as the flags applied so far is the model's reading (log entry 17). -/
def Obligations.ReadSpecial : Prop :=
  ∀ (f : LX) (s : State) (g : Selected) (w : Warp), Runs (.rdsr f) s g w → w.undelivered = [] →
    let x := s.seenBy (.rdsr f) g w
    let n := x.f.mb 7 0
    RegisterStep (.rdsr f) x s (if n = 0x06 ∨ n = 0x10 ∨ n = 0x13 ∨ n = 0x14 then 2 else 1) (fun p =>
      if n = 0x00 then (w.lane p).lid.toNat
      else if n = 0x01 then g.slot
      else if n = 0x02 then g.slot / 16
      else if n = 0x03 then ((s.core? g.core).map (·.lnum)).getD 0
      else if n = 0x04 then s.modul.mgen.toNat
      else if n = 0x05 then w.tenant
      else if n = 0x06 then s.cyc g.core % 2 ^ 64
      else if n = 0x07 then (if w.special.schk then 1 else 0) + (if w.special.priv then 2 else 0)
      else if n = 0x08 then
        ((w.flagsDue.filter (fun d => decide (d.1 ≤ s.cyc g.core))).foldl (fun a d => a ||| d.2) w.special.fflags).toNat
      else if n = 0x09 then w.mode.toNat
      else if n = 0x0A then (w.fmtOf g.mask).toNat
      else if n = 0x0B then w.gang.toNat
      else if n = 0x0C then w.lease.word
      else if n = 0x0D then w.region.ars
      else if n = 0x10 then w.special.epc.toNat
      else if n = 0x11 then w.special.estat.toNat
      else if n = 0x12 then w.special.ecause.toNat
      else if n = 0x13 then w.special.eval.toNat
      else if n = 0x14 then w.special.evec.toNat
      else (w.coords.getD (n - 0x18) 0).toNat) noPreds 0

/-- R124, R125, R418, R419. WRSR writes the register that its modifier names, fields marked R keeping their values, and no other
special register; a write of FFLAGS needs every flag of an older instruction to have been applied.
That a write of FFLAGS waits for older flags rests on the same reading (log entry 17). -/
def Obligations.WriteSpecial : Prop :=
  ∀ (f : LX) (s : State) (g : Selected) (w : Warp), Runs (.wrsr f) s g w →
    let x := s.seenBy (.wrsr f) g w
    let n := x.f.mb 7 0
    x.lanes ≠ [] → (n = 0x08 → x.flagsApplied s = true) →
      Reaches (.wrsr f) x s fun _ w' =>
        let v := x.a (if n = 0x10 ∨ n = 0x13 ∨ n = 0x14 then 2 else 1) scalarLane
        w' = { x.w with
          mode := w'.mode, slices := w'.slices, groups := w'.groups, undelivered := w'.undelivered, flagsDue := w'.flagsDue, special := w'.special,
          lease := { x.w.lease with run := x.w.lease.run + 1 }, preempt := x.w.preempt.map (· + 1) } ∧
        GroupGoes x w' x.next ∧
        w'.mode = (if n = 0x09 then BitVec.ofNat 32 v else x.w.mode) ∧
        w'.special.priv = x.w.special.priv ∧
        w'.special.schk = (if n = 0x07 then v.testBit 0 else x.w.special.schk) ∧
        w'.flagsInAll = (if n = 0x08 then BitVec.ofNat 5 v else x.w.flagsInAll) ∧
        w'.special.epc = (if n = 0x10 then BitVec.ofNat 64 v else x.w.special.epc) ∧
        w'.special.estat = (if n = 0x11 then BitVec.ofNat 32 v &&& 0x00FFFC00#32 else x.w.special.estat) ∧
        w'.special.ecause = (if n = 0x12 then BitVec.ofNat 32 v &&& 0xF000FFFF#32 else x.w.special.ecause) ∧
        w'.special.eval = (if n = 0x13 then BitVec.ofNat 64 v else x.w.special.eval) ∧
        w'.special.evec = (if n = 0x14 then BitVec.ofNat 64 v else x.w.special.evec)

/-! ## Control (R131 to R143, R145) -/

/-- R133, R134, R136. BRA decides for each slice, splits its group where slices part, and writes the record of the group as it stood
before; CALL and RET move the whole group where one of its lanes executes, CALL with its link. Nothing else changes.
The order of the parts of a split group is the model's reading (log entry 28). -/
def Obligations.Branches : Prop :=
  ∀ f : LX, ∀ h : SF,
    let branch (i : Instr) (offset : Ctx → Nat) (record : Ctx → Prop) : Prop := ∀ s g w, Runs i s g w →
      let x := s.seenBy i g w
      Reaches i x s fun _ w' => OnlyFlow x w' ∧
        ∃ taken : BitVec 8, (∀ k, k < 8 → (taken.getLsbD k = true ↔ inMask x.mask k = true ∧ x.takes k)) ∧
          (∀ k, (w'.slice k).pc =
            if inMask x.mask k ∧ k < x.w.slices.length then
              BitVec.ofNat 48 ((if taken.getLsbD k then (x.pc + 4 * offset x) % 2 ^ 48 else x.next) / 4 * 4)
            else (x.w.slice k).pc) ∧
          w'.groups = x.w.groups.flatMap (fun q =>
            if q.mask = x.mask then
              (if taken = 0 ∨ taken = x.mask then [x.mask]
                else if taken.getLsbD (lowSlice x.mask) then [taken, x.mask &&& ~~~taken] else [x.mask &&& ~~~taken, taken]).map
                (fun m => { q with mask := m, readyAt := x.cyc + 1 + x.f.stall.toNat, hold := .none, prog := {} })
            else [q]) ∧
          (record x → ¬x.idle → HoldsScalars x w' 2
            (bitsOf ((x.pc + 4 * (x.f.modi.signExtend 48).toNat) % 2 ^ 48) 33 2 * 2 ^ 32 + x.fmt * 2 ^ 8 + x.mask.toNat)) ∧
          (¬record x ∨ x.idle → w'.s = x.w.s)
    let goes (i : Instr) (target : Ctx → Nat) (link : Ctx → Prop) : Prop := ∀ s g w, Runs i s g w →
      let x := s.seenBy i g w
      Reaches i x s fun _ w' => OnlyFlow x w' ∧ GroupGoes x w' (if x.lanes = [] then x.next else target x) ∧
        (link x ∧ x.lanes ≠ [] → HoldsScalars x w' 2 x.next) ∧ (¬(link x ∧ x.lanes ≠ []) → w'.s = x.w.s)
    branch (.bra f) (·.offset) (fun x => x.f.dst ≠ 0xFC) ∧ branch (.braS h) (fun _ => shortOffset h) (fun _ => False) ∧
      goes (.call f) (fun x => (x.pc + 4 * x.offset) % 2 ^ 48) (fun x => x.f.dst ≠ 0xFC) ∧
      goes (.ret f) (fun x => x.a 2 scalarLane % 2 ^ 48) (fun _ => False) ∧
      goes (.retS h) (fun x => x.a 2 scalarLane % 2 ^ 48) (fun _ => False)

/-- R135. BRX: with no executing lane every slice falls through and no table is read; else, where the table words translate, the
count is within 2 to 4,096 and every index lies below the join's, each slice goes to the target of its lowest-LID executing lane and
slices with different targets part. That the lanes' faults come before those of table entries is the model's choice (log entry 30). -/
def Obligations.IndexedBranch : Prop :=
  ∀ (f : LX) (s : State) (g : Selected) (w : Warp), Runs (.brx f) s g w →
    let x := s.seenBy (.brx f) g w
    let table := x.b 2 scalarLane
    let lead (k : Nat) : Option Nat := x.lanes.find? (fun l => decide (l / 4 = k))
    (x.lanes = [] → Reaches (.brx f) x s fun _ w' => OnlyFlow x w' ∧ GroupGoes x w' x.next ∧ w'.s = x.w.s) ∧
    (∀ count s1 entries s2, x.lanes ≠ [] → table % 4 = 0 → x.tableWord s.begun table 0 = .ok (count, s1) →
      2 ≤ count.toNat → count.toNat ≤ 4096 → (∀ l ∈ x.lanes, x.a 1 l < count.toNat - 1) →
      x.tableTargets table s1 ((((List.range 8).filter (inMask x.mask)).filterMap (fun k => (lead k).map (x.a 1))).dedup ++
        (if x.f.dst = 0xFC then [] else [count.toNat - 1])) = .ok (entries, s2) →
      -- what the table's lines and pages have filled has not touched the warp
      s2.warp? g.core g.slot = some w →
      ∃ t w', exec (.brx f) s = .next t ∧ t.warp? g.core g.slot = some w' ∧ t.mem = s.mem ∧ OnlyFlow x w' ∧
        ∃ goes : Nat → Nat,
          (∀ k l, inMask x.mask k = true → lead k = some l → goes k = SMap.get 0 (x.a 1 l) entries) ∧
          (∀ k, inMask x.mask k = true → lead k = none → x.sliceLives k → goes k = x.next) ∧
          (∀ k j, inMask x.mask k = true → ¬x.sliceLives k → inMask x.mask j = true → x.sliceLives j →
            (∀ i, i < j → inMask x.mask i = true → ¬x.sliceLives i) → goes k = goes j) ∧
          (∀ k, (w'.slice k).pc =
            if inMask x.mask k ∧ k < x.w.slices.length then BitVec.ofNat 48 (goes k / 4 * 4) else (x.w.slice k).pc) ∧
          (∃ parts : List (BitVec 8),
            (∀ j k, j < 8 → k < 8 → inMask x.mask j = true → inMask x.mask k = true →
              ((∃ p ∈ parts, inMask p j = true ∧ inMask p k = true) ↔ goes j = goes k)) ∧
            w'.groups = x.w.groups.flatMap (fun q =>
              if q.mask = x.mask then
                parts.map (fun m => { q with mask := m, readyAt := x.cyc + 1 + x.f.stall.toNat, hold := .none, prog := {} })
              else [q])) ∧
          (if x.f.dst = 0xFC then w'.s = x.w.s else HoldsScalars x w' 2
            (bitsOf (SMap.get 0 (count.toNat - 1) entries) 33 2 * 2 ^ 32 + x.fmt * 2 ^ 8 + x.mask.toNat)))

/-- R24, R137, R139. BIF, BELSE, BEND, BBRK and BLOOP change the nesting counters of the group's lanes that are not exited, and
jump by the lanes that are active afterwards; outside a handler, and where no counter would pass 255, nothing else changes. -/
def Obligations.StructuredDivergence : Prop :=
  ∀ f : LX, ∀ h : SF,
    let cond (x : Ctx) (l : Nat) : Bool := if x.f.mb 3 3 = 1 then !x.pd l (x.f.mb 2 0) else x.pd l (x.f.mb 2 0)
    -- `jumps` says of the lanes active afterwards whether the group jumps
    let acts (i : Instr) (count : Ctx → Nat → Nat → Nat) (jumps : Bool → Bool) (offset : Ctx → Nat) : Prop :=
      ∀ s g w, Runs i s g w (late := lateHandler) →
        let x := s.seenBy i g w
        let touched (l : Nat) : Prop := l < 32 ∧ inMask x.mask (l / 4) = true ∧ (x.w.lane l).exited = false
        let after (l : Nat) : Nat := count x l (x.w.lane l).nest.toNat
        (∀ l, touched l → after l ≤ 255) →
        Reaches i x s fun _ w' =>
          w' = { x.w with
            lanes := w'.lanes, slices := w'.slices, groups := w'.groups,
            lease := { x.w.lease with run := x.w.lease.run + 1 }, preempt := x.w.preempt.map (· + 1) } ∧
          (∀ k, (w'.slice k).fmt = (x.w.slice k).fmt) ∧
          (∀ l, touched l → l < x.w.lanes.length → w'.lane l = { x.w.lane l with nest := BitVec.ofNat 8 (after l) }) ∧
          (∀ l, ¬touched l ∨ x.w.lanes.length ≤ l → w'.lane l = x.w.lane l) ∧
          ((∃ l, touched l ∧ after l = 0) → GroupGoes x w' (if jumps true then (x.pc + 4 * offset x) % 2 ^ 48 else x.next)) ∧
          ((∀ l, touched l → after l ≠ 0) → GroupGoes x w' (if jumps false then (x.pc + 4 * offset x) % 2 ^ 48 else x.next))
    acts (.bif f) (fun x l c => if c = 0 then (if cond x l then 0 else 1) else c + 1) (fun active => !active) (·.offset) ∧
      acts (.belse f) (fun _ _ c => if c = 0 then 1 else if c = 1 then 0 else c) (fun active => !active) (·.offset) ∧
      acts (.belseS h) (fun _ _ c => if c = 0 then 1 else if c = 1 then 0 else c) (fun active => !active) (fun _ => shortOffset h) ∧
      acts (.bend f) (fun _ _ c => c - 1) (fun _ => false) (fun _ => 0) ∧
      acts (.bendS h) (fun _ _ c => c - 1) (fun _ => false) (fun _ => 0) ∧
      acts (.bbrk f) (fun x l c => if c = 0 ∧ cond x l = true then x.f.mb 11 4 + 1 else c) (fun active => !active) (·.offset) ∧
      acts (.bloop f) (fun x l c => if c = 0 ∧ cond x l = false then 1 else c) (fun active => active) (·.offset)

/-- R140. REGANG at another record's join, or with a slice outside its mask, completes at once with its own mask in dst; else it waits for a
slice of the mask that is neither retired nor here (stated where no other group waits), and where every such slice is its own it goes on at
once with the record's FMT. With the other group of a warp of two waiting at the same REGANG for these slices the two merge: one group, in the
place of both, with the record's FMT behind the REGANG and the merged mask in dst. -/
def Obligations.Regang : Prop :=
  ∀ (f : LX) (s : State) (g : Selected) (w : Warp), Runs (.regang f) s g w →
    let x := s.seenBy (.regang f) g w
    let record := x.a 2 scalarLane
    let mask : BitVec 8 := BitVec.ofNat 8 record
    (bitsOf x.pc 33 2 ≠ record / 2 ^ 32 ∨ ¬(∀ k, inMask x.mask k = true → inMask mask k = true) →
      Reaches (.regang f) x s fun _ w' => OnlyFlow x w' ∧ GroupGoes x w' x.next ∧ HoldsScalars x w' 1 x.mask.toNat) ∧
    (bitsOf x.pc 33 2 = record / 2 ^ 32 → (∀ k, inMask x.mask k = true → inMask mask k = true) →
      (∀ k, k < 8 → inMask mask k = true → inMask x.mask k = true ∨ x.w.retired k = true) →
      (∀ q ∈ x.w.groups, q.mask ≠ x.mask → ∀ m a t d, q.hold ≠ .regang m a t d) → (x.w.groups.filter (fun q => q.mask = x.mask)).length = 1 → x.mask ≠ 0 →
      Reaches (.regang f) x s fun _ w' =>
        w' = { x.w with
          s := w'.s, slices := w'.slices, groups := w'.groups, undelivered := w'.undelivered, flagsDue := w'.flagsDue,
          special := { x.w.special with fflags := w'.special.fflags }, lease := { x.w.lease with run := x.w.lease.run + 1 },
          preempt := x.w.preempt.map (· + 1) } ∧
        (∀ k, w'.slice k = if inMask x.mask k ∧ k < x.w.slices.length then
          { pc := BitVec.ofNat 48 (x.next / 4 * 4), fmt := BitVec.ofNat 12 (bitsOf record 19 8) } else x.w.slice k) ∧
        w'.groups.map (·.mask) = x.w.groups.map (·.mask) ∧ (∀ q ∈ w'.groups, q.mask = x.mask → q.hold = .none) ∧
        HoldsScalars x w' 1 x.mask.toNat) ∧
    -- a slice of the record is missing: the group waits
    (bitsOf x.pc 33 2 = record / 2 ^ 32 → (∀ k, inMask x.mask k = true → inMask mask k = true) →
      (∃ k, k < 8 ∧ inMask mask k = true ∧ inMask x.mask k = false ∧ x.w.retired k = false) →
      (∀ q ∈ x.w.groups, q.mask ≠ x.mask → ∀ m a t d, q.hold ≠ .regang m a t d) →
      Reaches (.regang f) x s fun _ w' =>
        w' = { x.w with
          slices := w'.slices, groups := w'.groups, lease := { x.w.lease with run := x.w.lease.run + 1 }, preempt := x.w.preempt.map (· + 1) } ∧
        (∀ k, w'.slice k = { x.w.slice k with
          pc := if inMask x.mask k ∧ k < x.w.slices.length then BitVec.ofNat 48 (x.pc / 4 * 4) else (x.w.slice k).pc }) ∧
        w'.groups.map (·.mask) = x.w.groups.map (·.mask) ∧ (∀ q ∈ x.w.groups, q.mask ≠ x.mask → q ∈ w'.groups) ∧
        ∀ q ∈ w'.groups, q.mask = x.mask → q.hold = .regang mask x.cyc (x.b 1 scalarLane) f.dst) ∧
    -- the other group of the warp waits here for the rest: the two merge
    (∀ a b q ta tq, bitsOf x.pc 33 2 = record / 2 ^ 32 → x.pc % 4 = 0 → (∀ k, inMask x.mask k = true → inMask mask k = true) → x.w.groups = [a, b] →
      ((a.mask = x.mask ∧ b = q) ∨ (b.mask = x.mask ∧ a = q)) → x.mask ≠ 0 → x.mask &&& q.mask = 0 → q.hold = .regang mask ta tq f.dst →
      q.prog.note = bitsOf record 19 8 + 4096 * (Instr.regang f).length → x.w.pcOf q.mask = x.pc → q.mask ≠ 0 →
      (∀ k, k < 8 → inMask mask k = true → inMask x.mask k = true ∨ inMask q.mask k = true ∨ x.w.retired k = true) →
      Reaches (.regang f) x s fun _ w' =>
        w' = { x.w with
          s := w'.s, slices := w'.slices, groups := w'.groups, undelivered := w'.undelivered, flagsDue := w'.flagsDue,
          special := { x.w.special with fflags := w'.special.fflags }, lease := { x.w.lease with run := x.w.lease.run + 1 },
          preempt := x.w.preempt.map (· + 1) } ∧
        (∀ k, w'.slice k = if inMask (x.mask ||| q.mask) k ∧ k < x.w.slices.length then
          { pc := BitVec.ofNat 48 (x.next / 4 * 4), fmt := BitVec.ofNat 12 (bitsOf record 19 8) } else x.w.slice k) ∧
        w'.groups.map (·.mask) = [x.mask ||| q.mask] ∧ (∀ y ∈ w'.groups, y.hold = .none) ∧ HoldsScalars x w' 1 (x.mask ||| q.mask).toNat)

/-- R142, R143, R440, R297. EXIT marks the executing lanes exited and takes retired slices out of the groups, whose other slices stay
together (stated where no group of the warp waits at a REGANG); YIELD holds its group for 32 cycles more; NOP does nothing; WAITC goes on where the counter it names,
the other instruction of its cycle counted (R377), does not stand above its threshold and no fault of that path is to be delivered. -/
def Obligations.ExitYieldNopWait : Prop :=
  ∀ f : LX, ∀ h : SF,
    let exits (i : Instr) : Prop := ∀ s g w, Runs i s g w →
      let x := s.seenBy i g w
      (∀ q ∈ x.w.groups, ∀ m a t d, q.hold ≠ .regang m a t d) →
      Reaches i x s fun t w' =>
        w' = { x.w with
          lanes := w'.lanes, slices := w'.slices, groups := w'.groups, lease := { x.w.lease with run := x.w.lease.run + 1 },
          preempt := x.w.preempt.map (· + 1) } ∧
        (∀ l, w'.lane l = { x.w.lane l with exited := (x.w.lane l).exited || decide (l ∈ x.lanes ∧ l < x.w.lanes.length) }) ∧
        (∀ k, w'.slice k = { x.w.slice k with
          pc := if inMask x.mask k ∧ k < x.w.slices.length then BitVec.ofNat 48 (x.next / 4 * 4) else (x.w.slice k).pc }) ∧
        (∀ q ∈ w'.groups, ∀ k, inMask q.mask k = true → w'.retired k = false) ∧
        (∀ q ∈ x.w.groups, (∃ k, k < 8 ∧ inMask q.mask k = true ∧ w'.retired k = false) → ∃ q' ∈ w'.groups,
          (∀ k, k < 8 → (inMask q'.mask k = true ↔ inMask q.mask k = true ∧ w'.retired k = false)) ∧
          q' = if q.mask = x.mask then
            { q with mask := q'.mask, readyAt := x.cyc + 1 + x.f.stall.toNat, hold := .none, prog := {} } else { q with mask := q'.mask }) ∧
        (w'.groups = [] → w'.paths.allZero = true → .warpEnd g.core g.slot ∈ t.pending)
    let yields (i : Instr) : Prop := ∀ s g w, Runs i s g w →
      let x := s.seenBy i g w
      Reaches i x s fun _ w' => OnlyFlow x w' ∧ w'.s = x.w.s ∧
        (∀ k, (w'.slice k).pc = if inMask x.mask k ∧ k < x.w.slices.length then BitVec.ofNat 48 (x.next / 4 * 4) else (x.w.slice k).pc) ∧
        w'.groups = x.w.groups.map (fun q => if q.mask = x.mask then
          { q with readyAt := x.cyc + 1 + x.f.stall.toNat + (if x.lanes = [] then 0 else 32), hold := .none, prog := {} } else q)
    let passes (i : Instr) (may : Ctx → Prop) : Prop := ∀ s g w, Runs i s g w →
      let x := s.seenBy i g w
      may x → Reaches i x s fun _ w' => OnlyFlow x w' ∧ w'.s = x.w.s ∧ GroupGoes x w' x.next
    exits (.exit f) ∧ exits (.exitS h) ∧ yields (.yield f) ∧ yields (.yieldS h) ∧
      passes (.nop f) (fun _ => True) ∧ passes (.nopS h) (fun _ => True) ∧
      (∀ s g w, Runs (.waitc h) s g w →
        let x := s.seenBy (.waitc h) g w
        let path := pathOfNum h.dst.toNat
        (x.lanes = [] ∨ (x.w.paths.get path + s.begun.mateRaises x path ≤ x.a 1 scalarLane ∧ ∀ d ∈ x.w.deferred, d.path ≠ path)) →
        Reaches (.waitc h) x s fun _ w' =>
          w' = { x.w with
            slices := w'.slices, groups := w'.groups, uncovered := w'.uncovered, lease := { x.w.lease with run := x.w.lease.run + 1 },
            preempt := x.w.preempt.map (· + 1) } ∧
          GroupGoes x w' x.next ∧ (∀ k, (w'.slice k).fmt = (x.w.slice k).fmt) ∧ ∀ u ∈ w'.uncovered, u ∈ x.w.uncovered)

/-- R57, R145. FLASH in a warp with one group and no access in flight sets the point at the next instruction, with its counts and
label, FMT, MODE and every lane's predicates, counter and exited bit; inside a region it sets none. -/
def Obligations.Flash : Prop :=
  ∀ (f : LX) (s : State) (g : Selected) (w : Warp), Runs (.flash f) s g w (late := lateFlash) →
    let x := s.seenBy (.flash f) g w
    x.w.paths.allZero = true → x.w.undelivered = [] →
      Reaches (.flash f) x s fun t w' =>
        w' = { x.w with
          flash := w'.flash, slices := w'.slices, groups := w'.groups, lease := { x.w.lease with run := x.w.lease.run + 1 },
          preempt := x.w.preempt.map (· + 1) } ∧
        GroupGoes x w' x.next ∧ (∀ k, (w'.slice k).fmt = (x.w.slice k).fmt) ∧
        (x.w.region.active = true → w'.flash = x.w.flash) ∧
        (x.w.region.active = false → w'.flash =
          { valid := true, pc := BitVec.ofNat 48 x.next, nv := x.a 1 scalarLane, ns := x.b 1 scalarLane, label := x.f.mb 11 0,
            fmt := (x.w.slice (lowSlice x.mask)).fmt, mode := x.w.mode,
            lanes := x.w.lanes.map (fun l => { p := l.p, nest := l.nest, exited := l.exited }) } ∧
          (x.w.preempt.isSome = true → .flashbackSave g.core g.slot ∈ t.pending))

/-! ## Global memory (R277 to R297) -/

/-- R277 to R282, R284. LD outside a region, of lanes whose addresses translate and whose domain is not PEER: once its pages have been used
(R398) its access joins the warp, each byte of each lane is taken from the core's own copy or asked for, and no register changes yet; an acquiring load holds its
group until it returns. R213. SLD outside a region: one access on LDG for the fragments of at most 16 bytes of the executing lanes, each byte taken or
asked for. -/
def Obligations.LoadsAndStrings : Prop :=
  (∀ (f : LX) (s : State) (g : Selected) (w : Warp), Runs (.ld f) s g w (late := lateGlobal .ldg .read) →
     let x := s.seenBy (.ld f) g w
     let n := widthBytes (x.f.mb 3 0)
     (x.lanes = [] → Reaches (.ld f) x s fun _ w' => OnlyFlow x w' ∧ GroupGoes x w' x.next ∧ w'.s = x.w.s) ∧
     (∀ parts s1, x.lanes ≠ [] → x.w.region.active = false → x.gparts s.begun .read true n (x.f.mb 5 4) x.places = .ok parts →
       x.paged s (parts.map (·.va)) s1 → x.fresh s1 → (∀ p ∈ parts, p.dom < domPeer ∧ physKind p.pa ≠ .peer) →
       ∃ t w' a, exec (.ld f) s = .next t ∧ t.warp? g.core g.slot = some w' ∧ OnlySends x s1 t w' ∧ Joins x w' a ∧
         a.path = .ldg ∧ a.kind = .load n (decide (x.f.mb 3 0 = 4 ∨ x.f.mb 3 0 = 6)) ∧ a.dst = x.f.dst.toNat ∧
         a.regs = (if x.f.mb 3 0 = 1 then 2 else if x.f.mb 3 0 = 2 then 4 else 1) ∧
         a.parts = parts.map (fun p => (p.lane, p.pa, p.n)) ∧ w'.flash = x.w.flash ∧
         (∀ p ∈ parts, ∀ b, p.pa ≤ b → b < p.pa + p.n →
           (∃ l, s1.l1Find g.core w.tenant (lineOf b) = some l ∧ l.holds b ∧ SMap.get? b a.bytes = some (l.byteAt b)) ∨
           (∃ r, Asks t a r ∧ r.kind = .read true ∧ r.core = g.core ∧ r.tenant = w.tenant ∧ r.line = lineOf b ∧ r.sector = b / 32 % 4)) ∧
         (a.needs = [] → .accessReturn g.core g.slot a.id ∈ t.pending) ∧
         (if x.f.mb 6 6 = 1 then ∀ q ∈ w'.groups, q.mask = g.mask → q.hold = .returns else GroupGoes x w' x.next))) ∧
  (∀ (f : LX) (s : State) (g : Selected) (w : Warp), Runs (.sld f) s g w (late := lateSld) →
     let x := s.seenBy (.sld f) g w
     (x.lanes = [] → Reaches (.sld f) x s fun _ w' => OnlyFlow x w' ∧ GroupGoes x w' x.next ∧ w'.s = x.w.s) ∧
     (∀ parts s1, x.lanes ≠ [] → x.w.region.active = false → x.allStrings s.begun x.places = .ok parts →
       x.paged s ((parts.filter (fun p => p.n ≠ 0)).map (·.va)) s1 → x.fresh s1 → (∀ p ∈ parts, physKind p.pa ≠ .peer) →
       ∃ t w' a, exec (.sld f) s = .next t ∧ t.warp? g.core g.slot = some w' ∧ OnlySends x s1 t w' ∧ Joins x w' a ∧
         a.path = .ldg ∧ a.kind = .stringLoad ∧ a.dst = x.f.dst.toNat ∧ a.regs = 4 ∧
         a.parts = parts.map (fun p => (p.lane, p.pa, p.n)) ∧ GroupGoes x w' x.next ∧ w'.flash = x.w.flash ∧
         (∀ p ∈ x.places, ((parts.filter (fun q => q.lane = p)).map (·.n)).sum = min (x.b 1 p) 16) ∧
         ∀ p ∈ parts, ∀ b, p.pa ≤ b → b < p.pa + p.n →
           (∃ l, s1.l1Find g.core w.tenant (lineOf b) = some l ∧ l.holds b ∧ SMap.get? b a.bytes = some (l.byteAt b)) ∨
           (∃ r, Asks t a r ∧ r.kind = .read true ∧ r.core = g.core ∧ r.tenant = w.tenant ∧ r.line = lineOf b ∧ r.sector = b / 32 % 4)))

/-- R277 to R282, R284, R286. ST outside a region, of lanes whose addresses translate and whose domain is not PEER: once its pages have been
used (R398) the access joins the warp on STG. The plain form leaves each stored byte, that of the highest LID where lanes meet, dirty in the core's own copy or on its
way to Caldera; the release form, where there is nothing to release, sends every stored byte to Caldera. No other byte of the copies
changes, no primary copy, and no line of another tenant or core, unless a way of the quadrant gives it up (R252). -/
def Obligations.Stores : Prop :=
  ∀ (f : LX) (s : State) (g : Selected) (w : Warp), Runs (.st f) s g w (late := lateGlobal .stg .write) →
    let x := s.seenBy (.st f) g w
    let n := widthBytes (x.f.mb 3 0)
    let regs := if x.f.mb 3 0 = 1 then 2 else if x.f.mb 3 0 = 2 then 4 else 1
    (x.lanes = [] → ∃ t w', exec (.st f) s = .next t ∧ t.warp? g.core g.slot = some w' ∧ OnlySends x s.begun t w' ∧ GroupGoes x w' x.next ∧
      w'.accesses = x.w.accesses ∧ t.caldera = s.caldera) ∧
    (∀ parts s1, x.lanes ≠ [] → x.w.region.active = false → x.gparts s.begun .write false n (x.f.mb 5 4) x.places = .ok parts →
      x.paged s (parts.map (·.va)) s1 → x.fresh s1 → (∀ p ∈ parts, p.dom < domPeer ∧ physKind p.pa ≠ .peer) →
      (x.f.mb 6 6 = 1 → x.nothingToRelease s1) →
      ∃ t w' a, exec (.st f) s = .next t ∧ t.warp? g.core g.slot = some w' ∧ OnlySends x s1 t w' ∧ Joins x w' a ∧
        a.path = .stg ∧ a.kind = .plain ∧ GroupGoes x w' x.next ∧
        (∀ b v, SMap.get? b (storeCells (parts.map (fun p => (p, x.c regs p.lane)))) = some v →
          (x.f.mb 6 6 = 0 ∧ ∃ l, t.l1Find g.core w.tenant (lineOf b) = some l ∧ l.holds b ∧ l.byteAt b = v ∧ l.dirty.getLsbD (b % 128) = true) ∨
          (∃ id r, SMap.get? id t.caldera.requests = some r ∧ r.kind = .write (decide (x.f.mb 6 6 = 1)) ∧ r.core = g.core ∧
            r.tenant = w.tenant ∧ SMap.get? b r.bytes = some v)) ∧
        (∀ b, SMap.get? b (storeCells (parts.map (fun p => (p, x.c regs p.lane)))) = none →
          ∀ l', t.l1Find g.core w.tenant (lineOf b) = some l' → l'.holds b →
            ∃ l, s1.l1Find g.core w.tenant (lineOf b) = some l ∧ l.holds b ∧ l.byteAt b = l'.byteAt b))

/-- R281, R289, R290. ATOM and RED outside a region, of lanes whose addresses translate and whose domain is not PEER, where there is
nothing to release: each lane's operation is on its way to the line's place in Caldera with its operand and, for .cas, its compare
value, lanes of one sector together in ascending LID; an acquiring ATOM holds its group until it returns. -/
def Obligations.Atomics : Prop :=
  ∀ f : LX,
    let acts (i : Instr) (main : Path) (old : Bool) : Prop := ∀ s g w, Runs i s g w (late := lateGlobal main .write) →
      let x := s.seenBy i g w
      (∀ parts s1, x.lanes ≠ [] → x.w.region.active = false → x.gparts s.begun .write true (atomBytes (x.f.mb 7 4)) 0 x.places = .ok parts →
        x.paged s (parts.map (·.va)) s1 → x.fresh s1 → (∀ p ∈ parts, p.dom < domPeer ∧ physKind p.pa ≠ .peer) → x.nothingToRelease s1 →
        ∃ t w' a, exec i s = .next t ∧ t.warp? g.core g.slot = some w' ∧ OnlySends x s1 t w' ∧ Joins x w' a ∧ a.path = main ∧
          a.kind = (if old then .atomic (atomBytes (x.f.mb 7 4)) else .plain) ∧ a.dst = (if old then x.f.dst.toNat else 0xFC) ∧
          w'.flash.valid = false ∧
          (∀ p ∈ parts, ∃ r, Asks t a r ∧ r.kind = .atomic (x.f.mb 3 0) (x.f.mb 7 4) ∧ r.core = g.core ∧ r.tenant = w.tenant ∧
            r.line = lineOf p.pa ∧ r.sector = p.pa / 32 % 4 ∧ r.writers = [x.mark] ∧
            r.lanes = (parts.filter (fun q => q.pa / 32 = p.pa / 32)).map (fun q =>
              (q.lane, q.pa, (x.atomOperands q.lane).1, (x.atomOperands q.lane).2))) ∧
          (if old = true ∧ x.f.mb 11 11 = 1 then ∀ q ∈ w'.groups, q.mask = g.mask → q.hold = .returns else GroupGoes x w' x.next)) ∧
      (x.lanes = [] → ∃ t w', exec i s = .next t ∧ t.warp? g.core g.slot = some w' ∧ OnlySends x s.begun t w' ∧ GroupGoes x w' x.next ∧
        w'.accesses = x.w.accesses ∧ t.caldera = s.caldera)
    acts (.atom f) .ldg true ∧ acts (.red f) .stg false

/-- R282, R362. A load, a store, an atomic or a reduction whose lanes all lie in domain PEER, outside a region: the access counts on
PEER, a peer request carries each lane's line, and the group is held until the requests have left (atomics and release stores where there
is nothing to release). -/
def Obligations.PeerAccesses : Prop :=
  ∀ f : LX,
    let acts (i : Instr) (main : Path) (perm : Perm) (reads : Bool) (n hint : Ctx → Nat) (op : Nat) (releases : Ctx → Prop) : Prop :=
      ∀ s g w, Runs i s g w (late := lateGlobal main perm) →
        let x := s.seenBy i g w
        ∀ parts s1, x.lanes ≠ [] → x.w.region.active = false → x.gparts s.begun perm reads (n x) (hint x) x.places = .ok parts →
          x.paged s (parts.map (·.va)) s1 → x.fresh s1 → (∀ p ∈ parts, p.dom = domPeer ∧ physKind p.pa = .peer) →
          (releases x → x.nothingToRelease s1) →
          ∃ t w' a, exec i s = .next t ∧ t.warp? g.core g.slot = some w' ∧ OnlySends x s1 t w' ∧ Joins x w' a ∧ a.path = .peer ∧
            (∀ q ∈ w'.groups, q.mask = g.mask → q.hold = .leave) ∧
            ∀ p ∈ parts, ∃ k r, t.core? g.core = some k ∧ r ∈ k.nyrus ∧ r.slot = g.slot ∧ r.access = a.id ∧ r.op = op ∧
              r.line = lineOf p.pa ∧ needNyrus r.id ∈ a.needs
    acts (.ld f) .ldg .read true (fun x => widthBytes (x.f.mb 3 0)) (fun x => x.f.mb 5 4) 0 (fun _ => False) ∧
      acts (.st f) .stg .write false (fun x => widthBytes (x.f.mb 3 0)) (fun x => x.f.mb 5 4) 1 (fun x => x.f.mb 6 6 = 1) ∧
      acts (.atom f) .ldg .write true (fun x => atomBytes (x.f.mb 7 4)) (fun _ => 0) 2 (fun _ => True) ∧
      acts (.red f) .stg .write true (fun x => atomBytes (x.f.mb 7 4)) (fun _ => 0) 2 (fun _ => True)

/-- R280, R281, R278. The first executing lane, in ascending LID, whose address is not a multiple of the access's size stops LD, ST,
ATOM and RED with Misaligned, and nothing has been sent: the state is the one that raising the lane's fault gives. -/
def Obligations.MisalignedAccess : Prop :=
  ∀ f : LX,
    let acts (i : Instr) (main : Path) (perm : Perm) (n : Ctx → Nat) (access : Nat) : Prop :=
      ∀ s g w, Runs i s g w (late := lateGlobal main perm) →
        let x := s.seenBy i g w
        ∀ p, x.places.head? = some p → (x.gaddr p) % n x ≠ 0 →
          exec i s = .next (s.begun.raise g.core g.slot g.mask
            { cause := 0x07, epc := x.pc, eval := x.gaddr p, perLane := true,
              lid := (w.lane (if p = scalarLane then x.lanes.headD 0 else p)).lid.toNat, access := access })
    acts (.ld f) .ldg .read (fun x => widthBytes (x.f.mb 3 0)) 1 ∧ acts (.st f) .stg .write (fun x => widthBytes (x.f.mb 3 0)) 2 ∧
      acts (.atom f) .ldg .write (fun x => atomBytes (x.f.mb 7 4)) 8 ∧ acts (.red f) .stg .write (fun x => atomBytes (x.f.mb 7 4)) 8

/-- R291, R292, R283. PREF asks for lines and changes no register, no flag and no byte. FENCE with nothing to release goes on; a
release fence leaves every valid line of its core's L1 alone, an acquiring one drops the tenant's lines of the domains it names. R295, R405. MONW that cannot watch its line (domain PEER, memory that Caldera does not hold, or no room in the monitor table) has the
result false in every executing lane; one that can watch asks for the value and waits; and once its wait has ended it goes on with
the result in its predicate. That memory which Caldera does not hold cannot be watched is the model's reading (log entry 37), as is how
MONW asks, waits and goes on (log entry 39). -/
def Obligations.FenceAndMonitor : Prop :=
  (∀ (f : LX) (s : State) (g : Selected) (w : Warp),
     (Runs (.pref f) s g w (late := lateGlobal .ldg .read) →
       let x := s.seenBy (.pref f) g w
       ∀ s1, x.paged s ((x.prefParts s.begun).map (·.va)) s1 →
       ∃ t w', exec (.pref f) s = .next t ∧ t.warp? g.core g.slot = some w' ∧ OnlySends x s1 t w' ∧ GroupGoes x w' x.next ∧
         w'.flash = x.w.flash ∧
         (∀ p ∈ x.places, ∀ q, x.gpart s.begun .read false (x.f.mb 5 4) p (x.gaddr p) 1 = .ok q → q.dom ≠ domPeer → cached q.pa = true →
           (∀ l, s.l1Find g.core w.tenant (lineOf q.pa) = some l → l.dirty = 0) →
           ∃ id r, SMap.get? id t.caldera.requests = some r ∧ r.kind = .prefetch (decide (x.f.mb 6 6 = 0)) ∧ r.core = g.core ∧
             r.tenant = w.tenant ∧ r.line = lineOf q.pa)) ∧
     (Runs (.fence f) s g w →
       let x := s.seenBy (.fence f) g w
       x.nothingToRelease s →
       ∃ t w', exec (.fence f) s = .next t ∧ t.warp? g.core g.slot = some w' ∧ OnlySends x s.begun t w' ∧ GroupGoes x w' x.next ∧
         w'.flash = x.w.flash ∧ w'.accesses = x.w.accesses ∧ t.caldera.requests = s.caldera.requests ∧
         (x.lanes = [] ∨ x.f.mb 1 0 = 2 → ∀ k k', s.core? g.core = some k → t.core? g.core = some k' →
           (∀ l ∈ k'.l1, l ∈ k.l1) ∧ ∀ l ∈ k.l1, l.valid ≠ 0 ∨ l.lock ≠ none → l ∈ k'.l1) ∧
         (x.lanes ≠ [] → x.f.mb 1 0 ≠ 2 → ∀ k, t.core? g.core = some k → ∀ l ∈ k.l1, l.tenant = w.tenant → l.lock = none →
           ∀ d, d ≤ domPeer → (d ∈ if x.f.mb 2 2 = 1 then [domHost, domPeer] else x.laneDomains s) → acquires d (s.lineDomain l) = false))) ∧
  (∀ (f : LX) (s : State) (g : Selected) (w : Warp),
     let x := s.seenBy (.monw f) g w
     let n := if x.f.mb 0 0 = 1 then 8 else 4
     let va := (x.a 2 scalarLane + x.disp) % 2 ^ 64
     let result (s1 t : State) (w' : Warp) (r : Bool) : Prop :=
       t = { s1 with cores := t.cores, pending := t.pending } ∧ GroupGoes x w' x.next ∧ w'.s = x.w.s ∧
         (x.w.undelivered = [] → ∀ l, l < x.w.lanes.length → ∀ k, k < 8 → (w'.lane l).pred k =
           if l ∈ x.lanes ∧ k = x.f.dst.toNat ∧ k ≠ 0 then r else (x.w.lane l).pred k)
     (Runs (.monw f) s g w → ∀ low q s1 room, x.lanes.head? = some low → va % n = 0 → x.gpart s.begun .read false 0 low va n = .ok q →
       x.paged s [va] s1 → room = ((s1.core? g.core).map (fun k => k.monitorRoom w.tenant (lineOf q.pa))).getD false →
       ((q.dom = domPeer ∨ cached q.pa = false ∨ room = false) →
         ∃ t w', exec (.monw f) s = .next t ∧ t.warp? g.core g.slot = some w' ∧ result s1 t w' false) ∧
       (q.dom ≠ domPeer → cached q.pa = true → room = true →
         ∃ t w' id r, exec (.monw f) s = .next t ∧ t.warp? g.core g.slot = some w' ∧ OnlySends x s1 t w' ∧
           SMap.get? id t.caldera.requests = some r ∧ r.kind = .monitor q.pa (x.b (n / 4) scalarLane) n ∧ r.line = lineOf q.pa ∧
           ∀ h ∈ w'.groups, h.mask = g.mask → h.hold = .event ∧ h.prog.note = id)) ∧
     (∀ p, Resumes s g w p → p.stage = stResult → ∃ t w', exec (.monw f) s = .next t ∧ t.warp? g.core g.slot = some w' ∧
       result s.begun t w' (decide (p.vals.headD 0 ≠ 0))))

/-! ## The scratchpad window (R247 to R251, R278 to R281, R287 to R294) -/

/-- R278, R279, R280, R287. LDS reads the window's bytes at each place's offset when it issues, for the run that its access will write;
no byte of the window and no register changes yet. -/
def Obligations.WindowLoads : Prop :=
  ∀ (f : LX) (s : State) (g : Selected) (w : Warp) (b : Block), Runs (.lds f) s g w (late := lateSpad) →
    let x := s.seenBy (.lds f) g w
    let n := widthBytes (x.f.mb 3 0)
    x.lanes ≠ [] → s.block? g.core w.block = some b →
    (∀ p ∈ x.places, x.saddr p % n = 0 ∧ x.saddr p + n ≤ b.length ∧ b.poisoned (x.saddr p) n = false) → (∀ a ∈ w.accesses, a.id ≠ w.nextAccess) →
    ∃ t w' a, exec (.lds f) s = .next t ∧ t.warp? g.core g.slot = some w' ∧ KeepsRegisters x w' ∧ OnlyCore x s t ∧
      t.block? g.core w.block = some b ∧ Joins x w' a ∧ a.path = .spd ∧ a.dst = x.f.dst.toNat ∧ a.needs = [] ∧
      GroupGoes x w' x.next ∧ w'.flash = x.w.flash ∧ .accessReturn g.core g.slot a.id ∈ t.pending ∧
      ∀ p ∈ x.places, ∃ v, (p, v) ∈ a.results ∧
        v = extendBytes (decide (x.f.mb 3 0 = 4 ∨ x.f.mb 3 0 = 6)) n
          (numOf ((List.range n).map (fun i => SMap.get 0 (x.saddr p + i) b.window)))

/-- R249, R281, R287. STS, and STF without .we, write the data of each executing place at its offset, the highest LID last, and mark the
words they touch full; every other byte and mark of the window stays. -/
def Obligations.WindowStores : Prop :=
  ∀ f : LX,
    let acts (i : Instr) : Prop := ∀ s g w b, Runs i s g w (late := lateSpad) →
      let x := s.seenBy i g w
      let n := widthBytes (x.f.mb 3 0)
      let regs := if x.f.mb 3 0 = 1 then 2 else if x.f.mb 3 0 = 2 then 4 else 1
      x.lanes ≠ [] → s.block? g.core w.block = some b → s.windowQuiet g.core b →
      (∀ p ∈ x.places, x.saddr p % n = 0 ∧ x.saddr p + n ≤ b.length) → (∀ a ∈ w.accesses, a.id ≠ w.nextAccess) →
      ∃ t w' a b', exec i s = .next t ∧ t.warp? g.core g.slot = some w' ∧ KeepsRegisters x w' ∧ OnlyCore x s t ∧
        t.block? g.core w.block = some b' ∧ Joins x w' a ∧ a.path = .spd ∧ GroupGoes x w' x.next ∧
        b' = { b with window := b'.window, empty := b'.empty, poison := b'.poison } ∧
        (∀ o, SMap.get 0 o b'.window =
          match SMap.get? o (windowCells x.places n x.saddr (x.c regs)) with
          | some v => v
          | none => SMap.get 0 o b.window) ∧
        (∀ k, k ∈ b'.empty ↔ k ∈ b.empty ∧ ∀ p ∈ x.places, ∀ i, i < n → (x.saddr p + i) / 4 ≠ k)
    acts (.sts f) ∧ (f.mb 6 6 = 0 → acts (.stf f))

/-- R249, R288. FESET marks the words it names full or empty and changes no byte; LDF of words that are full takes them to its registers
and leaves them empty; STF.we of empty words writes them and leaves them full (stated where nobody else waits for the window and no two
lanes name one word). -/
def Obligations.FullEmptyWords : Prop :=
  ∀ f : LX,
    let named (x : Ctx) (k : Nat) : Prop := ∃ p ∈ x.places, ∃ i, i < widthBytes (x.f.mb 3 0) ∧ (x.saddr p + i) / 4 = k
    let apart (x : Ctx) : Prop := ∀ p ∈ x.places, ∀ q ∈ x.places, p ≠ q → ∀ i j, i < widthBytes (x.f.mb 3 0) → j < widthBytes (x.f.mb 3 0) →
      (x.saddr p + i) / 4 ≠ (x.saddr q + j) / 4
    let ready (i : Instr) (s : State) (g : Selected) (w : Warp) (b : Block) : Prop :=
      let x := s.seenBy i g w
      Runs i s g w (late := lateSpad) ∧ x.lanes ≠ [] ∧ s.block? g.core w.block = some b ∧ s.windowQuiet g.core b ∧ g.slot ∈ b.slots ∧
        (∀ p ∈ x.places, x.saddr p % widthBytes (x.f.mb 3 0) = 0 ∧ x.saddr p + widthBytes (x.f.mb 3 0) ≤ b.length) ∧
        (∀ a ∈ w.accesses, a.id ≠ w.nextAccess)
    (∀ s g w b, ready (.feset f) s g w b →
      let x := s.seenBy (.feset f) g w
      ∃ t w' b', exec (.feset f) s = .next t ∧ t.warp? g.core g.slot = some w' ∧ KeepsRegisters x w' ∧ OnlyCore x s t ∧ GroupGoes x w' x.next ∧
        t.block? g.core w.block = some b' ∧ b' = { b with empty := b'.empty } ∧
        ∀ k, k ∈ b'.empty ↔ if x.f.mb 6 6 = 1 then k ∈ b.empty ∧ ¬named x k else k ∈ b.empty ∨ named x k) ∧
    (∀ s g w b, ready (.ldf f) s g w b →
      let x := s.seenBy (.ldf f) g w
      apart x → (∀ k, named x k → k ∉ b.empty) → (∀ p ∈ x.places, (w.lane p).done = false) →
      (∀ p ∈ x.places, b.poisoned (x.saddr p) (widthBytes (x.f.mb 3 0)) = false) →
      ∃ t w' b', exec (.ldf f) s = .next t ∧ t.warp? g.core g.slot = some w' ∧ OnlyCore x s t ∧ GroupGoes x w' x.next ∧
        t.block? g.core w.block = some b' ∧ b' = { b with empty := b'.empty } ∧ (∀ k, k ∈ b'.empty ↔ k ∈ b.empty ∨ named x k) ∧
        ∀ p ∈ x.places, p < w.lanes.length → ∀ k, k < (if x.f.mb 3 0 = 1 then 2 else 1) → x.f.dst.toNat + k < 192 →
          w'.regWord (x.f.dst.toNat + k) p = BitVec.ofNat 32
            (numOf ((List.range 4).map (fun i => SMap.get 0 (x.saddr p + 4 * k + i) b.window)))) ∧
    (f.mb 6 6 = 1 → ∀ s g w b, ready (.stf f) s g w b →
      let x := s.seenBy (.stf f) g w
      apart x → (∀ k, named x k → k ∈ b.empty) → (∀ p ∈ x.places, (w.lane p).done = false) →
      ∃ t w' b', exec (.stf f) s = .next t ∧ t.warp? g.core g.slot = some w' ∧ OnlyCore x s t ∧ GroupGoes x w' x.next ∧
        t.block? g.core w.block = some b' ∧ b' = { b with window := b'.window, empty := b'.empty, poison := b'.poison } ∧
        (∀ k, k ∈ b'.empty ↔ k ∈ b.empty ∧ ¬named x k) ∧
        ∀ o, SMap.get 0 o b'.window =
          match SMap.get? o (windowCells x.places (widthBytes (x.f.mb 3 0)) x.saddr (x.c (if x.f.mb 3 0 = 1 then 2 else 1))) with
          | some v => v
          | none => SMap.get 0 o b.window)

/-- R289, R290. ATOMS completes in every form: its lanes act in ascending LID, each on what the lanes before it have left, and the access
carries the old values; with no executing lane it has no effect. In one lane the window's word takes the value of the operation, spelled out
for the integers: the sums modulo the width, minimum and maximum in the type's order, the bitwise ones, exchange, compare and swap, and the
wrapping increment and decrement. No other byte changes. -/
def Obligations.WindowAtomics : Prop :=
  ∀ (f : LX) (s : State) (g : Selected) (w : Warp), Runs (.atoms f) s g w (late := lateSpad) →
    let x := s.seenBy (.atoms f) g w
    let n := atomBytes (x.f.mb 7 4)
    (x.places = [] → Reaches (.atoms f) x s fun _ w' => KeepsRegisters x w' ∧ GroupGoes x w' x.next ∧ w'.accesses = w.accesses) ∧
    ∀ b, x.places ≠ [] → s.block? g.core w.block = some b → s.windowQuiet g.core b →
      (∀ p ∈ x.places, x.saddr p % n = 0 ∧ x.saddr p + n ≤ b.length ∧ b.poisoned (x.saddr p) n = false) →
      -- every lane in turn, and what it found
      (let run := x.places.foldl (fun (r : Block × SMap Nat) p =>
          let old := r.1.readNum (x.saddr p) n
          (r.1.store (x.saddr p) (bytesOf (atomStore (x.f.mb 3 0) (x.f.mb 7 4) old (x.atomOperands p).1 (x.atomOperands p).2) n), SMap.put p old r.2))
          (b, [])
        ∃ t w' a, exec (.atoms f) s = .next t ∧ t.warp? g.core g.slot = some w' ∧ KeepsRegisters x w' ∧ OnlyCore x s t ∧ Joins x w' a ∧
          GroupGoes x w' x.next ∧ a.path = .spd ∧ a.dst = x.f.dst.toNat ∧ a.results = run.2 ∧ t.block? g.core w.block = some run.1) ∧
      ∀ p, x.places = [p] → x.f.mb 7 4 ≤ 3 → (∀ a ∈ w.accesses, a.id ≠ w.nextAccess) →
        let old := numOf ((List.range n).map (fun i => SMap.get 0 (x.saddr p + i) b.window))
        let signed := decide (x.f.mb 7 4 = 1 ∨ x.f.mb 7 4 = 3)
        let v := x.c (n / 4 * if x.f.mb 3 0 = 7 then 2 else 1) p (if x.f.mb 7 4 = 3 then .sign else .zero)
        let num (v : Nat) : Int := intOf signed (8 * n) v
        let new :=
          if x.f.mb 3 0 = 0 then (old + v) % 2 ^ (8 * n)
          else if x.f.mb 3 0 = 1 then (if num v < num old then v else old)
          else if x.f.mb 3 0 = 2 then (if num old < num v then v else old)
          else if x.f.mb 3 0 = 3 then old &&& v
          else if x.f.mb 3 0 = 4 then old ||| v
          else if x.f.mb 3 0 = 5 then old ^^^ v
          else if x.f.mb 3 0 = 6 then v
          else if x.f.mb 3 0 = 7 then (if old = v % 2 ^ (8 * n) then v / 2 ^ (8 * n) else old)
          else if x.f.mb 3 0 = 8 then (if old ≥ v then 0 else old + 1)
          else if old = 0 ∨ v < old then v else old - 1
        x.f.mb 3 0 < 10 →
        ∃ t w' a b', exec (.atoms f) s = .next t ∧ t.warp? g.core g.slot = some w' ∧ KeepsRegisters x w' ∧ OnlyCore x s t ∧ Joins x w' a ∧
          GroupGoes x w' x.next ∧ a.path = .spd ∧ a.dst = x.f.dst.toNat ∧ a.results = [(p, old)] ∧
          .accessReturn g.core g.slot a.id ∈ t.pending ∧ t.block? g.core w.block = some b' ∧
          b' = { b with window := b'.window, empty := b'.empty, poison := b'.poison } ∧
          ∀ o, SMap.get 0 o b'.window =
            if x.saddr p ≤ o ∧ o < x.saddr p + n then BitVec.ofNat 8 (new / 256 ^ (o - x.saddr p)) else SMap.get 0 o b.window

/-- R250, R251, R293, R294. BARA and BARAW add each executing lane's count to the barrier word, in ascending LID, flipping its phase and
clearing the arrivals when they reach the expected count, and mark its two words full; the access carries the old phase. BARAW goes on at once where one of its own
arrivals has completed the phase and parks otherwise; BARW goes on where the phase differs from its operand and parks otherwise (stated where nothing is to be
released and nobody else waits for the window). That a poisoned barrier word stops none of them is the model's reading (log entry 42). -/
def Obligations.Barriers : Prop :=
  ∀ f : LX,
    let arrive (v count : Nat) : Nat :=
      let expected := v % 2 ^ 16
      let arrived := v / 2 ^ 16 % 2 ^ 16 + count
      let phase := v / 2 ^ 32 % 2
      v / 2 ^ 33 * 2 ^ 33 + expected + (if expected ≤ arrived then (1 - phase) * 2 ^ 32 else phase * 2 ^ 32 + arrived * 2 ^ 16)
    let word (b : Block) (o : Nat) : Nat := numOf ((List.range 8).map (fun i => SMap.get 0 (o + i) b.window))
    let may (x : Ctx) (s : State) (b : Block) : Prop :=
      x.lanes ≠ [] ∧ s.block? x.core x.w.block = some b ∧ s.windowQuiet x.core b ∧ x.nothingToRelease s ∧
        x.saddr scalarLane % 8 = 0 ∧ x.saddr scalarLane + 8 ≤ b.length
    let arrives (i : Instr) (waits : Bool) : Prop := ∀ s g w b, Runs i s g w (late := lateBarrier) →
      let x := s.seenBy i g w
      may x s b →
      let o := x.saddr scalarLane
      -- the word after every arrival, and whether one of them has completed the phase
      let run := x.lanes.foldl (fun (r : Nat × Bool) l =>
        (arrive r.1 (x.c 1 l % 2 ^ 16), r.2 || decide (r.1 % 2 ^ 16 ≤ r.1 / 2 ^ 16 % 2 ^ 16 + x.c 1 l % 2 ^ 16))) (word b o, false)
      ∃ t w' a b', exec i s = .next t ∧ t.warp? g.core g.slot = some w' ∧ OnlyCore x s t ∧ Joins x w' a ∧ a.path = .spd ∧
        a.dst = x.f.dst.toNat ∧ a.results = [(scalarLane, word b o / 2 ^ 32 % 2)] ∧ w'.flash.valid = false ∧
        t.block? g.core w.block = some b' ∧ word b' o = run.1 ∧ b' = { b with window := b'.window, empty := b'.empty, poison := b'.poison } ∧
        (∀ k, k ∈ b'.empty ↔ k ∈ b.empty ∧ k ≠ o / 4 ∧ k ≠ o / 4 + 1) ∧
        (∀ k, k < o ∨ o + 8 ≤ k → SMap.get 0 k b'.window = SMap.get 0 k b.window) ∧
        (if waits = true ∧ run.2 = false then
          w'.park = .barrier o (decide (word b o / 2 ^ 32 % 2 = 1)) ∧ w'.lease.st = .parked
        else KeepsRegisters x w' ∧ GroupGoes x w' x.next)
    arrives (.bara f) false ∧ arrives (.baraw f) true ∧
      (∀ s g w b, Runs (.barw f) s g w →
        let x := s.seenBy (.barw f) g w
        x.lanes ≠ [] → s.block? x.core x.w.block = some b → x.saddr scalarLane % 8 = 0 → x.saddr scalarLane + 8 ≤ b.length →
        ∃ t w', exec (.barw f) s = .next t ∧ t.warp? g.core g.slot = some w' ∧ OnlyCore x s t ∧ t.block? g.core w.block = some b ∧
          (if word b (x.saddr scalarLane) / 2 ^ 32 % 2 = x.c 1 scalarLane % 2 then
            w'.park = .barrier (x.saddr scalarLane) (decide (x.c 1 scalarLane % 2 = 1)) ∧ w'.lease.st = .parked
          else KeepsRegisters x w' ∧ GroupGoes x w' x.next))

/-! ## The special-function units and the matrix unit (R110, R156, R186 to R189, R204, R221 to R241) -/

/-- R110, R156, R186, R188. The special functions, divisions and roots enter their unit with the result of the exact function rounded
once under RNE; IDIV and IREM with the truncated quotient and the remainder of the dividend's sign, the fixed results of R78 where
the divisor is 0.
The special functions are the model's fixed-point series, rounded once (log entry 21). That an instruction with no executing lane goes on
also where its unit is full is the model's reading (log entry 24). -/
def Obligations.ClassQ : Prop :=
  ∀ f : LX,
    let el (x : Ctx) (code : BitVec 8) (p : Nat) : FVal := (floatFmt x.fty).value (x.rdFloat code p)
    let sfu (i : Instr) (l32 l64 : Nat) (fn : Fmt → FVal → FRes) : Prop :=
      Enters i false (fun x => if x.fty = 1 then l64 else l32) (fun x => if x.fty = 1 then 2 else 1) (fun x p => fn (floatFmt x.fty) (el x x.f.srcA p))
    let div (i : Instr) (l32 l64 : Nat) (fn : Ctx → Nat → FRes) : Prop :=
      Enters i true (fun x => if x.fty = 1 then l64 else l32) (fun x => if x.fty = 1 then 2 else 1) fn
    let int (i : Instr) (fn : Nat → Nat → Nat → Nat) : Prop :=
      Enters i true (fun x => if intWidth x.ty = 64 then 36 else if intWidth x.ty = 32 then 20 else 12)
        (fun x => if intWidth x.ty = 64 then 2 else 1)
        (fun x p => { bits := extendInt x.ty (fn x.ty (x.rdInt x.f.srcA p) (x.rdInt x.f.srcB p)) })
    sfu (.rcp f) 18 32 (fun t v => fDiv t (.fin false 1 0) v) ∧ sfu (.rsq f) 20 34 fRsq ∧ sfu (.sqrt f) 20 34 fSqrt ∧
      sfu (.exp2 f) 22 36 fExp2 ∧ sfu (.log2 f) 22 36 fLog2 ∧ sfu (.sinpi f) 24 38 (fun t v => fSinCosPi t false v) ∧
      sfu (.cospi f) 24 38 (fun t v => fSinCosPi t true v) ∧ sfu (.tanh f) 26 40 fTanh ∧
      div (.fdiv f) 24 38 (fun x p => fDiv (floatFmt x.fty) (el x x.f.srcA p) (el x x.f.srcB p)) ∧
      div (.fsqrt f) 20 34 (fun x p => fSqrt (floatFmt x.fty) (el x x.f.srcA p)) ∧
      int (.idiv f) (fun ty a b => if b = 0 then 2 ^ intWidth ty - 1 else (((numInt ty a).tdiv (numInt ty b)) % (2 ^ intWidth ty : Nat)).toNat) ∧
      int (.irem f) (fun ty a b => if b = 0 then a else (((numInt ty a).tmod (numInt ty b)) % (2 ^ intWidth ty : Nat)).toNat)

/-- R222, R226, R227, R231, R238, R239. MMA, MMAS and MMAV. Without a gang, the operation enters the matrix unit with its operands: rows
of 48 registers in two lanes, bytes of the window, or the virtual tensor; a full sub-array makes the group wait. A ganged form waits
in the rendezvous until every member has come, and the last one enters the operation for all.
That the window's bytes are those that stand in it as the instruction enters is the model's choice (log entry 99). -/
def Obligations.MatrixMultiply : Prop :=
  ∀ f : LX,
    let rows (x : Ctx) (code blocks : Nat) : List Byte :=
      (List.range (16 * blocks)).flatMap (fun r => (List.range 48).flatMap (fun k =>
        bytesOf (x.reg (code + 24 * (r / 16) + k % 24) ((x.w.lanesByLid 0xFF).getD (2 * (r % 16) + k / 24) 0)) 4))
    let bytes (b : Block) (o n : Nat) : List Byte := (List.range n).map (fun i => SMap.get 0 (o + i) b.window)
    let multiplies (i : Instr) (kind : Nat) : Prop := ∀ s g w k, Runs i s g w (late := lateMatrix) → s.core? g.core = some k →
      quadOf g.slot < k.quads.length →
      let x := s.seenBy i g w
      let q := k.quad (quadOf g.slot)
      let b := x.window s
      let shape := x.f.mb 1 0
      let sub := x.f.mb 3 2
      let moves (w' : Warp) : Prop :=
        (∀ j, inMask g.mask j → j < w.slices.length → (w'.slice j).pc = BitVec.ofNat 48 (x.next / 4 * 4)) ∧
          ∀ y ∈ w'.groups, y.mask = g.mask → y.hold = .none ∧ x.cyc + 1 + x.f.stall.toNat ≤ y.readyAt
      (f.mb 6 6 = 0 →
        (x.lanes = [] → Reaches i x s fun _ w' => OnlyFlow x w' ∧ GroupGoes x w' x.next ∧ w'.s = x.w.s) ∧
        (x.lanes ≠ [] → (∀ o ∈ x.windowOperands, o.1 % 16 = 0 ∧ o.1 + 3072 * o.2 ≤ b.length) →
          (kind = 2 → b.poisoned x.descOffset 32 = false) →
          (q.full shape sub x.cyc = true → Stays i x s (.places shape sub)) ∧
          (q.full shape sub x.cyc = false →
            ∃ t w' k' op, exec i s = .next t ∧ t.warp? g.core g.slot = some w' ∧ t.core? g.core = some k' ∧ KeepsRegisters x w' ∧
              OnlyCore x s t ∧ moves w' ∧ (k'.quad (quadOf g.slot)).matrix = q.matrix ++ [op] ∧ op.kind = kind ∧ op.shape = shape ∧
              op.sub = sub ∧ op.fmt = x.fmt ∧ op.entered = x.cyc ∧ op.start = none ∧
              (∃ m, op.members = [m] ∧ m.slot = g.slot ∧ m.acc = x.f.dst.toNat ∧ m.tiles = List.range (if shape = 0 then 1 else 4)) ∧
              op.a = .rows (if kind = 2 then
                  (MatrixSource.virtual (x.desc b) (x.a 2 scalarLane / 2 ^ 32) (x.c 1 scalarLane)).read b (x.fmt % 16) (shapeRA shape)
                else if f.mb 4 4 = 1 then bytes b (x.a 1 scalarLane) (3072 * shapeRA shape) else rows x x.f.srcA.toNat (shapeRA shape)) ∧
              op.b = .rows (if f.mb 5 5 = 1 then bytes b (x.b 1 scalarLane) (3072 * shapeCB shape) else rows x x.f.srcB.toNat (shapeCB shape)) ∧
              (b.poison = [] → op.bad = none) ∧
              (if kind = 2 ∨ f.mb 4 4 = 1 ∨ f.mb 5 5 = 1 then ∃ a, Joins x w' a ∧ a.path = .mmx ∧ op.fetch ≠ none
               else w'.accesses = w.accesses ∧ op.fetch = none)))) ∧
      (f.mb 6 6 = 1 → (x.lanes ≠ [] → x.operandTrouble s = none) → g.slot ∈ gangSlots w.gang.toNat (quadOf g.slot) →
        (s.gangGifts x (x.gift b) = none →
          ∃ t w' l, exec i s = .next t ∧ t.warp? g.core g.slot = some w' ∧ w' = { w with groups := w'.groups, latch := some l, flash := w'.flash } ∧
            l.instr = i ∧ l.mask = g.mask ∧ ∀ y ∈ w'.groups, y.mask = g.mask → y.hold = .event) ∧
        (∀ gifts, s.gangGifts x (x.gift b) = some gifts → s.gangAgrees x gifts = true → (∀ y ∈ gifts, y.exec = true) →
          q.full shape sub x.cyc = false →
          ∃ t w' k' op, exec i s = .next t ∧ t.warp? g.core g.slot = some w' ∧ t.core? g.core = some k' ∧ moves w' ∧
            (k'.quad (quadOf g.slot)).matrix = q.matrix ++ [op] ∧ op.kind = kind ∧ op.shape = shape ∧ op.sub = sub ∧
            op.members.map (·.slot) = gifts.map (·.slot)))
    multiplies (.mma f) 0 ∧ multiplies (.mmas f) 1 ∧ multiplies (.mmav f) 2

/-- R235, R236, R237, R240, R241. MLDT asks the matrix port for sixteen rows of the window, as they stand; MSTT stores the sixteen rows of a tile, each
element in f32, f16, bf16 or the element format, and changes no other byte of the window; GANGSET of no member leaves the gang and lets those
who wait for the warp go on alone, and one of several waits until every member names it.
That MLDT takes 0xFC as its destination is the model's reading (log entry 23). -/
def Obligations.TilesAndGangs : Prop :=
  ∀ f : LX,
    let inside (b : Block) (o pitch row : Nat) : Prop :=
      o % 16 = 0 ∧ pitch % 16 = 0 ∧ row ≤ pitch ∧ pitch ≤ 65520 ∧ o + 15 * pitch + row ≤ b.length
    (∀ s g w k b, Runs (.mldt f) s g w (late := lateTile .mmx) → s.core? g.core = some k → quadOf g.slot < k.quads.length →
      s.block? g.core w.block = some b →
      let x := s.seenBy (.mldt f) g w
      let row := if f.mb 0 0 = 1 then 64 else 192
      x.lanes ≠ [] → inside b (x.a 1 scalarLane) (x.b 1 scalarLane) row →
      ∃ t w' k' a op, exec (.mldt f) s = .next t ∧ t.warp? g.core g.slot = some w' ∧ t.core? g.core = some k' ∧ KeepsRegisters x w' ∧
        OnlyCore x s t ∧ GroupGoes x w' x.next ∧ t.block? g.core w.block = some b ∧ Joins x w' a ∧ a.path = .mmx ∧ a.dst = x.f.dst.toNat ∧
        a.regs = row / 8 ∧ (k'.quad (quadOf g.slot)).matrix = (k.quad (quadOf g.slot)).matrix ++ [op] ∧ op.kind = 3 ∧
        op.tile = (x.a 1 scalarLane, x.b 1 scalarLane, row) ∧ op.block = w.block ∧ op.fetch ≠ none ∧ (b.poison = [] → op.bad = none) ∧
        op.a = .rows ((List.range 16).flatMap (fun i => (List.range row).map (fun c => SMap.get 0 (x.a 1 scalarLane + i * x.b 1 scalarLane + c) b.window))) ∧
        ∃ m, op.members = [m] ∧ m.slot = g.slot ∧ m.access = some a.id) ∧
    (∀ s g w b, Runs (.mstt f) s g w (late := lateMstt) → s.block? g.core w.block = some b → s.windowQuiet g.core b →
      let x := s.seenBy (.mstt f) g w
      let o := x.b 1 scalarLane
      let pitch := x.c 1 scalarLane
      let ty := f.mb 1 0
      let bits := if ty = 0 then 32 else if ty = 3 then elemBits (x.fmt % 16) else 16
      let field := if ty = 1 then 1 else if ty = 2 then 2 else elemModeField (x.fmt % 16)
      let round := if f.mb 4 2 = 7 then modeRound x.mode field else f.mb 4 2
      let sat := if f.mb 4 2 = 7 then modeSat x.mode field else decide (f.mb 5 5 = 1)
      let word (i j : Nat) : Nat := x.reg (x.f.srcA.toNat + j % 8) ((x.w.lanesByLid 0xFF).getD (2 * i + j / 8) 0)
      let element (i j : Nat) : Nat :=
        if ty = 0 then word i j
        else if ty = 1 then (convert .f16 round sat (Fmt.f32.value (word i j))).bits
        else if ty = 2 then (convert .bf16 round sat (Fmt.f32.value (word i j))).bits
        else (toElem (x.fmt % 16) round sat (Fmt.f32.value (word i j))).bits
      let rowNum (i : Nat) : Nat := ((List.range 16).map (fun j => element i j % 2 ^ bits * 2 ^ (bits * j))).sum
      x.lanes ≠ [] → inside b o pitch (2 * bits) → (∀ a ∈ w.accesses, a.id ≠ w.nextAccess) →
      ∃ t w' a b', exec (.mstt f) s = .next t ∧ t.warp? g.core g.slot = some w' ∧ KeepsRegisters x w' ∧ OnlyCore x s t ∧ GroupGoes x w' x.next ∧
        t.block? g.core w.block = some b' ∧ Joins x w' a ∧ a.path = .spd ∧
        b' = { b with window := b'.window, empty := b'.empty, poison := b'.poison } ∧
        (∀ i c, i < 16 → c < 2 * bits → SMap.get 0 (o + i * pitch + c) b'.window = BitVec.ofNat 8 (rowNum i / 256 ^ c)) ∧
        (∀ k, (∀ i, i < 16 → k < o + i * pitch ∨ o + i * pitch + 2 * bits ≤ k) → SMap.get 0 k b'.window = SMap.get 0 k b.window)) ∧
    (∀ s g w, Runs (.gangset f) s g w (late := lateGangset) →
      let x := s.seenBy (.gangset f) g w
      let n := x.a 1 scalarLane
      let v := n / 2 ^ 27 % 8 * 2 ^ 27 + n % 2 ^ 24
      let count := n / 2 ^ 27 % 8
      let members := (List.range count).map (fun k => 16 * (g.slot / 16) + n / 16 ^ k % 16)
      let here (m : Nat) : Prop := ∃ p, s.warp? g.core m = some p ∧ p.block = w.block ∧ p.over = false
      let names (m : Nat) : Prop := ∃ p l, s.warp? g.core m = some p ∧ p.latch = some l ∧ l.ganging = some v
      x.lanes ≠ [] → w.latch = none → w.over = false →
      (count = 0 → (w.gang = 0 ∨ g.slot ∈ gangSlots w.gang.toNat (quadOf g.slot)) →
        ∃ t w', exec (.gangset f) s = .next t ∧ t.warp? g.core g.slot = some w' ∧ w'.gang = 0 ∧ HoldsScalars x w' 1 0 ∧ GroupGoes x w' x.next ∧
          (w.gang = 0 → ∀ m p l u, quadOf m = quadOf g.slot → s.warp? g.core m = some p → p.latch = some l → l.ganging = some u →
            g.slot ∈ gangSlots u (quadOf g.slot) → ∃ p', t.warp? g.core m = some p' ∧ p'.latch = none ∧ p'.gang = 0)) ∧
      (count ≠ 0 → (∀ m ∈ members, m ≠ g.slot → here m) → (∃ m ∈ members, m ≠ g.slot ∧ ¬names m) →
        ∃ t w' l, exec (.gangset f) s = .next t ∧ t.warp? g.core g.slot = some w' ∧ l.instr = .gangset f ∧ l.ganging = some v ∧
          w' = { w with groups := w'.groups, latch := some l, flash := w'.flash } ∧ ∀ y ∈ w'.groups, y.mask = g.mask → y.hold = .event) ∧
      (count ≠ 0 → (∀ m ∈ members, m ≠ g.slot → here m ∧ names m) →
        ∃ t w', exec (.gangset f) s = .next t ∧ t.warp? g.core g.slot = some w' ∧ w'.latch = none ∧
          (∀ k, members[k]? = some g.slot → w'.gang = BitVec.ofNat 32 (v + k * 2 ^ 24) ∧ HoldsScalars x w' 1 (v + k * 2 ^ 24)) ∧ GroupGoes x w' x.next))

/-- R204, R205, R206. WFUSE with its path counters at 0: alone, where its partner's slot holds no warp of its block, it sets bit 9 of
dst; where the partner waits for it, the kept lanes of the lower slot come first and fill the lower warp, 32 at most.
The order of the kept lanes is the model's choice (log entry 85). -/
def Obligations.Fusion : Prop :=
  ∀ (f : LX) (s : State) (g : Selected) (w : Warp), Runs (.wfuse f) s g w (late := lateWfuse) →
    let x := s.seenBy (.wfuse f) g w
    let partner := x.b 1 scalarLane
    let mine := (x.lanes.filter (fun l => x.pd l x.f.srcA.toNat)).map w.lane
    x.vectorBusy s = false → w.paths.allZero = true → w.undelivered = [] → w.latch = none →
    ((∀ p, s.warp? g.core partner = some p → p.block ≠ w.block) →
      ∃ t w', exec (.wfuse f) s = .next t ∧ t.warp? g.core g.slot = some w' ∧ w'.latch = none ∧ GroupGoes x w' x.next ∧
        HoldsScalars x w' 1 (2 ^ 9 + (w.lanes.filter (fun l => !l.exited)).length) ∧ w'.lanes = w.lanes) ∧
    (∀ p l, s.warp? g.core partner = some p → p.block = w.block → p.latch = some l → l.fusing = true → l.partner = g.slot →
      p.undelivered = [] → p.lanes.length = 32 → w.lanes.length = 32 →
      let theirs := (l.vals.drop 3).map p.lane
      let list := if g.slot < partner then mine ++ theirs else theirs ++ mine
      let n := max (x.c 1 scalarLane) (l.vals.getD 1 0)
      let filled (w' : Warp) (list : List Lane) : Prop := ∀ i, i < 32 →
        (w'.lane i).lid.toNat = i ∧ (∀ k, list[i]? = some k → (w'.lane i).exited = false ∧ (w'.lane i).nest = 0 ∧ (w'.lane i).p = k.p ∧
          ∀ r, SMap.get 0 r (w'.lane i).v = if r < n then SMap.get 0 r k.v else 0) ∧ (list[i]? = none → (w'.lane i).exited = true)
      ∃ t a b, exec (.wfuse f) s = .next t ∧ t.warp? g.core (min g.slot partner) = some a ∧ t.warp? g.core (max g.slot partner) = some b ∧
        filled a list ∧ (∀ y ∈ a.groups, x.cyc + 4 + n ≤ y.readyAt) ∧
        (if list.length ≤ 32 then b.groups = [] else filled b (list.drop 32) ∧ ∀ y ∈ b.groups, x.cyc + 4 + n ≤ y.readyAt))

/-! ## Regions, queues and the copy engine (R303 to R326, R350 to R374) -/

/-- R309, R317, R318, R325, R326. RGBEG begins a region or deepens it, or aborts it at the eighth level; RGEND lowers the depth, and at depth 1
commits at ALO where the region has no entry, or visits the first bank that holds one; RGABT and an emptied interval set the abort on its way;
RGBND and RGST read the bounds, the status and the counts. Nothing else of the warp or of the machine changes. The latch is stated where no
earlier result is on its way to it, and the commit where RGEND has nothing to release. -/
def Obligations.Regions : Prop :=
  ∀ f : LX,
    let offset : Int := match f.lit with | some l => l.toInt | none => (f.srcC ++ f.srcB ++ f.srcA : BitVec 24).toInt
    (∀ s g w, Runs (.rgbeg f) s g w (late := lateGanged) →
      let x := s.seenBy (.rgbeg f) g w
      let r := w.region
      (r.depth = 0 → w.paths.ldg = 0 → w.paths.stg = 0 → w.paths.peer = 0 →
        Reaches (.rgbeg f) x s fun _ w' => GroupGoes x w' x.next ∧ OnlyRegion x w' ∧ w'.s = w.s ∧ w'.region =
          { r with
            epoch := (r.epoch + 1) % 128, alo := 1, ahi := 0xFFFFFFFFFFFFFFFF, st := 1, rigid := decide (f.mb 0 0 = 1), depth := 1, reason := 0,
            detail := 0, partners := [], part := 0, cause := none, reads := [], writes := [], toVisit := [], granted := [], floor := 0, ceiling := 0,
            target := BitVec.ofInt 48 (x.pc + 4 * offset), latchRigid := decide (f.mb 0 0 = 1),
            latchFmt := w'.region.latchFmt, latch := w'.region.latch } ∧
          (w.undelivered = [] → w'.region.latchFmt = w.fmtOf g.mask ∧
            w'.region.latch = w.lanes.map (fun l => { p := l.p, nest := l.nest, exited := l.exited }))) ∧
      (r.depth = 0 → (w.paths.ldg ≠ 0 ∨ w.paths.stg ≠ 0 ∨ w.paths.peer ≠ 0) → Reaches (.rgbeg f) x s fun _ w' =>
        w' = { w with groups := w'.groups, flash := { w.flash with valid := false } } ∧ ∀ y ∈ w'.groups, y.mask = g.mask → y.hold = .regionStart) ∧
      (0 < r.depth → r.depth < 7 → Reaches (.rgbeg f) x s fun _ w' =>
        GroupGoes x w' x.next ∧ OnlyRegion x w' ∧ w'.region = { r with depth := r.depth + 1 } ∧ w'.s = w.s) ∧
      (7 ≤ r.depth → Reaches (.rgbeg f) x s fun t w' => w' = { w with region := { r with cause := some (r.cause.getD (9, 0)) } } ∧
        .regionAbort g.core g.slot ∈ t.pending)) ∧
    (∀ s g w, Runs (.rgend f) s g w (late := lateGanged) →
      let x := s.seenBy (.rgend f) g w
      let r := w.region
      (r.depth = 0 → Reaches (.rgend f) x s fun _ w' => GroupGoes x w' x.next ∧ OnlyRegion x w' ∧ w'.region = r ∧ w'.s = w.s) ∧
      (2 ≤ r.depth → Reaches (.rgend f) x s fun _ w' =>
        GroupGoes x w' x.next ∧ OnlyRegion x w' ∧ w'.region = { r with depth := r.depth - 1 } ∧ w'.s = w.s) ∧
      (r.depth = 1 → w.accesses = [] → w.collapses = 0 →
        (∀ k, s.core? g.core = some k → ∀ l ∈ k.l1, l.tenant = w.tenant → l.lock = none → l.dirty = 0) →
        (∀ e ∈ s.caldera.requests, ∀ rel, e.2.kind = .write rel → ¬(e.2.core = g.core ∧ e.2.tenant = w.tenant)) → r.granted = [] → r.floor = 0 → r.alo.toNat ≤ r.ahi.toNat →
        (s.banksOf (regionId g.core g.slot r.epoch) = [] →
          ∃ t w', exec (.rgend f) s = .next t ∧ t.warp? g.core g.slot = some w' ∧ OnlyCore x s t ∧ GroupGoes x w' x.next ∧
            OnlyRegion x w' ∧ HoldsScalars x w' 2 r.alo.toNat ∧
            w'.region = { r with
              st := 3, depth := 0, partners := [], part := 0, reason := 0, detail := 0, cause := none, reads := [], writes := [], toVisit := [],
              granted := [], floor := 0, ceiling := 0, commits := (r.commits + 1) % 2 ^ 32 } ∧
            (∀ k, t.core? g.core = some k → ∀ l ∈ k.l1, l.lock ≠ some g.slot) ∧
            ∀ q ∈ r.partners, .finalAtPartner q.region (regionId g.core g.slot r.epoch) r.alo.toNat ∈ t.pending) ∧
        (∀ b rest, s.banksOf (regionId g.core g.slot r.epoch) = b :: rest →
          ∃ t w', exec (.rgend f) s = .next t ∧ t.warp? g.core g.slot = some w' ∧ OnlyCore x s t ∧
            w' = { w with
              groups := w'.groups, flash := { w.flash with valid := false },
              region := { r with st := 2, toVisit := b :: rest, granted := [], floor := 0, ceiling := 2 ^ 64 - 1 } } ∧
            .commitVisit (regionId g.core g.slot r.epoch) b ∈ t.pending ∧ ∀ y ∈ w'.groups, y.mask = g.mask → y.hold = .event))) ∧
    (∀ s g w, Runs (.rgabt f) s g w →
      let x := s.seenBy (.rgabt f) g w
      Reaches (.rgabt f) x s fun t w' => GroupGoes x w' x.next ∧ OnlyRegion x w' ∧ w'.s = w.s ∧
        (if x.lanes ≠ [] ∧ 0 < w.region.depth then
          w'.region = { w.region with cause := some (w.region.cause.getD (6, x.a 1 scalarLane % 256)) } ∧ .regionAbort g.core g.slot ∈ t.pending
         else w'.region = w.region)) ∧
    (∀ s g w, Runs (.rgbnd f) s g w →
      let x := s.seenBy (.rgbnd f) g w
      Reaches (.rgbnd f) x s fun _ w' => GroupGoes x w' x.next ∧ OnlyFlow x w' ∧
        (if x.lanes = [] then w'.s = w.s else HoldsScalars x w' 4 (w.region.alo.toNat + 2 ^ 64 * w.region.ahi.toNat))) ∧
    (∀ s g w, Runs (.rgnar f) s g w →
      let x := s.seenBy (.rgnar f) g w
      let top := min w.region.ahi.toNat (x.a 2 scalarLane % 2 ^ 64)
      Reaches (.rgnar f) x s fun t w' => GroupGoes x w' x.next ∧ OnlyRegion x w' ∧ w'.s = w.s ∧
        (if x.lanes ≠ [] ∧ 0 < w.region.depth then
          w'.region = { w.region with
            ahi := BitVec.ofNat 64 top,
            cause := if top < w.region.alo.toNat then some (w.region.cause.getD (1, 0)) else w.region.cause } ∧
          (top < w.region.alo.toNat → .regionAbort g.core g.slot ∈ t.pending)
         else w'.region = w.region)) ∧
    (∀ s g w, Runs (.rgst f) s g w →
      let x := s.seenBy (.rgst f) g w
      let n := f.mb 3 0
      Reaches (.rgst f) x s fun _ w' => GroupGoes x w' x.next ∧ OnlyFlow x w' ∧
        (if x.lanes = [] then w'.s = w.s
         else HoldsScalars x w' 1 (if n = 0 then w.region.ars else if n ≤ 9 then SMap.get 0 n w.region.aborts else w.region.commits)))

/-- R366 to R370. The queue instructions, where nothing is to be released and their header stands: LAUNCH moves the queue's tail by its
children and returns their number; QPUSH sends its records to the header in ascending LID and holds its group; QPOP asks the header for
a record in each lane, or, marked for reassignment, returns REA in every lane; QCLOSE sets CLOSED and wakes who is parked on the queue.
Records are read as loads read them, the model's reading (log entry 59). -/
def Obligations.QueueInstructions : Prop :=
  ∀ f : LX,
    (∀ s g w l s1, Runs (.launch f) s g w (late := lateLaunch) →
      let x := s.seenBy (.launch f) g w
      let q := x.c 1 scalarLane
      let n := x.children.length
      let queue := (s.tenant w.tenant).queue q
      x.lanes ≠ [] → x.launchParts s.begun x.children = .ok l → x.paged s (l.map (·.2.1)) s1 → x.nothingToRelease s1 →
      -- no line of a record or of the ring is held back, no record is another module's, the queue has room
      (∀ e ∈ l, s.remote e.2.2 = false ∧ (cached e.2.2 = true → s1.spanStops e.2.2 128 false w.tenant = none)) → s1.ringStops w.tenant q n = none →
      queue.held + n ≤ queue.size →
      ∃ t w' a, exec (.launch f) s = .next t ∧ t.warp? g.core g.slot = some w' ∧ KeepsRegisters x w' ∧ GroupGoes x w' x.next ∧ Joins x w' a ∧
        a.path = .stg ∧ a.dst = x.f.dst.toNat ∧ a.results = [(scalarLane, n)] ∧ a.needs = [] ∧
        ((t.tenant w.tenant).queue q).tail = queue.tail + BitVec.ofNat 32 n ∧ ((t.tenant w.tenant).queue q).head = queue.head ∧
        .launchRecordTake ∈ t.pending) ∧
    (∀ s g w pa h ring s1, Runs (.qpush f) s g w (late := lateHeader true .stg) →
      let x := s.seenBy (.qpush f) g w
      x.lanes ≠ [] → x.header s.begun true = .ok pa h ring → x.paged s [x.a 2 scalarLane] s1 → x.nothingToRelease s1 →
      ∃ t w' a m, exec (.qpush f) s = .next t ∧ t.warp? g.core g.slot = some w' ∧ KeepsRegisters x w' ∧ Joins x w' a ∧ a.path = .stg ∧
        SMap.get? s.launches.nextMessage t.launches.messages = some m ∧ .stagePush s.launches.nextMessage ∈ t.pending ∧
        m.op = 0 ∧ m.header = pa ∧ m.ring = ring ∧ m.access = a.id ∧ m.core = g.core ∧ m.slot = g.slot ∧
        m.lanes = x.lanes.map (fun l => (l, x.c (if f.mb 0 0 = 1 then 32 else 16) l)) ∧
        (∀ y ∈ w'.groups, y.mask = g.mask → y.hold = .event) ∧ t.mem = s.mem) ∧
    (∀ s g w pa h ring s1, Runs (.qpop f) s g w (late := lateHeader true .ldg) →
      let x := s.seenBy (.qpop f) g w
      x.lanes ≠ [] → x.paged s [x.a 2 scalarLane] s1 → (∀ a ∈ w.accesses, a.id ≠ w.nextAccess) → x.header s.begun true = .ok pa h ring →
      ∃ t w' a, exec (.qpop f) s = .next t ∧ t.warp? g.core g.slot = some w' ∧ KeepsRegisters x w' ∧ Joins x w' a ∧ a.path = .ldg ∧
        a.dst = x.f.dst.toNat ∧ a.results = [] ∧ t.mem = s.mem ∧
        (if w.reassign = true then
          a.preds = x.lanes.flatMap (fun l => [(l, f.mb 3 1, false), (l, f.mb 6 4, false), (l, f.mb 9 7, true)]) ∧ GroupGoes x w' x.next ∧
            .accessReturn g.core g.slot a.id ∈ t.pending
         else ∃ m, SMap.get? s.launches.nextMessage t.launches.messages = some m ∧ .stagePop s.launches.nextMessage ∈ t.pending ∧
          m.op = 1 ∧ m.header = pa ∧ m.ring = ring ∧ m.access = a.id ∧ m.lanes = x.lanes.map (fun l => (l, 0)) ∧
          ∀ y ∈ w'.groups, y.mask = g.mask → y.hold = .event)) ∧
    (∀ s g w pa h ring s1, Runs (.qclose f) s g w (late := lateHeader false .stg) →
      let x := s.seenBy (.qclose f) g w
      x.lanes ≠ [] → w.park = .none → x.header s.begun false = .ok pa h ring → x.paged s [x.a 2 scalarLane] s1 → x.nothingToRelease s1 →
      s1.lineStops (lineOf pa) true = false →
      ∃ t w' a, exec (.qclose f) s = .next t ∧ t.warp? g.core g.slot = some w' ∧ KeepsRegisters x w' ∧ GroupGoes x w' x.next ∧ Joins x w' a ∧
        a.path = .stg ∧ a.needs = [] ∧ Memory.readNum t.mem pa 128 = h ||| 2 ^ 96 ∧
        (∀ b, b < pa ∨ pa + 128 ≤ b → Memory.read t.mem b = Memory.read s.mem b) ∧
        ∀ c p v, (c ≠ g.core ∨ p ≠ g.slot) → s1.warp? c p = some v → v.park = .queue pa → v.behind = [] →
          ∃ v', t.warp? c p = some v' ∧ v'.park = .none ∧ v'.lease.st = .waiting)

/-- R366, R371, R372, R373. A command whose descriptor stands enters its quadrant's share of the engine's queue with its bases and the
descriptor as read, and counts on XEN; with four commands of the quadrant there its group waits. FCINC adds to a counter and returns the old
value; FCWAIT goes on where the counter has reached its threshold, and parks else. -/
def Obligations.EngineAndCounters : Prop :=
  ∀ f : LX,
    let command (i : Instr) (op : Nat) : Prop := ∀ s g w k d s1, Runs i s g w (late := lateEngine) → s.core? g.core = some k →
      let x := s.seenBy i g w
      x.lanes ≠ [] → x.descriptor s.begun = .ok d → x.paged s [x.a 2 scalarLane, x.a 2 scalarLane + 159] s1 →
      ((k.engineOf (quadOf g.slot)).length < 4 →
        ∃ t w' k' a e, exec i s = .next t ∧ t.warp? g.core g.slot = some w' ∧ t.core? g.core = some k' ∧ KeepsRegisters x w' ∧
          GroupGoes x w' x.next ∧ Joins x w' a ∧ a.path = .xen ∧ t.mem = s.mem ∧ k'.engine = k.engine ++ [e] ∧ e.slot = g.slot ∧
          e.access = a.id ∧ e.op = op ∧ e.desc = bytesOf d 160 ∧ e.flags = f.mb 1 0 ∧ e.next = 0 ∧ e.stage = 0 ∧ e.done = false ∧
          e.src = (d % 2 ^ 64 + x.b 2 scalarLane) % 2 ^ 64 ∧ e.dst = (d / 2 ^ 64 % 2 ^ 64 + x.c 2 scalarLane) % 2 ^ 64 ∧
          .engineCommand g.core (quadOf g.slot) ∈ t.pending) ∧
      (4 ≤ (k.engineOf (quadOf g.slot)).length →
        ∃ t w', exec i s = .next t ∧ t.warp? g.core g.slot = some w' ∧ KeepsRegisters x w' ∧ w'.accesses = w.accesses ∧
          (∀ y ∈ w'.groups, y.mask = g.mask → y.hold = .engineFull))
    command (.xcopy f) 0 ∧ command (.xgath f) 1 ∧ command (.xscat f) 2 ∧ command (.xred f) 3 ∧ command (.xfill f) 4 ∧
    (∀ s g w, Runs (.fcinc f) s g w (late := lateFence [.stg]) →
      let x := s.seenBy (.fcinc f) g w
      let c := x.a 1 scalarLane
      let old (s : State) (t k : Nat) : DWord := SMap.get 0 k (s.tenant t).fences
      x.lanes ≠ [] → w.park = .none → w.behind = [] → x.nothingToRelease s →
      ∃ t w' a, exec (.fcinc f) s = .next t ∧ t.warp? g.core g.slot = some w' ∧ KeepsRegisters x w' ∧ GroupGoes x w' x.next ∧ Joins x w' a ∧
        a.path = .stg ∧ a.dst = x.f.dst.toNat ∧ a.regs = 2 ∧ a.results = [(scalarLane, (old s w.tenant c).toNat)] ∧ a.needs = [] ∧
        old t w.tenant c = old s w.tenant c + BitVec.ofNat 64 (x.b 1 scalarLane) ∧
        (∀ v k, v ≠ w.tenant ∨ k ≠ c → old t v k = old s v k) ∧ t.mem = s.mem) ∧
    (∀ s g w, Runs (.fcwait f) s g w (late := lateFence []) →
      let x := s.seenBy (.fcwait f) g w
      let c := x.a 1 scalarLane
      let value : Nat := (SMap.get 0 c (s.tenant w.tenant).fences : DWord).toNat
      x.lanes ≠ [] →
      ∃ t w', exec (.fcwait f) s = .next t ∧ t.warp? g.core g.slot = some w' ∧ OnlyCore x s t ∧
        (if x.b 2 scalarLane ≤ value then KeepsRegisters x w' ∧ GroupGoes x w' x.next
         else w'.lease.st = .parked ∧ w'.park = .fence c (x.b 2 scalarLane)))

/-! ## Exceptions, caches, tables, contexts (R393 to R422, R436 to R443) -/

/-- R416 to R422, R437, R438, R440. TRAP and BKPT enter the handler with EPC, ESTAT, ECAUSE and EVAL, after an active region has been
aborted and once older writes are done; without a handler, or in one, the warp ends. ERET goes back to EPC in user mode and releases the
held groups; HALT ends the warp, posts a record and fails its launch; a privileged instruction in user mode raises Privilege.
The PC and LID of HALT's record are the model's choice (log entry 31), as is that a record is written at once only where its slot's line
can be written (log entry 108). -/
def Obligations.TrapsAndReturn : Prop :=
  ∀ f : LX,
    let failed (s t : State) (w : Warp) : Prop := ∀ l, SMap.get? w.launch s.launches.launches = some l →
      SMap.get? w.launch t.launches.launches = some { l with failed := true }
    -- the warp issues nothing more; what other groups have issued goes on (R417, R422)
    let ended (mask : BitVec 8) (w w' : Warp) (cause pc lid : Nat) : Prop :=
      w' = { w with ending := some (cause, pc, lid), trap := none, groups := w'.groups, park := .none, behind := [], latch := none } ∧
        ∀ q, q ∈ w'.groups ↔ q ∈ w.groups ∧ q.prog.stage ≠ 0 ∧ q.mask ≠ mask ∧ w.park = .none ∧ w.behind = [] ∧
          ∀ l, w.latch = some l → l.mask ≠ q.mask
    let traps (i : Instr) (cause : Nat) (epc : Ctx → Nat) : Prop := ∀ s g w, Runs i s g w →
      let x := s.seenBy i g w
      let code := f.mb 11 0
      (x.lanes = [] → Reaches i x s fun _ w' => OnlyFlow x w' ∧ GroupGoes x w' x.next ∧ w'.s = w.s) ∧
      (x.lanes ≠ [] → s.noOlder g.core g.slot → w.special.priv = false → s.vector w ≠ 0 →
        ∃ t w', exec i s = .next t ∧ t.warp? g.core g.slot = some w' ∧
          (w.region.active = false → OnlyTrap g.core g.slot (s.begun.countIssue x) t ∧ AtHandler g.mask w w' (s.vector w) (epc x) code cause) ∧
          (w.region.active = true →
            -- the region is aborted first: every slice that is not retired then belongs to one group at the handler
            ∃ m : BitVec 8, (∀ k, k < 8 → (inMask m k = true ↔ w'.retired k = false)) ∧ w'.groups = [{ mask := m }] ∧
              (∀ l, l < w.lanes.length → w'.lane l = { w.lane l with
                p := (w.region.latch.getD l {}).p ||| 1, nest := (w.region.latch.getD l {}).nest, exited := (w.region.latch.getD l {}).exited }) ∧
              (∀ k, k < w.slices.length → inMask m k = true →
                w'.slice k = { pc := BitVec.ofNat 48 (s.vector w / 4 * 4), fmt := w.region.latchFmt }) ∧
              w'.special = { w.special with
                priv := true, epc := BitVec.ofNat 64 (w.region.target.toNat / 4 * 4), estat := BitVec.ofNat 32 (m.toNat * 2 ^ 16),
                ecause := BitVec.ofNat 32 cause, eval := BitVec.ofNat 64 code } ∧
              -- an abort cause that has arrived before is the one recorded (R322)
              (let first := w.region.cause.getD (7, cause)
               w'.region.depth = 0 ∧ w'.region.st = 4 ∧ w'.region.reason = first.1 ∧ w'.region.detail = first.2 % 256 ∧
                 SMap.get 0 first.1 w'.region.aborts = min (SMap.get 0 first.1 w.region.aborts + 1) 65535) ∧
              (∀ k, t.core? g.core = some k → ∀ l ∈ k.l1, l.lock ≠ some g.slot))) ∧
      (x.lanes ≠ [] → ¬s.noOlder g.core g.slot → ∃ t w', exec i s = .next t ∧ t.warp? g.core g.slot = some w' ∧
        OnlyTrap g.core g.slot (s.begun.countIssue x) t ∧ w' = { w.abortCause abFault cause with
          trap := some ⟨g.mask, x.pc, cause, epc x, BitVec.ofNat 64 code, false, 0, false, 0, 0⟩ }) ∧
      (x.lanes ≠ [] → s.noOlder g.core g.slot → w.region.active = false → (w.special.priv = true ∨ s.vector w = 0) →
        (∀ a ∈ w.accesses, 0 ∉ a.needs) →
        ∃ t w', exec i s = .next t ∧ t.warp? g.core g.slot = some w' ∧ ended g.mask w w' cause x.pc 0 ∧ failed s t w ∧
          (w.paths.allZero = true → w'.groups = [] → .warpEnd g.core g.slot ∈ t.pending))
    let privileged (i : Instr) (late : Ctx → State → Late) : Prop := ∀ s g w, Starts i late s g w → s.noOlder g.core g.slot →
      w.special.priv = false → w.region.active = false → s.vector w ≠ 0 →
      ∃ t w', exec i s = .next t ∧ t.warp? g.core g.slot = some w' ∧ OnlyTrap g.core g.slot s.begun t ∧
        AtHandler g.mask w w' (s.vector w) (s.seenBy i g w).pc i.evalWords.toNat 0x04
    traps (.trap f) 0x0E (·.next) ∧ traps (.bkpt f) 0x0F (·.pc) ∧
    (∀ s g w, Runs (.eret f) s g w (late := lateEret) → w.undelivered = [] →
      let x := s.seenBy (.eret f) g w
      Reaches (.eret f) x s fun _ w' =>
        w' = { w with
          slices := w'.slices, groups := w'.groups, special := { w.special with priv := false },
          lease := { w.lease with run := w.lease.run + 1 }, preempt := w.preempt.map (· + 1) } ∧
        (∀ k, w'.slice k = { w.slice k with
          pc := if inMask g.mask k ∧ k < w.slices.length then BitVec.ofNat 48 (bitsOf w.special.epc.toNat 47 2 * 4) else (w.slice k).pc }) ∧
        w'.groups = w.groups.map (fun q =>
          { (if q.mask = g.mask then { q with readyAt := x.cyc + 1 + x.f.stall.toNat, hold := .none, prog := {} } else q) with held := false })) ∧
    (∀ s g w, Starts (.eret f) lateEret s g w → w.undelivered = [] → w.special.priv = true → s.noOlder g.core g.slot →
      w.region.active = false → (∀ a ∈ w.accesses, 0 ∉ a.needs) → g.mask.toNat ≠ bitsOf w.special.estat.toNat 23 16 →
      ∃ t w', exec (.eret f) s = .next t ∧ t.warp? g.core g.slot = some w' ∧
        ended g.mask w w' 0x0C (s.seenBy (.eret f) g w).pc 0 ∧ failed s t w) ∧
    (∀ s g w k, Runs (.halt f) s g w → s.core? g.core = some k → w.undelivered = [] → w.region.active = false → (∀ a ∈ w.accesses, 0 ∉ a.needs) →
      let x := s.seenBy (.halt f) g w
      let tn := s.tenant w.tenant
      let code := w.special.ecause.toNat % 256
      let lid := bitsOf w.special.estat.toNat 15 11
      (x.lanes = [] → Reaches (.halt f) x s fun _ w' => OnlyFlow x w' ∧ GroupGoes x w' x.next ∧ w'.s = w.s) ∧
      (x.lanes ≠ [] → ∃ t w', exec (.halt f) s = .next t ∧ t.warp? g.core g.slot = some w' ∧ ended g.mask w w' code x.pc lid ∧ failed s t w ∧
        (w.paths.allZero = true → w'.groups = [] → .warpEnd g.core g.slot ∈ t.pending) ∧
        (tn.fqOn = false → t.mem = s.mem ∧ t.tenant w.tenant = { tn with fqLost := satInc tn.fqLost }) ∧
        -- its record of TYPE 2 (R360)
        (∀ pa pte, tn.fqOn = true → tn.fqFull = false → tn.lostSince = 0 → tn.fqWait = [] →
          s.begun.translate 0 w.tenant (tn.fqBase.toNat + 64 * (tn.fqTail.toNat % tn.fqSize)) .write true = .ok pa pte →
          cached pa = true → s.slotOpen pa = true →
          t.tenant w.tenant = { tn with fqTail := tn.fqTail + 1 } ∧ (∀ b, b < pa ∨ pa + 64 ≤ b → Memory.read t.mem b = Memory.read s.mem b) ∧
          Memory.readNum t.mem pa 64 =
            (if tn.fqTail.toNat / tn.fqSize % 2 = 0 then 1 else 0) + w.tenant % 16 * 2 ^ 24 + 2 * 2 ^ 28 + code * 2 ^ 216 + lid * 2 ^ 229 +
              g.slot % 64 * 2 ^ 234 + k.lnum % 2 ^ 16 * 2 ^ 240 + s.cyc g.core % 2 ^ 32 * 2 ^ 320 + s.modul.mgen.toNat * 2 ^ 352 + x.pc * 2 ^ 400))) ∧
    privileged (.eret f) lateEret ∧ privileged (.halt f) noLate ∧ privileged (.tlbinvPage f) noLate ∧ privileged (.tlbinvAll f) noLate ∧
      privileged (.tlbinvGlob f) lateGlob ∧ privileged (.tblrd f) (lateTable false) ∧ privileged (.tblwr f) (lateTable true) ∧
      privileged (.cctlEvict f) noLate ∧ privileged (.ctxsv f) noLate ∧ privileged (.ctxld f) noLate ∧
    -- TRAP_ENTRY: a trap that waited for older writes
    (∀ (s : State) (c p : Nat) (w : Warp) (d : PendingTrap), s.warp? c p = some w → w.trap = some d → d.perLane = false → d.lid = 0 → d.deferred = false →
      d.source = 0 → d.access = 0 → d.cause ≠ 0x0B → d.cause < 256 → s.noOlder c p → w.region.active = false → w.special.priv = false → s.vector w ≠ 0 →
      ∃ t w', exec (.trapEntry c p) s = .next t ∧ t.warp? c p = some w' ∧ OnlyTrap c p (s.taken (.trapEntry c p)) t ∧
        AtHandler d.mask w w' (s.vector w) d.epc d.eval.toNat d.cause)

/-- R93, R411, R412. TLBINV with nothing to release removes the translations that it names from every TLB and translation cache, and goes
on unless an access of the tenant that has used one of them is in flight, a copy-engine request to a peer and a MONW's check among them; CCTL empties the instruction cache, writes the tenant's dirty bytes back, drops its lines
with .l1inv, one line with .linewb, and with .evict takes that line out of Caldera where it may leave.
That a flush sends its lines at once, and which accesses in flight TLBINV waits for, are the model's (log entries 34 and 48). -/
def Obligations.CacheAndTlb : Prop :=
  ∀ f : LX,
    let writes (t : State) (c tenant : Nat) (line : Option Nat) : Prop := ∃ e ∈ t.caldera.requests, ∃ rel, e.2.kind = .write rel ∧
      e.2.core = c ∧ e.2.tenant = tenant ∧ ∀ n, line = some n → e.2.line = n
    -- a write of a line's dirty bytes is on its way
    let sent (t : State) (c : Nat) (l : L1Line) : Prop := ∃ id r rel, SMap.get? id t.caldera.requests = some r ∧ r.kind = .write rel ∧ r.core = c ∧
      r.tenant = l.tenant ∧ r.line = l.line ∧ r.ack = true ∧
      (∀ b, b < 128 → SMap.get? (128 * l.line + b) r.bytes = if l.dirty.getLsbD b then some (l.data.extractLsb' (8 * b) 8) else none) ∧
      .calderaRequest id ∈ t.pending
    let invalidates (i : Instr) (late : Ctx → State → Late) (tenant : Ctx → Nat) (gone : Ctx → TlbEntry → Bool) : Prop :=
      ∀ s g w, Runs i s g w late →
        let x := s.seenBy i g w
        -- a page is the one that is named, or one of a larger translation that is removed
        let used (p : Nat) : Prop := gone x { tenant := tenant x, va := p * 2 ^ 17, bits := 17, pte := 0 } = true ∨
          ∃ y : TlbEntry, gone x y = true ∧ y.covers (tenant x) (p * 2 ^ 17) = true ∧ ((∃ e ∈ s.cores, y ∈ e.2.tlb) ∨ ∃ e ∈ s.caches, y ∈ e.2)
        -- an access that is in flight has used one
        let through (a : Access) : Prop := a.returned = false ∧ ∃ p ∈ a.pages, used p
        (x.lanes = [] → Reaches i x s fun _ w' => OnlyFlow x w' ∧ GroupGoes x w' x.next ∧ w'.s = w.s) ∧
        (x.lanes ≠ [] → x.nothingToRelease s →
          ∃ t w', exec i s = .next t ∧ t.warp? g.core g.slot = some w' ∧ t.mem = s.mem ∧ w'.lanes = w.lanes ∧ w'.s = w.s ∧
            t.caches = s.caches.map (fun e => (e.1, e.2.filter (fun y => !gone x y))) ∧
            (∀ c k, s.core? c = some k → ∃ k', t.core? c = some k' ∧ k'.tlb = k.tlb.filter (fun y => !gone x y) ∧
              k' = { k with tlb := k'.tlb, warps := k'.warps, quads := k'.quads, l1 := k'.l1 } ∧ ∀ l ∈ k.l1, l.valid ≠ 0 → l ∈ k'.l1) ∧
            ((∀ e ∈ s.cores, (∀ v ∈ e.2.warps, v.2.tenant = tenant x → ∀ a ∈ v.2.accesses, ¬through a) ∧
                ∀ r ∈ e.2.nyrus, r.engine = true → ¬used (r.va / 2 ^ 17)) →
              (∀ e ∈ s.caldera.requests, ∀ a v n, e.2.kind = .monitor a v n → ¬used (e.2.va / 2 ^ 17)) →
              OnlyFlow x w' ∧ GroupGoes x w' x.next) ∧
            ((∃ c p v a, s.warp? c p = some v ∧ c < 2 ^ 11 ∧ p < 64 ∧ v.tenant = tenant x ∧ a ∈ v.accesses ∧ through a ∧
                (∀ b ∈ v.accesses, b.id = a.id → b = a)) ∨
              (∃ c k r v, s.core? c = some k ∧ c < 2 ^ 11 ∧ r ∈ k.nyrus ∧ r.engine = true ∧ used (r.va / 2 ^ 17) ∧
                s.warp? c r.slot = some v ∧ v.tenant = tenant x) ∨
              (∃ id r a v n, SMap.get? id s.caldera.requests = some r ∧ r.kind = .monitor a v n ∧ r.tenant = tenant x ∧ used (r.va / 2 ^ 17)) →
              ∀ y ∈ w'.groups, y.mask = g.mask → y.hold = .settles))
    let line (i : Instr) (evict : Bool) : Prop := ∀ s g w k pa pte s1, Runs i s g w →
      let x := s.seenBy i g w
      x.lanes ≠ [] → s.begun.translate g.core w.tenant (x.a 2 scalarLane) .read w.special.priv = .ok pa pte →
      x.paged s [x.a 2 scalarLane] s1 → s1.core? g.core = some k →
      ∃ t w' k', exec i s = .next t ∧ t.warp? g.core g.slot = some w' ∧ t.core? g.core = some k' ∧ t.mem = s.mem ∧ w'.lanes = w.lanes ∧ w'.s = w.s ∧
        (∀ l ∈ k'.l1, l.line = lineOf pa → l.tenant = w.tenant → l.lock ≠ none) ∧
        (∀ l ∈ k.l1, l.line ≠ lineOf pa → l ∈ k'.l1) ∧
        (∀ l, s1.l1Find g.core w.tenant (lineOf pa) = some l → l.dirty ≠ 0 →
          sent t g.core l ∧ ∀ y ∈ w'.groups, y.mask = g.mask → y.hold = .acks) ∧
        ((∀ l, s1.l1Find g.core w.tenant (lineOf pa) = some l → l.dirty = 0) → ¬writes s1 g.core w.tenant (some (lineOf pa)) →
          GroupGoes x w' x.next ∧
          (evict = true → s1.mayEvict (lineOf pa) = true → t.dir? (lineOf pa) = none) ∧
          (evict = false ∨ s1.mayEvict (lineOf pa) = false → t.caldera.lines = s1.caldera.lines))
    let level (i : Instr) (drop : Bool) : Prop := ∀ s g w k, Runs i s g w → s.core? g.core = some k →
      let x := s.seenBy i g w
      let mine (l : L1Line) : Prop := l.tenant = w.tenant ∧ l.lock = none
      x.lanes ≠ [] →
      ∃ t w' k', exec i s = .next t ∧ t.warp? g.core g.slot = some w' ∧ t.core? g.core = some k' ∧ t.mem = s.mem ∧ w'.lanes = w.lanes ∧ w'.s = w.s ∧
        (∀ l ∈ k.l1, mine l → l.dirty ≠ 0 → sent t g.core l) ∧
        (∀ l ∈ k'.l1, mine l → l.dirty = 0 ∧ drop = false) ∧
        (∀ l ∈ k.l1, l.lock ≠ none ∨ (l.tenant ≠ w.tenant ∧ l.valid ≠ 0) → l ∈ k'.l1) ∧
        (drop = false → ∀ l ∈ k.l1, mine l → ∀ a, l.holds a → ∃ l' ∈ k'.l1, mine l' ∧ l'.holds a ∧ l'.byteAt a = l.byteAt a) ∧
        ((∀ l ∈ k.l1, mine l → l.dirty = 0) → ¬writes s g.core w.tenant none → GroupGoes x w' x.next) ∧
        ((∃ l ∈ k.l1, mine l ∧ l.dirty ≠ 0) → ∀ y ∈ w'.groups, y.mask = g.mask → y.hold = .acks)
    invalidates (.tlbinvPage f) noLate (fun x => x.w.tenant) (fun x e => decide (e.tenant = x.w.tenant ∧ e.va = x.a 2 scalarLane / 2 ^ e.bits * 2 ^ e.bits)) ∧
      invalidates (.tlbinvAll f) noLate (fun x => x.w.tenant) (fun x e => decide (e.tenant = x.w.tenant)) ∧
      invalidates (.tlbinvGlob f) lateGlob (fun x => x.b 1 scalarLane) (fun x e => decide (e.tenant = x.b 1 scalarLane)) ∧
      (∀ s g w, Runs (.cctlIcinv f) s g w →
        let x := s.seenBy (.cctlIcinv f) g w
        ∃ t w', exec (.cctlIcinv f) s = .next t ∧ t.warp? g.core g.slot = some w' ∧ OnlyFlow x w' ∧ GroupGoes x w' x.next ∧ w'.s = w.s ∧
          t = { s with cores := t.cores, sel := s.sel.tail, tick := s.tick + 1, pending := t.pending } ∧
          ∀ c k, s.core? c = some k → ∃ k', t.core? c = some k' ∧ k' = { k with
            warps := k'.warps, quads := k'.quads, icache := if c = g.core ∧ x.lanes ≠ [] then [] else k.icache }) ∧
      level (.cctlL1wb f) false ∧ level (.cctlL1inv f) true ∧ line (.cctlLinewb f) false ∧ line (.cctlEvict f) true

/-- R393, R394, R400, R412. TBLRD reads an item of management space to dst: a tenant's root, its poison count, a region entry, a partition
entry, the module's values, the performance counters, the probe words. TBLWR writes one with the fates of its bits; a partition entry and
the probe are written in a step of their own, for which the group waits.
The step of its own for partition entries and the probe is the model's reading (log entry 53), and how long the group waits for a partition
entry its choice (log entry 45); that a performance counter keeps its old value for the rest of the cycle (log entry 29) and that a write of
a root drops its tenant's entries in the TLBs (log entry 49) are its readings. -/
def Obligations.Tables : Prop :=
  ∀ (f : LX) (s : State) (g : Selected) (w : Warp),
    (Runs (.tblrd f) s g w (late := lateTable false) →
      let x := s.seenBy (.tblrd f) g w
      let o := x.a 2 scalarLane
      let quad (c q : Nat) : Quad := ((s.core? c).getD {}).quad q
      (x.lanes = [] → Reaches (.tblrd f) x s fun _ w' => OnlyFlow x w' ∧ GroupGoes x w' x.next ∧ w'.s = w.s) ∧
      (x.lanes ≠ [] → Reaches (.tblrd f) x s fun _ w' => OnlyFlow x w' ∧ GroupGoes x w' x.next ∧
        (∀ t, t < 16 →
          (o = t * 2 ^ 20 → HoldsScalars x w' 2 (s.tenant t).troot.toNat) ∧
          (o = t * 2 ^ 20 + 8 → HoldsScalars x w' 2 (s.tenant t).poisons.toNat) ∧
          ∀ n, n < 256 → o = t * 2 ^ 20 + 0x1000 + 8 * n → HoldsScalars x w' 2 (SMap.get 0 n (s.tenant t).regions : DWord).toNat) ∧
        (∀ c q, c < Config.cores → q < 4 →
          (o = 0x01000000 + 0x40 * c + 8 * q → HoldsScalars x w' 2
            ((quad c q).banks.toNat + (quad c q).ways.toNat * 2 ^ 32 + (quad c q).tenant % 16 * 2 ^ 40 + (if (quad c q).en then 2 ^ 44 else 0))) ∧
          (∀ k, k < 4 → o = 0x10000000 + 0x100 * (4 * c + q) + 8 * k → HoldsScalars x w' 2 ((quad c q).pcfg.getD k 0).toNat) ∧
          (∀ k, k < 4 → o = 0x10000020 + 0x100 * (4 * c + q) + 8 * k → HoldsScalars x w' 2 ((quad c q).pcOld.getD k 0)) ∧
          (o = 0x10000040 + 0x100 * (4 * c + q) → HoldsScalars x w' 2 (quad c q).lost)) ∧
        (∀ c, c < Config.cores → o = 0x02000000 + 8 * c → HoldsScalars x w' 2
          (((s.core? c).getD {}).st % 4 * 2 ^ 18 + ((s.core? c).getD {}).lnum % 2 ^ 16)) ∧
        (∀ n, n < 6 → o = 0x03000008 + 8 * n → HoldsScalars x w' 2 (w.probe.toNat / 2 ^ (64 * n) % 2 ^ 64)) ∧
        (o = 0x05000000 → HoldsScalars x w' 2 s.modul.mgen.toNat) ∧ (o = 0x05000008 → HoldsScalars x w' 2 s.modul.lmBase.toNat) ∧
        (o = 0x05000010 → HoldsScalars x w' 2 s.modul.threshold) ∧ (o = 0x05000018 → HoldsScalars x w' 2 s.modul.fill))) ∧
    (Runs (.tblwr f) s g w (late := lateTable true) →
      let x := s.seenBy (.tblwr f) g w
      let o := x.a 2 scalarLane
      let v := x.b 2 scalarLane
      -- what a write changes besides its item: nothing
      let only (t : State) (w' : Warp) : Prop := t.warp? g.core g.slot = some w' ∧ w'.lanes = w.lanes ∧ w'.s = w.s ∧ w'.probe = w.probe ∧ t.mem = s.mem ∧
        t.launches = s.launches ∧ t.caldera = s.caldera ∧ (∀ c p, c ≠ g.core ∨ p ≠ g.slot → t.warp? c p = s.warp? c p)
      let writes (post : State → Prop) : Prop := ∃ t w', exec (.tblwr f) s = .next t ∧ only t w' ∧ OnlyFlow x w' ∧ GroupGoes x w' x.next ∧ post t
      let waits (e : Instr) (h : Hold) : Prop := ∃ t w', exec (.tblwr f) s = .next t ∧ only t w' ∧ t.tenants = s.tenants ∧ t.modul = s.modul ∧
        t.pending = s.pending ++ [e] ∧ ∀ y ∈ w'.groups, y.mask = g.mask → y.hold = h ∧ y.prog.stage = 23
      (x.lanes = [] → Reaches (.tblwr f) x s fun _ w' => OnlyFlow x w' ∧ GroupGoes x w' x.next ∧ w'.s = w.s) ∧
      (x.lanes ≠ [] →
        (∀ n, n < 16 →
          (o = n * 2 ^ 20 → writes fun t => t.modul = s.modul ∧ (∀ m, m ≠ n → t.tenant m = s.tenant m) ∧
            t.tenant n = { s.tenant n with troot := BitVec.ofNat 64 v &&& 0x0FFFFFFFFFFE0001#64 } ∧
            ∀ c k, t.core? c = some k → ∀ y ∈ k.tlb, y.tenant ≠ n) ∧
          ∀ e, e < 256 → o = n * 2 ^ 20 + 0x1000 + 8 * e → writes fun t => t.modul = s.modul ∧ (∀ m, m ≠ n → t.tenant m = s.tenant m) ∧
            t.tenant n = { s.tenant n with regions := (t.tenant n).regions } ∧
            (SMap.get 0 e (t.tenant n).regions : DWord) = BitVec.ofNat 64 v &&& 0xFEFFFFFFFFFFFC00#64 ∧
            ∀ d, d ≠ e → (SMap.get 0 d (t.tenant n).regions : DWord) = SMap.get 0 d (s.tenant n).regions) ∧
        (∀ c q, c < Config.cores → q < 4 →
          (o = 0x01000000 + 0x40 * c + 8 * q → waits (.partitionWrite c q (BitVec.ofNat 64 v)) (if w.region.active then .none else .partition c q)) ∧
          -- a performance counter takes its value with the next cycle (R390)
          (∀ k core, k < 4 → s.core? c = some core → q < core.quads.length → (core.quad q).pcSet.length = 4 → (core.quad q).pcfgSet.length = 4 →
            (o = 0x10000000 + 0x100 * (4 * c + q) + 8 * k → writes fun t => t.tenants = s.tenants ∧ t.modul = s.modul ∧
              ∃ core', t.core? c = some core' ∧ (core'.quad q).pcfgSet.getD k none = some (BitVec.ofNat 32 v)) ∧
            (o = 0x10000020 + 0x100 * (4 * c + q) + 8 * k → writes fun t => t.tenants = s.tenants ∧ t.modul = s.modul ∧
              ∃ core', t.core? c = some core' ∧ (core'.quad q).pcSet.getD k none = some (v % 2 ^ 48)))) ∧
        (o = 0x03000000 → waits (.directoryProbe g.core g.slot v) .none) ∧
        (o = 0x05000010 → writes fun t => t.tenants = s.tenants ∧ t.modul = { s.modul with threshold := max 2 (v % 16) }) ∧
        (o = 0x05000018 → writes fun t => t.tenants = s.tenants ∧ t.modul = { s.modul with fill := max 1 (min 8 (v % 16)) }))) ∧
    -- a write that waited for its step goes on
    (∀ p, Resumes s g w p → p.stage = 23 →
      let x := s.seenBy (.tblwr f) g w
      Reaches (.tblwr f) x s fun _ w' => OnlyFlow x w' ∧ GroupGoes x w' x.next ∧ w'.s = w.s)

/-- R401, R404. PARTITION_WRITE moves the ways and the free banks of its vectors to the quadrant and sets TENANT and EN of a quadrant without
warps, all together; DIRECTORY_PROBE puts the entry of a line into the warp's probe window.
That it waits while a named way holds a locked line, and behind an earlier write of the entry, and which lines leave with a way, is the
model's choice (log entry 45). -/
def Obligations.PartitionsAndProbe : Prop :=
  (∀ (s : State) (c q : Nat) (v : DWord) (k : Core), s.core? c = some k → q < 4 → k.quads.length = 4 →
    let earlier : Prop := ∃ u, Instr.partitionWrite c q u ∈ s.later
    let locked : Prop := ∃ n p, n < 8 ∧ v.getLsbD (32 + n) = true ∧ p < 4 ∧ p ≠ q ∧ (k.quad p).ways.getLsbD n = true ∧
      ∃ l ∈ k.l1, l.way = n ∧ l.lock ≠ none
    (earlier ∨ locked → ∃ t, exec (.partitionWrite c q v) s = .next t ∧ t.core? c = some k ∧ t.mem = s.mem ∧ .partitionWrite c q v ∈ t.later) ∧
    (¬earlier → ¬locked → ∃ t k', exec (.partitionWrite c q v) s = .next t ∧ t.core? c = some k' ∧ t.mem = s.mem ∧
      (∀ j, j < 4 → j ≠ q → (k'.quad j).tenant = (k.quad j).tenant ∧ (k'.quad j).en = (k.quad j).en) ∧
      ((∀ e ∈ k.warps, e.1 / 16 ≠ q) → (k'.quad q).tenant = bitsOf v.toNat 43 40 ∧ (k'.quad q).en = v.getLsbD 44) ∧
      ((∃ e ∈ k.warps, e.1 / 16 = q) → (k'.quad q).tenant = (k.quad q).tenant ∧ (k'.quad q).en = (k.quad q).en) ∧
      (∀ b j, b < 32 → j < 4 → (k'.quad j).banks.getLsbD b =
        if v.getLsbD b = true ∧ ∀ e ∈ k.blocks, b ∉ e.2.banks then decide (j = q) else (k.quad j).banks.getLsbD b) ∧
      (∀ n j, n < 8 → j < 4 → v.getLsbD (32 + n) = false → (k'.quad j).ways.getLsbD n = (k.quad j).ways.getLsbD n) ∧
      (∀ n j, n < 8 → j < 4 → v.getLsbD (32 + n) = true →
        (∃ p, p < 4 ∧ p ≠ q ∧ (k.quad p).ways.getLsbD n = true ∧ (∀ r, r < 4 → r ≠ p → (k.quad r).ways.getLsbD n = false)) →
        (k'.quad j).ways.getLsbD n = decide (j = q)))) ∧
  (∀ (s : State) (c p a : Nat) (w : Warp), s.warp? c p = some w →
    let line := bitsOf a 59 7
    let floor := (s.bank (s.anchor line)).floor.toNat
    ∃ t w', exec (.directoryProbe c p a) s = .next t ∧ t.warp? c p = some w' ∧ w' = { w with probe := w'.probe } ∧
      t = { s with cores := t.cores, pending := t.pending } ∧ (∀ d r, d ≠ c ∨ r ≠ p → t.warp? d r = s.warp? d r) ∧
      (s.dir? line = none → w'.probe = BitVec.ofNat 384 (line * 2 ^ 331 + floor * 2 ^ 64 + floor)) ∧
      (∀ d, s.dir? line = some d → (∀ r ∈ d.rmask, r < 42) → d.wpos.toNat = w'.probe.toNat % 2 ^ 64 ∧ d.rpos.toNat = w'.probe.toNat / 2 ^ 64 % 2 ^ 64 ∧
        w'.probe.getLsbD 273 = d.pin ∧ w'.probe.getLsbD 272 = d.stream ∧ w'.probe.getLsbD 271 = d.apin ∧
        bitsOf w'.probe.toNat 275 274 = (match d.st with | .resident => 1 | .moving => 2 | .collapsing => 3) ∧
        bitsOf w'.probe.toNat 330 318 = d.hold % 2 ^ 13 ∧ bitsOf w'.probe.toNat 383 331 = line ∧
        (∀ r, r < 42 → (w'.probe.getLsbD (276 + r) = true ↔ r ∈ d.rmask)) ∧ bitsOf w'.probe.toNat 270 258 = d.astamp % 2 ^ 13 ∧
        bitsOf w'.probe.toNat 257 254 = d.use % 16 ∧ bitsOf w'.probe.toNat 253 248 = d.pull % 64 ∧ bitsOf w'.probe.toNat 247 246 = d.h1 % 4 ∧
        bitsOf w'.probe.toNat 245 244 = d.h0 % 4 ∧ w'.probe.getLsbD 243 = decide (d.watch ≠ []) ∧
        bitsOf w'.probe.toNat 242 230 = d.mtgt.getD 0 % 2 ^ 13 ∧ bitsOf w'.probe.toNat 229 128 = 0))

/-- R430, R441, R442. CTXSV and CTXLD with a good address and no active region hold their group until the warp has nothing in flight; then
CTXSV writes the warp's image with its group at the next instruction and goes on, and CTXLD takes the registers, the program counters and
the modes of an image that it does not refuse.
What an image holds beyond R430's words is the model's choice (log entry 66). -/
def Obligations.Contexts : Prop :=
  ∀ (f : LX) (s : State) (g : Selected) (w : Warp) (pa : Nat) (pte : DWord),
    let begins (i : Instr) (perm : Perm) : Prop := Runs i s g w →
      let x := s.seenBy i g w
      let va := x.a 2 scalarLane
      ∀ s1, x.lanes ≠ [] → w.region.active = false → w.gang = 0 → va % 32768 = 0 →
      s.begun.translate g.core w.tenant va perm w.special.priv = .ok pa pte → (perm = .read → s.poisoned pa 32768 = false) →
      x.paged s [va] s1 → (∀ k, s1.core? g.core = some k → ∀ e ∈ k.warps, e.2.latch = none) →
      ∃ t w', exec i s = .next t ∧ t.warp? g.core g.slot = some w' ∧ t.mem = s.mem ∧ w' = { w with drain := true, groups := w'.groups } ∧
        ∀ y ∈ w'.groups, y.mask = g.mask → y.hold = .drain ∧ y.prog.stage = 20
    let drained (i : Instr) (perm : Perm) (post : Ctx → State → Warp → Prop) : Prop := ∀ p, Resumes s g w p → p.stage = 20 →
      let x := s.seenBy i g w
      let va := x.a 2 scalarLane
      va % 32768 = 0 → s.begun.translate g.core w.tenant va perm w.special.priv = .ok pa pte → pa + 32768 ≤ hbmEnd → pa % 128 = 0 →
      s.spanStops pa 32768 (decide (perm = .write)) w.tenant = none → w.region.active = false → x.nothingToRelease s →
      (∀ l ∈ linesFrom pa 32768, s.uncollapsed l = true) →
      ∃ t w', exec i s = .next t ∧ t.warp? g.core g.slot = some w' ∧ GroupGoes x w' x.next ∧ post x t w'
    begins (.ctxsv f) .write ∧ begins (.ctxld f) .read ∧
    drained (.ctxsv f) .write (fun x t w' =>
      let word (o : Nat) : Nat := Memory.readNum t.mem (pa + o) 4
      let wide (o : Nat) : Nat := Memory.readNum t.mem (pa + o) 8
      w'.lanes = w.lanes ∧ w'.s = w.s ∧ w'.mode = w.mode ∧ w'.special = w.special ∧ w'.drain = false ∧
      (∀ i l, i < 192 → l < 32 → word (128 * i + 4 * l) = if i < w.alloc then (SMap.get 0 i (w.lane l).v : Word).toNat else 0) ∧
      (∀ k, k < 60 → word (0x6000 + 4 * k) = (SMap.get 0 k w.s : Word).toNat) ∧
      (∀ l, l < 32 → word (0x6100 + 4 * l) = (w.lane l).nest.toNat + (w.lane l).p.toNat / 2 * 2 ^ 8 + (if (w.lane l).exited then 2 ^ 15 else 0) +
        (w.lane l).lid.toNat * 2 ^ 16 + (if (w.lane l).done then 2 ^ 21 else 0)) ∧
      (∀ k, k < 8 → word (0x61C0 + 4 * k) = (w.slice k).fmt.toNat ∧
        wide (0x6180 + 8 * k) = if inMask g.mask k ∧ k < w.slices.length then x.next / 4 * 4 else (w.slice k).pc.toNat) ∧
      word 0x6200 = w.mode.toNat ∧ word 0x6204 = 0 ∧ wide 0x6228 = w.special.epc.toNat ∧ word 0x6230 = w.special.estat.toNat ∧
      word 0x6234 = w.special.ecause.toNat ∧ wide 0x6238 = w.special.eval.toNat ∧ wide 0x6240 = w.special.evec.toNat ∧
      word 0x7F00 = 1 ∧ word 0x7F04 = w.alloc % 2 ^ 32 ∧ word 0x7F18 = 0 ∧
      ∀ b, b < pa ∨ pa + 32768 ≤ b → Memory.read t.mem b = Memory.read s.mem b) ∧
    (∀ p, Resumes s g w p → p.stage = 20 →
      let x := s.seenBy (.ctxld f) g w
      let va := x.a 2 scalarLane
      let word (o : Nat) : Word := BitVec.ofNat 32 (Memory.readNum s.mem (pa + o) 4)
      let wide (o : Nat) : Nat := Memory.readNum s.mem (pa + o) 8
      va % 32768 = 0 → s.begun.translate g.core w.tenant va .read w.special.priv = .ok pa pte → pa + 32768 ≤ hbmEnd →
      s.spanStops pa 32768 false w.tenant = none → s.poisoned pa 32768 = false →
      -- the image is read at its primary copies
      (∀ k, s.core? g.core = some k → ∀ l ∈ k.l1, l.tenant ≠ w.tenant) → s.caldera.requests = [] → s.caldera.lines = [] →
      Image.refused (wordsOfBytes (Memory.readBytes s.mem pa 32768)) w.alloc = false →
      ∃ t w', exec (.ctxld f) s = .next t ∧ t.warp? g.core g.slot = some w' ∧ t.mem = s.mem ∧
        (∀ i l, i < 192 → l < 32 → (SMap.get 0 i (w'.lane l).v : Word) = word (128 * i + 4 * l)) ∧
        (∀ k, k < 60 → (SMap.get 0 k w'.s : Word) = word (0x6000 + 4 * k)) ∧
        (∀ l, l < 32 → (w'.lane l).nest.toNat = (word (0x6100 + 4 * l)).toNat % 2 ^ 8 ∧ (w'.lane l).exited = (word (0x6100 + 4 * l)).getLsbD 15 ∧
          (w'.lane l).lid.toNat = bitsOf (word (0x6100 + 4 * l)).toNat 20 16 ∧ (w'.lane l).done = (word (0x6100 + 4 * l)).getLsbD 21 ∧
          ∀ n, 0 < n → n < 8 → (w'.lane l).pred n = (word (0x6100 + 4 * l)).getLsbD (7 + n)) ∧
        (∀ k, k < 8 → w'.slice k = { pc := BitVec.ofNat 48 (wide (0x6180 + 8 * k) / 4 * 4), fmt := (word (0x61C0 + 4 * k)).setWidth 12 }) ∧
        w'.mode = word 0x6200 ∧ w'.gang = 0 ∧ w'.special.epc = BitVec.ofNat 64 (wide 0x6228) ∧ w'.special.evec = BitVec.ofNat 64 (wide 0x6240) ∧
        w'.special.priv = (word 0x6224).getLsbD 1 ∧ w'.special.schk = (word 0x6224).getLsbD 0 ∧
        w'.tenant = w.tenant ∧ w'.alloc = w.alloc ∧ w'.lease.st = w.lease.st)

/-! ## The step, the encoding and the whole machine (R50, R91 to R96, R114 to R116, R411) -/

/-- R50, R91, R92, R93. A step takes what the world chooses next, where it may come; else the selected group's instruction: where its words
translate, can be read, hold no stale copy and decode, the step is exec of the decoded instruction in the state that the fetch leaves, which
differs in translations and words that it has kept alone where it reads nothing at a primary copy; and where they do not decode it traps
with Illegal Instruction; else the machine's own next step; else a cycle.
The order of the agenda, the selected group and the steps on their way is the model's choice (log entry 6), as is that a word which the
instruction cache lacks is read at its primary copy (log entry 106). -/
def Obligations.StepRunsDecoded : Prop :=
  ∀ s : State,
    (∀ e rest, s.agenda = e :: rest → s.admits e = true → step s = exec e { s with agenda := rest }) ∧
    (s.agenda = [] → s.sel = [] → (∀ e rest, s.pending = e :: rest → e.isEvent = true → step s = exec e s) ∧
      (s.pending = [] → s.modul.booted = true → step s = exec (.issueCycle s.turn) s)) ∧
    ∀ (g : Selected) (w : Warp) (n : Nat) (pa : Nat → Nat), s.agenda = [] → s.selects g w →
      (w.group? g.mask).isSome = true → w.faulted = none → w.trap = none → w.ending = none → w.saved = none →
      let va (k : Nat) : Nat := (w.pcOf g.mask + 4 * k) % 2 ^ 48
      let kept (k : Nat) : State := s.keepFetch g.core w.tenant (w.pcOf g.mask) w.special.priv 0 k
      let word (k : Nat) : Word := BitVec.ofNat 32 (Memory.readNum s.mem (pa k) 4)
      lengthOf (word 0) = 4 * n → (∀ k, k < n → ∃ pte, s.translate g.core w.tenant (va k) .fetch w.special.priv = .ok (pa k) pte) →
      (∀ k, k < n → s.wordHeld g.core (pa k) = true ∨ cached (pa k) = false ∨
        (s.poisoned (pa k) 4 = false ∧ s.lineStops (lineOf (pa k)) false [pa k / 64 % 2] w.tenant = false)) →
      (∀ c k v, s.core? g.core = some c → k < n → SMap.get? (pa k) c.icache = some v → v = word k) →
      let words (k : Nat) : Word := if k < n then word k else 0
      -- the fetch reads nothing at a primary copy
      let quiet : Prop := ∀ k, k < n → ((kept k).lookup g.core w.tenant (va k)).read = [] ∧
        ∀ q pte, (kept k).translate g.core w.tenant (va k) .fetch w.special.priv = .ok q pte → (kept k).wordHeld g.core q = true ∨ cached q = false
      (quiet → kept n = { s with cores := (kept n).cores, caches := (kept n).caches } ∧ (kept n).selects g w ∧
        ∀ c k, s.core? c = some k → ∃ k', (kept n).core? c = some k' ∧ k' = { k with tlb := k'.tlb, icache := k'.icache } ∧ (c ≠ g.core → k' = k)) ∧
      (∀ i, decodeWords (words 0) (words 1) (words 2) = some i → step s = exec i (kept n)) ∧
      (decodeWords (words 0) (words 1) (words 2) = none →
        step s = .next ({ kept n with sel := s.sel.tail }.raise g.core g.slot g.mask
          { cause := 0x01, epc := w.pcOf g.mask, eval := (words 0).toNat + 2 ^ 32 * (words 1).toNat }) ∧
        (quiet → s.noOlder g.core g.slot → w.region.active = false → w.special.priv = false → s.vector w ≠ 0 →
          ∃ t w', step s = .next t ∧ t.warp? g.core g.slot = some w' ∧ t.mem = s.mem ∧
            AtHandler g.mask w w' (s.vector w) (w.pcOf g.mask) ((words 0).toNat + 2 ^ 32 * (words 1).toNat) 0x01))

/-- R91, R94, R95, R96, R114, R115. Every instruction with an encoding decodes from its own words, whatever stands behind them, and its
length is the one that its first word names: with every operand at every value. -/
def Obligations.EncodingRoundTrip : Prop :=
  ∀ i : Instr, i.encodable = true →
    (∀ rest : List Word, decodeWords ((encode i ++ rest).getD 0 0) ((encode i ++ rest).getD 1 0) ((encode i ++ rest).getD 2 0) = some i ∧
      lengthOf ((encode i).getD 0 0) = i.length ∧ i.length = 4 * (encode i).length) ∧
    (∀ rest : List Byte, decode (encodeBytes i ++ rest) = some i) ∧
    -- no two instructions share their words
    ∀ j : Instr, j.encodable = true → encode i = encode j → i = j

/-- The memory keeps its canonical form: no step makes an address out of order, listed twice, or listed with the value that an unlisted
one reads as.
The canonical form and the value of an unlisted byte are the model's choice (log entry 1). -/
def Obligations.MemoryKeepsForm : Prop :=
  ∀ s t : State, Memory.wf s.mem = true → step s = .next t → Memory.wf t.mem = true

/-- R254, R275, R343, R395, R401, R416. The machine after power-on: memory in its canonical form, no poison, every line Absent, nothing selected
or on its way, the module not up, and every tenant's registers at their reset values.
That memory lists nothing, and so reads as 0, is the model's choice (log entry 1), and so are the lists of what is selected and of what is on
its way, which are empty (log entry 2). -/
def Obligations.ResetState : Prop :=
  Memory.wf State.reset.mem = true ∧ State.reset.mem = [] ∧ State.reset.poison = [] ∧ State.reset.caldera.lines = [] ∧ State.reset.caldera.requests = [] ∧
    State.reset.sel = [] ∧ State.reset.pending = [] ∧ State.reset.cores = [] ∧ State.reset.launches.launches = [] ∧ State.reset.modul.booted = false ∧
    ∀ t, (State.reset.tenant t).troot = 0 ∧ (State.reset.tenant t).tvec = 0 ∧ (State.reset.tenant t).ctxArea = 0 ∧ (State.reset.tenant t).ctxSlots = 0 ∧
      (State.reset.tenant t).fqCtrl = 0 ∧ (State.reset.tenant t).fqHead = 0 ∧ (State.reset.tenant t).fqTail = 0 ∧ (State.reset.tenant t).poisons = 0 ∧
      (State.reset.tenant t).nextToken = 1

/-- Words that the spec writes out (R97, R118, R139, R192, R327, R411, R436): each decodes to the instruction beside it. -/
def Obligations.DecodedWords : Prop :=
  let lx (modi : BitVec 12) (dst a b c : BitVec 8) : LX :=
    { lit := none, modi := modi, dst := dst, stall := 0, neg := false, guard := 0, srcA := a, srcB := b, srcC := c }
  decodeWords 0x0CA00719#32 0x00FCFCCC#32 0 = some (.tblrd (lx 0 0xCA 0xCC 0xFC 0xFC)) ∧
    decodeWords 0x0FC00715#32 0x00FCFCD4#32 0 = some (.tlbinvPage (lx 0 0xFC 0xD4 0xFC 0xFC)) ∧
    decodeWords 0x0FC00729#32 0x00FCFCFC#32 0 = some (.cctlIcinv (lx 0 0xFC 0xFC 0xFC 0xFC)) ∧
    decodeWords 0x0FC00701#32 0x42FCFCFC#32 0 = some (.trap (lx 0x042 0xFC 0xFC 0xFC 0xFC)) ∧
    decodeWords 0x0E800709#32 0x12FCFCFC#32 0 = some (.rdsr (lx 0x012 0xE8 0xFC 0xFC 0xFC)) ∧
    decodeWords 0x0FC00705#32 0x00FCFCFC#32 0 = some (.eret (lx 0 0xFC 0xFC 0xFC 0xFC)) ∧
    decodeWords 0xFCFC0044#32 0 0 = some (.bendS { srcA := 0xFC, dst := 0xFC, stall := 0, neg := false, guard := 0 }) ∧
    decodeWords 0x0FC00611#32 0x02000006#32 0 = some (.bif (lx 0x002 0xFC 0x06 0 0)) ∧
    decodeWords 0x00000003#32 0 0 = none ∧ decodeWords 0x00080001#32 0 0 = none

/-! ## Steps of the machine's own and of the world (R41 to R50, R107, R141, R188, R227, R231) -/

/-- R41 to R50, R60, R79 to R82, R188, R227, R231, R242. A core's cycle counts on and selects, in each quadrant with a ready group, a ready
group; an admission cycle admits a lone warp; a warp that has waited for 16,384 cycles becomes head and marks an admitted one, of any
priority once it has widened its choice; a lease decays; a run-on ends; results of the class-Q units and of the matrix unit are formed, the
integer and the float sums, and written; a poisoned fetch cancels its instruction.
The order of the steps of an admission cycle is the model's reading (log entry 25); which core's cycle comes next and the lists of what is
selected and on its way are the model's (log entries 6 and 2); that an MLDT's bytes are read as it enters is log entry 99; the sign of a
zero product of MXINT8 is log entry 88. -/
def Obligations.CycleSteps : Prop :=
  ∀ (s : State) (c : Nat) (k : Core), s.core? c = some k → k.quads.length = 4 →
    ((∀ e ∈ k.warps, ∀ y ∈ e.2.groups, y.prog.stage = 0) → (∀ e ∈ s.tenants, e.2.fqWait = []) → Becomes (.issueCycle c) s fun t =>
      t = { s with cores := t.cores, sel := t.sel, pending := t.pending, later := [], turn := s.coreAfter c } ∧ t.cyc c = k.cyc + 1 ∧
      (∀ d, d ≠ c → t.core? d = s.core? d) ∧ (∀ e ∈ s.pending, e ≠ .issueCycle c → e ∈ t.pending) ∧ (∀ e ∈ s.later, e ∈ t.pending) ∧
      (∀ p w, s.warp? c p = some w → ∃ w', t.warp? c p = some w' ∧
        w' = { w with groups := w'.groups, lease := { w.lease with passed := w'.lease.passed } }) ∧
      (∀ g ∈ t.sel, g ∉ s.sel → s.modul.stopped = false ∧ g.core = c ∧ ∃ e ∈ k.warps, e.1 = g.slot ∧ e.2.mayRun ∧
        ∃ y ∈ e.2.groups, y.mask = g.mask ∧ y.held = false ∧ y.readyAt ≤ k.cyc + 1) ∧
      (s.modul.stopped = false → ∀ q, q < 4 →
        (∃ e ∈ k.warps, e.1 / 16 = q ∧ e.2.mayRun ∧ e.2.drain = false ∧ ∃ y ∈ e.2.groups, y.held = false ∧ y.readyAt ≤ k.cyc + 1 ∧ y.hold = .none ∧
          -- no interlock, no full counter or unit (R110, R121, R188, R231)
          (s.modCore c (fun k => { k with cyc := k.cyc + 1 })).blockedBy c e.1 e.2 y.mask = none) →
        ∃ g ∈ t.sel, g.core = c ∧ g.slot / 16 = q)) ∧
    (∀ q p w, q < 4 → k.warps.filter (fun e => decide (e.1 / 16 = q)) = [(p, w)] → (k.quad q).head = none → w.lease.st = .waiting → w.over = false →
      k.cyc + 1 < w.lease.waitFrom + 16384 →
      Becomes (.admissionCycle c q) s fun t => ∃ w' k', Rewrites c p s t w' ∧ t.core? c = some k' ∧
        w' = { w with lease := { w.lease with st := .admitted, counted := true, passed := 0 } } ∧
        (k'.quad q).admitted = (if w.lease.decl = 0 then w.lease.meas
          else if w.lease.fixed then 16 * w.lease.decl else max (16 * w.lease.decl) w.lease.meas)) ∧
    (∀ q p r w v, q < 4 → k.holdsTwo q p r w v → w.lease.counted = false → v.lease.st = .admitted → v.lease.counted = true →
      0 < v.lease.effective → (k.quad q).budget s.modul.fill < v.lease.effective + w.lease.effective →
      ((k.quad q).head = none → w.lease.st = .waiting → w.over = false → w.lease.waitFrom + 16384 ≤ k.cyc + 1 → v.lease.prio ≤ w.lease.prio →
        v.lease.effective ≤ (k.quad q).budget s.modul.fill →
        Becomes (.headQualify c q) s fun t => ∃ k', t.core? c = some k' ∧ (k'.quad q).head = some p ∧ (k'.quad q).widened = false ∧
          t.warp? c p = some { w with lease := { w.lease with st := .head, headFrom := k.cyc + 1 } } ∧
          t.warp? c r = some { v with lease := { v.lease with st := .returning } }) ∧
      ((k.quad q).head = some p → (k.quad q).widened = false → w.lease.st = .head → w.lease.headFrom + 16384 ≤ k.cyc + 1 →
        Becomes (.headWiden c q) s fun t => ∃ k', t.core? c = some k' ∧ (k'.quad q).head = some p ∧ (k'.quad q).widened = true ∧
          t.warp? c p = some w ∧ t.warp? c r = some { v with lease := { v.lease with st := .returning } })) ∧
    (∀ p w, s.warp? c p = some w →
      (Becomes (.leaseDecay c p) s fun t => t = { s with cores := t.cores, pending := t.pending } ∧
        Rewrites c p s t { w with lease := { w.lease with meas := max (w.lease.meas - 16) 16 } }) ∧
      (∀ n, w.saved = none → w.preempt = some n → 4096 ≤ n → Becomes (.runonLimit c p) s fun t =>
        t = { s with cores := t.cores, pending := t.pending } ∧ Rewrites c p s t { w with drain := true })) ∧
    (∀ q d r rest w, q < 4 → (if d then (k.quad q).divider else (k.quad q).sfu) = r :: rest → r.due ≤ k.cyc + 1 → s.warp? c r.slot = some w →
      (r.values.map Prod.fst).Nodup → ((r.code + r.regs ≤ 192 ∧ ∀ e ∈ r.values, e.1 < w.lanes.length) ∨ (192 ≤ r.code ∧ r.code + r.regs ≤ 252 ∧ r.values.length = 1)) →
      Becomes (.classQResult c q d) s fun t => ∃ w' k', Rewrites c r.slot s t w' ∧ t.core? c = some k' ∧
        (if d then (k'.quad q).divider else (k'.quad q).sfu) = rest ∧ HoldsRun w' r.code r.regs r.values ∧
        w' = { w with lanes := w'.lanes, s := w'.s, special := { w.special with fflags := w.special.fflags ||| r.flags } } ∧
        ∀ code l, (code < r.code ∨ r.code + r.regs ≤ code) → w'.regWord code l = w.regWord code l) ∧
    (∀ q o, q < 4 → (k.quad q).matrix.find? (fun y => decide (y.id = o.id)) = some o →
      let byId (t : State) (o' : MatrixOp) : Prop := ∃ k', t.core? c = some k' ∧ (k'.quad q).matrix.find? (fun y => decide (y.id = o.id)) = some o'
      let gone (t : State) : Prop := ∃ k', t.core? c = some k' ∧ ∀ y ∈ (k'.quad q).matrix, y.id ≠ o.id
      -- the port has read the last byte of a multiply's operands: it may start
      (∀ n, o.kind ≠ 3 → o.fetch = some n → n ≤ k.cyc + 1 → o.bad = none →
        Becomes (.matrixOperandFetched c q o.id) s fun t => byId t { o with fetch := none }) ∧
      -- the tile of an MLDT goes to its run: row i to the lanes with the LIDs 2i and 2i + 1
      (∀ m n x a w la, o.kind = 3 → o.members = [m] → m.access = some x → s.warp? c m.slot = some w → w.accesses.find? (fun y => decide (y.id = x)) = some a →
        a.kind = .tile → a.returned = false → a.refused = false → a.preds = [] → 8 * a.regs = o.tile.2.2 → a.dst + a.regs ≤ 192 → w.lanes.length = 32 →
        o.fetch = some n → n ≤ k.cyc + 1 → o.bad = none → o.a = .rows la →
        Becomes (.matrixOperandFetched c q o.id) s fun t => gone t ∧ ∃ w', t.warp? c m.slot = some w' ∧ ∀ i h r, i < 16 → h < 2 → r < a.regs →
          w'.regWord (a.dst + r) ((w.lanesByLid 0xFF).getD (2 * i + h) 0) =
            BitVec.ofNat 32 (numOf ((List.range 4).map (fun b => la.getD (i * o.tile.2.2 + 4 * (a.regs * h + r) + b) 0)))) ∧
      -- a poisoned byte cancels it: it writes nothing, and its warp takes a deferred Poison (R242)
      (∀ m n w addr, o.members = [m] → m.access = none → s.warp? c m.slot = some w → o.fetch = some n → n ≤ k.cyc + 1 → o.bad = some addr →
        Becomes (.matrixOperandFetched c q o.id) s fun t => gone t ∧ ∃ w' d, Rewrites c m.slot s t w' ∧ w' = { w with deferred := w.deferred ++ [d] } ∧
          d.cause = 0x0B ∧ d.addr = addr ∧ d.lid = m.lid ∧ d.path = .mmx ∧
          (m.acc < 192 → d.code = m.acc ∧ d.regs = if o.kind = 3 then o.tile.2.2 / 8 else 8 * m.tiles.length)) ∧
      -- integer sums wrap (R82)
      (∀ m la lb w, o.kind ≠ 3 → o.start = none → o.fetch = none → o.entered + 2 ≤ k.cyc + 1 → o.chained = false → o.shape = 0 → o.members = [m] →
        m.tiles = [0] → s.warp? c m.slot = some w → o.a = .rows la → o.b = .rows lb → la.length = 3072 → lb.length = 3072 → o.fmt / 256 % 4 = 1 →
        (o.fmt % 16 = 7 ∨ o.fmt % 16 = 8) → (o.fmt / 16 % 16 = 7 ∨ o.fmt / 16 % 16 = 8) → (∀ y ∈ (k.quad q).matrix, y.id < o.id → y.kind = 3) →
        let int (code : Nat) (b : Byte) : Int := if code = 8 then b.toNat else b.toInt
        Becomes (.matrixStart c q o.id) s fun t => ∃ o', byId t o' ∧ o' = { o with start := some (k.cyc + 1), result := o'.result } ∧
          ∀ i j, i < 16 → j < 16 → ((o'.result.getD (16 * i + j) 0 : Nat) : Int) =
            (((w.regWord (m.acc + j % 8) ((w.lanesByLid 0xFF).getD (2 * i + j / 8) 0)).toNat : Int) +
              ((List.range 192).map (fun n => int (o.fmt % 16) (la.getD (192 * i + n) 0) * int (o.fmt / 16 % 16) (lb.getD (192 * j + n) 0))).sum) % 2 ^ 32) ∧
      -- float sums are added group by group in ascending k, and rounded after each (R79 to R81)
      (∀ m la lb w, o.kind ≠ 3 → o.start = none → o.fetch = none → o.entered + 2 ≤ k.cyc + 1 → o.chained = false → o.shape = 0 → o.members = [m] →
        m.tiles = [0] → s.warp? c m.slot = some w → o.a = .rows la → o.b = .rows lb → la.length = 3072 → lb.length = 3072 → o.fmt / 256 % 4 = 0 →
        o.fmt % 16 ≤ 6 → o.fmt / 16 % 16 ≤ 6 → elemBits (o.fmt % 16) = elemBits (o.fmt / 16 % 16) → (∀ y ∈ (k.quad q).matrix, y.id < o.id → y.kind = 3) →
        let scale (l : List Byte) (lane g : Nat) : Nat := if o.fmt / 1024 % 4 = 0 ∨ elemBits (o.fmt % 16) = 16 then 127
          else (l.getD (16 * lane + if o.fmt / 1024 % 4 = 2 then 0 else g) 0).toNat
        Becomes (.matrixStart c q o.id) s fun t => ∃ o', byId t o' ∧ o' = { o with start := some (k.cyc + 1), result := o'.result } ∧
          ∀ i j, i < 16 → j < 16 → FloatElement (o.fmt % 16) (o.fmt / 16 % 16) (elementCode (o.fmt % 16) la (192 * i)) (elementCode (o.fmt / 16 % 16) lb (192 * j))
            (scale o.scaleA i) (scale o.scaleB (16 + j))
            (w.regWord (m.acc + j % 8) ((w.lanesByLid 0xFF).getD (2 * i + j / 8) 0)).toNat (o'.result.getD (16 * i + j) 0)) ∧
      (∀ m st w, o.start = some st → st + 100 ≤ k.cyc + 1 → o.members = [m] → m.tiles = [0] → m.acc + 8 ≤ 192 → s.warp? c m.slot = some w →
        w.lanes.length = 32 → Becomes (.matrixWriteback c q o.id) s fun t => gone t ∧ ∃ w', Rewrites c m.slot s t w' ∧ w' = { w with lanes := w'.lanes } ∧
          (∀ i j, i < 16 → j < 16 → w'.regWord (m.acc + j % 8) ((w.lanesByLid 0xFF).getD (2 * i + j / 8) 0) = BitVec.ofNat 32 (o.result.getD (16 * i + j) 0)) ∧
          ∀ code l, (code < m.acc ∨ m.acc + 8 ≤ code) → w'.regWord code l = w.regWord code l))

/-- R57, R111, R141, R204, R282, R283, R295, R296, R398. What a waiting warp meets: a REGANG's timeout joins the groups that wait there; a
WFUSE without a partner and a FLASH go on once the counters are 0; an access that has returned writes its registers and its counter falls;
an acknowledgement is one less to wait for; a MONW answers, parks, or wakes by a write notice or its bound; a walk fills the TLB.
The format and the ready time of the group that a REGANG's timeout makes, and the cycle from which it counts, are the model's choice (log
entry 91), and so is when a write notice comes before a bound; that a MONW parks when its reply comes is the model's reading (log entry 39). -/
def Obligations.WarpSteps : Prop :=
  ∀ (s : State) (c p : Nat) (k : Core) (w : Warp), s.core? c = some k → s.warp? c p = some w →
    let moved (l : Rendezvous) (w' : Warp) : Prop := ∀ i, inMask l.mask i = true → i < w.slices.length →
      (w'.slice i).pc = BitVec.ofNat 48 ((w.pcOf l.mask + l.instr.length) % 2 ^ 48 / 4 * 4)
    let woken (w' : Warp) (r : Nat) : Prop := w' = { w with
      park := .none, faulted := none, lease := { w.lease with st := .waiting, waitFrom := k.cyc },
      groups := w.groups.map (fun y => if y.prog.stage = 9 then { y with hold := .none, prog := { stage := 10, vals := [r] } } else y) }
    (∀ a b m ta tb lim d pc, w.groups = [a, b] → a.hold = .regang m ta lim d → b.hold = .regang m tb lim d → a.mask &&& b.mask = 0 → a.mask ≠ 0 → b.mask ≠ 0 →
      w.pcOf a.mask = pc → w.pcOf b.mask = pc → lim ≠ 0 → min ta tb + lim ≤ k.cyc → 192 ≤ d.toNat → d.toNat < 252 → w.undelivered = [] → w.slices.length = 8 →
      Becomes (.regangTimeout c p pc) s fun t => ∃ w', Rewrites c p s t w' ∧
        w'.groups = [{ mask := a.mask ||| b.mask, readyAt := max a.readyAt b.readyAt, held := a.held || b.held }] ∧ w'.regWord d.toNat scalarLane = (a.mask ||| b.mask).setWidth 32 ∧
        ∀ i, i < 8 → inMask (a.mask ||| b.mask) i = true → w'.slice i =
          { pc := BitVec.ofNat 48 ((pc + b.prog.note / 4096) % 2 ^ 48 / 4 * 4), fmt := BitVec.ofNat 12 (b.prog.note % 4096) }) ∧
    (∀ l f, w.latch = some l → l.instr = .wfuse f → l.entered = false → w.paths.allZero = true → s.warp? c l.partner = none → 192 ≤ f.dst.toNat →
      f.dst.toNat < 252 → Becomes (.wfuseLatchEntry c p) s fun t => ∃ w', Rewrites c p s t w' ∧ w'.latch = none ∧ moved l w' ∧ w'.lanes = w.lanes ∧
        w'.regWord f.dst.toNat scalarLane = BitVec.ofNat 32 (2 ^ 9 + (w.lanes.filter (fun l => !l.exited)).length)) ∧
    (∀ l f, w.latch = some l → l.instr = .flash f → w.paths.allZero = true → w.region.active = false → w.undelivered = [] →
      Becomes (.flashLatch c p) s fun t => ∃ w', Rewrites c p s t w' ∧ w'.latch = none ∧ moved l w' ∧ w'.lanes = w.lanes ∧ w'.s = w.s ∧
        w'.flash = {
          valid := true, pc := BitVec.ofNat 48 ((w.pcOf l.mask + l.instr.length) % 2 ^ 48), nv := l.vals.getD 0 0, ns := l.vals.getD 1 0,
          label := f.modi.toNat, fmt := w.fmtOf l.mask, mode := w.mode,
          lanes := w.lanes.map (fun y => { p := y.p, nest := y.nest, exited := y.exited }) } ∧
        (w.preempt.isSome = true → .flashbackSave c p ∈ t.pending)) ∧
    (∀ a rest, w.accesses = a :: rest → a.needs = [] → a.returned = false → a.refused = false → a.preds = [] → a.kind ≠ .image → w.region.active = false →
      (∀ b ∈ rest, b.id ≠ a.id ∧ (b.path = a.path → b.returned = false)) → (a.results.map Prod.fst).Nodup →
      ((a.dst + a.regs ≤ 192 ∧ ∀ e ∈ a.results, e.1 < w.lanes.length) ∨ (192 ≤ a.dst ∧ a.dst + a.regs ≤ 252 ∧ a.results.length ≤ 1)) →
      Becomes (.accessReturn c p a.id) s fun t => ∃ w', Rewrites c p s t w' ∧ HoldsRun w' a.dst a.regs a.results ∧
        w' = { w with lanes := w'.lanes, s := w'.s, accesses := rest, paths := w.paths.set a.path (w.paths.get a.path - 1), uncovered := w'.uncovered } ∧
        (∀ code l, (code < a.dst ∨ a.dst + a.regs ≤ code) → w'.regWord code l = w.regWord code l) ∧
        (w.over = true → w'.paths.allZero = true → (∀ y ∈ w.groups, y.prog.stage = 0) → .warpEnd c p ∈ t.pending)) ∧
    (∀ id, Becomes (.writeBackAcknowledgement c p id) s fun t => t = { s with cores := t.cores, pending := t.pending } ∧
      Rewrites c p s t { w with
        groups := w.groups.map (fun y => if y.hold = .acks then
          { y with prog := { y.prog with acks := y.prog.acks.filter (fun a => decide (a ≠ id)) } } else y) }) ∧
    (∀ line e, w.park = .monitor line (some e) → w.behind = [] → e ≤ k.cyc → .writeNotice c line ∉ s.pending → Becomes (.monwBoundExpiry c p) s fun t => ∃ w', Rewrites c p s t w' ∧ woken w' 0) ∧
    (∀ line e, w.park = .monitor line e → w.behind = [] → Becomes (.writeNotice c line) s fun t => t.mem = s.mem ∧ (∃ w', t.warp? c p = some w' ∧ woken w' 1) ∧
      ((k.warps.map Prod.fst).Nodup → ∀ q v, s.warp? c q = some v → (∀ x, ParkReason.monitor line x ∉ v.causes) →
        t.warp? c q = some v)) ∧
    -- the reply is for the group whose check has read this value
    (∀ y line expected bound n (v : DWord), w.groups = [y] → y.prog.stage = 8 → y.prog.vals = [line, expected, bound, v.toNat, n] →
      (v.toNat ≠ expected → Becomes (.monwCheckReply c p v) s fun t => Rewrites c p s t { w with
        groups := [{ y with hold := .none, prog := { stage := 10, vals := [1] } }] }) ∧
      (v.toNat = expected → w.park = .none → k.monitors.length < Config.monitorEntries → Becomes (.monwCheckReply c p v) s fun t => ∃ w' k',
        Rewrites c p s t w' ∧ t.core? c = some k' ∧ w'.park = .monitor line (if bound = 0 then none else some (bound - 1)) ∧ w'.lease.st = .parked ∧
        (∃ m ∈ k'.monitors, m.line = line ∧ m.tenant = w.tenant))) ∧
    -- a walk reads the words of the tables at their primary copies, then fills the TLB
    (∀ tenant page pte bits k1,
      let s1 := (s.lookup c tenant (page * 2 ^ 17)).read.foldl (fun s a => (s.readFor tenant (a / 128) [a / 64 % 2]).1) (s.taken (.tlbWalk c tenant page))
      s1.core? c = some k1 → (s1.lookup c tenant (page * 2 ^ 17)).walk = .page pte bits → Becomes (.tlbWalk c tenant page) s fun t =>
        t = { s1 with cores := t.cores, caches := t.caches } ∧ (∀ d, d ≠ c → t.core? d = s1.core? d) ∧ ∃ k', t.core? c = some k' ∧ k' = { k1 with tlb := k'.tlb } ∧
          ∃ y ∈ k'.tlb, y.tenant = tenant ∧ y.bits = bits ∧ y.pte = pte ∧ y.va = page * 2 ^ 17 / 2 ^ bits * 2 ^ bits)

/-- R254 to R269, R272, R296, R403, R406, R432. What Caldera does with a line: it serves reads and writes, fills an Absent line, moves a line
in three steps, collapses replicas; its units wait behind the work of higher classes unless they are forced; and how errors take a row, a
bank, a channel or a core away.
Which lines may leave, what a scrub's address names and what retirements wait for are the model's (log entries 51, 52, 67, 68 and 70), and so
are the map from lines to rows and banks of rows, what a full cool-down lane stops, and when a row's count starts anew (log entries 13 and 97). -/
def Obligations.CalderaSteps : Prop :=
  (∀ (s : State) (line : Nat) (d : DirLine), s.dir? line = some d →
    let only (t : State) : Prop := t = { s with caldera := { s.caldera with lines := t.caldera.lines }, pending := t.pending }
    -- requests at a line that is present
    (∀ id r, SMap.get? id s.caldera.requests = some r → r.line = line → s.olderRequest id r = false → d.st = .resident →
      (∀ me, s.grantedTo line me = false) → d.h0 = 0 → d.h1 = 0 → hostLine line = false → d.rmask = [] →
      (∀ w a, r.kind = .read false → r.hint = 0 → SMap.get? (reticleOf r.core) d.replicas = none → s.warp? r.core r.slot = some w →
        w.access? r.access = some a → r.access ≠ 0 → a.needs = [needCaldera id] →
        Becomes (.calderaRequest id) s fun t => t.mem = s.mem ∧ SMap.get? id t.caldera.requests = none ∧ .accessReturn r.core r.slot r.access ∈ t.pending ∧
          ∃ w' a', t.warp? r.core r.slot = some w' ∧ w'.access? r.access = some a' ∧ a'.needs = [] ∧ ∀ b, b / 32 = 4 * line + r.sector → r.sector < 4 →
            (∃ p ∈ a.parts, p.2.1 ≤ b ∧ b < p.2.1 + p.2.2) → SMap.get? b a.bytes = none → SMap.get? b a'.bytes = some (Memory.read s.mem b)) ∧
      (r.kind = .write false → (r.bytes.map Prod.fst).Nodup →
        Becomes (.calderaRequest id) s fun t => SMap.get? id t.caldera.requests = none ∧
          (∀ b, Memory.read t.mem b = (SMap.get? b r.bytes).getD (Memory.read s.mem b)) ∧
          (∃ d', t.dir? line = some d' ∧ ∀ e ∈ r.bytes, e.1 / 32 ∈ d'.dirty) ∧ ∀ c ∈ d.watch, .writeNotice c line ∈ t.pending)) ∧
    -- a move
    (∀ g, d.mtgt = some g →
      (d.st = .resident → g ≠ d.hold → s.trackedLine line = false → d.hostHeld = false → d.fixed line = false → d.rmask = [] →
        ((s.bank g).lru.filter (fun l => decide (Machine.setOf l = Machine.setOf line))).length + s.waysKept g line < Config.bankWays →
        s.higherAt 3 d.hold = false → Becomes (.moveStart line) s fun t => only t ∧ t.dir? line = some { d with st := .moving } ∧ .moveInstall line ∈ t.pending) ∧
      (d.st = .moving → s.higherAt 3 g = false → Becomes (.moveInstall line) s fun t => t.mem = s.mem ∧ t.dir? line = some d ∧ (t.bank g).lru.head? = some line ∧
        .moveComplete line ∈ t.pending) ∧
      (d.st = .moving → line ∈ (s.bank g).lru → d.held = [] → Becomes (.moveComplete line) s fun t => t.mem = s.mem ∧
        t.dir? line = some { d with hold := g, st := .resident, mtgt := none } ∧ (d.hold ≠ g → line ∉ (t.bank d.hold).lru))) ∧
    -- replicas, and their collapse
    (∀ ret, d.st ≠ .collapsing → SMap.get? ret d.replicas = none → Becomes (.replicaDropNotice line ret) s fun t => only t ∧
      t.dir? line = some { d with rmask := d.rmask.filter (fun x => decide (x ≠ ret)) }) ∧
    (d.st = .resident → d.rmask ≠ [] → s.higherAt 2 (s.anchor line) = false → Becomes (.collapse line) s fun t => only t ∧
      t.dir? line = some { d with st := .collapsing, unacked := d.rmask } ∧ ∀ x ∈ d.rmask, .replicaInvalidation line x ∈ t.pending) ∧
    (∀ ret, d.st = .collapsing → ret ∈ d.unacked → s.higherAt 2 (s.standIn line ret) = false → Becomes (.replicaInvalidation line ret) s fun t => t.mem = s.mem ∧
      t.dir? line = some { d with replicas := SMap.del ret d.replicas } ∧ .collapseAck line ret ∈ t.pending) ∧
    (∀ ret, d.st = .collapsing → ret ∈ d.unacked → SMap.get? ret d.replicas = none →
      ((∃ x ∈ d.unacked, x ≠ ret) → Becomes (.collapseAck line ret) s fun t => only t ∧
        t.dir? line = some { d with unacked := d.unacked.filter (fun x => decide (x ≠ ret)) }) ∧
      ((∀ x ∈ d.unacked, x = ret) → d.held = [] → d.writers = [] → (s.bank (s.anchor line)).visits = [] → Becomes (.collapseAck line ret) s fun t =>
        only t ∧ t.dir? line = some { d with rmask := [], unacked := [], st := .resident })) ∧
    (4096 ≤ ((s.bank (s.anchor line)).count + 2 ^ 13 - d.astamp) % 2 ^ 13 → Becomes (.anchorUnpin line) s fun t => only t ∧
      t.dir? line = some { d with apin := false })) ∧
  -- an Absent line, and the channel behind it
  (∀ (s : State) (line id : Nat) (r : Request), s.dir? line = none → SMap.get? id s.caldera.requests = some r → r.line = line → r.kind = .read false →
    let ch := s.hbm.channelOf (128 * line)
    let row := hbmRow (128 * line)
    let set (l : List Nat) : List Nat := l.filter (fun x => decide (Machine.setOf x = Machine.setOf line))
    (SMap.get? line s.caldera.fills = none → Becomes (.calderaRequest id) s fun t => t.mem = s.mem ∧ t.dir? line = none ∧
      SMap.get? id t.caldera.requests = some r ∧ SMap.get? line t.caldera.fills = some [id] ∧ .calderaFill line ∈ t.pending) ∧
    (SMap.get? line s.caldera.fills = some [id] → hostLine line = false → s.hbm.buffered line = [] → SMap.get? line s.caldera.hostHeld = none →
      (r.tenant ∈ (s.hbm.channel ch).stopped ∨ s.modul.stopped = true → Becomes (.calderaFill line) s fun t =>
        t = { s with pending := t.pending, later := t.later } ∧ .calderaFill line ∈ t.later) ∧
      (r.tenant ∉ (s.hbm.channel ch).stopped → s.modul.stopped = false →
      ((s.hbm.channel ch).limited s.rowLimit row = false → (set (s.bank (s.anchor line)).lru).length + s.waysKept (s.anchor line) line < Config.bankWays →
        (set (s.bank (s.anchor line)).tags).length < Config.bankWays → s.olderRequest id r = false → (∀ me, s.grantedTo line me = false) → r.hint = 0 →
        Becomes (.calderaFill line) s fun t => t.mem = s.mem ∧ SMap.get? id t.caldera.requests = none ∧ ∃ d, t.dir? line = some d ∧
          d.hold = s.anchor line ∧ d.st = .resident ∧ d.rmask = [] ∧ d.pin = false ∧ d.stream = false ∧ d.rpos = (s.bank (s.anchor line)).floor ∧
          d.wpos = (s.bank (s.anchor line)).floor ∧ SMap.get 0 row (t.hbm.channel ch).acts = SMap.get 0 row (s.hbm.channel ch).acts + 1) ∧
      ((s.hbm.channel ch).limited s.rowLimit row = true → ((s.hbm.channel ch).lane row).length < 16 → Becomes (.calderaFill line) s fun t =>
        t = { s with hbm := t.hbm, pending := t.pending } ∧ (t.hbm.channel ch).cool = (s.hbm.channel ch).cool ++ [line] ∧
          .rowCooldownRelease ch ∈ t.pending) ∧
      ((s.hbm.channel ch).limited s.rowLimit row = true → 16 ≤ ((s.hbm.channel ch).lane row).length → Becomes (.calderaFill line) s fun t =>
        r.tenant ∈ (t.hbm.channel ch).stopped ∧ (t.hbm.channel ch).cool = (s.hbm.channel ch).cool ∧ SMap.get? id t.caldera.requests = some r)))) ∧
  (∀ (s : State) (ch : Nat),
    (∀ line rest, (s.hbm.channel ch).cool = line :: rest → Becomes (.rowCooldownRelease ch) s fun t => t = { s with hbm := t.hbm, pending := t.pending } ∧
      (t.hbm.channel ch).cool = rest ∧ (t.hbm.channel ch).stopped = [] ∧ SMap.get? (hbmRow (128 * line)) (t.hbm.channel ch).acts = none ∧
      .calderaFill line ∈ t.pending) ∧
    -- each row that the buffer drains to is activated once; what goes to a row at its limit stays
    (let kept (e : Nat × NSet) : Bool := (s.hbm.channel ch).limited s.rowLimit (hbmRow (128 * e.1))
     s.modul.stopped = false → Becomes (.wcBufferDrain ch) s fun t =>
        t = { s with hbm := t.hbm, modul := { s.modul with errors := t.modul.errors, records := t.modul.records }, pending := t.pending } ∧
        (t.hbm.channel ch).combine = (s.hbm.channel ch).combine.filter kept ∧
        ∀ row, SMap.get 0 row (t.hbm.channel ch).acts = SMap.get 0 row (s.hbm.channel ch).acts +
          (if (s.hbm.channel ch).combine.any (fun e => !kept e && decide (hbmRow (128 * e.1) = row)) then 1 else 0)) ∧
    (∀ j, s.hbm.placeOf ch = some j → (s.hbm.entry j).st = 0 → Becomes (.channelRetirement ch) s fun t =>
      t = { s with
        hbm := { s.hbm with list := t.hbm.list, lost := t.hbm.lost, rewritten := t.hbm.rewritten, retired := t.hbm.retired },
        modul := { s.modul with reports := t.modul.reports }, pending := t.pending } ∧
      t.hbm.entry j = { st := 2, ch := ch } ∧ t.hbm.retired = s.hbm.retired ++ [j] ∧
      -- a second lasting fault in a group: every stripe of it is poisoned data
      (∀ i, i < Config.participating → i ≠ j → i / 32 = j / 32 → (s.hbm.entry i).st = 2 → SMap.get? (j / 32) t.hbm.lost = some 0) ∧ (∀ i, i ≠ j → t.hbm.entry i = s.hbm.entry i) ∧
      t.modul.reports = s.modul.reports ++ (if t.hbm.overdrawn then [.degraded ch] else [])) ∧
    (∀ j x, s.hbm.moving = none → s.hbm.degraded = some j → s.hbm.reserve = some x → j ≠ x → s.modul.stopped = false →
      (∀ g ∈ s.moveBanks, s.higherAt 4 g = false) → Becomes .reinterleaveUnit s fun t => t.mem = s.mem ∧
      t.hbm.before = [(j, s.hbm.entry j)] ∧ t.hbm.watermark = 1 ∧ t.hbm.entry j = { st := 0, ch := (s.hbm.entry x).ch } ∧
      t.hbm.entry x = { st := 3, ch := (s.hbm.entry j).ch }) ∧
    (∀ j old, s.hbm.moving = some (j, old) → s.modul.stopped = false → (∀ g ∈ s.moveBanks, s.higherAt 4 g = false) → Becomes .reinterleaveUnit s fun t =>
      t.mem = s.mem ∧ t.hbm.watermark = s.hbm.watermark + 1 ∧ t.hbm.before = if 2 ^ 23 ≤ s.hbm.watermark + 1 then [] else s.hbm.before) ∧
    -- work of a higher class waits at its bank
    (∀ g, g ∈ s.moveBanks → s.higherAt 4 g = true → Becomes .reinterleaveUnit s fun t => t = { s with pending := t.pending } ∧ t.hbm = s.hbm)) ∧
  (∀ (s : State) (g : Nat),
    ((s.bank g).live = true → s.entriesOn (s.linesAt g) = [] → (∀ e ∈ s.caldera.lines, e.2.st ≠ .moving ∧ e.2.mtgt ≠ some g) →
      Becomes (.bankRetirement g) s fun t => t.mem = s.mem ∧ (t.bank g).live = false ∧ (t.bank g).redir = true ∧ g ∈ t.modul.retiredBanks ∧
        ∀ line d, s.dir? line = some d → (d.hold = g ∨ s.anchor line = g) → t.dir? line = none) ∧
    -- a forced unit is the oldest of its class at the bank: it runs as it would where no work of a higher class waits
    (∀ cls u, cls ≠ 4 → s.pending.find? (fun e => s.unitBank e == some (cls, g)) = some u → s.higherAt cls g = false →
      Becomes (.forcedUnit g cls) s fun t => exec u (s.taken (.forcedUnit g cls)) = .next t) ∧
    -- and it runs where such work waits too: a collapse, an invalidation, the start and the installation of a move
    (∀ line d, s.dir? line = some d →
      (d.st = .resident → d.rmask ≠ [] → s.pending.find? (fun e => s.unitBank e == some (2, g)) = some (.collapse line) →
        Becomes (.forcedUnit g 2) s fun t => t.dir? line = some { d with st := .collapsing, unacked := d.rmask } ∧
          ∀ x ∈ d.rmask, .replicaInvalidation line x ∈ t.pending) ∧
      (∀ ret, d.st = .collapsing → ret ∈ d.unacked → s.pending.find? (fun e => s.unitBank e == some (2, g)) = some (.replicaInvalidation line ret) →
        Becomes (.forcedUnit g 2) s fun t => t.dir? line = some { d with replicas := SMap.del ret d.replicas } ∧ .collapseAck line ret ∈ t.pending) ∧
      (∀ h, d.mtgt = some h → d.st = .resident → h ≠ d.hold → s.trackedLine line = false → d.hostHeld = false → d.fixed line = false → d.rmask = [] →
        ((s.bank h).lru.filter (fun l => decide (Machine.setOf l = Machine.setOf line))).length + s.waysKept h line < Config.bankWays →
        s.pending.find? (fun e => s.unitBank e == some (3, g)) = some (.moveStart line) →
        Becomes (.forcedUnit g 3) s fun t => t.dir? line = some { d with st := .moving } ∧ .moveInstall line ∈ t.pending) ∧
      (d.mtgt = some g → d.st = .moving → s.pending.find? (fun e => s.unitBank e == some (3, g)) = some (.moveInstall line) →
        Becomes (.forcedUnit g 3) s fun t => t.dir? line = some d ∧ (t.bank g).lru.head? = some line ∧ .moveComplete line ∈ t.pending)) ∧
    -- of class 4: a scrub that waits at the bank, else the re-interleave of a granule of it
    (∀ tg found, s.caldera.scrubs.find? (fun e => ScrubTarget.bank? e.1 == some g) = some (tg, found) → Becomes (.forcedUnit g 4) s fun t =>
      t.mem = s.mem ∧ t.caldera.scrubs = s.caldera.scrubs.erase (tg, found)) ∧
    (∀ j old, s.caldera.scrubs.find? (fun e => ScrubTarget.bank? e.1 == some g) = none → s.hbm.moving = some (j, old) → s.modul.stopped = false →
      g ∈ s.moveBanks → Becomes (.forcedUnit g 4) s fun t => t.mem = s.mem ∧ t.hbm.watermark = s.hbm.watermark + 1) ∧
    -- the scrub of a bank: a corrected error, and one in a dirty sector
    (∀ lasting, let count (s : State) (k : Nat) : Nat := (SMap.get 0 (0x11100000 + 0x20 * g + k) s.modul.errors).toNat
      let kind := if lasting then 0x14 else 0x10
      let up (n : Nat) : Nat := min (n + 1) (2 ^ 32 - 1)
      let after (t : State) (k : Nat) : Prop := count t k = up (count s k) ∧ count t kind = up (count s kind) ∧
        (lasting = true → .bankRetirement g ∈ t.pending) ∧ t.mem = s.mem
      let first := s.higherAt 4 g = false ∧ s.caldera.scrubs.find? (fun e => ScrubTarget.bank? e.1 == some g) = none
      (first → Becomes (.scrubUnit (.bank g) (.corrected lasting)) s fun t => t.poison = s.poison ∧ after t 4) ∧
      (∀ addr d, first → s.dir? (addr / 128) = some d → addr / 32 ∈ d.dirty →
        Becomes (.scrubUnit (.bank g) (.uncorrectable lasting addr)) s fun t => (∀ k, k ∈ t.poison ↔ k ∈ s.poison ∨ k = addr / 32) ∧ after t 8) ∧
      (first → Becomes (.scrubUnit (.bank g) .clean) s fun t => t = s)) ∧
    -- a scrub at a bank where work of a higher class waits, waits there
    (∀ found, s.higherAt 4 g = true → Becomes (.scrubUnit (.bank g) found) s fun t =>
      t = { s with caldera := { s.caldera with scrubs := s.caldera.scrubs ++ [(.bank g, found)] } })) ∧
  ∀ (s : State) (c : Nat) (k : Core), s.core? c = some k → k.st = 0 → k.blocks = [] → Becomes (.coreRetirement c) s fun t =>
    t = { s with cores := t.cores, modul := { s.modul with probation := t.modul.probation }, pending := t.pending } ∧
      t.core? c = some { k with st := 3, lnum := 0xFFFF } ∧ c ∈ t.modul.probation ∧ ∀ x, x ≠ c → t.core? x = s.core? x

/-- R305, R306, R310, R315 to R324, R354 to R359. What banks and regions tell each other: tracked reads and intents make entries, a NARROW
narrows, a commit visits its banks and is granted, FINAL writes and frees, an abort restores the latch; the messages to a stage queue's header;
and the copy engine's elements and its end.
One element a step of the copy engine and one record a step of a queue are the model's (log entries 59 and 62). -/
def Obligations.RegionAndQueueSteps : Prop :=
  (∀ (s : State) (region : Nat) (w : Warp), s.regionWarp? region = some w →
    let c := regionCore region
    let p := regionSlot region
    let due (t : State) : Prop := .regionAbort c p ∈ t.pending
    (∀ id line d r, SMap.get? id s.caldera.requests = some r → s.dir? line = some d → r.line = line → r.core = c → r.slot = p →
      s.olderRequest id r = false → d.st = .resident → d.rmask = [] → d.h0 = 0 → d.h1 = 0 → d.wpos ≠ 0xFFFFFFFFFFFFFFFF →
      (∀ e ∈ (s.bank (s.anchor line)).conflicts, e.line ≠ line) → (s.bank (s.anchor line)).conflicts.length < Config.conflictEntries →
      let entered (t : State) (e : Conflict) : Prop := t.mem = s.mem ∧ SMap.get? id t.caldera.requests = none ∧
        (t.bank (s.anchor line)).entry? region line = some e ∧ e.hi.toNat ≤ r.hi.toNat ∧ e.grant = false
      (r.kind = .tracked region → Becomes (.regionTrackedRead id) s fun t => ∃ e w', entered t e ∧ e.read = true ∧ e.write = false ∧
        e.rver = d.wpos ∧ e.lo.toNat = max r.lo.toNat (d.wpos.toNat + 1) ∧ t.warp? c p = some w' ∧
        SMap.get? line w'.region.reads = some (Memory.lineData s.mem line)) ∧
      (r.kind = .intent region → Becomes (.writeIntent id) s fun t => ∃ e, entered t e ∧ e.read = false ∧ e.write = true ∧ e.lo = r.lo)) ∧
    (∀ m : NarrowMsg, m.region = region → m.type = 1 →
      (w.region.rigid = true → Becomes (.narrowMsg m) s fun t => due t ∧
        Rewrites c p s t { w with region := { w.region with cause := some (w.region.cause.getD (1, 0)) } }) ∧
      (w.region.rigid = false → (∀ q ∈ w.region.partners, q.region ≠ m.partner) → w.region.partners.length < 16 → Becomes (.narrowMsg m) s fun t =>
        ∃ w', Rewrites c p s t w' ∧ w'.region.alo.toNat = max w.region.alo.toNat m.lo.toNat ∧ w'.region.ahi.toNat = min w.region.ahi.toNat m.hi.toNat ∧
          w'.region.partners = w.region.partners ++
            (if m.partner = 0x7FF * 2 ^ 13 then [] else [{ region := m.partner, fol := m.fol, pre := m.pre }]) ∧
          (w'.region.ahi.toNat < w'.region.alo.toNat → due t))) ∧
    (∀ bank k, s.core? c = some k → w.region.toVisit.head? = some bank → (∀ v ∈ (s.bank bank).visits, v.region ≠ region) →
      Becomes (.commitVisit region bank) s fun t => t = { s with caldera := { s.caldera with banks := t.caldera.banks }, pending := t.pending } ∧
        .commitGrant region bank ∈ t.pending ∧ ∃ v, (t.bank bank).visits = (s.bank bank).visits ++ [v] ∧ v.region = region ∧ v.granted = false ∧
          (∀ l, l ∈ v.lines ↔ ∃ e ∈ (s.bank bank).conflicts, e.region = region ∧ e.line = l) ∧
          ∀ l ∈ k.l1, l.lock = some p → s.anchor l.line = bank → (∀ l' ∈ k.l1, l'.lock = some p → l'.line = l.line → l' = l) →
            ∀ i, i < 128 → l.dirty.getLsbD i = true → SMap.get? (128 * l.line + i) v.bytes = some (l.data.extractLsb' (8 * i) 8)) ∧
    (∀ bank v, (s.bank bank).visits.find? (fun v => decide (v.region = region)) = some v → w.region.granted.contains bank = false →
      (v.granted = true ∨ (s.bank bank).mayGrant v = true) →
      (∀ e ∈ (s.bank bank).conflicts, e.region = region → e.write = true → ∀ d, s.dir? e.line = some d →
        d.rmask = [] ∧ d.st = .resident ∧ d.h0 = 0 ∧ d.h1 = 0) →
      Becomes (.commitGrant region bank) s fun t => t.mem = s.mem ∧ ∃ w', Rewrites c p s t w' ∧
        (∀ e ∈ (t.bank bank).conflicts, e.region = region → e.grant = true) ∧
        w'.region.toVisit = w.region.toVisit.drop 1 ∧ bank ∈ w'.region.granted ∧ w.region.floor ≤ w'.region.floor ∧
        (∀ e ∈ (s.bank bank).conflicts, e.region = region → w'.region.ceiling ≤ e.hi.toNat ∧ (e.write = false → e.rver.toNat < w'.region.floor) ∧
          (e.write = true → ∀ d, s.dir? e.line = some d → d.wpos.toNat < w'.region.floor ∧ d.rpos.toNat < w'.region.floor)) ∧
        (∀ b rest, w.region.toVisit.drop 1 = b :: rest → .commitVisit region b ∈ t.pending) ∧
        (w.region.toVisit.drop 1 = [] → ∀ y ∈ w'.groups, y.prog.stage ≠ 14)) ∧
    -- a half that the host holds of a line to be written is asked back first
    (∀ bank v, (s.bank bank).visits.find? (fun v => decide (v.region = region)) = some v → w.region.granted.contains bank = false →
      (v.granted = true ∨ (s.bank bank).mayGrant v = true) →
      let written (l : Nat) : Prop := ∃ e ∈ (s.bank bank).conflicts, e.region = region ∧ e.write = true ∧ e.line = l
      (∀ l d, written l → s.dir? l = some d → d.rmask = [] ∧ d.st = .resident) →
      (∃ l d, written l ∧ s.dir? l = some d ∧ d.hostStops l (v.halves l) true = true) →
      Becomes (.commitGrant region bank) s fun t => t.mem = s.mem ∧ t.warp? c p = some w ∧
        ∀ l d h, written l → s.dir? l = some d → h ∈ v.halves l → d.hostStops l [h] true = true → ∃ d', t.dir? l = some d' ∧ h ∈ d'.snooped) ∧
    (∀ other pos q, w.region.partners.find? (fun q => decide (q.region = other)) = some q → pos < 2 ^ 64 - 1 →
      Becomes (.finalAtPartner region other pos) s fun t => ∃ w', Rewrites c p s t w' ∧
        w'.region.alo.toNat = (if q.pre then max w.region.alo.toNat (pos + 1) else w.region.alo.toNat) ∧
        w'.region.ahi.toNat = (if q.fol then min w.region.ahi.toNat (pos - 1) else w.region.ahi.toNat) ∧
        (w'.region.ahi.toNat < w'.region.alo.toNat → due t))) ∧
  (∀ (s : State) (region bank : Nat), let held (lines : List Nat) : Prop := ∀ l ∈ lines, ∀ d, s.dir? l = some d → d.held = []
    let wrote (l : Nat) : Prop := ∃ e ∈ (s.bank bank).conflicts, e.region = region ∧ e.write = true ∧ e.line = l
    (∀ pos v, (s.bank bank).visits.find? (fun v => decide (v.region = region)) = some v → v.granted = true → held v.lines → (v.bytes.map Prod.fst).Nodup →
      Becomes (.finalMsg region bank pos) s fun t => (∀ e ∈ (t.bank bank).conflicts, e.region ≠ region) ∧
        (∀ b, wrote (b / 128) → Memory.read t.mem b = (SMap.get? b v.bytes).getD (Memory.read s.mem b)) ∧
        (∀ b, ¬wrote (b / 128) → Memory.read t.mem b = Memory.read s.mem b) ∧
        ∀ l d, s.dir? l = some d → ∃ d', t.dir? l = some d' ∧ (wrote l → d'.wpos = BitVec.ofNat 64 pos) ∧
          (¬wrote l → d'.wpos = d.wpos ∧ (l ∈ v.lines → pos < 2 ^ 64 → d'.rpos.toNat = max d.rpos.toNat pos))) ∧
    (s.regionWarp? region = none → (∀ e ∈ (s.bank bank).conflicts, e.region = region → ∀ d, s.dir? e.line = some d → d.held = []) →
      Becomes (.releaseMsg region bank) s fun t => t.mem = s.mem ∧ ∀ e, e ∈ (t.bank bank).conflicts ↔ e ∈ (s.bank bank).conflicts ∧ e.region ≠ region)) ∧
  (∀ (s : State) (c p : Nat) (w : Warp) (k : Core) (reason detail : Nat), s.core? c = some k → s.warp? c p = some w → w.region.cause = some (reason, detail) →
    w.trap = none → 0 < w.region.depth → Becomes (.regionAbort c p) s fun t => t.mem = s.mem ∧ (∀ k', t.core? c = some k' → ∀ l ∈ k'.l1, l.lock ≠ some p) ∧
      (∀ b ∈ s.banksOf (regionId c p w.region.epoch), .releaseMsg (regionId c p w.region.epoch) b ∈ t.pending) ∧
      ∃ w', Rewrites c p s t w' ∧ w'.groups = [{ mask := w'.liveMask }] ∧ w'.s = w.s ∧
        (∀ i, i < w.lanes.length → w'.lane i = let q := w.region.latch.getD i {}
          { w.lane i with p := q.p ||| 1, nest := q.nest, exited := q.exited }) ∧
        (∀ i, i < w.slices.length → (w'.slice i).fmt = w.region.latchFmt ∧
          (i < 8 → inMask w'.liveMask i = true → (w'.slice i).pc = BitVec.ofNat 48 (w.region.target.toNat / 4 * 4))) ∧
        SMap.get 0 reason w'.region.aborts = min (SMap.get 0 reason w.region.aborts + 1) 65535 ∧
        w'.region = { w.region with
          st := 4, depth := 0, partners := [], part := 0, reason := reason, detail := detail % 256, cause := none, aborts := w'.region.aborts, reads := [],
          writes := [], toVisit := [], granted := [], floor := 0, ceiling := 0 }) ∧
  -- the messages of stage queues that belong to no pipeline
  (∀ (s : State) (id : Nat) (m : StageMessage) (w : Warp) (a : Access), s.message? id = some m → s.warp? m.core m.slot = some w →
    w.access? m.access = some a → a.returned = false → s.behind id m = false → s.lineStops (lineOf m.header) true = false →
    let h := Memory.readNum s.mem m.header 128
    let now (t : State) : Nat := Memory.readNum t.mem m.header 128
    let next (slot : Nat) : Nat := if slot = hdrLast h then 0 else (slot + 1) % 2 ^ 16
    let apart (t : State) : Prop := ∀ b, ¬(m.header ≤ b ∧ b < m.header + 128) → Memory.read t.mem b = Memory.read s.mem b
    let same (t : State) : Prop := hdrBase (now t) = hdrBase h ∧ hdrLast (now t) = hdrLast h ∧ hdrClosed (now t) = hdrClosed h
    hdrPipe h = 0 →
    (∀ lane v rest, m.op = 0 → m.lanes = (lane, v) :: rest → s.message? s.launches.nextMessage = none →
      (hdrClosed h = false → hdrHeld h < hdrCap h → Becomes (.stagePush id) s fun t => apart t ∧ same t ∧
        hdrTail (now t) = (hdrTail h + 1) % 2 ^ 32 ∧ hdrTslot (now t) = next (hdrTslot h) ∧ hdrHead (now t) = hdrHead h ∧ hdrReady (now t) = hdrReady h ∧
        .stageRecordAck s.launches.nextMessage ∈ t.pending ∧
        t.message? s.launches.nextMessage = some { m with op := 2, lanes := [], bytes := bytesOf v (hdrSize h), place := hdrTslot h }) ∧
      (hdrClosed h = true → Becomes (.stagePush id) s fun t => t.mem = s.mem ∧ ∃ w' a', t.warp? m.core m.slot = some w' ∧
        w'.access? m.access = some a' ∧ a'.preds = a.preds ++ [(lane, (a.ops.headD (0, 0, 0, 0)).1, false)]) ∧
      (hdrClosed h = false → hdrCap h ≤ hdrHeld h → Becomes (.stagePush id) s fun t => t = { s with pending := t.pending })) ∧
    (let pa := m.ring + m.place * m.bytes.length
     m.op = 2 → m.place = hdrRslot h → (∀ e ∈ s.launches.messages, e.2.op ≠ 3) → s.spanStops pa m.bytes.length true = none →
      (pa + m.bytes.length ≤ m.header ∨ m.header + 128 ≤ pa) → Becomes (.stageRecordAck id) s fun t =>
        (∀ i, i < m.bytes.length → Memory.read t.mem (pa + i) = m.bytes.getD i 0) ∧ same t ∧ hdrReady (now t) = (hdrReady h + 1) % 2 ^ 32 ∧
        hdrRslot (now t) = next (hdrRslot h) ∧ hdrHead (now t) = hdrHead h ∧ hdrTail (now t) = hdrTail h ∧
        ∀ b, ¬(m.header ≤ b ∧ b < m.header + 128) → ¬(pa ≤ b ∧ b < pa + m.bytes.length) → Memory.read t.mem b = Memory.read s.mem b) ∧
    (let pa := m.ring + hdrHslot h * hdrSize h
     let preds (a : Access) (ended : Bool) : List (Nat × Nat × Bool) := let f := a.ops.headD (0, 0, 0, 0)
      a.parts.flatMap (fun q => [(q.1, f.1, (SMap.get? q.1 a.values).isSome), (q.1, f.2.1, ended), (q.1, f.2.2.1, false)])
     m.op = 1 → m.place = 0 → s.spanStops pa (hdrSize h) false = none →
      (∀ lane v rest, m.lanes = (lane, v) :: rest → hdrThere h ≠ 0 → Becomes (.stagePop id) s fun t => apart t ∧ same t ∧
        hdrHead (now t) = (hdrHead h + 1) % 2 ^ 32 ∧ hdrHslot (now t) = next (hdrHslot h) ∧ hdrTail (now t) = hdrTail h ∧ hdrReady (now t) = hdrReady h ∧
        ∃ w' a', t.warp? m.core m.slot = some w' ∧ w'.access? m.access = some a' ∧ SMap.get? lane a'.values = some (Memory.readNum s.mem pa (hdrSize h)) ∧
          (if min (hdrThere h) m.lanes.length = 1 then a'.preds = preds a' false else .stagePop id ∈ t.pending)) ∧
      (hdrThere h = 0 → hdrClosed h = true → hdrTail h = hdrHead h → Becomes (.stagePop id) s fun t => t.mem = s.mem ∧
        ∃ w' a', t.warp? m.core m.slot = some w' ∧ w'.access? m.access = some a' ∧ a'.preds = preds a true) ∧
      (hdrThere h = 0 → hdrClosed h = false → Becomes (.stagePop id) s fun t => t.mem = s.mem ∧
        ∃ w', t.warp? m.core m.slot = some w' ∧ w'.park = .queue m.header ∧ w'.behind = w.causes ∧ w'.lease.st = .parked))) ∧
  -- the copy engine: an element of a copy within the window, and the end of a command
  ∀ (s : State) (c q : Nat) (k : Core) (e : EngineCommand) (w : Warp), s.core? c = some k → k.currentCommand q = some e → s.warp? c e.slot = some w →
    (∀ b, let d := numOf e.desc
      let n := 2 ^ descEsz d
      let src := descAddr d e.next e.src dimSstr none
      let dst := descAddr d e.next e.dst dimDstr none
      e.done = false → e.op = 0 → e.flags = 0 → descSsp d = true → descDsp d = true → s.block? c w.block = some b → b.poison = [] → s.windowQuiet c b →
      -- its quadrant's turn: a new one, or one that has bytes left
      ((k.engineTurn.cyc ≠ some k.cyc ∧ ∀ p, p ≠ q → .engineCommand c p ∉ s.pending) ∨
        (k.engineTurn.cyc = some k.cyc ∧ k.engineTurn.quad = q ∧ n ≤ k.engineTurn.left)) →
      src % n = 0 → dst % n = 0 → src + n ≤ b.length → dst + n ≤ b.length → Becomes (.engineCommand c q) s fun t => t.mem = s.mem ∧
        (∃ b', t.block? c w.block = some b' ∧ ∀ i, SMap.get 0 i b'.window = if dst ≤ i ∧ i < dst + n then SMap.get 0 (src + (i - dst)) b.window
          else SMap.get 0 i b.window) ∧
        (e.next + 1 < descCount d → .engineCommand c (quadOf e.slot) ∈ t.pending ∧
          ∃ k', t.core? c = some k' ∧ { e with next := e.next + 1, got := [], acks := [] } ∈ k'.engine) ∧
        (descCount d ≤ e.next + 1 → .engineCommandDone c (quadOf e.slot) ∈ t.pending ∧
          ∃ k', t.core? c = some k' ∧ { e with next := e.next + 1, got := [], acks := [], done := true, stage := 0, returns := [] } ∈ k'.engine)) ∧
    -- one turn is served in a cycle
    (e.done = false → k.engineTurn.cyc = some k.cyc → (k.engineTurn.quad ≠ q ∨ k.engineTurn.left < 2 ^ descEsz (numOf e.desc)) →
      Becomes (.engineCommand c q) s fun t => t = { s with pending := t.pending, later := t.later } ∧ .engineCommand c q ∈ t.later) ∧
    -- with .rel, the accesses that the warp had issued before the command return first
    (e.done = true → e.stage = 1 → e.returns.all w.hasReturned = false → Becomes (.engineCommandDone c q) s fun t =>
      t = { s with pending := t.pending, later := t.later } ∧ .engineCommandDone c q ∈ t.later) ∧
    (∀ a, e.done = true → e.acks = [] → e.stage = 0 → e.peers = [] → w.access? e.access = some a → a.needs = [1] → Becomes (.engineCommandDone c q) s fun t =>
      t = { s with cores := t.cores, pending := t.pending } ∧ .accessReturn c e.slot e.access ∈ t.pending ∧
        ∃ k', t.core? c = some k' ∧ k'.engine = k.engine.filter (fun x => decide (x ≠ e)))

/-- R33, R37, R54, R59, R60, R142, R346, R350, R362 to R364, R426 to R429, R452 to R455. The life of a launch: its record is taken, a block
starts, a warp ends, the launch completes; the stop of a warp and of a block, and a block's return; the Nyrus Link's requests, responses and
time-outs, and those of other modules; the Ethernet ports.
The choice of slots, the order of peer requests and the form of an Ethernet record are the model's (log entries 57, 79 and 82). -/
def Obligations.LaunchAndLinkSteps : Prop :=
  -- the launch unit
  (∀ (s : State) (t q : Nat), s.modul.booted = true → s.nextQueue = some (t, q) →
    let k := (s.tenant t).queue q
    (∀ cause l, s.lookRecord t k = (.reject cause, l) → (s.tenant t).fqOn = false → Becomes .launchRecordTake s fun s' =>
      s'.launches.launches = s.launches.launches ∧ s'.mem = s.mem ∧ ((s'.tenant t).queue q).head = k.head + 1 ∧ ((s'.tenant t).queue q).tail = k.tail ∧
        bitsOf ((s'.tenant t).queue q).stat.toNat 15 0 = min (bitsOf k.stat.toNat 15 0 + 1) 0xFFFF ∧ (s'.tenant t).fqLost = satInc (s.tenant t).fqLost) ∧
    (∀ l, s.lookRecord t k = (.good [] [], l) → recPipe (numOf l) = false → Becomes .launchRecordTake s fun s' =>
      s'.mem = s.mem ∧ ((s'.tenant t).queue q) = { k with head := k.head + 1 } ∧ ∃ x, SMap.get? s.launches.nextLaunch s'.launches.launches = some x ∧
        x.tenant = t ∧ x.queue = q ∧ x.va = k.headAt ∧ x.record = l ∧ x.started = false ∧ x.failed = false ∧
        x.waiting.map Prod.fst = List.range (recBlocks (numOf l)))) ∧
  (∀ (s : State) (id block c ret : Nat) (l : Launch) (k : Core) (g : Grant), s.launch? id = some l → s.core? c = some k →
    l.waiting.find? (fun e => decide (e.1 = block)) = some (block, some ret) → l.pipeline = none → togetherLevel l.num = none → recTable l.num = 0 →
    s.placeIn l (s.keyBank l.num l.tenant block) ret = some (c, g) → g.slots.Nodup → Becomes (.blockStart id block c) s fun t => t.mem = s.mem ∧
      (∃ k' b, t.core? c = some k' ∧ SMap.get? k.nextBlock k'.blocks = some b ∧ b.launch = id ∧ b.tenant = l.tenant ∧ b.index = block ∧
        b.slots = g.slots ∧ b.banks = g.banks ∧ b.window = [] ∧ b.empty = [] ∧ b.poison = []) ∧
      (∃ l', t.launch? id = some l' ∧ l'.started = true ∧ (∀ e ∈ l'.waiting, e.1 ≠ block) ∧ l'.liveWarps = l.liveWarps + g.slots.length) ∧
      ∀ i p, g.slots[i]? = some p → ∃ w, t.warp? c p = some w ∧ w.tenant = l.tenant ∧ w.launch = id ∧ w.block = k.nextBlock ∧ w.index = i ∧
        w.lease.st = .waiting ∧ w.lease.decl = recLease l.num ∧ w.special.priv = false ∧
        w.regWord 192 scalarLane = BitVec.ofNat 32 (recParam l.num) ∧ w.regWord 193 scalarLane = BitVec.ofNat 32 (recParam l.num / 2 ^ 32) ∧
        (∀ j, j < 8 → w.slice j = { pc := BitVec.ofNat 48 (recEntry l.num), fmt := 0 }) ∧
        ∀ j, j < 32 → w.lane j = { lid := BitVec.ofNat 5 j, exited := decide (levelExtent (recLevel l.num 0) ≤ j) }) ∧
  (∀ (s : State) (c p : Nat) (k : Core) (w : Warp) (l : Launch), s.core? c = some k → SMap.get? p k.warps = some w → (∀ e ∈ k.warps, e.2.latch = none) →
    w.gang = 0 → s.launch? w.launch = some l → l.pipeline = none → w.atEnd = true → (s.tenant w.tenant).resetting = false → Becomes (.warpEnd c p) s fun t =>
      t.mem = s.mem ∧ t.warp? c p = none ∧ (∀ d r, d ≠ c ∨ r ≠ p → t.warp? d r = s.warp? d r) ∧ (∀ g ∈ t.sel, ¬(g.core = c ∧ g.slot = p)) ∧
      (∃ l', t.launch? w.launch = some l' ∧ l'.liveWarps = l.liveWarps - 1) ∧
      ((∀ e ∈ k.warps, e.1 ≠ p → e.2.block ≠ w.block) → t.block? c w.block = none) ∧
      (l.started = true → l.waiting = [] → l.liveWarps = 1 → .launchCompletion w.launch ∈ t.pending)) ∧
  (∀ (s : State) (id : Nat) (l : Launch), s.launch? id = some l → l.over = true →
    (l.flushed = false → l.cores = [] → Becomes (.launchCompletion id) s fun t => t.mem = s.mem ∧ t.tenants = s.tenants ∧
      ∃ l', t.launch? id = some l' ∧ l'.flushed = true) ∧
    (l.flushed = true → s.settled l.acks = true → s.launchCollapsed l = true → Becomes (.launchCompletion id) s fun t => t.mem = s.mem ∧
      t.launch? id = none ∧ ∀ n, let adds := ([0, 1].filter (fun i => decide (recInc l.num i = (true, n)))).length
        (t.tenant l.tenant).fence n = (s.tenant l.tenant).fence n + BitVec.ofNat 64 (if l.failed then 0 else adds))) ∧
  -- pre-emption
  (∀ (s : State) (c p : Nat) (k : Core) (w : Warp) (b : Block), s.core? c = some k → k.warps = [(p, w)] → SMap.get? w.block k.blocks = some b →
    w.latch = none → w.gang = 0 → w.trap = none → w.special.priv = false → w.park = .none → w.behind = [] → w.over = false → w.saved = none →
    (∀ n entry, b.saving = some n → b.whole = false → w.preempt.isSome = true → w.flash.valid = true → s.recipeEntry c w = some entry →
      s.halfServed c p w = false → w.paths.allZero = false → (∀ a ∈ w.accesses, a.unsent = false) → Becomes (.flashbackSave c p) s fun t => t.mem = s.mem ∧
        (∀ g ∈ t.sel, ¬(g.core = c ∧ g.slot = p)) ∧ ∃ w', Rewrites c p s t w' ∧ w'.saved = some (some entry) ∧ w'.preempt = none ∧
          w'.lease.st = .parked ∧ w'.lanes = w.lanes ∧ w'.s = w.s ∧ w'.flash = w.flash ∧ ∀ a ∈ w'.accesses, a.refused = true) ∧
    -- a queue instruction that is half served completes before its warp stops
    (s.halfServed c p w = true → Becomes (.flashbackSave c p) s fun t => t.mem = s.mem ∧ ∃ w', t.warp? c p = some w' ∧ w'.saved = none) ∧
    (∀ q n, k.blocks = [(w.block, b)] → p / 16 = q → b.saving = none → w.region.depth = 0 → w.flash.valid = false →
      (s.tenant b.tenant).freeSlot = some n → Becomes (.preemptRequest c q) s fun t => t.mem = s.mem ∧ n ∈ (t.tenant b.tenant).slotsUsed ∧
        t.block? c w.block = some { b with saving := some n, whole := false } ∧ Rewrites c p s t { w with preempt := some 0, drain := false }) ∧
    (∀ q, k.blocks = [(w.block, b)] → b.saving = none → ((s.tenant b.tenant).freeSlot = none ∨ p / 16 ≠ q) →
      Becomes (.preemptRequest c q) s fun t => t = s)) ∧
  (∀ (s : State) (c p tenant n : Nat) (k : Core) (v : SavedBlock) (w : Warp) (image win bits : List Byte), s.core? c = some k →
    s.launches.saved.find? (fun v => decide (v.tenant = tenant ∧ v.slot = n)) = some v → v.warps = [(p, w)] → s.saveFits v c = true →
    s.launches.pipelines = [] → s.areaStops c tenant ((s.tenant tenant).slotAt n) (2 ^ 22) .read = none →
    (let base := (s.tenant tenant).slotAt n
     s.getVirtual c tenant (base + 0x8000 * w.index) 0x8000 64 = some image ∧ s.getVirtual c tenant (base + 0x200000) v.block.length 64 = some win ∧
      s.getVirtual c tenant (base + 0x280000) ((v.block.length + 31) / 32) 64 = some bits) →
    Becomes (.blockResume tenant n c) s fun t => t.mem = s.mem ∧ n ∉ (t.tenant tenant).slotsUsed ∧
      (∀ x ∈ t.launches.saved, ¬(x.tenant = tenant ∧ x.slot = n)) ∧
      (∃ b, t.block? c k.nextBlock = some b ∧ (∀ i, i < win.length → SMap.get 0 i b.window = win.getD i 0) ∧
        ∀ i, i ∈ b.empty ↔ i < (v.block.length + 3) / 4 ∧ (numOf bits).testBit i = false) ∧
      ∃ w' age, t.warp? c p = some w' ∧ w' = { w.resumed (wordsOfBytes image) age k.cyc with block := k.nextBlock } ∧ w'.saved = none ∧
        w'.lease.st = .waiting ∧ w'.tenant = w.tenant) ∧
  -- the Nyrus Link
  (∀ (s : State) (c id : Nat) (k : Core) (r : NyrusRequest) (w : Warp) (a : Access), s.core? c = some k → r.id = id → s.warp? c r.slot = some w →
    w.access? r.access = some a → a.needs = [needNyrus id] → r.engine = false →
    let failed (t : State) : Prop := (∃ w', t.warp? c r.slot = some w' ∧ w'.deferred = w.deferred ++
        [{ path := .peer, source := 3, cause := 0x0D, addr := r.va, lid := a.firstLid, access := r.access,
           bits := if r.op = 0 then 1 else if r.op = 1 then 2 else 8 }]) ∧
      (∃ k', t.core? c = some k' ∧ k'.nyrus = k.nyrus.filter (fun x => decide (x.id ≠ id))) ∧ .accessReturn c r.slot r.access ∈ t.pending
    (∀ lanes, s.leaving k = some (r, lanes) → (k.nyrus.filter (fun r => r.sent.isSome)).length < 8 →
      (peerModule (128 * r.line) < 9216 → peerAddress (128 * r.line) < 0x2E400000000 → peerModule (128 * r.line) ∉ s.modul.noRoute → s.ownPeer (128 * r.line) = none →
        Becomes (.nyrusRequestLeave c id) s fun t => t = { s with cores := t.cores, pending := t.pending } ∧ (∀ d, d ≠ c → t.core? d = s.core? d) ∧
          t.core? c = some { k with nyrus := k.nyrus.map (fun x => if x.id = id then { x with sent := some k.cyc, group := lanes } else x) }) ∧
      (9216 ≤ peerModule (128 * r.line) ∨ 0x2E400000000 ≤ peerAddress (128 * r.line) ∨
        (peerModule (128 * r.line) ∈ s.modul.noRoute ∧ peerModule (128 * r.line) ≠ s.modul.modid.toNat) → Becomes (.nyrusRequestLeave c id) s failed) ∧
      -- to the module itself: served at its anchor, with no lane of the link
      (∀ own, peerModule (128 * r.line) < 9216 → peerAddress (128 * r.line) < 0x2E400000000 → s.ownPeer (128 * r.line) = some own → r.op = 0 →
        (s.dir? (lineOf own)).isSome = true → s.lineStops (lineOf own) false = false → Becomes (.nyrusRequestLeave c id) s fun t =>
          t.mem = s.mem ∧ .accessReturn c r.slot r.access ∈ t.pending ∧ (∃ k', t.core? c = some k' ∧ k'.nyrus = k.nyrus.filter (fun x => decide (x.id ≠ id))) ∧
          ∃ w' a', t.warp? c r.slot = some w' ∧ w'.access? r.access = some a' ∧ ∀ i, i < 128 → SMap.get? (128 * r.line + i) a.bytes = none →
            (∃ p ∈ a.parts, p.2.1 ≤ 128 * r.line + i ∧ 128 * r.line + i < p.2.1 + p.2.2) →
            SMap.get? (128 * r.line + i) a'.bytes = some (Memory.read s.mem (128 * lineOf own + i)))) ∧
    -- a request that is not the next to leave, or for which no lane group is up, waits
    (s.leaving k = none → Becomes (.nyrusRequestLeave c id) s fun t => t = { s with pending := t.pending }) ∧
    (k.nyrusOf id = some r → ∀ at_, r.sent = some at_ →
      (at_ + s.modul.peerTimeout ≤ k.cyc → Becomes (.peerTimeout c id) s failed) ∧
      (∀ data, data.length = 128 → r.op = 0 → Becomes (.nyrusResponse c id data) s fun t => t.mem = s.mem ∧ .accessReturn c r.slot r.access ∈ t.pending ∧
        (∃ k', t.core? c = some k' ∧ k'.nyrus = k.nyrus.filter (fun x => decide (x.id ≠ id))) ∧
        ∃ w' a', t.warp? c r.slot = some w' ∧ w'.access? r.access = some a' ∧ ∀ i, i < 128 → SMap.get? (128 * r.line + i) a.bytes = none →
          (∃ p ∈ a.parts, p.2.1 ≤ 128 * r.line + i ∧ 128 * r.line + i < p.2.1 + p.2.2) → SMap.get? (128 * r.line + i) a'.bytes = data[i]?))) ∧
  (∀ (s : State) (addr : Nat), let answers (t : State) (l : List Byte) : Prop := t.modul.answers = s.modul.answers ++ [l]
    (s.modul.booted = false → ∀ req, Becomes (.peerRequestServe req) s fun t => t = s) ∧
    (s.modul.booted = true →
    (0x2E400000000 ≤ addr → ∀ n, Becomes (.peerRequestServe (.read addr n)) s fun t => t.mem = s.mem ∧ answers t []) ∧
    (addr < 0x2E400000000 → (s.dir? (lineOf addr)).isSome = true → s.lineStops (lineOf addr) false = false → ∀ n, addr % 128 + n ≤ 128 →
      Becomes (.peerRequestServe (.read addr n)) s fun t => t.mem = s.mem ∧ answers t (if s.poisoned addr n then [] else Memory.readBytes s.mem addr n)) ∧
    (addr < 0x2E400000000 → s.lineStops (lineOf addr) true = false → ∀ d, s.dir? (lineOf addr) = some d → d.rmask = [] → ∀ data,
      Becomes (.peerRequestServe (.write addr data)) s fun t => answers t [] ∧
        ∀ b, Memory.read t.mem b = if addr ≤ b ∧ b < addr + data.length then data.getD (b - addr) 0 else Memory.read s.mem b))) ∧
  (∀ (s : State) (lane : Nat), lane < 72 → Becomes (.nyrusLaneRetire lane) s fun t => t = { s with modul := t.modul } ∧ lane ∈ t.modul.lanesRetired ∧
    (SMap.get 0 (0x11300008 + 0x20 * lane) t.modul.errors).toNat = min ((SMap.get 0 (0x11300008 + 0x20 * lane) s.modul.errors).toNat + 1) (2 ^ 32 - 1)) ∧
  -- the Ethernet ports
  (∀ (s : State) (n : Nat) (frame : List Byte) (ok : Bool), s.modul.booted = false → Becomes (.ethFrameReceive n frame ok) s fun t => t = s) ∧
  ∀ (s : State) (n tenant pa h ring : Nat), s.modul.booted = true → (s.port n).owner = some tenant → hdrPipe h = 0 → Memory.readNum s.mem pa 128 = h →
    s.lineStops (lineOf pa) true [0, 1] tenant = false →
    let now (t : State) : Nat := Memory.readNum t.mem pa 128
    let next (slot : Nat) : Nat := if slot = hdrLast h then 0 else (slot + 1) % 2 ^ 16
    let record (buf len stat : Nat) : Nat := stat * 2 ^ 96 + len % 2 ^ 16 * 2 ^ 64 + buf
    (∀ stat frame, s.portQueue tenant (s.port n).txHeader = .ok pa h ring → hdrThere h ≠ 0 →
      let slot := ring + 128 * hdrHslot h
      let r := Memory.readNum s.mem slot 128
      (slot + 128 ≤ pa ∨ pa + 128 ≤ slot) → s.lineStops (lineOf slot) true [0, 1] tenant = false → s.sendFrame tenant r = .ok (stat, frame) →
      Becomes (.ethTransmit n) s fun t => hdrHead (now t) = (hdrHead h + 1) % 2 ^ 32 ∧ hdrHslot (now t) = next (hdrHslot h) ∧ hdrTail (now t) = hdrTail h ∧
        Memory.readNum t.mem slot 128 = record (r % 2 ^ 64) (bitsOf r 79 64) stat ∧ (t.port n).sent = (frame.map (·.1)).toList ++ (s.port n).sent ∧
        ∀ b, ¬(pa ≤ b ∧ b < pa + 128) → ¬(slot ≤ b ∧ b < slot + 128) → Memory.read t.mem b = Memory.read s.mem b) ∧
    (∀ frame ok, s.portQueue tenant (s.port n).rxHeader = .ok pa h ring →
      let slot := ring + 128 * hdrTslot h
      let r := Memory.readNum s.mem slot 128
      ((hdrClosed h = true ∨ hdrCap h ≤ hdrHeld h) → Becomes (.ethFrameReceive n frame ok) s fun t => t = { s with modul := t.modul } ∧
        (t.port n).drops = (s.port n).drops + 1) ∧
      (hdrClosed h = false → hdrHeld h < hdrCap h → frame.length < 64 → hdrRslot h = hdrTslot h → (∀ e ∈ s.launches.messages, e.2.header ≠ pa) →
        (slot + 128 ≤ pa ∨ pa + 128 ≤ slot) → s.lineStops (lineOf slot) true [0, 1] tenant = false → s.uncollapsed (lineOf slot) = true →
        Becomes (.ethFrameReceive n frame ok) s fun t => hdrTail (now t) = (hdrTail h + 1) % 2 ^ 32 ∧ hdrReady (now t) = (hdrReady h + 1) % 2 ^ 32 ∧
          hdrTslot (now t) = next (hdrTslot h) ∧ hdrRslot (now t) = next (hdrTslot h) ∧ hdrHead (now t) = hdrHead h ∧
          Memory.readNum t.mem slot 128 = record (r % 2 ^ 64) frame.length 2 ∧
          ∀ b, ¬(pa ≤ b ∧ b < pa + 128) → ¬(slot ≤ b ∧ b < slot + 128) → Memory.read t.mem b = Memory.read s.mem b))

/-- R270, R271, R343 to R345, R361, R380, R391, R416, R423, R448 to R451, R456 to R461. What the host and management do: writes of registers,
resets, the mailbox, measurements, snapshots and limits; snoops, the host's requests, and its answers; and a bring-up.
The mailbox codes, masked register bits, what resets keep, the clock's floor and the answers of the CXL ports are the model's (log entries 72 to
77 and 81), that a fault record waits for its slot's line is log entry 108, and that an image has signed firmware's program is log entry 80. -/
def Obligations.HostSteps : Prop :=
  (∀ (s : State) (n : Nat), n < 16 →
    let tn := s.tenant n
    let only (t : State) : Prop := t = { s with tenants := t.tenants, pending := t.pending } ∧ ∀ m, m ≠ n → t.tenant m = s.tenant m
    -- launch queues
    (∀ q v, q < 64 → let k := tn.queue q
      let queue (t : State) (k' : LaunchQueue) : Prop := t.tenant n = { tn with queues := (t.tenant n).queues } ∧ (t.tenant n).queue q = k' ∧
        ∀ r, r ≠ q → (t.tenant n).queue r = tn.queue r
      (k.fed = true ∨ tn.resetting = true → Becomes (.qtailWrite n q v) s fun t => t = s) ∧
      (k.fed = false → tn.resetting = false → (k.tail - k.head).toNat ≤ (v - k.head).toNat → (v - k.head).toNat ≤ k.size → Becomes (.qtailWrite n q v) s fun t =>
        only t ∧ queue t { k with tail := v } ∧ .launchRecordTake ∈ t.pending) ∧
      (k.fed = false → tn.resetting = false → ((v - k.head).toNat < (k.tail - k.head).toNat ∨ k.size < (v - k.head).toNat) → Becomes (.qtailWrite n q v) s fun t =>
        only t ∧ queue t { k with stat := if bitsOf k.stat.toNat 31 16 = 0xFFFF then k.stat else k.stat + 0x10000 })) ∧
    -- registers, by the bytes of the access: TVEC, QBASE of a queue that is off, a fence counter, and an offset that names none
    (∀ (v : DWord) (size : Nat), (v.toNat < 2 ^ 48 → v.toNat % 4 = 0 → Becomes (.registerWrite n 0x12008 ⟨size, v⟩) s fun t => only t ∧ t.tenant n = { tn with tvec := v }) ∧
      (2 ^ 48 ≤ v.toNat ∨ v.toNat % 4 ≠ 0 → Becomes (.registerWrite n 0x12008 ⟨size, v⟩) s fun t => t = s) ∧
      (∀ q, q < 64 → (tn.queue q).ctrl.getLsbD 0 = false → Becomes (.registerWrite n (0x10000 + 0x20 * q) ⟨size, v⟩) s fun t => only t ∧
        ((t.tenant n).queue q).base.toNat = v.toNat / 128 * 128) ∧
      (∀ j, j < 256 → Becomes (.registerWrite n (0x11800 + 8 * j) ⟨8, v⟩) s fun t => t.mem = s.mem ∧ (t.tenant n).fence j = tn.fence j + v) ∧
      (∀ o, 0x21000 ≤ o ∨ (0x11000 ≤ o ∧ o < 0x12000 ∧ size ≠ 8) → Becomes (.registerWrite n o ⟨size, v⟩) s fun t => t = s)) ∧
    -- fault queues
    (∀ v, tn.fqWait = [] → Becomes (.fqheadWrite n v) s fun t => only t ∧ t.tenant n = { tn with fqHead := v }) ∧
    (∀ v r pa pte, tn.fqWait = [r] → tn.fqOn = true → (tn.fqTail - v).toNat ≠ tn.fqSize → tn.lostSince = 0 →
      s.translate 0 n (tn.fqBase.toNat + 64 * (tn.fqTail.toNat % tn.fqSize)) .write true = .ok pa pte → cached pa = true →
      s.lineStops (lineOf pa) true [pa / 64 % 2] n = false →
      Becomes (.fqheadWrite n v) s fun t => t.tenant n = { tn with fqHead := v, fqTail := tn.fqTail + 1, fqWait := [] } ∧
        ∀ b, pa + 1 ≤ b → b < pa + 64 → r.length = 64 → Memory.read t.mem b = r.getD (b - pa) 0) ∧
    -- fence counters
    (∀ k v, k < 256 → (Becomes (.fcvalWrite n k v) s fun t => t.mem = s.mem ∧ (t.tenant n).fence k = v ∧ .launchRecordTake ∈ t.pending ∧
        ∀ m j, m ≠ n ∨ j ≠ k → (t.tenant m).fence j = (s.tenant m).fence j) ∧
      (Becomes (.fcaddWrite n k v) s fun t => t.mem = s.mem ∧ (t.tenant n).fence k = tn.fence k + v ∧ .launchRecordTake ∈ t.pending ∧
        ∀ m j, m ≠ n ∨ j ≠ k → (t.tenant m).fence j = (s.tenant m).fence j)) ∧
    -- a warp that is parked on a token goes on, or into its handler
    (∀ c p k w token, s.core? c = some k → s.warp? c p = some w → w.tenant = n → w.park = .pageFault token → w.behind = [] → s.parkedOn n token = [(c, p)] → k.engine = [] →
      (tn.resetting = false → Becomes (.resumeWrite n token) s fun t => t.parkedOn n token = [] ∧
        Rewrites c p s t { w with park := .none, faulted := none, lease := { w.lease with st := .waiting, waitFrom := k.cyc } }) ∧
      (∀ f, w.faulted = some f → k.pendingQ p = [] → w.region.depth = 0 → w.special.priv = false → w.special.evec ≠ 0 → f.cause = 6 →
        Becomes (.fqfail n token) s fun t => t.parkedOn n token = [] ∧ ∃ w', Rewrites c p s t w' ∧ w'.park = .none ∧ w'.lease.st = .waiting ∧
          w'.special.priv = true ∧ w'.special.epc = BitVec.ofNat 64 (f.epc % 2 ^ 48 / 4 * 4) ∧ w'.special.eval = f.eval ∧
          bitsOf w'.special.ecause.toNat 7 0 = 6 ∧ ∀ i, i < w.slices.length → inMask f.mask i = true →
            (w'.slice i).pc = BitVec.ofNat 48 (w.special.evec.toNat / 4 * 4))) ∧
    -- the reset of a virtual function whose warps have all ended and that has no line in an L1
    (0 < n → s.warpsOfTenant n = [] → (∀ e ∈ s.cores, ∀ l ∈ e.2.l1, l.tenant ≠ n) → Becomes (.functionLevelReset n) s fun t => t.mem = s.mem ∧
      t.tenant n = { troot := tn.troot, regions := tn.regions } ∧ (∀ m, m ≠ n → t.tenant m = s.tenant m) ∧
      (∀ e ∈ t.launches.launches, e.2.tenant = n → e.2.started = true ∧ e.2.failed = true ∧ e.2.waiting = []) ∧
      (∀ v ∈ t.launches.saved, v.tenant ≠ n) ∧ ∀ e ∈ t.launches.parked, e.1 ≠ n)) ∧
  -- management
  (∀ s : State, let m := s.modul
    -- memory is what the HBM and the host hold: what lay below the dirty sectors
    ((s.hbm.under.map Prod.fst).Nodup → Becomes (.functionLevelReset 0) s fun t =>
      (∀ b, Memory.read t.mem b = match SMap.get? (b / 32) s.hbm.under with
        | some v => v.1.extractLsb' (8 * (b % 32)) 8
        | none => Memory.read s.mem b) ∧
      (∀ k, k ∈ t.poison ↔ match SMap.get? k s.hbm.under with | some v => v.2 = true | none => k ∈ s.poison) ∧
      t.hbm.list = s.hbm.list ∧ t.hbm.under = [] ∧ t.caldera.lines = [] ∧ t.cores = [] ∧
      t.tenants = [] ∧ t.modul.booted = false ∧ t.modul.mgen = m.mgen ∧ t.modul.retiredBanks = m.retiredBanks ∧ t.modul.records = m.records ∧
      t.modul.modid = m.modid) ∧
    (∀ image signed, Becomes (.firmwareReload image signed) s fun t => t.cores = [] ∧ t.modul.booted = false ∧ t.modul.image = image ∧
      t.modul.imageOk = signed ∧ t.modul.mgen = m.mgen) ∧
    (∀ x, m.booted = false → m.imageOk = true → Becomes (.laharBringUp x) s fun t => t.modul.booted = true ∧ t.modul.mgen = m.mgen + 1 ∧
      SMap.keys t.cores = List.range Config.cores ∧ (∀ c ∈ x.fused, ∀ k, t.core? c = some k → k.st = 1) ∧
      (∀ c, c ∈ x.cores ∨ reticleOf c ∈ x.reticles ∨ (c, true) ∈ x.images → c ∉ x.fused → ∀ k, t.core? c = some k → k.st = 2) ∧
      (∀ g, g ∈ x.banks ∨ bankReticle g ∈ x.reticles → g < 5376 → (t.bank g).live = false) ∧ t.modul.program = Config.programImage m.image ∧
      ∀ ch ∈ x.channels, .channelRetirement ch ∈ t.pending) ∧
    (∀ x, m.booted = false → m.imageOk = false → Becomes (.laharBringUp x) s fun t => t.modul.booted = false ∧ t.cores = s.cores ∧ .unbooted ∈ t.modul.reports) ∧
    (∀ x : MboxCommand, (x.signed = false ∨ x.args.take 2 ≠ [m.modid.setWidth 64, m.mgen.setWidth 64]) → Becomes (.mboxCommand x) s fun t =>
      t = { s with modul := { m with mbox := t.modul.mbox }, tick := s.tick + 1 }) ∧
    (∀ (code : Nat) (v : DWord), Becomes (.mboxCommand { code := code, args := [m.modid.setWidth 64, m.mgen.setWidth 64, v], signed := true }) s fun t =>
      (code = 1 → t = { s with modul := { m with threshold := max 2 (min 15 v.toNat) } }) ∧
      (code = 2 → t = { s with modul := { m with fill := max 1 (min 8 v.toNat) } }) ∧
      (code = 3 → t = { s with modul := { m with peerTimeout := max (2 ^ 12) (min (2 ^ 26) v.toNat) } }) ∧
      (code = 4 → t = { s with modul := { m with powerCap := max 4000 (min 16000 v.toNat) } }) ∧
      (code = 8 → t = { s with modul := { m with rowLimit := some (max 1 v.toNat) } }) ∧
      (code = 12 → t = { s with modul := { m with trip := some (min v.toNat Config.junctionTrip) } }) ∧
      (code = 0 → t = { s with modul := { m with approved := t.modul.approved } } ∧ v.toNat ∈ t.modul.approved)) ∧
    -- the approval of a retirement that firmware has proposed
    (∀ kind x : DWord, Becomes (.mboxCommand { code := 11, args := [m.modid.setWidth 64, m.mgen.setWidth 64, kind, x], signed := true }) s fun t => t.mem = s.mem ∧
      (kind = 0 → .coreRetirement x.toNat ∈ t.pending) ∧ (kind = 1 → .bankRetirement x.toNat ∈ t.pending) ∧
      (kind = 2 → .channelRetirement x.toNat ∈ t.pending) ∧ (kind = 3 → x.toNat < 72 → x.toNat ∈ t.modul.lanesRetired)) ∧
    -- a module that is not up answers nothing but CXL.io
    (m.booted = false → ∀ addr inv data x, (Becomes (.hostSnoop addr inv data) s fun t => t = s) ∧ (Becomes (.hostCxlMemRequest addr x) s fun t => t = s)) ∧
    (∀ (v : DWord) (size o : Nat), o + size ≤ 0x1000 → size ≤ 8 → Becomes (.registerWrite 0 (0x20000 + o) ⟨size, v⟩) s fun t =>
      t = { s with modul := { m with mbox := t.modul.mbox } } ∧
        ∀ i, SMap.get 0 i t.modul.mbox = if o ≤ i ∧ i < o + size then v.extractLsb' (8 * (i - o)) 8 else SMap.get 0 i m.mbox) ∧
    (∀ l, Becomes (.spdmRequest l) s fun t => t = { s with modul := { m with answers := m.answers ++ [Config.spdmAnswer l s.measurements] } }) ∧
    (∀ ret c k, s.cores.filter (fun e => decide (reticleOf e.1 = ret ∧ e.2.st = 0)) = [(c, k)] → Becomes (.monitorSnapshot ret) s fun t =>
      t = { s with modul := { m with snapshots := t.modul.snapshots } } ∧ (∃ l, SMap.get? ret t.modul.snapshots = some (k.cyc, l)) ∧
        ∀ x, x ≠ ret → SMap.get? x t.modul.snapshots = SMap.get? x m.snapshots) ∧
    (Becomes .powerCapReached s fun t => t = { s with modul := { m with clock := max 1 (m.clock - 1) } }) ∧
    (Becomes .thermalTrip s fun t => t = { s with modul := { m with halved := true } }) ∧
    (Becomes .temperatureBelowTrip s fun t => t = { s with modul := { m with halved := false } }) ∧
    (Becomes .criticalTemperature s fun t => t = { s with sel := [], modul := { m with stopped := true, reports := m.reports ++ [.critical] } })) ∧
  -- the CXL ports
  ∀ (s : State) (line h : Nat) (d : DirLine), s.modul.booted = true → h < 2 → s.dir? line = some d →
    let addr := 128 * line + 64 * h
    let half := Memory.readBytes s.mem addr 64
    let tells (t : State) (l : List Byte) : Prop := t.modul.answers = s.modul.answers ++ [l]
    (hostLine line = true → s.unobserved addr = false → ∀ inv, Becomes (.hostSnoop addr inv []) s fun t => t.mem = s.mem ∧
      (∃ d', t.dir? line = some d' ∧ d'.half h = (if d.half h = 0 ∨ inv = true then 0 else 1) ∧ d'.half (1 - h) = d.half (1 - h)) ∧
      tells t (BitVec.ofNat 8 (d.half h) :: if d.half h = 3 then (if s.poisoned addr 64 then [] else half) else [])) ∧
    (hostLine line = true → s.unobserved addr = true → ∀ inv, Becomes (.hostSnoop addr inv []) s fun t => t.dir? line = some d ∧
      t.modul = s.modul ∧ SMap.get [] line t.caldera.snoops = SMap.get [] line s.caldera.snoops ++ [(addr, inv, [])]) ∧
    (∀ id r, SMap.get? line s.caldera.observing = some [(id, r)] → SMap.get [] line s.caldera.snoops = [] → Becomes (.globalObservationResponse line) s fun t =>
      t.mem = s.mem ∧ SMap.get? line t.caldera.observing = none ∧
        (r.ack = true → ∀ p w, s.warp? r.core p = some w → (∃ y ∈ w.groups, y.hold = .acks ∧ y.prog.acks.contains id = true) →
          .writeBackAcknowledgement r.core p id ∈ t.pending)) ∧
    (addr < 0x2E400000000 → d.st ≠ .moving → (∀ me, s.grantedTo line me = false) →
      (Becomes (.hostCxlMemRequest addr ⟨none, addr / 256 % 2⟩) s fun t => t.mem = s.mem ∧ tells t (if s.poisoned addr 64 then [] else half) ∧
        ∃ d', t.dir? line = some d' ∧ d'.half h = 1 ∧ d'.half (1 - h) = d.half (1 - h)) ∧
      (d.rmask = [] → ∀ data, data ≠ [] → data.length ≤ 64 → Becomes (.hostCxlMemRequest addr ⟨some data, addr / 256 % 2⟩) s fun t =>
        (∃ d', t.dir? line = some d' ∧ d'.half h = 1) ∧
        ∀ b, Memory.read t.mem b = if addr ≤ b ∧ b < addr + data.length then data.getD (b - addr) 0 else Memory.read s.mem b)) ∧
    (0x2E400000000 ≤ addr → Becomes (.hostCxlMemRequest addr ⟨none, addr / 256 % 2⟩) s fun t => t.mem = s.mem ∧ tells t []) ∧
    (∀ port write, port ≠ addr / 256 % 2 → Becomes (.hostCxlMemRequest addr ⟨write, port⟩) s fun t => t.mem = s.mem ∧ tells t []) ∧
    (hostLine line = false → d.half h ≠ 0 → d.held = [] → (s.bank (s.anchor line)).visits = [] → (Becomes (.backInvalidateResponse addr none) s fun t =>
      t.mem = s.mem ∧ ∃ d', t.dir? line = some d' ∧ d'.half h = 0 ∧ d'.half (1 - h) = d.half (1 - h)) ∧
      ∀ data, data.length = 64 → Becomes (.backInvalidateResponse addr (some data)) s fun t => (∃ d', t.dir? line = some d' ∧ d'.half h = 0) ∧
        ∀ b, Memory.read t.mem b = if addr ≤ b ∧ b < addr + 64 then data.getD (b - addr) 0 else Memory.read s.mem b)
end

