-- ==== Sys2Proof/Laws/Maps.lean ====
section
/-! SUPPORT. Laws of the finite maps and of the bytes of memory: reads after writes, and the canonical form, which every memory operation keeps. -/

namespace Sys2Proof

namespace SMap

variable {α : Type}

theorem get?_put_same (k : Nat) (v : α) (m : SMap α) : get? k (put k v m) = some v := by
  induction m with
  | nil => simp [put, get?]
  | cons e t ih =>
    obtain ⟨k', v'⟩ := e
    simp only [put]
    split
    · simp [get?]
    · split
      · simp [get?]
      · rename_i h; simp [get?, h, ih]

theorem get?_put_other {j k : Nat} (h : j ≠ k) (v : α) (m : SMap α) : get? j (put k v m) = get? j m := by
  induction m with
  | nil => simp [put, get?, h]
  | cons e t ih =>
    obtain ⟨k', v'⟩ := e
    simp only [put]
    split
    · simp [get?, h]
    · split
      · rename_i hk; subst hk; simp [get?, h]
      · simp [get?, ih]

theorem get?_put (j k : Nat) (v : α) (m : SMap α) : get? j (put k v m) = if j = k then some v else get? j m := by
  split
  · rename_i h; subst h; exact get?_put_same ..
  · rename_i h; exact get?_put_other h ..

theorem get?_del (j k : Nat) (m : SMap α) : get? j (del k m) = if j = k then none else get? j m := by
  induction m with
  | nil => simp [del, get?]
  | cons e t ih =>
    obtain ⟨k', v'⟩ := e
    simp only [del]
    split
    · rename_i h; subst h; rw [ih]; by_cases hj : j = k <;> simp [get?, hj]
    · rename_i h
      simp only [get?, ih]
      by_cases hj : j = k
      · subst hj; simp [h]
      · simp [hj]

theorem get?_modify (j k : Nat) (f : α → α) (m : SMap α) :
    get? j (modify k f m) = if j = k then (get? j m).map f else get? j m := by
  induction m with
  | nil => simp [modify, get?]
  | cons e t ih =>
    obtain ⟨k', v'⟩ := e
    simp only [modify]
    split
    · rename_i h; subst h; by_cases hj : j = k <;> simp [get?, hj]
    · rename_i h
      simp only [get?, ih]
      by_cases hj : j = k
      · subst hj; simp [h]
      · simp [hj]

theorem get_put (d : α) (j k : Nat) (v : α) (m : SMap α) : get d j (put k v m) = if j = k then v else get d j m := by
  simp only [get, get?_put]; split <;> rfl

theorem get_set [DecidableEq α] (d : α) (j k : Nat) (v : α) (m : SMap α) :
    get d j (set d k v m) = if j = k then v else get d j m := by
  simp only [set]
  split
  · rename_i h; subst h; simp only [get, get?_del]; split <;> rfl
  · exact get_put ..

/-! ## The canonical form -/

theorem risingFrom_mono {lo lo' : Nat} (h : lo' ≤ lo) (m : SMap α) (hm : risingFrom lo m = true) : risingFrom lo' m = true := by
  cases m with
  | nil => rfl
  | cons e t => simp only [risingFrom, Bool.and_eq_true, decide_eq_true_eq] at hm ⊢; exact ⟨by omega, hm.2⟩

theorem risingFrom_put (lo k : Nat) (v : α) (m : SMap α) (hk : lo ≤ k) (hm : risingFrom lo m = true) :
    risingFrom lo (put k v m) = true := by
  induction m generalizing lo with
  | nil => simp [put, risingFrom, hk]
  | cons e t ih =>
    obtain ⟨k', v'⟩ := e
    simp only [risingFrom, Bool.and_eq_true, decide_eq_true_eq] at hm
    simp only [put]
    split
    · simp only [risingFrom, Bool.and_eq_true, decide_eq_true_eq]; exact ⟨hk, by omega, hm.2⟩
    · split
      · rename_i h; subst h; simp only [risingFrom, Bool.and_eq_true, decide_eq_true_eq]; exact hm
      · simp only [risingFrom, Bool.and_eq_true, decide_eq_true_eq]; exact ⟨hm.1, ih _ (by omega) hm.2⟩

theorem risingFrom_del (lo k : Nat) (m : SMap α) (hm : risingFrom lo m = true) : risingFrom lo (del k m) = true := by
  induction m generalizing lo with
  | nil => rfl
  | cons e t ih =>
    obtain ⟨k', v'⟩ := e
    simp only [risingFrom, Bool.and_eq_true, decide_eq_true_eq] at hm
    simp only [del]
    split
    · exact ih _ (risingFrom_mono (by omega) _ hm.2)
    · simp only [risingFrom, Bool.and_eq_true, decide_eq_true_eq]; exact ⟨hm.1, ih _ hm.2⟩

theorem mem_put {e : Nat × α} {k : Nat} {v : α} {m : SMap α} (h : e ∈ put k v m) : e = (k, v) ∨ e ∈ m := by
  induction m with
  | nil => simpa [put] using h
  | cons a t ih =>
    obtain ⟨k', v'⟩ := a
    simp only [put] at h
    split at h
    · simpa using h
    · split at h
      · rcases List.mem_cons.1 h with h | h
        · exact .inl h
        · exact .inr (List.mem_cons_of_mem _ h)
      · rcases List.mem_cons.1 h with h | h
        · exact .inr (h ▸ List.mem_cons_self ..)
        · rcases ih h with h | h
          · exact .inl h
          · exact .inr (List.mem_cons_of_mem _ h)

theorem mem_del {e : Nat × α} {k : Nat} {m : SMap α} (h : e ∈ del k m) : e ∈ m := by
  induction m with
  | nil => simp [del] at h
  | cons a t ih =>
    obtain ⟨k', v'⟩ := a
    simp only [del] at h
    split at h
    · exact List.mem_cons_of_mem _ (ih h)
    · rcases List.mem_cons.1 h with h | h
      · exact h ▸ List.mem_cons_self ..
      · exact List.mem_cons_of_mem _ (ih h)

/-- Storing a value keeps the canonical form. -/
theorem canonical_set [DecidableEq α] (d : α) (k : Nat) (v : α) (m : SMap α) (h : canonical d m = true) :
    canonical d (set d k v m) = true := by
  simp only [canonical, Bool.and_eq_true, List.all_eq_true, decide_eq_true_eq] at h ⊢
  simp only [set]
  split
  · exact ⟨risingFrom_del _ _ _ h.1, fun e he => h.2 e (mem_del he)⟩
  · rename_i hv
    refine ⟨risingFrom_put _ _ _ _ (Nat.zero_le _) h.1, fun e he => ?_⟩
    rcases mem_put he with he | he
    · subst he; exact hv
    · exact h.2 e he

end SMap

namespace Machine

/-! ## Memory -/

theorem Memory.read_write (m : Memory) (a b : Nat) (x : Byte) : Memory.read (m.write a x) b = if b = a then x else m.read b :=
  SMap.get_set ..

theorem Memory.wf_write (m : Memory) (a : Nat) (x : Byte) (h : m.wf = true) : Memory.wf (m.write a x) = true := SMap.canonical_set _ _ _ _ h

theorem Memory.wf_writeBytes (m : Memory) (a : Nat) (l : List Byte) (h : m.wf = true) : Memory.wf (m.writeBytes a l) = true := by
  induction l generalizing m a with
  | nil => exact h
  | cons b t ih => exact ih _ _ (Memory.wf_write m a b h)

theorem Memory.wf_writeCells (m : Memory) (l : SMap Byte) (h : m.wf = true) : Memory.wf (m.writeCells l) = true := by
  induction l generalizing m with
  | nil => exact h
  | cons e t ih => obtain ⟨a, b⟩ := e; exact ih _ (Memory.wf_write m a b h)

/-- Writing bytes from an address on leaves every byte outside them. -/
theorem Memory.read_writeBytes_other (m : Memory) (a b : Nat) (l : List Byte) (h : b < a ∨ a + l.length ≤ b) :
    Memory.read (m.writeBytes a l) b = m.read b := by
  induction l generalizing m a with
  | nil => rfl
  | cons c t ih =>
    simp only [List.length_cons] at h
    simp only [Memory.writeBytes]
    rw [ih _ _ (by omega), Memory.read_write, if_neg (by omega)]

/-- A byte of what was written from an address on. -/
theorem Memory.read_writeBytes_same (m : Memory) (a i : Nat) (l : List Byte) (h : i < l.length) :
    Memory.read (m.writeBytes a l) (a + i) = l[i] := by
  induction l generalizing m a i with
  | nil => simp at h
  | cons c t ih =>
    simp only [Memory.writeBytes]
    cases i with
    | zero => rw [Memory.read_writeBytes_other _ _ _ _ (by omega), Nat.add_zero, Memory.read_write]; simp
    | succ n =>
      have h' : n < t.length := by simpa using h
      rw [show a + (n + 1) = a + 1 + n by omega, ih _ _ _ h']; rfl

/-- Writing listed bytes leaves every other byte. -/
theorem Memory.read_writeCells_other (m : Memory) (b : Nat) (l : SMap Byte) (h : ∀ e ∈ l, e.1 ≠ b) :
    Memory.read (m.writeCells l) b = m.read b := by
  induction l generalizing m with
  | nil => rfl
  | cons e t ih =>
    obtain ⟨a, x⟩ := e
    simp only [Memory.writeCells]
    rw [ih _ (fun e he => h e (List.mem_cons_of_mem _ he)), Memory.read_write, if_neg]
    exact fun hb => h (a, x) (List.mem_cons_self ..) hb.symm

theorem State.writeMem_wf (s : State) (l : SMap Byte) (h : Memory.wf s.mem = true) : Memory.wf (s.writeMem l).mem = true :=
  Memory.wf_writeCells _ _ h

end Machine

end Sys2Proof
end

