-- ==== Sys2Proof/Laws/PerInstr.lean ====
section
/-! SUPPORT. A statement about every instruction, constructor by constructor: what is well-formed has words. -/

namespace Sys2Proof.Laws

/-- A well-formed instruction has an encoding of its own: words, the first of which names their number (R91). -/
def Encodes.Statement (i : Instr) : Prop := i.wellFormed = true → i.encodable = true ∧ encode i ≠ []

theorem Encodes.statement_of_form (i : Instr) : Statement i := by
  unfold Statement Instr.wellFormed Instr.encodable encode
  cases hf : i.form with
  | event => simp
  | short op f =>
    have : i.splitOk = true := by cases i <;> first | rfl | cases hf
    simp [this]
  | long op f => cases f with | mk l => cases l <;> simp +contextual

theorem Encodes.iaddS (a) : Statement (.iaddS a) := statement_of_form _
theorem Encodes.isubS (a) : Statement (.isubS a) := statement_of_form _
theorem Encodes.inegS (a) : Statement (.inegS a) := statement_of_form _
theorem Encodes.andS (a) : Statement (.andS a) := statement_of_form _
theorem Encodes.orS (a) : Statement (.orS a) := statement_of_form _
theorem Encodes.xorS (a) : Statement (.xorS a) := statement_of_form _
theorem Encodes.notS (a) : Statement (.notS a) := statement_of_form _
theorem Encodes.movS (a) : Statement (.movS a) := statement_of_form _
theorem Encodes.shlS (a) : Statement (.shlS a) := statement_of_form _
theorem Encodes.shrS (a) : Statement (.shrS a) := statement_of_form _
theorem Encodes.braS (a) : Statement (.braS a) := statement_of_form _
theorem Encodes.bendS (a) : Statement (.bendS a) := statement_of_form _
theorem Encodes.belseS (a) : Statement (.belseS a) := statement_of_form _
theorem Encodes.exitS (a) : Statement (.exitS a) := statement_of_form _
theorem Encodes.yieldS (a) : Statement (.yieldS a) := statement_of_form _
theorem Encodes.electS (a) : Statement (.electS a) := statement_of_form _
theorem Encodes.fmtsetS (a) : Statement (.fmtsetS a) := statement_of_form _
theorem Encodes.waitc (a) : Statement (.waitc a) := statement_of_form _
theorem Encodes.retS (a) : Statement (.retS a) := statement_of_form _
theorem Encodes.nopS (a) : Statement (.nopS a) := statement_of_form _
theorem Encodes.iadd (a) : Statement (.iadd a) := statement_of_form _
theorem Encodes.isub (a) : Statement (.isub a) := statement_of_form _
theorem Encodes.iaddc (a) : Statement (.iaddc a) := statement_of_form _
theorem Encodes.imul (a) : Statement (.imul a) := statement_of_form _
theorem Encodes.imulh (a) : Statement (.imulh a) := statement_of_form _
theorem Encodes.imad (a) : Statement (.imad a) := statement_of_form _
theorem Encodes.imadw (a) : Statement (.imadw a) := statement_of_form _
theorem Encodes.idiv (a) : Statement (.idiv a) := statement_of_form _
theorem Encodes.irem (a) : Statement (.irem a) := statement_of_form _
theorem Encodes.imin (a) : Statement (.imin a) := statement_of_form _
theorem Encodes.imax (a) : Statement (.imax a) := statement_of_form _
theorem Encodes.iabs (a) : Statement (.iabs a) := statement_of_form _
theorem Encodes.ineg (a) : Statement (.ineg a) := statement_of_form _
theorem Encodes.andL (a) : Statement (.andL a) := statement_of_form _
theorem Encodes.orL (a) : Statement (.orL a) := statement_of_form _
theorem Encodes.xorL (a) : Statement (.xorL a) := statement_of_form _
theorem Encodes.andn (a) : Statement (.andn a) := statement_of_form _
theorem Encodes.notL (a) : Statement (.notL a) := statement_of_form _
theorem Encodes.lop3 (a) : Statement (.lop3 a) := statement_of_form _
theorem Encodes.shl (a) : Statement (.shl a) := statement_of_form _
theorem Encodes.shr (a) : Statement (.shr a) := statement_of_form _
theorem Encodes.rotl (a) : Statement (.rotl a) := statement_of_form _
theorem Encodes.shf (a) : Statement (.shf a) := statement_of_form _
theorem Encodes.bfx (a) : Statement (.bfx a) := statement_of_form _
theorem Encodes.bfi (a) : Statement (.bfi a) := statement_of_form _
theorem Encodes.popc (a) : Statement (.popc a) := statement_of_form _
theorem Encodes.clz (a) : Statement (.clz a) := statement_of_form _
theorem Encodes.ctz (a) : Statement (.ctz a) := statement_of_form _
theorem Encodes.brev (a) : Statement (.brev a) := statement_of_form _
theorem Encodes.perm (a) : Statement (.perm a) := statement_of_form _
theorem Encodes.selL (a) : Statement (.selL a) := statement_of_form _
theorem Encodes.icmp (a) : Statement (.icmp a) := statement_of_form _
theorem Encodes.plop (a) : Statement (.plop a) := statement_of_form _
theorem Encodes.ppack (a) : Statement (.ppack a) := statement_of_form _
theorem Encodes.punpk (a) : Statement (.punpk a) := statement_of_form _
theorem Encodes.mov (a) : Statement (.mov a) := statement_of_form _
theorem Encodes.movl (a) : Statement (.movl a) := statement_of_form _
theorem Encodes.lea (a) : Statement (.lea a) := statement_of_form _
theorem Encodes.idot4 (a) : Statement (.idot4 a) := statement_of_form _
theorem Encodes.fadd (a) : Statement (.fadd a) := statement_of_form _
theorem Encodes.fsub (a) : Statement (.fsub a) := statement_of_form _
theorem Encodes.fmul (a) : Statement (.fmul a) := statement_of_form _
theorem Encodes.ffma (a) : Statement (.ffma a) := statement_of_form _
theorem Encodes.fmin (a) : Statement (.fmin a) := statement_of_form _
theorem Encodes.fmax (a) : Statement (.fmax a) := statement_of_form _
theorem Encodes.fcmp (a) : Statement (.fcmp a) := statement_of_form _
theorem Encodes.fclass (a) : Statement (.fclass a) := statement_of_form _
theorem Encodes.frnd (a) : Statement (.frnd a) := statement_of_form _
theorem Encodes.fscale (a) : Statement (.fscale a) := statement_of_form _
theorem Encodes.fexp (a) : Statement (.fexp a) := statement_of_form _
theorem Encodes.cvt (a) : Statement (.cvt a) := statement_of_form _
theorem Encodes.pack8 (a) : Statement (.pack8 a) := statement_of_form _
theorem Encodes.unpk8 (a) : Statement (.unpk8 a) := statement_of_form _
theorem Encodes.pack4 (a) : Statement (.pack4 a) := statement_of_form _
theorem Encodes.unpk4 (a) : Statement (.unpk4 a) := statement_of_form _
theorem Encodes.qscale (a) : Statement (.qscale a) := statement_of_form _
theorem Encodes.fmtset (a) : Statement (.fmtset a) := statement_of_form _
theorem Encodes.modeset (a) : Statement (.modeset a) := statement_of_form _
theorem Encodes.rcp (a) : Statement (.rcp a) := statement_of_form _
theorem Encodes.rsq (a) : Statement (.rsq a) := statement_of_form _
theorem Encodes.sqrt (a) : Statement (.sqrt a) := statement_of_form _
theorem Encodes.exp2 (a) : Statement (.exp2 a) := statement_of_form _
theorem Encodes.log2 (a) : Statement (.log2 a) := statement_of_form _
theorem Encodes.sinpi (a) : Statement (.sinpi a) := statement_of_form _
theorem Encodes.cospi (a) : Statement (.cospi a) := statement_of_form _
theorem Encodes.tanh (a) : Statement (.tanh a) := statement_of_form _
theorem Encodes.fdiv (a) : Statement (.fdiv a) := statement_of_form _
theorem Encodes.fsqrt (a) : Statement (.fsqrt a) := statement_of_form _
theorem Encodes.shfl (a) : Statement (.shfl a) := statement_of_form _
theorem Encodes.vote (a) : Statement (.vote a) := statement_of_form _
theorem Encodes.redux (a) : Statement (.redux a) := statement_of_form _
theorem Encodes.scan (a) : Statement (.scan a) := statement_of_form _
theorem Encodes.matchL (a) : Statement (.matchL a) := statement_of_form _
theorem Encodes.elect (a) : Statement (.elect a) := statement_of_form _
theorem Encodes.rdlane (a) : Statement (.rdlane a) := statement_of_form _
theorem Encodes.wrlane (a) : Statement (.wrlane a) := statement_of_form _
theorem Encodes.wfuse (a) : Statement (.wfuse a) := statement_of_form _
theorem Encodes.hash (a) : Statement (.hash a) := statement_of_form _
theorem Encodes.hashc (a) : Statement (.hashc a) := statement_of_form _
theorem Encodes.partL (a) : Statement (.partL a) := statement_of_form _
theorem Encodes.pcount (a) : Statement (.pcount a) := statement_of_form _
theorem Encodes.sld (a) : Statement (.sld a) := statement_of_form _
theorem Encodes.scmp (a) : Statement (.scmp a) := statement_of_form _
theorem Encodes.shash (a) : Statement (.shash a) := statement_of_form _
theorem Encodes.sfind (a) : Statement (.sfind a) := statement_of_form _
theorem Encodes.spfx (a) : Statement (.spfx a) := statement_of_form _
theorem Encodes.sutf (a) : Statement (.sutf a) := statement_of_form _
theorem Encodes.scase (a) : Statement (.scase a) := statement_of_form _
theorem Encodes.mma (a) : Statement (.mma a) := statement_of_form _
theorem Encodes.mmas (a) : Statement (.mmas a) := statement_of_form _
theorem Encodes.mmav (a) : Statement (.mmav a) := statement_of_form _
theorem Encodes.gangset (a) : Statement (.gangset a) := statement_of_form _
theorem Encodes.mldt (a) : Statement (.mldt a) := statement_of_form _
theorem Encodes.mstt (a) : Statement (.mstt a) := statement_of_form _
theorem Encodes.ld (a) : Statement (.ld a) := statement_of_form _
theorem Encodes.st (a) : Statement (.st a) := statement_of_form _
theorem Encodes.lds (a) : Statement (.lds a) := statement_of_form _
theorem Encodes.sts (a) : Statement (.sts a) := statement_of_form _
theorem Encodes.ldf (a) : Statement (.ldf a) := statement_of_form _
theorem Encodes.stf (a) : Statement (.stf a) := statement_of_form _
theorem Encodes.feset (a) : Statement (.feset a) := statement_of_form _
theorem Encodes.atom (a) : Statement (.atom a) := statement_of_form _
theorem Encodes.red (a) : Statement (.red a) := statement_of_form _
theorem Encodes.atoms (a) : Statement (.atoms a) := statement_of_form _
theorem Encodes.pref (a) : Statement (.pref a) := statement_of_form _
theorem Encodes.fence (a) : Statement (.fence a) := statement_of_form _
theorem Encodes.bara (a) : Statement (.bara a) := statement_of_form _
theorem Encodes.barw (a) : Statement (.barw a) := statement_of_form _
theorem Encodes.monw (a) : Statement (.monw a) := statement_of_form _
theorem Encodes.baraw (a) : Statement (.baraw a) := statement_of_form _
theorem Encodes.rgbeg (a) : Statement (.rgbeg a) := statement_of_form _
theorem Encodes.rgend (a) : Statement (.rgend a) := statement_of_form _
theorem Encodes.rgabt (a) : Statement (.rgabt a) := statement_of_form _
theorem Encodes.rgbnd (a) : Statement (.rgbnd a) := statement_of_form _
theorem Encodes.rgnar (a) : Statement (.rgnar a) := statement_of_form _
theorem Encodes.rgst (a) : Statement (.rgst a) := statement_of_form _
theorem Encodes.bra (a) : Statement (.bra a) := statement_of_form _
theorem Encodes.brx (a) : Statement (.brx a) := statement_of_form _
theorem Encodes.call (a) : Statement (.call a) := statement_of_form _
theorem Encodes.ret (a) : Statement (.ret a) := statement_of_form _
theorem Encodes.bif (a) : Statement (.bif a) := statement_of_form _
theorem Encodes.belse (a) : Statement (.belse a) := statement_of_form _
theorem Encodes.bend (a) : Statement (.bend a) := statement_of_form _
theorem Encodes.bbrk (a) : Statement (.bbrk a) := statement_of_form _
theorem Encodes.bloop (a) : Statement (.bloop a) := statement_of_form _
theorem Encodes.regang (a) : Statement (.regang a) := statement_of_form _
theorem Encodes.exit (a) : Statement (.exit a) := statement_of_form _
theorem Encodes.yield (a) : Statement (.yield a) := statement_of_form _
theorem Encodes.lease (a) : Statement (.lease a) := statement_of_form _
theorem Encodes.flash (a) : Statement (.flash a) := statement_of_form _
theorem Encodes.launch (a) : Statement (.launch a) := statement_of_form _
theorem Encodes.qpush (a) : Statement (.qpush a) := statement_of_form _
theorem Encodes.qpop (a) : Statement (.qpop a) := statement_of_form _
theorem Encodes.qclose (a) : Statement (.qclose a) := statement_of_form _
theorem Encodes.xcopy (a) : Statement (.xcopy a) := statement_of_form _
theorem Encodes.xgath (a) : Statement (.xgath a) := statement_of_form _
theorem Encodes.xscat (a) : Statement (.xscat a) := statement_of_form _
theorem Encodes.xred (a) : Statement (.xred a) := statement_of_form _
theorem Encodes.xfill (a) : Statement (.xfill a) := statement_of_form _
theorem Encodes.fcinc (a) : Statement (.fcinc a) := statement_of_form _
theorem Encodes.fcwait (a) : Statement (.fcwait a) := statement_of_form _
theorem Encodes.trap (a) : Statement (.trap a) := statement_of_form _
theorem Encodes.eret (a) : Statement (.eret a) := statement_of_form _
theorem Encodes.rdsr (a) : Statement (.rdsr a) := statement_of_form _
theorem Encodes.wrsr (a) : Statement (.wrsr a) := statement_of_form _
theorem Encodes.bkpt (a) : Statement (.bkpt a) := statement_of_form _
theorem Encodes.tlbinvPage (a) : Statement (.tlbinvPage a) := statement_of_form _
theorem Encodes.tlbinvAll (a) : Statement (.tlbinvAll a) := statement_of_form _
theorem Encodes.tlbinvGlob (a) : Statement (.tlbinvGlob a) := statement_of_form _
theorem Encodes.tblrd (a) : Statement (.tblrd a) := statement_of_form _
theorem Encodes.tblwr (a) : Statement (.tblwr a) := statement_of_form _
theorem Encodes.halt (a) : Statement (.halt a) := statement_of_form _
theorem Encodes.nop (a) : Statement (.nop a) := statement_of_form _
theorem Encodes.cctlIcinv (a) : Statement (.cctlIcinv a) := statement_of_form _
theorem Encodes.cctlL1wb (a) : Statement (.cctlL1wb a) := statement_of_form _
theorem Encodes.cctlL1inv (a) : Statement (.cctlL1inv a) := statement_of_form _
theorem Encodes.cctlLinewb (a) : Statement (.cctlLinewb a) := statement_of_form _
theorem Encodes.cctlEvict (a) : Statement (.cctlEvict a) := statement_of_form _
theorem Encodes.ctxsv (a) : Statement (.ctxsv a) := statement_of_form _
theorem Encodes.ctxld (a) : Statement (.ctxld a) := statement_of_form _
theorem Encodes.directoryProbe (a) (b) (c) : Statement (.directoryProbe a b c) := statement_of_form _
theorem Encodes.partitionWrite (a) (b) (c) : Statement (.partitionWrite a b c) := statement_of_form _
theorem Encodes.launchRecordTake : Statement (.launchRecordTake) := statement_of_form _
theorem Encodes.blockStart (a) (b) (c) : Statement (.blockStart a b c) := statement_of_form _
theorem Encodes.warpEnd (a) (b) : Statement (.warpEnd a b) := statement_of_form _
theorem Encodes.launchCompletion (a) : Statement (.launchCompletion a) := statement_of_form _
theorem Encodes.admissionCycle (a) (b) : Statement (.admissionCycle a b) := statement_of_form _
theorem Encodes.headQualify (a) (b) : Statement (.headQualify a b) := statement_of_form _
theorem Encodes.headWiden (a) (b) : Statement (.headWiden a b) := statement_of_form _
theorem Encodes.leaseDecay (a) (b) : Statement (.leaseDecay a b) := statement_of_form _
theorem Encodes.issueCycle (a) : Statement (.issueCycle a) := statement_of_form _
theorem Encodes.classQResult (a) (b) (c) : Statement (.classQResult a b c) := statement_of_form _
theorem Encodes.accessReturn (a) (b) (c) : Statement (.accessReturn a b c) := statement_of_form _
theorem Encodes.matrixOperandFetched (a) (b) (c) : Statement (.matrixOperandFetched a b c) := statement_of_form _
theorem Encodes.matrixStart (a) (b) (c) : Statement (.matrixStart a b c) := statement_of_form _
theorem Encodes.matrixWriteback (a) (b) (c) : Statement (.matrixWriteback a b c) := statement_of_form _
theorem Encodes.regangTimeout (a) (b) (c) : Statement (.regangTimeout a b c) := statement_of_form _
theorem Encodes.wfuseLatchEntry (a) (b) : Statement (.wfuseLatchEntry a b) := statement_of_form _
theorem Encodes.flashLatch (a) (b) : Statement (.flashLatch a b) := statement_of_form _
theorem Encodes.flashbackSave (a) (b) : Statement (.flashbackSave a b) := statement_of_form _
theorem Encodes.runonLimit (a) (b) : Statement (.runonLimit a b) := statement_of_form _
theorem Encodes.blockResume (a) (b) (c) : Statement (.blockResume a b c) := statement_of_form _
theorem Encodes.trapEntry (a) (b) : Statement (.trapEntry a b) := statement_of_form _
theorem Encodes.coreRetirement (a) : Statement (.coreRetirement a) := statement_of_form _
theorem Encodes.calderaRequest (a) : Statement (.calderaRequest a) := statement_of_form _
theorem Encodes.calderaFill (a) : Statement (.calderaFill a) := statement_of_form _
theorem Encodes.moveStart (a) : Statement (.moveStart a) := statement_of_form _
theorem Encodes.moveInstall (a) : Statement (.moveInstall a) := statement_of_form _
theorem Encodes.moveComplete (a) : Statement (.moveComplete a) := statement_of_form _
theorem Encodes.replicaDropNotice (a) (b) : Statement (.replicaDropNotice a b) := statement_of_form _
theorem Encodes.collapse (a) : Statement (.collapse a) := statement_of_form _
theorem Encodes.replicaInvalidation (a) (b) : Statement (.replicaInvalidation a b) := statement_of_form _
theorem Encodes.collapseAck (a) (b) : Statement (.collapseAck a b) := statement_of_form _
theorem Encodes.anchorUnpin (a) : Statement (.anchorUnpin a) := statement_of_form _
theorem Encodes.bankRetirement (a) : Statement (.bankRetirement a) := statement_of_form _
theorem Encodes.forcedUnit (a) (b) : Statement (.forcedUnit a b) := statement_of_form _
theorem Encodes.wcBufferDrain (a) : Statement (.wcBufferDrain a) := statement_of_form _
theorem Encodes.channelRetirement (a) : Statement (.channelRetirement a) := statement_of_form _
theorem Encodes.reinterleaveUnit : Statement (.reinterleaveUnit) := statement_of_form _
theorem Encodes.rowCooldownRelease (a) : Statement (.rowCooldownRelease a) := statement_of_form _
theorem Encodes.writeNotice (a) (b) : Statement (.writeNotice a b) := statement_of_form _
theorem Encodes.monwBoundExpiry (a) (b) : Statement (.monwBoundExpiry a b) := statement_of_form _
theorem Encodes.tlbWalk (a) (b) (c) : Statement (.tlbWalk a b c) := statement_of_form _
theorem Encodes.regionTrackedRead (a) : Statement (.regionTrackedRead a) := statement_of_form _
theorem Encodes.writeIntent (a) : Statement (.writeIntent a) := statement_of_form _
theorem Encodes.narrowMsg (a) : Statement (.narrowMsg a) := statement_of_form _
theorem Encodes.commitVisit (a) (b) : Statement (.commitVisit a b) := statement_of_form _
theorem Encodes.commitGrant (a) (b) : Statement (.commitGrant a b) := statement_of_form _
theorem Encodes.finalMsg (a) (b) (c) : Statement (.finalMsg a b c) := statement_of_form _
theorem Encodes.finalAtPartner (a) (b) (c) : Statement (.finalAtPartner a b c) := statement_of_form _
theorem Encodes.releaseMsg (a) (b) : Statement (.releaseMsg a b) := statement_of_form _
theorem Encodes.regionAbort (a) (b) : Statement (.regionAbort a b) := statement_of_form _
theorem Encodes.stagePush (a) : Statement (.stagePush a) := statement_of_form _
theorem Encodes.stageRecordAck (a) : Statement (.stageRecordAck a) := statement_of_form _
theorem Encodes.stagePop (a) : Statement (.stagePop a) := statement_of_form _
theorem Encodes.engineCommand (a) (b) : Statement (.engineCommand a b) := statement_of_form _
theorem Encodes.engineCommandDone (a) (b) : Statement (.engineCommandDone a b) := statement_of_form _
theorem Encodes.nyrusRequestLeave (a) (b) : Statement (.nyrusRequestLeave a b) := statement_of_form _
theorem Encodes.peerTimeout (a) (b) : Statement (.peerTimeout a b) := statement_of_form _
theorem Encodes.ethTransmit (a) : Statement (.ethTransmit a) := statement_of_form _
theorem Encodes.laharBringUp (a) : Statement (.laharBringUp a) := statement_of_form _
theorem Encodes.writeBackAcknowledgement (a) (b) (c) : Statement (.writeBackAcknowledgement a b c) := statement_of_form _
theorem Encodes.globalObservationResponse (a) : Statement (.globalObservationResponse a) := statement_of_form _
theorem Encodes.monwCheckReply (a) (b) (c) : Statement (.monwCheckReply a b c) := statement_of_form _
theorem Encodes.qtailWrite (a) (b) (c) : Statement (.qtailWrite a b c) := statement_of_form _
theorem Encodes.resumeWrite (a) (b) : Statement (.resumeWrite a b) := statement_of_form _
theorem Encodes.fqfail (a) (b) : Statement (.fqfail a b) := statement_of_form _
theorem Encodes.fqheadWrite (a) (b) : Statement (.fqheadWrite a b) := statement_of_form _
theorem Encodes.fcvalWrite (a) (b) (c) : Statement (.fcvalWrite a b c) := statement_of_form _
theorem Encodes.fcaddWrite (a) (b) (c) : Statement (.fcaddWrite a b c) := statement_of_form _
theorem Encodes.registerWrite (a) (b) (c) : Statement (.registerWrite a b c) := statement_of_form _
theorem Encodes.mboxCommand (a) : Statement (.mboxCommand a) := statement_of_form _
theorem Encodes.functionLevelReset (a) : Statement (.functionLevelReset a) := statement_of_form _
theorem Encodes.firmwareReload (a) (b) : Statement (.firmwareReload a b) := statement_of_form _
theorem Encodes.spdmRequest (a) : Statement (.spdmRequest a) := statement_of_form _
theorem Encodes.monitorSnapshot (a) : Statement (.monitorSnapshot a) := statement_of_form _
theorem Encodes.powerCapReached : Statement (.powerCapReached) := statement_of_form _
theorem Encodes.thermalTrip : Statement (.thermalTrip) := statement_of_form _
theorem Encodes.criticalTemperature : Statement (.criticalTemperature) := statement_of_form _
theorem Encodes.temperatureBelowTrip : Statement (.temperatureBelowTrip) := statement_of_form _
theorem Encodes.hostSnoop (a) (b) (c) : Statement (.hostSnoop a b c) := statement_of_form _
theorem Encodes.hostCxlMemRequest (a) (b) : Statement (.hostCxlMemRequest a b) := statement_of_form _
theorem Encodes.peerRequestServe (a) : Statement (.peerRequestServe a) := statement_of_form _
theorem Encodes.nyrusLaneRetire (a) : Statement (.nyrusLaneRetire a) := statement_of_form _
theorem Encodes.ethFrameReceive (a) (b) (c) : Statement (.ethFrameReceive a b c) := statement_of_form _
theorem Encodes.scrubUnit (a) (b) : Statement (.scrubUnit a b) := statement_of_form _
theorem Encodes.preemptRequest (a) (b) : Statement (.preemptRequest a b) := statement_of_form _
theorem Encodes.nyrusResponse (a) (b) (c) : Statement (.nyrusResponse a b c) := statement_of_form _
theorem Encodes.backInvalidateResponse (a) (b) : Statement (.backInvalidateResponse a b) := statement_of_form _

end Sys2Proof.Laws
end

