-- ==== Sys2Proof/Laws/State.lean ====
section
/-! SUPPORT. Laws of the state's updates: what each leaves as it is, field by field, and what reading a core or a warp gives after it. -/

namespace Sys2Proof.Machine

@[simp] theorem State.modCore_mem (s : State) (c : Nat) (f : Core → Core) : (s.modCore c f).mem = s.mem := rfl
@[simp] theorem State.modCore_poison (s : State) (c : Nat) (f : Core → Core) : (s.modCore c f).poison = s.poison := rfl
@[simp] theorem State.modCore_caldera (s : State) (c : Nat) (f : Core → Core) : (s.modCore c f).caldera = s.caldera := rfl
@[simp] theorem State.modCore_hbm (s : State) (c : Nat) (f : Core → Core) : (s.modCore c f).hbm = s.hbm := rfl
@[simp] theorem State.modCore_tenants (s : State) (c : Nat) (f : Core → Core) : (s.modCore c f).tenants = s.tenants := rfl
@[simp] theorem State.modCore_launches (s : State) (c : Nat) (f : Core → Core) : (s.modCore c f).launches = s.launches := rfl
@[simp] theorem State.modCore_modul (s : State) (c : Nat) (f : Core → Core) : (s.modCore c f).modul = s.modul := rfl
@[simp] theorem State.modCore_caches (s : State) (c : Nat) (f : Core → Core) : (s.modCore c f).caches = s.caches := rfl
@[simp] theorem State.modCore_agenda (s : State) (c : Nat) (f : Core → Core) : (s.modCore c f).agenda = s.agenda := rfl
@[simp] theorem State.modCore_sel (s : State) (c : Nat) (f : Core → Core) : (s.modCore c f).sel = s.sel := rfl
@[simp] theorem State.modCore_pending (s : State) (c : Nat) (f : Core → Core) : (s.modCore c f).pending = s.pending := rfl
@[simp] theorem State.modCore_later (s : State) (c : Nat) (f : Core → Core) : (s.modCore c f).later = s.later := rfl
@[simp] theorem State.modCore_turn (s : State) (c : Nat) (f : Core → Core) : (s.modCore c f).turn = s.turn := rfl
@[simp] theorem State.modCore_tick (s : State) (c : Nat) (f : Core → Core) : (s.modCore c f).tick = s.tick := rfl

@[simp] theorem State.setWarp_mem (s : State) (c p : Nat) (w : Warp) : (s.setWarp c p w).mem = s.mem := rfl
@[simp] theorem State.setWarp_poison (s : State) (c p : Nat) (w : Warp) : (s.setWarp c p w).poison = s.poison := rfl
@[simp] theorem State.setWarp_caldera (s : State) (c p : Nat) (w : Warp) : (s.setWarp c p w).caldera = s.caldera := rfl
@[simp] theorem State.setWarp_hbm (s : State) (c p : Nat) (w : Warp) : (s.setWarp c p w).hbm = s.hbm := rfl
@[simp] theorem State.setWarp_tenants (s : State) (c p : Nat) (w : Warp) : (s.setWarp c p w).tenants = s.tenants := rfl
@[simp] theorem State.setWarp_launches (s : State) (c p : Nat) (w : Warp) : (s.setWarp c p w).launches = s.launches := rfl
@[simp] theorem State.setWarp_modul (s : State) (c p : Nat) (w : Warp) : (s.setWarp c p w).modul = s.modul := rfl
@[simp] theorem State.setWarp_caches (s : State) (c p : Nat) (w : Warp) : (s.setWarp c p w).caches = s.caches := rfl
@[simp] theorem State.setWarp_agenda (s : State) (c p : Nat) (w : Warp) : (s.setWarp c p w).agenda = s.agenda := rfl
@[simp] theorem State.setWarp_sel (s : State) (c p : Nat) (w : Warp) : (s.setWarp c p w).sel = s.sel := rfl
@[simp] theorem State.setWarp_pending (s : State) (c p : Nat) (w : Warp) : (s.setWarp c p w).pending = s.pending := rfl
@[simp] theorem State.setWarp_later (s : State) (c p : Nat) (w : Warp) : (s.setWarp c p w).later = s.later := rfl
@[simp] theorem State.setWarp_turn (s : State) (c p : Nat) (w : Warp) : (s.setWarp c p w).turn = s.turn := rfl
@[simp] theorem State.setWarp_tick (s : State) (c p : Nat) (w : Warp) : (s.setWarp c p w).tick = s.tick := rfl

@[simp] theorem State.modWarp_mem (s : State) (c p : Nat) (f : Warp → Warp) : (s.modWarp c p f).mem = s.mem := rfl
@[simp] theorem State.modWarp_poison (s : State) (c p : Nat) (f : Warp → Warp) : (s.modWarp c p f).poison = s.poison := rfl
@[simp] theorem State.modWarp_caldera (s : State) (c p : Nat) (f : Warp → Warp) : (s.modWarp c p f).caldera = s.caldera := rfl
@[simp] theorem State.modWarp_hbm (s : State) (c p : Nat) (f : Warp → Warp) : (s.modWarp c p f).hbm = s.hbm := rfl
@[simp] theorem State.modWarp_tenants (s : State) (c p : Nat) (f : Warp → Warp) : (s.modWarp c p f).tenants = s.tenants := rfl
@[simp] theorem State.modWarp_launches (s : State) (c p : Nat) (f : Warp → Warp) : (s.modWarp c p f).launches = s.launches := rfl
@[simp] theorem State.modWarp_modul (s : State) (c p : Nat) (f : Warp → Warp) : (s.modWarp c p f).modul = s.modul := rfl
@[simp] theorem State.modWarp_caches (s : State) (c p : Nat) (f : Warp → Warp) : (s.modWarp c p f).caches = s.caches := rfl
@[simp] theorem State.modWarp_agenda (s : State) (c p : Nat) (f : Warp → Warp) : (s.modWarp c p f).agenda = s.agenda := rfl
@[simp] theorem State.modWarp_sel (s : State) (c p : Nat) (f : Warp → Warp) : (s.modWarp c p f).sel = s.sel := rfl
@[simp] theorem State.modWarp_pending (s : State) (c p : Nat) (f : Warp → Warp) : (s.modWarp c p f).pending = s.pending := rfl
@[simp] theorem State.modWarp_later (s : State) (c p : Nat) (f : Warp → Warp) : (s.modWarp c p f).later = s.later := rfl
@[simp] theorem State.modWarp_turn (s : State) (c p : Nat) (f : Warp → Warp) : (s.modWarp c p f).turn = s.turn := rfl
@[simp] theorem State.modWarp_tick (s : State) (c p : Nat) (f : Warp → Warp) : (s.modWarp c p f).tick = s.tick := rfl

@[simp] theorem State.modQuad_mem (s : State) (c q : Nat) (f : Quad → Quad) : (s.modQuad c q f).mem = s.mem := rfl
@[simp] theorem State.modQuad_poison (s : State) (c q : Nat) (f : Quad → Quad) : (s.modQuad c q f).poison = s.poison := rfl
@[simp] theorem State.modQuad_caldera (s : State) (c q : Nat) (f : Quad → Quad) : (s.modQuad c q f).caldera = s.caldera := rfl
@[simp] theorem State.modQuad_hbm (s : State) (c q : Nat) (f : Quad → Quad) : (s.modQuad c q f).hbm = s.hbm := rfl
@[simp] theorem State.modQuad_tenants (s : State) (c q : Nat) (f : Quad → Quad) : (s.modQuad c q f).tenants = s.tenants := rfl
@[simp] theorem State.modQuad_launches (s : State) (c q : Nat) (f : Quad → Quad) : (s.modQuad c q f).launches = s.launches := rfl
@[simp] theorem State.modQuad_modul (s : State) (c q : Nat) (f : Quad → Quad) : (s.modQuad c q f).modul = s.modul := rfl
@[simp] theorem State.modQuad_caches (s : State) (c q : Nat) (f : Quad → Quad) : (s.modQuad c q f).caches = s.caches := rfl
@[simp] theorem State.modQuad_agenda (s : State) (c q : Nat) (f : Quad → Quad) : (s.modQuad c q f).agenda = s.agenda := rfl
@[simp] theorem State.modQuad_sel (s : State) (c q : Nat) (f : Quad → Quad) : (s.modQuad c q f).sel = s.sel := rfl
@[simp] theorem State.modQuad_pending (s : State) (c q : Nat) (f : Quad → Quad) : (s.modQuad c q f).pending = s.pending := rfl
@[simp] theorem State.modQuad_later (s : State) (c q : Nat) (f : Quad → Quad) : (s.modQuad c q f).later = s.later := rfl
@[simp] theorem State.modQuad_turn (s : State) (c q : Nat) (f : Quad → Quad) : (s.modQuad c q f).turn = s.turn := rfl
@[simp] theorem State.modQuad_tick (s : State) (c q : Nat) (f : Quad → Quad) : (s.modQuad c q f).tick = s.tick := rfl

@[simp] theorem State.count_mem (s : State) (c p e n : Nat) : (s.count c p e n).mem = s.mem := rfl
@[simp] theorem State.count_poison (s : State) (c p e n : Nat) : (s.count c p e n).poison = s.poison := rfl
@[simp] theorem State.count_caldera (s : State) (c p e n : Nat) : (s.count c p e n).caldera = s.caldera := rfl
@[simp] theorem State.count_hbm (s : State) (c p e n : Nat) : (s.count c p e n).hbm = s.hbm := rfl
@[simp] theorem State.count_tenants (s : State) (c p e n : Nat) : (s.count c p e n).tenants = s.tenants := rfl
@[simp] theorem State.count_launches (s : State) (c p e n : Nat) : (s.count c p e n).launches = s.launches := rfl
@[simp] theorem State.count_modul (s : State) (c p e n : Nat) : (s.count c p e n).modul = s.modul := rfl
@[simp] theorem State.count_caches (s : State) (c p e n : Nat) : (s.count c p e n).caches = s.caches := rfl
@[simp] theorem State.count_agenda (s : State) (c p e n : Nat) : (s.count c p e n).agenda = s.agenda := rfl
@[simp] theorem State.count_sel (s : State) (c p e n : Nat) : (s.count c p e n).sel = s.sel := rfl
@[simp] theorem State.count_pending (s : State) (c p e n : Nat) : (s.count c p e n).pending = s.pending := rfl
@[simp] theorem State.count_later (s : State) (c p e n : Nat) : (s.count c p e n).later = s.later := rfl
@[simp] theorem State.count_turn (s : State) (c p e n : Nat) : (s.count c p e n).turn = s.turn := rfl
@[simp] theorem State.count_tick (s : State) (c p e n : Nat) : (s.count c p e n).tick = s.tick := rfl

@[simp] theorem State.modTenant_cores (s : State) (t : Nat) (f : Tenant → Tenant) : (s.modTenant t f).cores = s.cores := rfl
@[simp] theorem State.modTenant_mem (s : State) (t : Nat) (f : Tenant → Tenant) : (s.modTenant t f).mem = s.mem := rfl
@[simp] theorem State.modTenant_poison (s : State) (t : Nat) (f : Tenant → Tenant) : (s.modTenant t f).poison = s.poison := rfl
@[simp] theorem State.modTenant_caldera (s : State) (t : Nat) (f : Tenant → Tenant) : (s.modTenant t f).caldera = s.caldera := rfl
@[simp] theorem State.modTenant_hbm (s : State) (t : Nat) (f : Tenant → Tenant) : (s.modTenant t f).hbm = s.hbm := rfl
@[simp] theorem State.modTenant_launches (s : State) (t : Nat) (f : Tenant → Tenant) : (s.modTenant t f).launches = s.launches := rfl
@[simp] theorem State.modTenant_modul (s : State) (t : Nat) (f : Tenant → Tenant) : (s.modTenant t f).modul = s.modul := rfl
@[simp] theorem State.modTenant_caches (s : State) (t : Nat) (f : Tenant → Tenant) : (s.modTenant t f).caches = s.caches := rfl
@[simp] theorem State.modTenant_agenda (s : State) (t : Nat) (f : Tenant → Tenant) : (s.modTenant t f).agenda = s.agenda := rfl
@[simp] theorem State.modTenant_sel (s : State) (t : Nat) (f : Tenant → Tenant) : (s.modTenant t f).sel = s.sel := rfl
@[simp] theorem State.modTenant_pending (s : State) (t : Nat) (f : Tenant → Tenant) : (s.modTenant t f).pending = s.pending := rfl
@[simp] theorem State.modTenant_later (s : State) (t : Nat) (f : Tenant → Tenant) : (s.modTenant t f).later = s.later := rfl
@[simp] theorem State.modTenant_turn (s : State) (t : Nat) (f : Tenant → Tenant) : (s.modTenant t f).turn = s.turn := rfl
@[simp] theorem State.modTenant_tick (s : State) (t : Nat) (f : Tenant → Tenant) : (s.modTenant t f).tick = s.tick := rfl

@[simp] theorem State.push_cores (s : State) (e : Instr) : (s.push e).cores = s.cores := rfl
@[simp] theorem State.push_mem (s : State) (e : Instr) : (s.push e).mem = s.mem := rfl
@[simp] theorem State.push_poison (s : State) (e : Instr) : (s.push e).poison = s.poison := rfl
@[simp] theorem State.push_caldera (s : State) (e : Instr) : (s.push e).caldera = s.caldera := rfl
@[simp] theorem State.push_hbm (s : State) (e : Instr) : (s.push e).hbm = s.hbm := rfl
@[simp] theorem State.push_tenants (s : State) (e : Instr) : (s.push e).tenants = s.tenants := rfl
@[simp] theorem State.push_launches (s : State) (e : Instr) : (s.push e).launches = s.launches := rfl
@[simp] theorem State.push_modul (s : State) (e : Instr) : (s.push e).modul = s.modul := rfl
@[simp] theorem State.push_caches (s : State) (e : Instr) : (s.push e).caches = s.caches := rfl
@[simp] theorem State.push_agenda (s : State) (e : Instr) : (s.push e).agenda = s.agenda := rfl
@[simp] theorem State.push_sel (s : State) (e : Instr) : (s.push e).sel = s.sel := rfl
@[simp] theorem State.push_later (s : State) (e : Instr) : (s.push e).later = s.later := rfl
@[simp] theorem State.push_turn (s : State) (e : Instr) : (s.push e).turn = s.turn := rfl
@[simp] theorem State.push_tick (s : State) (e : Instr) : (s.push e).tick = s.tick := rfl

@[simp] theorem State.pushAll_cores (s : State) (l : List Instr) : (s.pushAll l).cores = s.cores := rfl
@[simp] theorem State.pushAll_mem (s : State) (l : List Instr) : (s.pushAll l).mem = s.mem := rfl
@[simp] theorem State.pushAll_poison (s : State) (l : List Instr) : (s.pushAll l).poison = s.poison := rfl
@[simp] theorem State.pushAll_caldera (s : State) (l : List Instr) : (s.pushAll l).caldera = s.caldera := rfl
@[simp] theorem State.pushAll_hbm (s : State) (l : List Instr) : (s.pushAll l).hbm = s.hbm := rfl
@[simp] theorem State.pushAll_tenants (s : State) (l : List Instr) : (s.pushAll l).tenants = s.tenants := rfl
@[simp] theorem State.pushAll_launches (s : State) (l : List Instr) : (s.pushAll l).launches = s.launches := rfl
@[simp] theorem State.pushAll_modul (s : State) (l : List Instr) : (s.pushAll l).modul = s.modul := rfl
@[simp] theorem State.pushAll_caches (s : State) (l : List Instr) : (s.pushAll l).caches = s.caches := rfl
@[simp] theorem State.pushAll_agenda (s : State) (l : List Instr) : (s.pushAll l).agenda = s.agenda := rfl
@[simp] theorem State.pushAll_sel (s : State) (l : List Instr) : (s.pushAll l).sel = s.sel := rfl
@[simp] theorem State.pushAll_later (s : State) (l : List Instr) : (s.pushAll l).later = s.later := rfl
@[simp] theorem State.pushAll_turn (s : State) (l : List Instr) : (s.pushAll l).turn = s.turn := rfl
@[simp] theorem State.pushAll_tick (s : State) (l : List Instr) : (s.pushAll l).tick = s.tick := rfl

@[simp] theorem State.taken_cores (s : State) (e : Instr) : (s.taken e).cores = s.cores := rfl
@[simp] theorem State.taken_mem (s : State) (e : Instr) : (s.taken e).mem = s.mem := rfl
@[simp] theorem State.taken_poison (s : State) (e : Instr) : (s.taken e).poison = s.poison := rfl
@[simp] theorem State.taken_caldera (s : State) (e : Instr) : (s.taken e).caldera = s.caldera := rfl
@[simp] theorem State.taken_hbm (s : State) (e : Instr) : (s.taken e).hbm = s.hbm := rfl
@[simp] theorem State.taken_tenants (s : State) (e : Instr) : (s.taken e).tenants = s.tenants := rfl
@[simp] theorem State.taken_launches (s : State) (e : Instr) : (s.taken e).launches = s.launches := rfl
@[simp] theorem State.taken_modul (s : State) (e : Instr) : (s.taken e).modul = s.modul := rfl
@[simp] theorem State.taken_caches (s : State) (e : Instr) : (s.taken e).caches = s.caches := rfl
@[simp] theorem State.taken_agenda (s : State) (e : Instr) : (s.taken e).agenda = s.agenda := rfl
@[simp] theorem State.taken_sel (s : State) (e : Instr) : (s.taken e).sel = s.sel := rfl
@[simp] theorem State.taken_later (s : State) (e : Instr) : (s.taken e).later = s.later := rfl
@[simp] theorem State.taken_turn (s : State) (e : Instr) : (s.taken e).turn = s.turn := rfl
@[simp] theorem State.taken_tick (s : State) (e : Instr) : (s.taken e).tick = s.tick := rfl

@[simp] theorem State.writeMem_cores (s : State) (l : SMap Byte) : (s.writeMem l).cores = s.cores := rfl
@[simp] theorem State.writeMem_caldera (s : State) (l : SMap Byte) : (s.writeMem l).caldera = s.caldera := rfl
@[simp] theorem State.writeMem_hbm (s : State) (l : SMap Byte) : (s.writeMem l).hbm = s.hbm := rfl
@[simp] theorem State.writeMem_tenants (s : State) (l : SMap Byte) : (s.writeMem l).tenants = s.tenants := rfl
@[simp] theorem State.writeMem_launches (s : State) (l : SMap Byte) : (s.writeMem l).launches = s.launches := rfl
@[simp] theorem State.writeMem_modul (s : State) (l : SMap Byte) : (s.writeMem l).modul = s.modul := rfl
@[simp] theorem State.writeMem_caches (s : State) (l : SMap Byte) : (s.writeMem l).caches = s.caches := rfl
@[simp] theorem State.writeMem_agenda (s : State) (l : SMap Byte) : (s.writeMem l).agenda = s.agenda := rfl
@[simp] theorem State.writeMem_sel (s : State) (l : SMap Byte) : (s.writeMem l).sel = s.sel := rfl
@[simp] theorem State.writeMem_pending (s : State) (l : SMap Byte) : (s.writeMem l).pending = s.pending := rfl
@[simp] theorem State.writeMem_later (s : State) (l : SMap Byte) : (s.writeMem l).later = s.later := rfl
@[simp] theorem State.writeMem_turn (s : State) (l : SMap Byte) : (s.writeMem l).turn = s.turn := rfl
@[simp] theorem State.writeMem_tick (s : State) (l : SMap Byte) : (s.writeMem l).tick = s.tick := rfl

@[simp] theorem State.unselect_cores (s : State) (c p : Nat) : (s.unselect c p).cores = s.cores := rfl
@[simp] theorem State.unselect_mem (s : State) (c p : Nat) : (s.unselect c p).mem = s.mem := rfl
@[simp] theorem State.unselect_poison (s : State) (c p : Nat) : (s.unselect c p).poison = s.poison := rfl
@[simp] theorem State.unselect_caldera (s : State) (c p : Nat) : (s.unselect c p).caldera = s.caldera := rfl
@[simp] theorem State.unselect_hbm (s : State) (c p : Nat) : (s.unselect c p).hbm = s.hbm := rfl
@[simp] theorem State.unselect_tenants (s : State) (c p : Nat) : (s.unselect c p).tenants = s.tenants := rfl
@[simp] theorem State.unselect_launches (s : State) (c p : Nat) : (s.unselect c p).launches = s.launches := rfl
@[simp] theorem State.unselect_modul (s : State) (c p : Nat) : (s.unselect c p).modul = s.modul := rfl
@[simp] theorem State.unselect_caches (s : State) (c p : Nat) : (s.unselect c p).caches = s.caches := rfl
@[simp] theorem State.unselect_agenda (s : State) (c p : Nat) : (s.unselect c p).agenda = s.agenda := rfl
@[simp] theorem State.unselect_pending (s : State) (c p : Nat) : (s.unselect c p).pending = s.pending := rfl
@[simp] theorem State.unselect_later (s : State) (c p : Nat) : (s.unselect c p).later = s.later := rfl
@[simp] theorem State.unselect_turn (s : State) (c p : Nat) : (s.unselect c p).turn = s.turn := rfl
@[simp] theorem State.unselect_tick (s : State) (c p : Nat) : (s.unselect c p).tick = s.tick := rfl

@[simp] theorem State.failLaunch_cores (s : State) (id : Nat) : (s.failLaunch id).cores = s.cores := rfl
@[simp] theorem State.failLaunch_mem (s : State) (id : Nat) : (s.failLaunch id).mem = s.mem := rfl
@[simp] theorem State.failLaunch_poison (s : State) (id : Nat) : (s.failLaunch id).poison = s.poison := rfl
@[simp] theorem State.failLaunch_caldera (s : State) (id : Nat) : (s.failLaunch id).caldera = s.caldera := rfl
@[simp] theorem State.failLaunch_hbm (s : State) (id : Nat) : (s.failLaunch id).hbm = s.hbm := rfl
@[simp] theorem State.failLaunch_tenants (s : State) (id : Nat) : (s.failLaunch id).tenants = s.tenants := rfl
@[simp] theorem State.failLaunch_modul (s : State) (id : Nat) : (s.failLaunch id).modul = s.modul := rfl
@[simp] theorem State.failLaunch_caches (s : State) (id : Nat) : (s.failLaunch id).caches = s.caches := rfl
@[simp] theorem State.failLaunch_agenda (s : State) (id : Nat) : (s.failLaunch id).agenda = s.agenda := rfl
@[simp] theorem State.failLaunch_sel (s : State) (id : Nat) : (s.failLaunch id).sel = s.sel := rfl
@[simp] theorem State.failLaunch_pending (s : State) (id : Nat) : (s.failLaunch id).pending = s.pending := rfl
@[simp] theorem State.failLaunch_later (s : State) (id : Nat) : (s.failLaunch id).later = s.later := rfl
@[simp] theorem State.failLaunch_turn (s : State) (id : Nat) : (s.failLaunch id).turn = s.turn := rfl
@[simp] theorem State.failLaunch_tick (s : State) (id : Nat) : (s.failLaunch id).tick = s.tick := rfl

@[simp] theorem State.begun_cores (s : State) : s.begun.cores = s.cores := rfl
@[simp] theorem State.begun_mem (s : State) : s.begun.mem = s.mem := rfl
@[simp] theorem State.begun_poison (s : State) : s.begun.poison = s.poison := rfl
@[simp] theorem State.begun_caldera (s : State) : s.begun.caldera = s.caldera := rfl
@[simp] theorem State.begun_hbm (s : State) : s.begun.hbm = s.hbm := rfl
@[simp] theorem State.begun_tenants (s : State) : s.begun.tenants = s.tenants := rfl
@[simp] theorem State.begun_launches (s : State) : s.begun.launches = s.launches := rfl
@[simp] theorem State.begun_modul (s : State) : s.begun.modul = s.modul := rfl
@[simp] theorem State.begun_caches (s : State) : s.begun.caches = s.caches := rfl
@[simp] theorem State.begun_agenda (s : State) : s.begun.agenda = s.agenda := rfl
@[simp] theorem State.begun_pending (s : State) : s.begun.pending = s.pending := rfl
@[simp] theorem State.begun_later (s : State) : s.begun.later = s.later := rfl
@[simp] theorem State.begun_turn (s : State) : s.begun.turn = s.turn := rfl

@[simp] theorem State.pushOnce_cores (s : State) (e : Instr) : (s.pushOnce e).cores = s.cores := by simp only [State.pushOnce]; split <;> rfl
@[simp] theorem State.pushOnce_mem (s : State) (e : Instr) : (s.pushOnce e).mem = s.mem := by simp only [State.pushOnce]; split <;> rfl
@[simp] theorem State.pushOnce_poison (s : State) (e : Instr) : (s.pushOnce e).poison = s.poison := by simp only [State.pushOnce]; split <;> rfl
@[simp] theorem State.pushOnce_caldera (s : State) (e : Instr) : (s.pushOnce e).caldera = s.caldera := by simp only [State.pushOnce]; split <;> rfl
@[simp] theorem State.pushOnce_hbm (s : State) (e : Instr) : (s.pushOnce e).hbm = s.hbm := by simp only [State.pushOnce]; split <;> rfl
@[simp] theorem State.pushOnce_tenants (s : State) (e : Instr) : (s.pushOnce e).tenants = s.tenants := by simp only [State.pushOnce]; split <;> rfl
@[simp] theorem State.pushOnce_launches (s : State) (e : Instr) : (s.pushOnce e).launches = s.launches := by simp only [State.pushOnce]; split <;> rfl
@[simp] theorem State.pushOnce_modul (s : State) (e : Instr) : (s.pushOnce e).modul = s.modul := by simp only [State.pushOnce]; split <;> rfl
@[simp] theorem State.pushOnce_caches (s : State) (e : Instr) : (s.pushOnce e).caches = s.caches := by simp only [State.pushOnce]; split <;> rfl
@[simp] theorem State.pushOnce_agenda (s : State) (e : Instr) : (s.pushOnce e).agenda = s.agenda := by simp only [State.pushOnce]; split <;> rfl
@[simp] theorem State.pushOnce_sel (s : State) (e : Instr) : (s.pushOnce e).sel = s.sel := by simp only [State.pushOnce]; split <;> rfl
@[simp] theorem State.pushOnce_later (s : State) (e : Instr) : (s.pushOnce e).later = s.later := by simp only [State.pushOnce]; split <;> rfl
@[simp] theorem State.pushOnce_turn (s : State) (e : Instr) : (s.pushOnce e).turn = s.turn := by simp only [State.pushOnce]; split <;> rfl
@[simp] theorem State.pushOnce_tick (s : State) (e : Instr) : (s.pushOnce e).tick = s.tick := by simp only [State.pushOnce]; split <;> rfl

@[simp] theorem State.retry_cores (s : State) (e : Instr) : (s.retry e).cores = s.cores := by simp only [State.retry]; split <;> rfl
@[simp] theorem State.retry_mem (s : State) (e : Instr) : (s.retry e).mem = s.mem := by simp only [State.retry]; split <;> rfl
@[simp] theorem State.retry_poison (s : State) (e : Instr) : (s.retry e).poison = s.poison := by simp only [State.retry]; split <;> rfl
@[simp] theorem State.retry_caldera (s : State) (e : Instr) : (s.retry e).caldera = s.caldera := by simp only [State.retry]; split <;> rfl
@[simp] theorem State.retry_hbm (s : State) (e : Instr) : (s.retry e).hbm = s.hbm := by simp only [State.retry]; split <;> rfl
@[simp] theorem State.retry_tenants (s : State) (e : Instr) : (s.retry e).tenants = s.tenants := by simp only [State.retry]; split <;> rfl
@[simp] theorem State.retry_launches (s : State) (e : Instr) : (s.retry e).launches = s.launches := by simp only [State.retry]; split <;> rfl
@[simp] theorem State.retry_modul (s : State) (e : Instr) : (s.retry e).modul = s.modul := by simp only [State.retry]; split <;> rfl
@[simp] theorem State.retry_caches (s : State) (e : Instr) : (s.retry e).caches = s.caches := by simp only [State.retry]; split <;> rfl
@[simp] theorem State.retry_agenda (s : State) (e : Instr) : (s.retry e).agenda = s.agenda := by simp only [State.retry]; split <;> rfl
@[simp] theorem State.retry_sel (s : State) (e : Instr) : (s.retry e).sel = s.sel := by simp only [State.retry]; split <;> rfl
@[simp] theorem State.retry_pending (s : State) (e : Instr) : (s.retry e).pending = s.pending := by simp only [State.retry]; split <;> rfl
@[simp] theorem State.retry_turn (s : State) (e : Instr) : (s.retry e).turn = s.turn := by simp only [State.retry]; split <;> rfl
@[simp] theorem State.retry_tick (s : State) (e : Instr) : (s.retry e).tick = s.tick := by simp only [State.retry]; split <;> rfl

@[simp] theorem State.modBlock_mem (s : State) (c id : Nat) (f : Block → Block) : (s.modBlock c id f).mem = s.mem := rfl
@[simp] theorem State.modBlock_poison (s : State) (c id : Nat) (f : Block → Block) : (s.modBlock c id f).poison = s.poison := rfl
@[simp] theorem State.modBlock_caldera (s : State) (c id : Nat) (f : Block → Block) : (s.modBlock c id f).caldera = s.caldera := rfl
@[simp] theorem State.modBlock_hbm (s : State) (c id : Nat) (f : Block → Block) : (s.modBlock c id f).hbm = s.hbm := rfl
@[simp] theorem State.modBlock_tenants (s : State) (c id : Nat) (f : Block → Block) : (s.modBlock c id f).tenants = s.tenants := rfl
@[simp] theorem State.modBlock_launches (s : State) (c id : Nat) (f : Block → Block) : (s.modBlock c id f).launches = s.launches := rfl
@[simp] theorem State.modBlock_modul (s : State) (c id : Nat) (f : Block → Block) : (s.modBlock c id f).modul = s.modul := rfl
@[simp] theorem State.modBlock_caches (s : State) (c id : Nat) (f : Block → Block) : (s.modBlock c id f).caches = s.caches := rfl
@[simp] theorem State.modBlock_agenda (s : State) (c id : Nat) (f : Block → Block) : (s.modBlock c id f).agenda = s.agenda := rfl
@[simp] theorem State.modBlock_sel (s : State) (c id : Nat) (f : Block → Block) : (s.modBlock c id f).sel = s.sel := rfl
@[simp] theorem State.modBlock_pending (s : State) (c id : Nat) (f : Block → Block) : (s.modBlock c id f).pending = s.pending := rfl
@[simp] theorem State.modBlock_later (s : State) (c id : Nat) (f : Block → Block) : (s.modBlock c id f).later = s.later := rfl
@[simp] theorem State.modBlock_turn (s : State) (c id : Nat) (f : Block → Block) : (s.modBlock c id f).turn = s.turn := rfl
@[simp] theorem State.modBlock_tick (s : State) (c id : Nat) (f : Block → Block) : (s.modBlock c id f).tick = s.tick := rfl

@[simp] theorem State.modL1_mem (s : State) (c : Nat) (p : L1Line → Bool) (f : L1Line → L1Line) : (s.modL1 c p f).mem = s.mem := rfl
@[simp] theorem State.modL1_poison (s : State) (c : Nat) (p : L1Line → Bool) (f : L1Line → L1Line) : (s.modL1 c p f).poison = s.poison := rfl
@[simp] theorem State.modL1_caldera (s : State) (c : Nat) (p : L1Line → Bool) (f : L1Line → L1Line) : (s.modL1 c p f).caldera = s.caldera := rfl
@[simp] theorem State.modL1_hbm (s : State) (c : Nat) (p : L1Line → Bool) (f : L1Line → L1Line) : (s.modL1 c p f).hbm = s.hbm := rfl
@[simp] theorem State.modL1_tenants (s : State) (c : Nat) (p : L1Line → Bool) (f : L1Line → L1Line) : (s.modL1 c p f).tenants = s.tenants := rfl
@[simp] theorem State.modL1_launches (s : State) (c : Nat) (p : L1Line → Bool) (f : L1Line → L1Line) : (s.modL1 c p f).launches = s.launches := rfl
@[simp] theorem State.modL1_modul (s : State) (c : Nat) (p : L1Line → Bool) (f : L1Line → L1Line) : (s.modL1 c p f).modul = s.modul := rfl
@[simp] theorem State.modL1_caches (s : State) (c : Nat) (p : L1Line → Bool) (f : L1Line → L1Line) : (s.modL1 c p f).caches = s.caches := rfl
@[simp] theorem State.modL1_agenda (s : State) (c : Nat) (p : L1Line → Bool) (f : L1Line → L1Line) : (s.modL1 c p f).agenda = s.agenda := rfl
@[simp] theorem State.modL1_sel (s : State) (c : Nat) (p : L1Line → Bool) (f : L1Line → L1Line) : (s.modL1 c p f).sel = s.sel := rfl
@[simp] theorem State.modL1_pending (s : State) (c : Nat) (p : L1Line → Bool) (f : L1Line → L1Line) : (s.modL1 c p f).pending = s.pending := rfl
@[simp] theorem State.modL1_later (s : State) (c : Nat) (p : L1Line → Bool) (f : L1Line → L1Line) : (s.modL1 c p f).later = s.later := rfl
@[simp] theorem State.modL1_turn (s : State) (c : Nat) (p : L1Line → Bool) (f : L1Line → L1Line) : (s.modL1 c p f).turn = s.turn := rfl
@[simp] theorem State.modL1_tick (s : State) (c : Nat) (p : L1Line → Bool) (f : L1Line → L1Line) : (s.modL1 c p f).tick = s.tick := rfl

@[simp] theorem State.modEngine_mem (s : State) (c p a : Nat) (f : EngineCommand → EngineCommand) : (s.modEngine c p a f).mem = s.mem := rfl
@[simp] theorem State.modEngine_poison (s : State) (c p a : Nat) (f : EngineCommand → EngineCommand) : (s.modEngine c p a f).poison = s.poison := rfl
@[simp] theorem State.modEngine_caldera (s : State) (c p a : Nat) (f : EngineCommand → EngineCommand) : (s.modEngine c p a f).caldera = s.caldera := rfl
@[simp] theorem State.modEngine_hbm (s : State) (c p a : Nat) (f : EngineCommand → EngineCommand) : (s.modEngine c p a f).hbm = s.hbm := rfl
@[simp] theorem State.modEngine_tenants (s : State) (c p a : Nat) (f : EngineCommand → EngineCommand) : (s.modEngine c p a f).tenants = s.tenants := rfl
@[simp] theorem State.modEngine_launches (s : State) (c p a : Nat) (f : EngineCommand → EngineCommand) : (s.modEngine c p a f).launches = s.launches := rfl
@[simp] theorem State.modEngine_modul (s : State) (c p a : Nat) (f : EngineCommand → EngineCommand) : (s.modEngine c p a f).modul = s.modul := rfl
@[simp] theorem State.modEngine_caches (s : State) (c p a : Nat) (f : EngineCommand → EngineCommand) : (s.modEngine c p a f).caches = s.caches := rfl
@[simp] theorem State.modEngine_agenda (s : State) (c p a : Nat) (f : EngineCommand → EngineCommand) : (s.modEngine c p a f).agenda = s.agenda := rfl
@[simp] theorem State.modEngine_sel (s : State) (c p a : Nat) (f : EngineCommand → EngineCommand) : (s.modEngine c p a f).sel = s.sel := rfl
@[simp] theorem State.modEngine_pending (s : State) (c p a : Nat) (f : EngineCommand → EngineCommand) : (s.modEngine c p a f).pending = s.pending := rfl
@[simp] theorem State.modEngine_later (s : State) (c p a : Nat) (f : EngineCommand → EngineCommand) : (s.modEngine c p a f).later = s.later := rfl
@[simp] theorem State.modEngine_turn (s : State) (c p a : Nat) (f : EngineCommand → EngineCommand) : (s.modEngine c p a f).turn = s.turn := rfl
@[simp] theorem State.modEngine_tick (s : State) (c p a : Nat) (f : EngineCommand → EngineCommand) : (s.modEngine c p a f).tick = s.tick := rfl

@[simp] theorem State.modDir_cores (s : State) (l : Nat) (f : DirLine → DirLine) : (s.modDir l f).cores = s.cores := rfl
@[simp] theorem State.modDir_mem (s : State) (l : Nat) (f : DirLine → DirLine) : (s.modDir l f).mem = s.mem := rfl
@[simp] theorem State.modDir_poison (s : State) (l : Nat) (f : DirLine → DirLine) : (s.modDir l f).poison = s.poison := rfl
@[simp] theorem State.modDir_hbm (s : State) (l : Nat) (f : DirLine → DirLine) : (s.modDir l f).hbm = s.hbm := rfl
@[simp] theorem State.modDir_tenants (s : State) (l : Nat) (f : DirLine → DirLine) : (s.modDir l f).tenants = s.tenants := rfl
@[simp] theorem State.modDir_launches (s : State) (l : Nat) (f : DirLine → DirLine) : (s.modDir l f).launches = s.launches := rfl
@[simp] theorem State.modDir_modul (s : State) (l : Nat) (f : DirLine → DirLine) : (s.modDir l f).modul = s.modul := rfl
@[simp] theorem State.modDir_caches (s : State) (l : Nat) (f : DirLine → DirLine) : (s.modDir l f).caches = s.caches := rfl
@[simp] theorem State.modDir_agenda (s : State) (l : Nat) (f : DirLine → DirLine) : (s.modDir l f).agenda = s.agenda := rfl
@[simp] theorem State.modDir_sel (s : State) (l : Nat) (f : DirLine → DirLine) : (s.modDir l f).sel = s.sel := rfl
@[simp] theorem State.modDir_pending (s : State) (l : Nat) (f : DirLine → DirLine) : (s.modDir l f).pending = s.pending := rfl
@[simp] theorem State.modDir_later (s : State) (l : Nat) (f : DirLine → DirLine) : (s.modDir l f).later = s.later := rfl
@[simp] theorem State.modDir_turn (s : State) (l : Nat) (f : DirLine → DirLine) : (s.modDir l f).turn = s.turn := rfl
@[simp] theorem State.modDir_tick (s : State) (l : Nat) (f : DirLine → DirLine) : (s.modDir l f).tick = s.tick := rfl

@[simp] theorem State.modBank_cores (s : State) (g : Nat) (f : Bank → Bank) : (s.modBank g f).cores = s.cores := rfl
@[simp] theorem State.modBank_mem (s : State) (g : Nat) (f : Bank → Bank) : (s.modBank g f).mem = s.mem := rfl
@[simp] theorem State.modBank_poison (s : State) (g : Nat) (f : Bank → Bank) : (s.modBank g f).poison = s.poison := rfl
@[simp] theorem State.modBank_hbm (s : State) (g : Nat) (f : Bank → Bank) : (s.modBank g f).hbm = s.hbm := rfl
@[simp] theorem State.modBank_tenants (s : State) (g : Nat) (f : Bank → Bank) : (s.modBank g f).tenants = s.tenants := rfl
@[simp] theorem State.modBank_launches (s : State) (g : Nat) (f : Bank → Bank) : (s.modBank g f).launches = s.launches := rfl
@[simp] theorem State.modBank_modul (s : State) (g : Nat) (f : Bank → Bank) : (s.modBank g f).modul = s.modul := rfl
@[simp] theorem State.modBank_caches (s : State) (g : Nat) (f : Bank → Bank) : (s.modBank g f).caches = s.caches := rfl
@[simp] theorem State.modBank_agenda (s : State) (g : Nat) (f : Bank → Bank) : (s.modBank g f).agenda = s.agenda := rfl
@[simp] theorem State.modBank_sel (s : State) (g : Nat) (f : Bank → Bank) : (s.modBank g f).sel = s.sel := rfl
@[simp] theorem State.modBank_pending (s : State) (g : Nat) (f : Bank → Bank) : (s.modBank g f).pending = s.pending := rfl
@[simp] theorem State.modBank_later (s : State) (g : Nat) (f : Bank → Bank) : (s.modBank g f).later = s.later := rfl
@[simp] theorem State.modBank_turn (s : State) (g : Nat) (f : Bank → Bank) : (s.modBank g f).turn = s.turn := rfl
@[simp] theorem State.modBank_tick (s : State) (g : Nat) (f : Bank → Bank) : (s.modBank g f).tick = s.tick := rfl

@[simp] theorem State.modHbm_cores (s : State) (f : Hbm → Hbm) : (s.modHbm f).cores = s.cores := rfl
@[simp] theorem State.modHbm_mem (s : State) (f : Hbm → Hbm) : (s.modHbm f).mem = s.mem := rfl
@[simp] theorem State.modHbm_poison (s : State) (f : Hbm → Hbm) : (s.modHbm f).poison = s.poison := rfl
@[simp] theorem State.modHbm_caldera (s : State) (f : Hbm → Hbm) : (s.modHbm f).caldera = s.caldera := rfl
@[simp] theorem State.modHbm_tenants (s : State) (f : Hbm → Hbm) : (s.modHbm f).tenants = s.tenants := rfl
@[simp] theorem State.modHbm_launches (s : State) (f : Hbm → Hbm) : (s.modHbm f).launches = s.launches := rfl
@[simp] theorem State.modHbm_modul (s : State) (f : Hbm → Hbm) : (s.modHbm f).modul = s.modul := rfl
@[simp] theorem State.modHbm_caches (s : State) (f : Hbm → Hbm) : (s.modHbm f).caches = s.caches := rfl
@[simp] theorem State.modHbm_agenda (s : State) (f : Hbm → Hbm) : (s.modHbm f).agenda = s.agenda := rfl
@[simp] theorem State.modHbm_sel (s : State) (f : Hbm → Hbm) : (s.modHbm f).sel = s.sel := rfl
@[simp] theorem State.modHbm_pending (s : State) (f : Hbm → Hbm) : (s.modHbm f).pending = s.pending := rfl
@[simp] theorem State.modHbm_later (s : State) (f : Hbm → Hbm) : (s.modHbm f).later = s.later := rfl
@[simp] theorem State.modHbm_turn (s : State) (f : Hbm → Hbm) : (s.modHbm f).turn = s.turn := rfl
@[simp] theorem State.modHbm_tick (s : State) (f : Hbm → Hbm) : (s.modHbm f).tick = s.tick := rfl

@[simp] theorem State.modChannel_cores (s : State) (n : Nat) (f : Channel → Channel) : (s.modChannel n f).cores = s.cores := rfl
@[simp] theorem State.modChannel_mem (s : State) (n : Nat) (f : Channel → Channel) : (s.modChannel n f).mem = s.mem := rfl
@[simp] theorem State.modChannel_poison (s : State) (n : Nat) (f : Channel → Channel) : (s.modChannel n f).poison = s.poison := rfl
@[simp] theorem State.modChannel_caldera (s : State) (n : Nat) (f : Channel → Channel) : (s.modChannel n f).caldera = s.caldera := rfl
@[simp] theorem State.modChannel_tenants (s : State) (n : Nat) (f : Channel → Channel) : (s.modChannel n f).tenants = s.tenants := rfl
@[simp] theorem State.modChannel_launches (s : State) (n : Nat) (f : Channel → Channel) : (s.modChannel n f).launches = s.launches := rfl
@[simp] theorem State.modChannel_modul (s : State) (n : Nat) (f : Channel → Channel) : (s.modChannel n f).modul = s.modul := rfl
@[simp] theorem State.modChannel_caches (s : State) (n : Nat) (f : Channel → Channel) : (s.modChannel n f).caches = s.caches := rfl
@[simp] theorem State.modChannel_agenda (s : State) (n : Nat) (f : Channel → Channel) : (s.modChannel n f).agenda = s.agenda := rfl
@[simp] theorem State.modChannel_sel (s : State) (n : Nat) (f : Channel → Channel) : (s.modChannel n f).sel = s.sel := rfl
@[simp] theorem State.modChannel_pending (s : State) (n : Nat) (f : Channel → Channel) : (s.modChannel n f).pending = s.pending := rfl
@[simp] theorem State.modChannel_later (s : State) (n : Nat) (f : Channel → Channel) : (s.modChannel n f).later = s.later := rfl
@[simp] theorem State.modChannel_turn (s : State) (n : Nat) (f : Channel → Channel) : (s.modChannel n f).turn = s.turn := rfl
@[simp] theorem State.modChannel_tick (s : State) (n : Nat) (f : Channel → Channel) : (s.modChannel n f).tick = s.tick := rfl

@[simp] theorem State.modQueue_cores (s : State) (t k : Nat) (f : LaunchQueue → LaunchQueue) : (s.modQueue t k f).cores = s.cores := rfl
@[simp] theorem State.modQueue_mem (s : State) (t k : Nat) (f : LaunchQueue → LaunchQueue) : (s.modQueue t k f).mem = s.mem := rfl
@[simp] theorem State.modQueue_poison (s : State) (t k : Nat) (f : LaunchQueue → LaunchQueue) : (s.modQueue t k f).poison = s.poison := rfl
@[simp] theorem State.modQueue_caldera (s : State) (t k : Nat) (f : LaunchQueue → LaunchQueue) : (s.modQueue t k f).caldera = s.caldera := rfl
@[simp] theorem State.modQueue_hbm (s : State) (t k : Nat) (f : LaunchQueue → LaunchQueue) : (s.modQueue t k f).hbm = s.hbm := rfl
@[simp] theorem State.modQueue_launches (s : State) (t k : Nat) (f : LaunchQueue → LaunchQueue) : (s.modQueue t k f).launches = s.launches := rfl
@[simp] theorem State.modQueue_modul (s : State) (t k : Nat) (f : LaunchQueue → LaunchQueue) : (s.modQueue t k f).modul = s.modul := rfl
@[simp] theorem State.modQueue_caches (s : State) (t k : Nat) (f : LaunchQueue → LaunchQueue) : (s.modQueue t k f).caches = s.caches := rfl
@[simp] theorem State.modQueue_agenda (s : State) (t k : Nat) (f : LaunchQueue → LaunchQueue) : (s.modQueue t k f).agenda = s.agenda := rfl
@[simp] theorem State.modQueue_sel (s : State) (t k : Nat) (f : LaunchQueue → LaunchQueue) : (s.modQueue t k f).sel = s.sel := rfl
@[simp] theorem State.modQueue_pending (s : State) (t k : Nat) (f : LaunchQueue → LaunchQueue) : (s.modQueue t k f).pending = s.pending := rfl
@[simp] theorem State.modQueue_later (s : State) (t k : Nat) (f : LaunchQueue → LaunchQueue) : (s.modQueue t k f).later = s.later := rfl
@[simp] theorem State.modQueue_turn (s : State) (t k : Nat) (f : LaunchQueue → LaunchQueue) : (s.modQueue t k f).turn = s.turn := rfl
@[simp] theorem State.modQueue_tick (s : State) (t k : Nat) (f : LaunchQueue → LaunchQueue) : (s.modQueue t k f).tick = s.tick := rfl

@[simp] theorem State.modLaunch_cores (s : State) (id : Nat) (f : Launch → Launch) : (s.modLaunch id f).cores = s.cores := rfl
@[simp] theorem State.modLaunch_mem (s : State) (id : Nat) (f : Launch → Launch) : (s.modLaunch id f).mem = s.mem := rfl
@[simp] theorem State.modLaunch_poison (s : State) (id : Nat) (f : Launch → Launch) : (s.modLaunch id f).poison = s.poison := rfl
@[simp] theorem State.modLaunch_caldera (s : State) (id : Nat) (f : Launch → Launch) : (s.modLaunch id f).caldera = s.caldera := rfl
@[simp] theorem State.modLaunch_hbm (s : State) (id : Nat) (f : Launch → Launch) : (s.modLaunch id f).hbm = s.hbm := rfl
@[simp] theorem State.modLaunch_tenants (s : State) (id : Nat) (f : Launch → Launch) : (s.modLaunch id f).tenants = s.tenants := rfl
@[simp] theorem State.modLaunch_modul (s : State) (id : Nat) (f : Launch → Launch) : (s.modLaunch id f).modul = s.modul := rfl
@[simp] theorem State.modLaunch_caches (s : State) (id : Nat) (f : Launch → Launch) : (s.modLaunch id f).caches = s.caches := rfl
@[simp] theorem State.modLaunch_agenda (s : State) (id : Nat) (f : Launch → Launch) : (s.modLaunch id f).agenda = s.agenda := rfl
@[simp] theorem State.modLaunch_sel (s : State) (id : Nat) (f : Launch → Launch) : (s.modLaunch id f).sel = s.sel := rfl
@[simp] theorem State.modLaunch_pending (s : State) (id : Nat) (f : Launch → Launch) : (s.modLaunch id f).pending = s.pending := rfl
@[simp] theorem State.modLaunch_later (s : State) (id : Nat) (f : Launch → Launch) : (s.modLaunch id f).later = s.later := rfl
@[simp] theorem State.modLaunch_turn (s : State) (id : Nat) (f : Launch → Launch) : (s.modLaunch id f).turn = s.turn := rfl
@[simp] theorem State.modLaunch_tick (s : State) (id : Nat) (f : Launch → Launch) : (s.modLaunch id f).tick = s.tick := rfl

@[simp] theorem State.modPipeline_cores (s : State) (id : Nat) (f : Pipeline → Pipeline) : (s.modPipeline id f).cores = s.cores := rfl
@[simp] theorem State.modPipeline_mem (s : State) (id : Nat) (f : Pipeline → Pipeline) : (s.modPipeline id f).mem = s.mem := rfl
@[simp] theorem State.modPipeline_poison (s : State) (id : Nat) (f : Pipeline → Pipeline) : (s.modPipeline id f).poison = s.poison := rfl
@[simp] theorem State.modPipeline_caldera (s : State) (id : Nat) (f : Pipeline → Pipeline) : (s.modPipeline id f).caldera = s.caldera := rfl
@[simp] theorem State.modPipeline_hbm (s : State) (id : Nat) (f : Pipeline → Pipeline) : (s.modPipeline id f).hbm = s.hbm := rfl
@[simp] theorem State.modPipeline_tenants (s : State) (id : Nat) (f : Pipeline → Pipeline) : (s.modPipeline id f).tenants = s.tenants := rfl
@[simp] theorem State.modPipeline_modul (s : State) (id : Nat) (f : Pipeline → Pipeline) : (s.modPipeline id f).modul = s.modul := rfl
@[simp] theorem State.modPipeline_caches (s : State) (id : Nat) (f : Pipeline → Pipeline) : (s.modPipeline id f).caches = s.caches := rfl
@[simp] theorem State.modPipeline_agenda (s : State) (id : Nat) (f : Pipeline → Pipeline) : (s.modPipeline id f).agenda = s.agenda := rfl
@[simp] theorem State.modPipeline_sel (s : State) (id : Nat) (f : Pipeline → Pipeline) : (s.modPipeline id f).sel = s.sel := rfl
@[simp] theorem State.modPipeline_pending (s : State) (id : Nat) (f : Pipeline → Pipeline) : (s.modPipeline id f).pending = s.pending := rfl
@[simp] theorem State.modPipeline_later (s : State) (id : Nat) (f : Pipeline → Pipeline) : (s.modPipeline id f).later = s.later := rfl
@[simp] theorem State.modPipeline_turn (s : State) (id : Nat) (f : Pipeline → Pipeline) : (s.modPipeline id f).turn = s.turn := rfl
@[simp] theorem State.modPipeline_tick (s : State) (id : Nat) (f : Pipeline → Pipeline) : (s.modPipeline id f).tick = s.tick := rfl

@[simp] theorem State.modModule_cores (s : State) (f : Module → Module) : (s.modModule f).cores = s.cores := rfl
@[simp] theorem State.modModule_mem (s : State) (f : Module → Module) : (s.modModule f).mem = s.mem := rfl
@[simp] theorem State.modModule_poison (s : State) (f : Module → Module) : (s.modModule f).poison = s.poison := rfl
@[simp] theorem State.modModule_caldera (s : State) (f : Module → Module) : (s.modModule f).caldera = s.caldera := rfl
@[simp] theorem State.modModule_hbm (s : State) (f : Module → Module) : (s.modModule f).hbm = s.hbm := rfl
@[simp] theorem State.modModule_tenants (s : State) (f : Module → Module) : (s.modModule f).tenants = s.tenants := rfl
@[simp] theorem State.modModule_launches (s : State) (f : Module → Module) : (s.modModule f).launches = s.launches := rfl
@[simp] theorem State.modModule_caches (s : State) (f : Module → Module) : (s.modModule f).caches = s.caches := rfl
@[simp] theorem State.modModule_agenda (s : State) (f : Module → Module) : (s.modModule f).agenda = s.agenda := rfl
@[simp] theorem State.modModule_sel (s : State) (f : Module → Module) : (s.modModule f).sel = s.sel := rfl
@[simp] theorem State.modModule_pending (s : State) (f : Module → Module) : (s.modModule f).pending = s.pending := rfl
@[simp] theorem State.modModule_later (s : State) (f : Module → Module) : (s.modModule f).later = s.later := rfl
@[simp] theorem State.modModule_turn (s : State) (f : Module → Module) : (s.modModule f).turn = s.turn := rfl
@[simp] theorem State.modModule_tick (s : State) (f : Module → Module) : (s.modModule f).tick = s.tick := rfl

@[simp] theorem State.report_cores (s : State) (r : Report) : (s.report r).cores = s.cores := rfl
@[simp] theorem State.report_mem (s : State) (r : Report) : (s.report r).mem = s.mem := rfl
@[simp] theorem State.report_poison (s : State) (r : Report) : (s.report r).poison = s.poison := rfl
@[simp] theorem State.report_caldera (s : State) (r : Report) : (s.report r).caldera = s.caldera := rfl
@[simp] theorem State.report_hbm (s : State) (r : Report) : (s.report r).hbm = s.hbm := rfl
@[simp] theorem State.report_tenants (s : State) (r : Report) : (s.report r).tenants = s.tenants := rfl
@[simp] theorem State.report_launches (s : State) (r : Report) : (s.report r).launches = s.launches := rfl
@[simp] theorem State.report_caches (s : State) (r : Report) : (s.report r).caches = s.caches := rfl
@[simp] theorem State.report_agenda (s : State) (r : Report) : (s.report r).agenda = s.agenda := rfl
@[simp] theorem State.report_sel (s : State) (r : Report) : (s.report r).sel = s.sel := rfl
@[simp] theorem State.report_pending (s : State) (r : Report) : (s.report r).pending = s.pending := rfl
@[simp] theorem State.report_later (s : State) (r : Report) : (s.report r).later = s.later := rfl
@[simp] theorem State.report_turn (s : State) (r : Report) : (s.report r).turn = s.turn := rfl
@[simp] theorem State.report_tick (s : State) (r : Report) : (s.report r).tick = s.tick := rfl

@[simp] theorem State.countError_cores (s : State) (o n : Nat) : (s.countError o n).cores = s.cores := rfl
@[simp] theorem State.countError_mem (s : State) (o n : Nat) : (s.countError o n).mem = s.mem := rfl
@[simp] theorem State.countError_poison (s : State) (o n : Nat) : (s.countError o n).poison = s.poison := rfl
@[simp] theorem State.countError_caldera (s : State) (o n : Nat) : (s.countError o n).caldera = s.caldera := rfl
@[simp] theorem State.countError_hbm (s : State) (o n : Nat) : (s.countError o n).hbm = s.hbm := rfl
@[simp] theorem State.countError_tenants (s : State) (o n : Nat) : (s.countError o n).tenants = s.tenants := rfl
@[simp] theorem State.countError_launches (s : State) (o n : Nat) : (s.countError o n).launches = s.launches := rfl
@[simp] theorem State.countError_caches (s : State) (o n : Nat) : (s.countError o n).caches = s.caches := rfl
@[simp] theorem State.countError_agenda (s : State) (o n : Nat) : (s.countError o n).agenda = s.agenda := rfl
@[simp] theorem State.countError_sel (s : State) (o n : Nat) : (s.countError o n).sel = s.sel := rfl
@[simp] theorem State.countError_pending (s : State) (o n : Nat) : (s.countError o n).pending = s.pending := rfl
@[simp] theorem State.countError_later (s : State) (o n : Nat) : (s.countError o n).later = s.later := rfl
@[simp] theorem State.countError_turn (s : State) (o n : Nat) : (s.countError o n).turn = s.turn := rfl
@[simp] theorem State.countError_tick (s : State) (o n : Nat) : (s.countError o n).tick = s.tick := rfl

@[simp] theorem State.poisonSector_cores (s : State) (k : Nat) : (s.poisonSector k).cores = s.cores := rfl
@[simp] theorem State.poisonSector_mem (s : State) (k : Nat) : (s.poisonSector k).mem = s.mem := rfl
@[simp] theorem State.poisonSector_caldera (s : State) (k : Nat) : (s.poisonSector k).caldera = s.caldera := rfl
@[simp] theorem State.poisonSector_hbm (s : State) (k : Nat) : (s.poisonSector k).hbm = s.hbm := rfl
@[simp] theorem State.poisonSector_tenants (s : State) (k : Nat) : (s.poisonSector k).tenants = s.tenants := rfl
@[simp] theorem State.poisonSector_launches (s : State) (k : Nat) : (s.poisonSector k).launches = s.launches := rfl
@[simp] theorem State.poisonSector_modul (s : State) (k : Nat) : (s.poisonSector k).modul = s.modul := rfl
@[simp] theorem State.poisonSector_caches (s : State) (k : Nat) : (s.poisonSector k).caches = s.caches := rfl
@[simp] theorem State.poisonSector_agenda (s : State) (k : Nat) : (s.poisonSector k).agenda = s.agenda := rfl
@[simp] theorem State.poisonSector_sel (s : State) (k : Nat) : (s.poisonSector k).sel = s.sel := rfl
@[simp] theorem State.poisonSector_pending (s : State) (k : Nat) : (s.poisonSector k).pending = s.pending := rfl
@[simp] theorem State.poisonSector_later (s : State) (k : Nat) : (s.poisonSector k).later = s.later := rfl
@[simp] theorem State.poisonSector_turn (s : State) (k : Nat) : (s.poisonSector k).turn = s.turn := rfl
@[simp] theorem State.poisonSector_tick (s : State) (k : Nat) : (s.poisonSector k).tick = s.tick := rfl

/-! ## Reading cores and warps -/

theorem State.core?_modCore (s : State) (c d : Nat) (f : Core → Core) :
    (s.modCore c f).core? d = if d = c then (s.core? d).map f else s.core? d := SMap.get?_modify ..

theorem State.warp?_modWarp (s : State) (c p d q : Nat) (f : Warp → Warp) :
    (s.modWarp c p f).warp? d q = if d = c ∧ q = p then (s.warp? d q).map f else s.warp? d q := by
  simp only [State.warp?, State.modWarp, State.core?_modCore]
  by_cases hd : d = c
  · subst hd
    simp only [if_true, true_and, Option.bind_map]
    cases s.core? d with
    | none => simp
    | some k => simp only [Option.bind_some, Function.comp, SMap.get?_modify]
  · simp [hd]

theorem State.warp?_setWarp (s : State) (c p d q : Nat) (w : Warp) :
    (s.setWarp c p w).warp? d q = if d = c ∧ q = p ∧ (s.core? c).isSome then some w else s.warp? d q := by
  simp only [State.warp?, State.setWarp, State.core?_modCore]
  by_cases hd : d = c
  · subst hd
    cases h : s.core? d with
    | none => simp
    | some k => simp [SMap.get?_put]
  · simp [hd]

theorem State.core?_modWarp (s : State) (c p d : Nat) (f : Warp → Warp) :
    (s.modWarp c p f).core? d =
      if d = c then (s.core? d).map (fun k => { k with warps := SMap.modify p f k.warps }) else s.core? d := State.core?_modCore ..

theorem State.core?_setWarp (s : State) (c p d : Nat) (w : Warp) :
    (s.setWarp c p w).core? d =
      if d = c then (s.core? d).map (fun k => { k with warps := SMap.put p w k.warps }) else s.core? d := State.core?_modCore ..

theorem State.core?_modQuad (s : State) (c q d : Nat) (f : Quad → Quad) :
    (s.modQuad c q f).core? d = if d = c then (s.core? d).map (·.modQuad q f) else s.core? d := State.core?_modCore ..

@[simp] theorem Core.modQuad_warps (k : Core) (q : Nat) (f : Quad → Quad) : (k.modQuad q f).warps = k.warps := rfl

@[simp] theorem State.warp?_modQuad (s : State) (c q d p : Nat) (f : Quad → Quad) : (s.modQuad c q f).warp? d p = s.warp? d p := by
  simp only [State.warp?, State.core?_modQuad]
  by_cases hd : d = c
  · subst hd; cases s.core? d <;> simp
  · simp [hd]

@[simp] theorem State.warp?_count (s : State) (c p e n d q : Nat) : (s.count c p e n).warp? d q = s.warp? d q := State.warp?_modQuad ..

@[simp] theorem State.warp?_countIssue (s : State) (x : Ctx) (d q : Nat) : (s.countIssue x).warp? d q = s.warp? d q := State.warp?_modQuad ..

theorem State.core?_of_warp? {s : State} {c p : Nat} {w : Warp} (h : s.warp? c p = some w) : ∃ k, s.core? c = some k ∧ SMap.get? p k.warps = some w := by
  simp only [State.warp?, Option.bind_eq_some_iff] at h; exact h

@[simp] theorem State.core?_push (s : State) (e : Instr) (c : Nat) : (s.push e).core? c = s.core? c := rfl
@[simp] theorem State.core?_pushAll (s : State) (l : List Instr) (c : Nat) : (s.pushAll l).core? c = s.core? c := rfl
@[simp] theorem State.core?_begun (s : State) (c : Nat) : s.begun.core? c = s.core? c := rfl
@[simp] theorem State.warp?_push (s : State) (e : Instr) (c p : Nat) : (s.push e).warp? c p = s.warp? c p := rfl
@[simp] theorem State.warp?_pushAll (s : State) (l : List Instr) (c p : Nat) : (s.pushAll l).warp? c p = s.warp? c p := rfl
@[simp] theorem State.warp?_begun (s : State) (c p : Nat) : s.begun.warp? c p = s.warp? c p := rfl

theorem Core.quad_modQuad (k : Core) (q r : Nat) (f : Quad → Quad) :
    (k.modQuad q f).quad r = if r = q ∧ q < k.quads.length then f (k.quad r) else k.quad r := by
  simp only [Core.quad, Core.modQuad, List.getD_eq_getElem?_getD, List.getElem?_modify]
  by_cases hr : q = r
  · subst hr
    by_cases hl : q < k.quads.length
    · simp [hl]
    · simp [hl]
  · have : r ≠ q := fun h => hr h.symm
    simp [hr, this]

theorem Warp.lane_modLane (w : Warp) (i j : Nat) (f : Lane → Lane) :
    (w.modLane i f).lane j = if j = i ∧ i < w.lanes.length then f (w.lane j) else w.lane j := by
  simp only [Warp.lane, Warp.modLane, List.getD_eq_getElem?_getD, List.getElem?_modify]
  by_cases hr : i = j
  · subst hr
    by_cases hl : i < w.lanes.length
    · simp [hl]
    · simp [hl]
  · have : j ≠ i := fun h => hr h.symm
    simp [hr, this]

/-- An instruction that nothing stops has its own effect. -/
theorem issue_of_clear {i : Instr} {late : Ctx → State → Late} {eff : Ctx → State → State} {s : State} {g : Selected} {w : Warp}
    (hs : s.selects g w) (hc : s.clear i late g w = true) : issue i late eff s = .next (eff (s.seenBy i g w) s.begun) := by
  obtain ⟨h1, h2⟩ := hs
  cases hsel : s.sel with
  | nil => simp [hsel] at h1
  | cons a rest =>
    rw [hsel] at h1
    simp only [List.head?_cons, Option.some.injEq] at h1
    subst h1
    simp only [State.clear, State.seenBy, Bool.and_eq_true, Bool.not_eq_true', Option.isNone_iff_eq_none] at hc
    obtain ⟨⟨⟨⟨⟨hg, hw⟩, hf⟩, hr⟩, hd⟩, hst⟩ := hc
    cases hq : w.group? a.mask with
    | none => simp [hq] at hg
    | some q =>
      simp only [hq, Option.map_some, Option.getD_some, decide_eq_true_eq] at hg
      simp only [issue, hsel, h2, hq, Ctx.prog, Option.map_some, Option.getD_some, hg, Option.isNone_some, ne_eq,
        State.seenBy, not_true_eq_false, if_false, Bool.false_eq_true, hw, hf, hr, hd, hst]
      simp only [State.begun, hsel, List.tail_cons]

end Sys2Proof.Machine
end

