-- ==== Sys2Proof/Laws/Results.lean ====
section
/-! SUPPORT. Laws of class-F results: what delivering them changes in a warp (R107 to R110), what completing an instruction does, and the step of an instruction that only writes registers, predicates and flags. -/

namespace Sys2Proof

theorem testBit_maskOf_from (l : List Nat) (m k : Nat) :
    (l.foldl (fun m i => m ||| (1 <<< i)) m).testBit k = (m.testBit k || decide (k ∈ l)) := by
  induction l generalizing m with
  | nil => simp
  | cons a t ih =>
    rw [List.foldl_cons, ih, Nat.testBit_or]
    have : (1 <<< a).testBit k = decide (k = a) := by
      rw [Nat.one_shiftLeft, Nat.testBit_two_pow]; simp [eq_comm]
    rw [this]
    simp [Bool.or_assoc]

theorem testBit_maskOf (l : List Nat) (k : Nat) : (maskOf l).testBit k = decide (k ∈ l) := by
  rw [maskOf, testBit_maskOf_from]; simp

namespace Machine

/-! ## What delivering results may change -/

/-- `w'` is `w` but for register values, predicates, undelivered results and flags. -/
structure Delivered (w w' : Warp) : Prop where
  warp  : w' = { w with
    lanes := w'.lanes, s := w'.s, undelivered := w'.undelivered, flagsDue := w'.flagsDue,
    special := { w.special with fflags := w'.special.fflags } }
  lanes : ∀ i, w'.lane i = { w.lane i with v := (w'.lane i).v, p := (w'.lane i).p }
  count : w'.lanes.length = w.lanes.length

theorem Delivered.refl (w : Warp) : Delivered w w := ⟨rfl, fun _ => rfl, rfl⟩

theorem Delivered.trans {a b c : Warp} (h : Delivered a b) (k : Delivered b c) : Delivered a c := by
  refine ⟨?_, fun i => ?_, k.count.trans h.count⟩
  · rw [k.warp, h.warp]
  · rw [k.lanes i, h.lanes i]

theorem Delivered.foldl {α : Type} (f : Warp → α → Warp) (hf : ∀ w a, Delivered w (f w a)) (l : List α) (w : Warp) :
    Delivered w (l.foldl f w) := by
  induction l generalizing w with
  | nil => exact .refl w
  | cons a t ih => exact (hf w a).trans (ih _)

theorem Delivered.setReg (w : Warp) (code lane : Nat) (x : Word) : Delivered w (w.setReg code lane x) := by
  simp only [Warp.setReg]
  split
  · refine ⟨rfl, fun i => ?_, by simp [Warp.modLane]⟩
    rw [Warp.lane_modLane]; split <;> rfl
  · split
    · exact ⟨rfl, fun _ => rfl, rfl⟩
    · exact .refl w

theorem Delivered.undelivered (w : Warp) (l : List Undelivered) : Delivered w { w with undelivered := l } := ⟨rfl, fun _ => rfl, rfl⟩

theorem Delivered.deliverReg (w : Warp) (cyc draw due code lane : Nat) (x : Word) :
    Delivered w (w.deliverReg cyc draw due code lane x) := by
  simp only [Warp.deliverReg]
  split
  · exact .refl w
  · split
    · exact .refl w
    · exact (Delivered.setReg w code lane x).trans (.undelivered _ _)

theorem Delivered.deliverRun (w : Warp) (cyc draw due code lane x n : Nat) :
    Delivered w (w.deliverRun cyc draw due code lane x n) := by
  induction n generalizing w code x with
  | zero => exact .refl w
  | succ n ih => exact (Delivered.deliverReg ..).trans (ih ..)

theorem Delivered.modPred (w : Warp) (lane n : Nat) (b : Bool) : Delivered w (w.modLane lane (fun l => l.setPred n b)) := by
  refine ⟨rfl, fun i => ?_, by simp [Warp.modLane]⟩
  rw [Warp.lane_modLane]
  split
  · simp only [Lane.setPred]; split <;> rfl
  · rfl

theorem Delivered.deliverPred (w : Warp) (cyc draw due n lane : Nat) (b : Bool) :
    Delivered w (w.deliverPred cyc draw due n lane b) := by
  simp only [Warp.deliverPred]
  split
  · exact .refl w
  · split
    · exact .refl w
    · exact (Delivered.modPred w lane n b).trans (.undelivered _ _)

theorem Delivered.settleFlags (w : Warp) (cyc : Nat) : Delivered w (w.settleFlags cyc) := ⟨rfl, fun _ => rfl, rfl⟩

theorem Delivered.raiseFlags (w : Warp) (due : Nat) (f : Flags) : Delivered w (w.raiseFlags due f) := by
  simp only [Warp.raiseFlags]
  split
  · exact .refl w
  · exact ⟨rfl, fun _ => rfl, rfl⟩

/-- Delivering results changes registers, predicates and flags only. -/
theorem Delivered.deliver (w : Warp) (cyc draw lat : Nat) (o : Out) : Delivered w (w.deliver cyc draw lat o) := by
  simp only [Warp.deliver]
  exact (((Delivered.foldl _ (fun w _ => .deliverRun w ..) _ w).trans (.foldl _ (fun w _ => .deliverPred w ..) _ _)).trans
    (.settleFlags _ _)).trans (.raiseFlags _ _ _)

/-! ## Flags -/

theorem flags_zero_or (a : Flags) : (0 : Flags) ||| a = a := by simp

theorem foldl_or (l : List (Nat × Flags)) (a : Flags) : l.foldl (fun a f => a ||| f.2) a = a ||| l.foldl (fun a f => a ||| f.2) 0 := by
  induction l generalizing a with
  | nil => simp
  | cons e t ih => simp only [List.foldl_cons]; rw [ih, ih (0 ||| e.2), flags_zero_or, BitVec.or_assoc]

theorem foldl_or_partition (l : List (Nat × Flags)) (p : Nat → Bool) :
    (l.filter (fun f => p f.1)).foldl (fun a f => a ||| f.2) (0 : Flags) ||| (l.filter (fun f => !p f.1)).foldl (fun a f => a ||| f.2) 0 =
      l.foldl (fun a f => a ||| f.2) 0 := by
  induction l with
  | nil => simp
  | cons e t ih =>
    simp only [List.filter_cons, List.foldl_cons]
    rw [foldl_or t (0 ||| e.2), ← ih]
    cases hp : p e.1
    · simp only [Bool.false_eq_true, if_false, Bool.not_false, if_true, List.foldl_cons]
      rw [foldl_or _ (0 ||| e.2), flags_zero_or]
      ac_rfl
    · simp only [if_true, Bool.not_true, Bool.false_eq_true, if_false, List.foldl_cons]
      rw [foldl_or _ (0 ||| e.2), flags_zero_or]
      ac_rfl

theorem Warp.flagsInAll_settleFlags (w : Warp) (cyc : Nat) : (w.settleFlags cyc).flagsInAll = w.flagsInAll := by
  simp only [Warp.flagsInAll, Warp.settleFlags]
  rw [foldl_or, foldl_or w.flagsDue]
  have h := foldl_or_partition w.flagsDue (fun t => decide (t ≤ cyc))
  have h2 : (fun f : Nat × Flags => decide (cyc < f.1)) = fun f => !decide (f.1 ≤ cyc) := by
    funext f; by_cases h : f.1 ≤ cyc <;> (simp [h]; try omega)
  rw [h2, ← h]; ac_rfl

theorem Warp.flagsInAll_raiseFlags (w : Warp) (due : Nat) (f : Flags) : (w.raiseFlags due f).flagsInAll = w.flagsInAll ||| f := by
  simp only [Warp.raiseFlags]
  split
  · rename_i h; simp [h]
  · simp only [Warp.flagsInAll, List.foldl_cons]
    rw [foldl_or w.flagsDue w.special.fflags, foldl_or w.flagsDue (w.special.fflags ||| f)]; ac_rfl

theorem Warp.flagsInAll_deliverReg (w : Warp) (cyc draw due code lane : Nat) (x : Word) :
    (w.deliverReg cyc draw due code lane x).flagsInAll = w.flagsInAll := by
  simp only [Warp.deliverReg, Warp.setReg]
  split
  · rfl
  · split
    · rfl
    · split
      · rfl
      · split <;> rfl

theorem Warp.flagsInAll_deliverRun (w : Warp) (cyc draw due code lane x n : Nat) :
    (w.deliverRun cyc draw due code lane x n).flagsInAll = w.flagsInAll := by
  induction n generalizing w code x with
  | zero => rfl
  | succ n ih => rw [Warp.deliverRun, ih, Warp.flagsInAll_deliverReg]

theorem Warp.flagsInAll_deliverPred (w : Warp) (cyc draw due n lane : Nat) (b : Bool) :
    (w.deliverPred cyc draw due n lane b).flagsInAll = w.flagsInAll := by
  simp only [Warp.deliverPred]
  split
  · rfl
  · split <;> rfl

theorem Warp.flagsInAll_foldl {α : Type} (f : Warp → α → Warp) (hf : ∀ w a, (f w a).flagsInAll = w.flagsInAll) (l : List α) (w : Warp) :
    (l.foldl f w).flagsInAll = w.flagsInAll := by
  induction l generalizing w with
  | nil => rfl
  | cons a t ih => rw [List.foldl_cons, ih, hf]

/-- Delivering results raises their flags. -/
theorem Warp.flagsInAll_deliver (w : Warp) (cyc draw lat : Nat) (o : Out) :
    (w.deliver cyc draw lat o).flagsInAll = w.flagsInAll ||| o.flags := by
  simp only [Warp.deliver]
  rw [Warp.flagsInAll_raiseFlags, Warp.flagsInAll_settleFlags,
    Warp.flagsInAll_foldl _ (fun w _ => Warp.flagsInAll_deliverPred w ..),
    Warp.flagsInAll_foldl _ (fun w _ => Warp.flagsInAll_deliverRun w ..)]

/-! ## Registers -/

/-- No result is on its way to a register at a place. -/
def Warp.freeAt (w : Warp) (code place : Nat) : Prop := ∀ u ∈ w.undelivered, ¬(u.code = code ∧ u.lane = place)

theorem Warp.regWord_setReg (w : Warp) (c l c' l' : Nat) (x : Word) (hc' : c' < 252) :
    (w.setReg c l x).regWord c' l' = if c' = c ∧ ((192 ≤ c) ∨ (l' = l ∧ l < w.lanes.length)) then x else w.regWord c' l' := by
  simp only [Warp.setReg]
  by_cases h1 : c < 192
  · simp only [h1, if_true, Warp.regWord, Warp.lane_modLane]
    by_cases h2 : c' < 192
    · simp only [h2, if_true]
      by_cases h3 : l' = l ∧ l < w.lanes.length
      · simp only [h3, and_self, if_true, or_true, and_true, SMap.get_set]
      · simp only [h3, if_false, or_false]
        rw [if_neg]; omega
    · simp only [h2, if_false]
      rw [if_neg]
      · rfl
      · omega
  · simp only [h1, if_false]
    by_cases h2 : c < 252
    · simp only [h2, if_true, Warp.regWord]
      by_cases h3 : c' < 192
      · simp only [h3, if_true]
        rw [if_neg]
        · rfl
        · omega
      · simp only [h3, if_false, SMap.get_set]
        by_cases h4 : c' = c
        · subst h4; simp; omega
        · rw [if_neg (by omega), if_neg (by omega)]
    · simp only [h2, if_false]
      rw [if_neg]; omega

theorem Warp.regWord_undelivered (w : Warp) (l : List Undelivered) (c p : Nat) :
    ({ w with undelivered := l } : Warp).regWord c p = w.regWord c p := rfl

theorem Warp.deliverReg_eq (w : Warp) (cyc draw due c l : Nat) (x : Word) (hc : c < 252) (hf : w.freeAt c (placeOf c l)) :
    ∃ us, w.deliverReg cyc draw due c l x = { w.setReg c l x with undelivered := us } := by
  have he : w.undelivered.any (fun u => decide (u.code = c ∧ u.lane = placeOf c l ∧ cyc < u.due)) = false := by
    rw [List.any_eq_false]
    intro u hu
    simp only [decide_eq_true_eq]
    exact fun h => hf u hu ⟨h.1, h.2.1⟩
  simp only [Warp.deliverReg, he, Bool.false_and, Bool.false_eq_true, if_false, if_neg (Nat.not_le.2 hc)]
  exact ⟨_, rfl⟩

theorem Warp.regWord_deliverReg_other (w : Warp) (cyc draw due c l c' l' : Nat) (x : Word) (hc' : c' < 252)
    (h : ¬(c' = c ∧ (192 ≤ c ∨ l' = l))) : (w.deliverReg cyc draw due c l x).regWord c' l' = w.regWord c' l' := by
  simp only [Warp.deliverReg]
  split
  · rfl
  · split
    · rfl
    · rw [Warp.regWord_undelivered, Warp.regWord_setReg _ _ _ _ _ _ hc', if_neg]; omega

theorem Warp.freeAt_deliverReg (w : Warp) (cyc draw due c l c' p' : Nat) (x : Word) (hf : w.freeAt c' p')
    (h : ¬(c' = c ∧ p' = placeOf c l)) : (w.deliverReg cyc draw due c l x).freeAt c' p' := by
  simp only [Warp.deliverReg]
  split
  · exact hf
  · split
    · exact hf
    · intro u hu
      simp only [List.mem_cons, List.mem_filter] at hu
      rcases hu with rfl | ⟨hu, -⟩
      · simp only; omega
      · exact hf u hu

theorem Warp.regWord_deliverRun_other (w : Warp) (cyc draw due c l c' l' x n : Nat) (hc' : c' < 252)
    (h : ¬(c ≤ c' ∧ c' < c + n ∧ (192 ≤ c' ∨ l' = l))) : (w.deliverRun cyc draw due c l x n).regWord c' l' = w.regWord c' l' := by
  induction n generalizing w c x with
  | zero => rfl
  | succ n ih =>
    rw [Warp.deliverRun, ih _ _ _ (by omega), Warp.regWord_deliverReg_other _ _ _ _ _ _ _ _ _ hc' (by omega)]

theorem Warp.freeAt_deliverRun (w : Warp) (cyc draw due c l c' p' x n : Nat) (hf : w.freeAt c' p')
    (h : ¬(c ≤ c' ∧ c' < c + n ∧ p' = placeOf c' l)) : (w.deliverRun cyc draw due c l x n).freeAt c' p' := by
  induction n generalizing w c x with
  | zero => exact hf
  | succ n ih =>
    rw [Warp.deliverRun]
    refine ih _ _ _ (Warp.freeAt_deliverReg _ _ _ _ _ _ _ _ _ hf fun hh => h ⟨by omega, by omega, ?_⟩) (by omega)
    rw [hh.1]; exact hh.2

theorem Warp.length_deliverRun (w : Warp) (cyc draw due c l x n : Nat) :
    (w.deliverRun cyc draw due c l x n).lanes.length = w.lanes.length := (Delivered.deliverRun w cyc draw due c l x n).count

theorem Warp.regWord_deliverRun_same (w : Warp) (cyc draw due c l x n k : Nat) (hk : k < n) (hc : c + k < 252)
    (hl : 192 ≤ c + k ∨ l < w.lanes.length) (hf : w.freeAt (c + k) (placeOf (c + k) l)) :
    (w.deliverRun cyc draw due c l x n).regWord (c + k) l = BitVec.ofNat 32 (x / 2 ^ (32 * k)) := by
  induction n generalizing w c x k with
  | zero => omega
  | succ n ih =>
    rw [Warp.deliverRun]
    cases k with
    | zero =>
      rw [Warp.regWord_deliverRun_other _ _ _ _ _ _ _ _ _ _ hc (by omega)]
      obtain ⟨us, hu⟩ := Warp.deliverReg_eq w cyc draw due c l (BitVec.ofNat 32 x) (by omega) hf
      rw [hu, Warp.regWord_undelivered, Warp.regWord_setReg _ _ _ _ _ _ hc, if_pos]
      · simp
      · exact ⟨rfl, by omega⟩
    | succ k =>
      have h := ih (w.deliverReg cyc draw due c l (BitVec.ofNat 32 x)) (c + 1) (x / 2 ^ 32) k (by omega) (by omega)
        (by rw [(Delivered.deliverReg w cyc draw due c l (BitVec.ofNat 32 x)).count]; omega)
        (by
          rw [show c + 1 + k = c + (k + 1) by omega]
          exact Warp.freeAt_deliverReg _ _ _ _ _ _ _ _ _ hf (by omega))
      rw [show c + 1 + k = c + (k + 1) by omega] at h
      rw [h, Nat.div_div_eq_div_mul, ← Nat.pow_add, show 32 + 32 * k = 32 * (k + 1) by omega]

/-- The runs of a list of places, delivered one after the other. -/
def Warp.deliverRuns (w : Warp) (cyc draw due d n : Nat) (value : Nat → Nat) (l : List Nat) : Warp :=
  l.foldl (fun w p => w.deliverRun cyc draw due d p (value p) n) w

theorem Warp.regWord_deliverRuns_other (w : Warp) (cyc draw due d n c' l' : Nat) (value : Nat → Nat) (l : List Nat) (hc' : c' < 252)
    (h : ¬(d ≤ c' ∧ c' < d + n ∧ ((192 ≤ c' ∧ l ≠ []) ∨ l' ∈ l))) :
    (w.deliverRuns cyc draw due d n value l).regWord c' l' = w.regWord c' l' := by
  induction l generalizing w with
  | nil => rfl
  | cons p t ih =>
    simp only [Warp.deliverRuns, List.foldl_cons]
    have := ih (w.deliverRun cyc draw due d p (value p) n) (fun hh => h ⟨hh.1, hh.2.1, by
      rcases hh.2.2 with h1 | h1
      · exact .inl ⟨h1.1, by simp⟩
      · exact .inr (List.mem_cons_of_mem _ h1)⟩)
    simp only [Warp.deliverRuns] at this
    rw [this, Warp.regWord_deliverRun_other _ _ _ _ _ _ _ _ _ _ hc']
    rintro ⟨h1, h2, h3⟩
    refine h ⟨h1, h2, ?_⟩
    rcases h3 with h3 | h3
    · exact .inl ⟨h3, by simp⟩
    · exact .inr (by simp [h3])

theorem Warp.length_deliverRuns (w : Warp) (cyc draw due d n : Nat) (value : Nat → Nat) (l : List Nat) :
    (w.deliverRuns cyc draw due d n value l).lanes.length = w.lanes.length :=
  (Delivered.foldl _ (fun w p => .deliverRun w cyc draw due d p (value p) n) l w).count

theorem Warp.regWord_deliverRuns_same (w : Warp) (cyc draw due d n k p : Nat) (value : Nat → Nat) (l : List Nat) (hp : p ∈ l)
    (hn : l.Nodup) (hk : k < n) (hc : d + k < 252) (hs : d + k < 192 ∨ l = [p]) (hl : 192 ≤ d + k ∨ p < w.lanes.length)
    (hf : w.freeAt (d + k) (placeOf (d + k) p)) :
    (w.deliverRuns cyc draw due d n value l).regWord (d + k) p = BitVec.ofNat 32 (value p / 2 ^ (32 * k)) := by
  induction l generalizing w with
  | nil => simp at hp
  | cons q t ih =>
    rw [List.nodup_cons] at hn
    simp only [Warp.deliverRuns, List.foldl_cons]
    by_cases hq : p = q
    · subst hq
      have := Warp.regWord_deliverRuns_other (w.deliverRun cyc draw due d p (value p) n) cyc draw due d n (d + k) p value t hc (by
        rintro ⟨-, -, h⟩
        rcases h with ⟨h1, h2⟩ | h
        · rcases hs with hs | hs
          · omega
          · simp only [List.cons.injEq, true_and] at hs; exact h2 hs
        · exact hn.1 h)
      simp only [Warp.deliverRuns] at this
      rw [this, Warp.regWord_deliverRun_same _ _ _ _ _ _ _ _ _ hk hc hl hf]
    · have hpt : p ∈ t := by simpa [hq] using hp
      have hs' : d + k < 192 := by
        rcases hs with hs | hs
        · exact hs
        · simp only [List.cons.injEq] at hs; exact absurd hs.1.symm hq
      have := ih (w.deliverRun cyc draw due d q (value q) n) hpt hn.2 (.inl hs')
        (by rw [Warp.length_deliverRun]; exact hl)
        (Warp.freeAt_deliverRun _ _ _ _ _ _ _ _ _ _ hf (by
          simp only [placeOf, hs', if_true]; omega))
      simpa only [Warp.deliverRuns] using this

/-! ## Predicates -/

theorem Lane.pred_setPred (l : Lane) (n k : Nat) (b : Bool) (hn : n < 8) :
    (l.setPred n b).pred k = if k = n ∧ n ≠ 0 then b else l.pred k := by
  simp only [Lane.setPred, Lane.pred]
  by_cases h0 : n = 0
  · simp [h0]
  · simp only [h0, if_false, ne_eq, not_false_eq_true, and_true]
    rw [BitVec.getLsbD_ofNat, testBit_maskOf]
    by_cases hk : k < 8
    · simp only [List.mem_filter, List.mem_range, hk, decide_true, true_and, Bool.true_and]
      by_cases hkn : k = n
      · subst hkn; simp [h0]
      · simp [hkn]
    · have : k ≠ n := by omega
      simp only [hk, decide_false, Bool.false_and, this, if_false]
      rw [BitVec.getLsbD_of_ge _ _ (by omega)]

/-- No result is on its way to a predicate of a lane. -/
def Warp.predFree (w : Warp) (l k : Nat) : Prop := ∀ u ∈ w.undelivered, ¬(u.code = 256 + k ∧ u.lane = l)

theorem Warp.deliverPred_eq (w : Warp) (cyc draw due n l : Nat) (b : Bool) (hn : 0 < n ∧ n < 8) (hf : w.predFree l n) :
    ∃ us, w.deliverPred cyc draw due n l b = { w.modLane l (fun x => x.setPred n b) with undelivered := us } := by
  have he : w.undelivered.any (fun u => decide (u.code = 256 + n ∧ u.lane = l ∧ cyc < u.due)) = false := by
    rw [List.any_eq_false]
    intro u hu
    simp only [decide_eq_true_eq]
    exact fun h => hf u hu ⟨h.1, h.2.1⟩
  simp only [Warp.deliverPred, he, Bool.false_and, Bool.false_eq_true, if_false, if_neg (show ¬(n = 0 ∨ 7 < n) by omega)]
  exact ⟨_, rfl⟩

theorem Warp.pred_deliverPred_other (w : Warp) (cyc draw due n l k l' : Nat) (b : Bool) (h : ¬(k = n ∧ l' = l)) :
    ((w.deliverPred cyc draw due n l b).lane l').pred k = (w.lane l').pred k := by
  simp only [Warp.deliverPred]
  split
  · rfl
  · rename_i hn
    split
    · rfl
    · change ((w.modLane l (fun x => x.setPred n b)).lane l').pred k = _
      rw [Warp.lane_modLane]
      split
      · rw [Lane.pred_setPred _ _ _ _ (by omega), if_neg (by omega)]
      · rfl

theorem Warp.predFree_deliverPred (w : Warp) (cyc draw due n l l' k : Nat) (b : Bool) (hf : w.predFree l' k)
    (h : ¬(k = n ∧ l' = l)) : (w.deliverPred cyc draw due n l b).predFree l' k := by
  simp only [Warp.deliverPred]
  split
  · exact hf
  · split
    · exact hf
    · intro u hu
      simp only [List.mem_cons, List.mem_filter] at hu
      rcases hu with rfl | ⟨hu, -⟩
      · simp only; omega
      · exact hf u hu

theorem Warp.pred_deliverPreds_other (cyc draw due l' k : Nat) (ps : List (Nat × Nat × Bool)) (w : Warp)
    (h : ∀ e ∈ ps, ¬(k = e.2.1 ∧ l' = e.1)) :
    ((ps.foldl (fun w p => w.deliverPred cyc draw due p.2.1 p.1 p.2.2) w).lane l').pred k = (w.lane l').pred k := by
  induction ps generalizing w with
  | nil => rfl
  | cons e t ih =>
    rw [List.foldl_cons, ih _ (fun e he => h e (List.mem_cons_of_mem _ he)), Warp.pred_deliverPred_other _ _ _ _ _ _ _ _ _ (h e (by simp))]

theorem Warp.pred_deliverPreds_same (cyc draw due l k : Nat) (b : Bool) (ps : List (Nat × Nat × Bool)) (w : Warp)
    (hn : (ps.map (fun e => (e.1, e.2.1))).Nodup) (hm : (l, k, b) ∈ ps) (hk : 0 < k ∧ k < 8) (hl : l < w.lanes.length) (hf : w.predFree l k) :
    ((ps.foldl (fun w p => w.deliverPred cyc draw due p.2.1 p.1 p.2.2) w).lane l).pred k = b := by
  induction ps generalizing w with
  | nil => simp at hm
  | cons e t ih =>
    rw [List.map_cons, List.nodup_cons] at hn
    rw [List.foldl_cons]
    by_cases he : e = (l, k, b)
    · subst he
      rw [Warp.pred_deliverPreds_other]
      · obtain ⟨us, hu⟩ := Warp.deliverPred_eq w cyc draw due k l b hk hf
        rw [hu]
        change ((w.modLane l (fun x => x.setPred k b)).lane l).pred k = _
        rw [Warp.lane_modLane, if_pos ⟨rfl, hl⟩, Lane.pred_setPred _ _ _ _ hk.2, if_pos ⟨rfl, by omega⟩]
      · rintro e he ⟨h1, h2⟩
        exact hn.1 (List.mem_map.2 ⟨e, he, by rw [← h1, ← h2]⟩)
    · have hm' : (l, k, b) ∈ t := by
        rcases List.mem_cons.1 hm with h | h
        · exact absurd h.symm he
        · exact h
      refine ih _ hn.2 hm' (by rw [(Delivered.deliverPred w ..).count]; exact hl) ?_
      refine Warp.predFree_deliverPred _ _ _ _ _ _ _ _ _ hf ?_
      rintro ⟨h1, h2⟩
      exact hn.1 (List.mem_map.2 ⟨(l, k, b), hm', by simp [h1, h2]⟩)

theorem Warp.lanesByLid_nodup (w : Warp) (mask : BitVec 8) : (w.lanesByLid mask).Nodup := by
  simp only [Warp.lanesByLid]
  rw [List.nodup_flatMap]
  refine ⟨fun l _ => (List.nodup_range.filter _).filter _, List.nodup_range.imp ?_⟩
  intro a b hab i ha hb
  simp only [List.mem_filter, decide_eq_true_eq] at ha hb
  exact hab (ha.2.symm.trans hb.2)

theorem Warp.mem_lanesByLid (w : Warp) (mask : BitVec 8) (i : Nat) :
    i ∈ w.lanesByLid mask ↔ i < 32 ∧ inMask mask (i / 4) = true := by
  simp only [Warp.lanesByLid, List.mem_flatMap, List.mem_filter, List.mem_range, decide_eq_true_eq]
  constructor
  · rintro ⟨l, hl, h, -⟩; exact h
  · exact fun h => ⟨(w.lane i).lid.toNat, (w.lane i).lid.isLt, h, rfl⟩

theorem Ctx.lanes_nodup (x : Ctx) : x.lanes.Nodup := (Warp.lanesByLid_nodup _ _).filter _

theorem Ctx.lt_of_mem_lanes {x : Ctx} {l : Nat} (h : l ∈ x.lanes) : l < 32 := by
  simp only [Ctx.lanes, List.mem_filter] at h
  exact ((Warp.mem_lanesByLid _ _ _).1 h.1).1

theorem Ctx.places_nodup (x : Ctx) : x.places.Nodup := by
  simp only [Ctx.places]; split
  · split <;> simp
  · exact x.lanes_nodup

/-! ## What delivering results leaves in registers and predicates -/

theorem Warp.pred_setReg (w : Warp) (c l l' k : Nat) (x : Word) : ((w.setReg c l x).lane l').pred k = (w.lane l').pred k := by
  rw [(Delivered.setReg w c l x).lanes l']; simp only [Lane.pred, Warp.setReg]
  split
  · rw [Warp.lane_modLane]; split <;> rfl
  · split <;> rfl

theorem Warp.pred_deliverReg (w : Warp) (cyc draw due c l l' k : Nat) (x : Word) :
    ((w.deliverReg cyc draw due c l x).lane l').pred k = (w.lane l').pred k := by
  simp only [Warp.deliverReg]
  split
  · rfl
  · split
    · rfl
    · exact Warp.pred_setReg w c l l' k x

theorem Warp.pred_deliverRun (w : Warp) (cyc draw due c l l' k x n : Nat) :
    ((w.deliverRun cyc draw due c l x n).lane l').pred k = (w.lane l').pred k := by
  induction n generalizing w c x with
  | zero => rfl
  | succ n ih => rw [Warp.deliverRun, ih, Warp.pred_deliverReg]

theorem Warp.pred_deliverRegs (w : Warp) (cyc draw due l' k : Nat) (rs : List (Nat × Nat × Nat × Nat)) :
    ((rs.foldl (fun w r => w.deliverRun cyc draw due r.2.1 r.1 r.2.2.2 r.2.2.1) w).lane l').pred k = (w.lane l').pred k := by
  induction rs generalizing w with
  | nil => rfl
  | cons r t ih => rw [List.foldl_cons, ih, Warp.pred_deliverRun]

theorem Warp.predFree_deliverReg (w : Warp) (cyc draw due c l l' k : Nat) (x : Word) (hf : w.predFree l' k) :
    (w.deliverReg cyc draw due c l x).predFree l' k := by
  simp only [Warp.deliverReg]
  split
  · exact hf
  · split
    · exact hf
    · intro u hu
      simp only [List.mem_cons, List.mem_filter] at hu
      rcases hu with rfl | ⟨hu, -⟩
      · simp only; omega
      · exact hf u hu

theorem Warp.predFree_deliverRun (w : Warp) (cyc draw due c l l' k x n : Nat) (hf : w.predFree l' k) :
    (w.deliverRun cyc draw due c l x n).predFree l' k := by
  induction n generalizing w c x with
  | zero => exact hf
  | succ n ih => rw [Warp.deliverRun]; exact ih _ _ _ (Warp.predFree_deliverReg _ _ _ _ _ _ _ _ _ hf)

theorem Warp.predFree_deliverRegs (w : Warp) (cyc draw due l' k : Nat) (rs : List (Nat × Nat × Nat × Nat)) (hf : w.predFree l' k) :
    (rs.foldl (fun w r => w.deliverRun cyc draw due r.2.1 r.1 r.2.2.2 r.2.2.1) w).predFree l' k := by
  induction rs generalizing w with
  | nil => exact hf
  | cons r t ih => rw [List.foldl_cons]; exact ih _ (Warp.predFree_deliverRun _ _ _ _ _ _ _ _ _ _ hf)

theorem Warp.regWord_modPred (w : Warp) (l n c p : Nat) (b : Bool) :
    (w.modLane l (fun x => x.setPred n b)).regWord c p = w.regWord c p := by
  simp only [Warp.regWord]
  split
  · rw [Warp.lane_modLane]
    split
    · simp only [Lane.setPred]; split <;> rfl
    · rfl
  · rfl

theorem Warp.regWord_deliverPred (w : Warp) (cyc draw due n l c p : Nat) (b : Bool) :
    (w.deliverPred cyc draw due n l b).regWord c p = w.regWord c p := by
  simp only [Warp.deliverPred]
  split
  · rfl
  · split
    · rfl
    · exact Warp.regWord_modPred w l n c p b

theorem Warp.regWord_deliverPreds (w : Warp) (cyc draw due c p : Nat) (ps : List (Nat × Nat × Bool)) :
    (ps.foldl (fun w p => w.deliverPred cyc draw due p.2.1 p.1 p.2.2) w).regWord c p = w.regWord c p := by
  induction ps generalizing w with
  | nil => rfl
  | cons r t ih => rw [List.foldl_cons, ih, Warp.regWord_deliverPred]

theorem Warp.regWord_raiseFlags (w : Warp) (due c p : Nat) (f : Flags) : (w.raiseFlags due f).regWord c p = w.regWord c p := by
  simp only [Warp.raiseFlags]; split <;> rfl

theorem Warp.lane_raiseFlags (w : Warp) (due i : Nat) (f : Flags) : (w.raiseFlags due f).lane i = w.lane i := by
  simp only [Warp.raiseFlags]; split <;> rfl

theorem Warp.regWord_deliver (w : Warp) (cyc draw lat c p : Nat) (o : Out) :
    (w.deliver cyc draw lat o).regWord c p =
      (o.regs.foldl (fun w r => w.deliverRun cyc draw (cyc + lat) r.2.1 r.1 r.2.2.2 r.2.2.1) w).regWord c p := by
  simp only [Warp.deliver, Warp.regWord_raiseFlags]
  exact Warp.regWord_deliverPreds ..

theorem Warp.pred_deliver (w : Warp) (cyc draw lat l k : Nat) (o : Out) :
    ((w.deliver cyc draw lat o).lane l).pred k =
      ((o.preds.foldl (fun w p => w.deliverPred cyc draw (cyc + lat) p.2.1 p.1 p.2.2)
        (o.regs.foldl (fun w r => w.deliverRun cyc draw (cyc + lat) r.2.1 r.1 r.2.2.2 r.2.2.1) w)).lane l).pred k := by
  simp only [Warp.deliver, Warp.lane_raiseFlags]
  rfl

/-- The results of an instruction are `n` registers at dst for each place, and predicates of its lanes. -/
structure Out.IsResult (o : Out) (x : Ctx) (n : Nat) (value : Nat → Nat) (preds : Nat → List (Nat × Bool)) : Prop where
  regs  : o.regs = x.places.map (fun p => (p, x.f.dst.toNat, n, value p)) ∨ (n = 0 ∧ o.regs = [])
  nodup : (o.preds.map (fun e => (e.1, e.2.1))).Nodup
  sound : ∀ l k b, (l, k, b) ∈ o.preds → l ∈ x.lanes ∧ (k, b) ∈ preds l
  full  : ∀ l ∈ x.lanes, ∀ e ∈ preds l, 0 < e.1 → e.1 < 8 → (l, e.1, e.2) ∈ o.preds

theorem Ctx.le_dst_of_scalarPath (x : Ctx) (h : x.scalarPath = true) : 192 ≤ x.f.dst.toNat := by
  simp only [Ctx.scalarPath, Sig.scalarDst] at h
  split at h
  · simp only [decide_eq_true_eq] at h; exact h.1
  · simp at h

theorem HoldsResults.of_deliver (x : Ctx) (n lat : Nat) (value : Nat → Nat) (preds : Nat → List (Nat × Bool)) (o : Out)
    (ho : o.IsResult x n value preds) (hu : x.w.undelivered = []) :
    HoldsResults x (x.w.deliver x.cyc x.draw lat o) n value preds := by
  have hfold : o.regs.foldl (fun w r => w.deliverRun x.cyc x.draw (x.cyc + lat) r.2.1 r.1 r.2.2.2 r.2.2.1) x.w =
      x.w.deliverRuns x.cyc x.draw (x.cyc + lat) x.f.dst.toNat n value x.places := by
    rcases ho.regs with h | ⟨rfl, h⟩
    · rw [h, Warp.deliverRuns, List.foldl_map]
    · rw [h, Warp.deliverRuns]
      generalize x.places = l
      generalize x.w = w
      induction l generalizing w with
      | nil => rfl
      | cons p t ih => simp only [List.foldl_cons, Warp.deliverRun, List.foldl_nil]; exact ih w
  refine ⟨fun p hp k hk hc => ?_, fun code p hc hw => ?_, fun l hl hlt e he h0 h8 => ?_, fun l k h => ?_⟩
  · rw [Warp.regWord_deliver, hfold]
    by_cases hs : x.scalarPath = true
    · rw [if_pos hs] at hc
      have hd := x.le_dst_of_scalarPath hs
      have hpl : x.places = [p] := by
        simp only [Ctx.places, hs, if_true] at hp ⊢
        split at hp
        · simp at hp
        · rename_i h; simp only [List.mem_singleton] at hp; rw [if_neg h, hp]
      exact Warp.regWord_deliverRuns_same _ _ _ _ _ _ _ _ _ _ hp x.places_nodup hk hc (.inr hpl) (.inl (by omega))
        (by intro u hm; rw [hu] at hm; simp at hm)
    · rw [if_neg hs] at hc
      exact Warp.regWord_deliverRuns_same _ _ _ _ _ _ _ _ _ _ hp x.places_nodup hk (by omega) (.inl hc.1) (.inr hc.2)
        (by intro u hm; rw [hu] at hm; simp at hm)
  · rw [Warp.regWord_deliver, hfold]
    refine Warp.regWord_deliverRuns_other _ _ _ _ _ _ _ _ _ _ hc ?_
    exact fun h => hw ⟨h.1, h.2.1, h.2.2⟩
  · rw [Warp.pred_deliver]
    refine Warp.pred_deliverPreds_same _ _ _ _ _ _ _ _ ho.nodup (ho.full l hl e he h0 h8) ⟨h0, h8⟩ ?_ ?_
    · rw [hfold, Warp.length_deliverRuns]; exact hlt
    · exact Warp.predFree_deliverRegs _ _ _ _ _ _ _ (by intro u hm; rw [hu] at hm; simp at hm)
  · rw [Warp.pred_deliver, Warp.pred_deliverPreds_other, Warp.pred_deliverRegs]
    rintro ⟨l', k', b⟩ he ⟨rfl, rfl⟩
    have := ho.sound _ _ _ he
    rcases h with h | h
    · exact h this.1
    · exact h _ this.2 rfl

/-! ## Completing an instruction -/

/-- The warp after an instruction whose group goes on at `pc`. -/
def Warp.finished (w : Warp) (x : Ctx) (pc : Nat) : Warp :=
  (((w.setPc x.mask pc).stallGroup x.mask x.cyc x.f.stall.toNat).commitFlash x.i.isCommit).countIssue

/-- What completing an instruction changes: its warp, the performance counters of its quadrant, and what comes due. -/
theorem State.completeAt_spec {s : State} {x : Ctx} {w : Warp} (f : Warp → Warp) (pc : Nat) (hw : s.warp? x.core x.slot = some w) :
    OnlyWarp x s ((s.begun.modWarp x.core x.slot f).completeAt x pc) ∧
      ((s.begun.modWarp x.core x.slot f).completeAt x pc).warp? x.core x.slot = some ((f w).finished x pc) := by
  obtain ⟨k, hk, hkw⟩ := State.core?_of_warp? hw
  have h1 : (s.begun.modWarp x.core x.slot f).warp? x.core x.slot = some (f w) := by
    rw [State.warp?_modWarp, if_pos ⟨rfl, rfl⟩]; simp [hw]
  have hc : (s.begun.modWarp x.core x.slot f).core? x.core = some { k with warps := SMap.modify x.slot f k.warps } := by
    rw [State.core?_modWarp, if_pos rfl]; simp [hk]
  have heq : (s.begun.modWarp x.core x.slot f).completeAt x pc =
      (((s.begun.modWarp x.core x.slot f).setWarp x.core x.slot ((f w).finished x pc)).modQuad x.core (quadOf x.slot) (·.completes x)).pushAll
        (((f w).finished x pc).dueAfter x.core x.slot) := by
    simp only [State.completeAt, h1]; rfl
  obtain ⟨fq, hfq⟩ : ∃ fq : Quad → Quad, fq = (·.completes x) := ⟨_, rfl⟩
  have hq : ∀ q : Quad, fq q = { q with pc := (fq q).pc, pcfg := (fq q).pcfg, latches := (fq q).latches } := fun q => by
    rw [hfq]; simp only [Quad.completes]; split <;> rfl
  have hl : ∀ q : Quad, (fq q).latches = q.latches.filter (fun e => !e.2.overwritten (e.1 % 2 == 1) x.slot x.writtenRun.1 x.writtenRun.2) := fun q => by
    rw [hfq]; simp only [Quad.completes]; split <;> rfl
  rw [heq, ← hfq]
  have hcore : ∀ d, ((((s.begun.modWarp x.core x.slot f).setWarp x.core x.slot ((f w).finished x pc)).modQuad x.core (quadOf x.slot) fq).pushAll
      (((f w).finished x pc).dueAfter x.core x.slot)).core? d =
      if d = x.core then some (({ k with warps := SMap.put x.slot ((f w).finished x pc) (SMap.modify x.slot f k.warps) } : Core).modQuad
        (quadOf x.slot) fq) else s.core? d := by
    intro d
    rw [State.core?_pushAll, State.core?_modQuad, State.core?_setWarp]
    by_cases hd : d = x.core
    · subst hd; simp [hc]
    · simp only [hd, if_false]; rw [State.core?_modWarp, if_neg hd]; rfl
  refine ⟨⟨rfl, ⟨_, rfl⟩, ?_, ?_, ?_, ?_⟩, ?_⟩
  · intro c p h
    rw [State.warp?_pushAll, State.warp?_modQuad, State.warp?_setWarp, if_neg (by omega), State.warp?_modWarp, if_neg (by omega)]
    rfl
  · intro c k0 h0
    rw [hcore c]
    by_cases hd : c = x.core
    · subst hd
      rw [if_pos rfl]
      rw [hk] at h0; cases h0
      exact ⟨_, rfl, rfl⟩
    · rw [if_neg hd]; exact ⟨k0, h0, rfl⟩
  · intro c k0 k' q h0 h'
    rw [hcore c] at h'
    by_cases hd : c = x.core
    · subst hd
      rw [if_pos rfl] at h'
      rw [hk] at h0; cases h0
      cases h'
      rw [Core.quad_modQuad]
      split
      · exact hq _
      · rfl
    · rw [if_neg hd, h0] at h'; cases h'; rfl
  · intro c k0 k' q h0 h' e
    rw [hcore c] at h'
    by_cases hd : c = x.core
    · subst hd
      rw [if_pos rfl] at h'
      rw [hk] at h0; cases h0
      cases h'
      rw [Core.quad_modQuad]
      split
      · rw [hl]; exact ⟨fun h => (List.mem_filter.1 h).1, fun h h2 => List.mem_filter.2 ⟨h, by rw [h2]; rfl⟩⟩
      · exact ⟨id, fun h _ => h⟩
    · rw [if_neg hd, h0] at h'; cases h'; exact ⟨id, fun h _ => h⟩
  · rw [State.warp?_pushAll, State.warp?_modQuad, State.warp?_setWarp, if_pos ⟨rfl, rfl, by rw [hc]; rfl⟩]

theorem Warp.slice_setPc (w : Warp) (mask : BitVec 8) (pc k : Nat) :
    (w.setPc mask pc).slice k =
      if inMask mask k = true ∧ k < w.slices.length then { w.slice k with pc := BitVec.ofNat 48 (pc / 4 * 4) } else w.slice k := by
  simp only [Warp.slice, Warp.setPc, List.getD_eq_getElem?_getD, List.getElem?_mapIdx]
  by_cases hk : k < w.slices.length
  · rw [List.getElem?_eq_getElem hk]
    simp only [Option.map_some, Option.getD_some, hk, and_true]
  · rw [List.getElem?_eq_none (by omega)]
    simp [hk]

@[simp] theorem Warp.regWord_finished (w : Warp) (x : Ctx) (pc c p : Nat) : (w.finished x pc).regWord c p = w.regWord c p := by
  simp only [Warp.finished, Warp.countIssue, Warp.commitFlash]; split <;> rfl

@[simp] theorem Warp.lane_finished (w : Warp) (x : Ctx) (pc i : Nat) : (w.finished x pc).lane i = w.lane i := by
  simp only [Warp.finished, Warp.countIssue, Warp.commitFlash]; split <;> rfl

@[simp] theorem Warp.flagsInAll_finished (w : Warp) (x : Ctx) (pc : Nat) : (w.finished x pc).flagsInAll = w.flagsInAll := by
  simp only [Warp.finished, Warp.countIssue, Warp.commitFlash]; split <;> rfl

theorem Warp.slice_finished (w : Warp) (x : Ctx) (pc k : Nat) : (w.finished x pc).slice k = (w.setPc x.mask pc).slice k := by
  simp only [Warp.finished, Warp.countIssue, Warp.commitFlash]; split <;> rfl

/-- A warp whose results are delivered and whose group goes on. -/
theorem OnlyResults.of_delivered {x : Ctx} {w1 : Warp} (pc : Nat) (hi : x.i.isCommit = false) (h : Delivered x.w w1) :
    OnlyResults x (w1.finished x pc) := by
  have hf : w1.finished x pc = ((w1.setPc x.mask pc).stallGroup x.mask x.cyc x.f.stall.toNat).countIssue := by
    simp only [Warp.finished, hi, Warp.commitFlash]; rfl
  refine ⟨?_, fun i => ?_, fun k => ?_⟩
  · rw [hf, h.warp]; rfl
  · rw [Warp.lane_finished]; exact h.lanes i
  · rw [Warp.slice_finished, Warp.slice_setPc]
    have : w1.slice k = x.w.slice k := by rw [h.warp]; rfl
    rw [this]; split <;> rfl

theorem GroupGoes.of_delivered {x : Ctx} {w1 : Warp} (pc : Nat) (h : Delivered x.w w1) : GroupGoes x (w1.finished x pc) pc := by
  have hs : ∀ k, w1.slice k = x.w.slice k := fun k => by rw [h.warp]; rfl
  have hl : w1.slices = x.w.slices := by rw [h.warp]
  have hg : w1.groups = x.w.groups := by rw [h.warp]
  refine ⟨fun k => ?_, ?_⟩
  · rw [Warp.slice_finished, Warp.slice_setPc, hs, hl]
    by_cases hk : inMask x.mask k = true ∧ k < x.w.slices.length
    · rw [if_pos hk, if_pos hk]
    · rw [if_neg hk, if_neg hk]
  · have : (w1.finished x pc).groups = (w1.groups).map (fun g =>
        if g.mask == x.mask then { g with readyAt := x.cyc + 1 + x.f.stall.toNat, hold := .none, prog := {} } else g) := by
      simp only [Warp.finished, Warp.countIssue, Warp.commitFlash]; split <;> rfl
    rw [this, hg]

/-- An instruction that nothing stops and that only delivers results. -/
theorem RegisterStep.of_deliver {i : Instr} {late : Ctx → State → Late} {lat n : Nat} {eff : Ctx → State → State} {s : State}
    {g : Selected} {w : Warp} {value : Nat → Nat} {preds : Nat → List (Nat × Bool)} {flags : Flags} (o : Out)
    (hex : exec i s = issue i late eff s) (hs : s.selects g w) (hc : s.clear i late g w = true) (hi : i.isCommit = false)
    (heff : eff (s.seenBy i g w) s.begun =
      (s.begun.modWarp g.core g.slot (fun w => w.deliver (s.cyc g.core) s.tick lat o)).complete (s.seenBy i g w))
    (ho : o.IsResult (s.seenBy i g w) n value preds) (hf : o.flags = flags) :
    RegisterStep i (s.seenBy i g w) s n value preds flags := by
  have hsp := State.completeAt_spec (x := s.seenBy i g w) (fun w => w.deliver (s.cyc g.core) s.tick lat o) (s.seenBy i g w).next hs.2
  have hd := Delivered.deliver w (s.cyc g.core) s.tick lat o
  refine ⟨_, (w.deliver (s.cyc g.core) s.tick lat o).finished (s.seenBy i g w) (s.seenBy i g w).next, ?_, hsp.2, hsp.1,
    OnlyResults.of_delivered _ hi hd, GroupGoes.of_delivered _ hd, fun hu => ?_, ?_⟩
  · rw [hex, issue_of_clear hs hc, heff]; rfl
  · have hh := HoldsResults.of_deliver (s.seenBy i g w) n lat value preds o ho hu
    exact ⟨fun p hp k hk hd => (Warp.regWord_finished ..).trans (hh.run p hp k hk hd),
      fun c p hc' hw => (Warp.regWord_finished ..).trans (hh.rest c p hc' hw),
      fun l hl hlt e he h0 h8 => (congrArg (·.pred e.1) (Warp.lane_finished ..)).trans (hh.written l hl hlt e he h0 h8),
      fun l k h => (congrArg (·.pred k) (Warp.lane_finished ..)).trans (hh.kept l k h)⟩
  · rw [Warp.flagsInAll_finished, Warp.flagsInAll_deliver, hf]; rfl

/-! ## Class-F instructions -/

theorem Out.regs_ofList (l : List Out) : (Out.ofList l).regs = l.flatMap (·.regs) := by
  induction l with
  | nil => rfl
  | cons a t ih => simp [Out.ofList, Out.append, ih]

theorem Out.preds_ofList (l : List Out) : (Out.ofList l).preds = l.flatMap (·.preds) := by
  induction l with
  | nil => rfl
  | cons a t ih => simp [Out.ofList, Out.append, ih]

theorem Out.flags_ofList (l : List Out) : (Out.ofList l).flags = l.foldr (fun o a => o.flags ||| a) 0 := by
  induction l with
  | nil => rfl
  | cons a t ih => simp [Out.ofList, Out.append, ih]

theorem Out.IsResult.of_places {x : Ctx} {n : Nat} {value : Nat → Nat} {compute : Nat → Out}
    (h : ∀ p ∈ x.places, (compute p).regs = [(p, x.f.dst.toNat, n, value p)] ∧ (compute p).preds = []) :
    (Out.ofList (x.places.map compute)).IsResult x n value noPreds := by
  have hr : (Out.ofList (x.places.map compute)).regs = x.places.map (fun p => (p, x.f.dst.toNat, n, value p)) := by
    rw [Out.regs_ofList, List.flatMap_map]
    have : ∀ l : List Nat, (∀ p ∈ l, p ∈ x.places) → l.flatMap (fun p => (compute p).regs) = l.map (fun p => (p, x.f.dst.toNat, n, value p)) := by
      intro l hl
      induction l with
      | nil => rfl
      | cons a t ih =>
        rw [List.flatMap_cons, (h a (hl a (by simp))).1, ih (fun p hp => hl p (List.mem_cons_of_mem _ hp))]; rfl
    exact this _ (fun p hp => hp)
  have hp : (Out.ofList (x.places.map compute)).preds = [] := by
    rw [Out.preds_ofList, List.flatMap_eq_nil_iff]
    intro o ho
    obtain ⟨p, hp, rfl⟩ := List.mem_map.1 ho
    exact (h p hp).2
  exact ⟨.inl hr, by rw [hp]; simp, fun l k b hm => by rw [hp] at hm; simp at hm, fun l _ e he => by simp [noPreds] at he⟩

/-- A class-F instruction that writes `n` registers at each place and nothing else. -/
theorem RegisterStep.of_classF {i : Instr} {late : Ctx → State → Late} {lat n : Nat} {compute : Ctx → Nat → Out} {s : State}
    {g : Selected} {w : Warp} {value : Nat → Nat} {flags : Flags}
    (hex : exec i s = issue i late (classF lat compute) s) (hs : s.selects g w) (hc : s.clear i late g w = true) (hi : i.isCommit = false)
    (ho : ∀ p ∈ (s.seenBy i g w).places, (compute (s.seenBy i g w) p).regs = [(p, (s.seenBy i g w).f.dst.toNat, n, value p)] ∧
      (compute (s.seenBy i g w) p).preds = [])
    (hf : (Out.ofList ((s.seenBy i g w).places.map (compute (s.seenBy i g w)))).flags = flags) :
    RegisterStep i (s.seenBy i g w) s n value noPreds flags :=
  RegisterStep.of_deliver (Out.ofList ((s.seenBy i g w).places.map (compute (s.seenBy i g w)))) hex hs hc hi rfl (.of_places ho) hf

end Machine

end Sys2Proof
end

