-- ==== Sys2Proof/Tests/Slice0.lean ====
section
/-! SUPPORT. Tests: ill-formed instructions that the check refuses, words decoded, single steps with results worked out from the spec, and for the statements states that meet their hypotheses. -/

namespace Sys2Proof.Tests

open Sys2Proof.Machine

-- one proof at a time: together they would not fit the memory
set_option Elab.async false

/-! ## Helpers -/

/-- An S-form instruction's fields, in the order of R94. -/
def sf (a d : BitVec 8) (stall : BitVec 2) (neg : Bool) (guard : BitVec 3) : SF := { srcA := a, dst := d, stall := stall, neg := neg, guard := guard }

/-- An L- or X-form instruction's fields, in the order of R95 and R96. -/
def lx (lit : Option Word) (modi : BitVec 12) (dst : BitVec 8) (stall : BitVec 4) (neg : Bool) (guard : BitVec 3) (a b c : BitVec 8) : LX :=
  { lit := lit, modi := modi, dst := dst, stall := stall, neg := neg, guard := guard, srcA := a, srcB := b, srcC := c }

/-- Destination and sources of an unguarded instruction without a stall; 0xFC where there is none. -/
def op (modi : BitVec 12) (dst : BitVec 8) (a b c : BitVec 8 := 0xFC) (lit : Option Word := none) : LX := lx lit modi dst 0 false 0 a b c

/-- The first S-form operand is the destination. -/
def short (d : BitVec 8) (a : BitVec 8 := 0xFC) : SF := sf a d 0 false 0

/-- A placed warp whose lane l holds `v l` in its vector registers, with scalar registers `r`: lists of register and value. -/
def start32 (r : SMap Word) (v : Nat → SMap Word) (f : Warp → Warp := id) : State :=
  (State.reset.place []).modWarp 0 0 (fun w => f { w with s := r, lanes := w.lanes.map (fun l => { l with v := v l.lid.toNat }) })

/-- The same with every lane but lane 0 exited. -/
def start (r : SMap Word) (v : SMap Word := []) (f : Warp → Warp := id) : State :=
  start32 r (fun _ => v) (fun w => f { w with lanes := w.lanes.map (fun l => { l with exited := l.lid != 0 }) })

/-- Nothing stops the instruction in `s`, what it sees has `hyp`, and it answers a next state of which `post` holds. -/
def answers (i : Instr) (s : State) (post : State → Warp → Bool) (hyp : Ctx → State → Bool := fun _ _ => true) (late : Ctx → State → Late := noLate) : Bool :=
  match s.sel.head? with
  | none => false
  | some g =>
    match s.warp? g.core g.slot with
    | none => false
    | some w =>
      s.clear i late g w && hyp (s.seenBy i g w) s &&
        match exec i s with
        | .next t => (match t.warp? g.core g.slot with | some w' => post t w' | none => false)
        | _ => false

/-- Where a test of this kind holds, the statements' own hypotheses hold. -/
theorem answers_runs {i : Instr} {s : State} {post hyp late} (h : answers i s post hyp late = true) :
    ∃ g w, Runs i s g w late ∧ hyp (s.seenBy i g w) s = true ∧ Continues (exec i s) := by
  simp only [answers] at h
  split at h
  · cases h
  · rename_i g hg
    split at h
    · cases h
    · rename_i w hw
      simp only [Bool.and_eq_true] at h
      refine ⟨g, w, ⟨⟨hg, hw⟩, h.1.1⟩, h.1.2, ?_⟩
      have h2 := h.2
      split at h2
      · exact ⟨_, by assumption⟩
      · cases h2

/-- A register after the step. -/
def holds (code : Nat) (v : Word) (lane : Nat := 0) (_ : State) (w : Warp) : Bool := decide (w.regWord code lane = v)

/-- One result in lane 0 from the registers v1, v2 and v3. -/
def gives (i : Instr) (a b c : Word) (code : Nat) (v : Word) : Bool := answers i (start [] [(1, a), (2, b), (3, c)]) (holds code v)

/-- Every executing lane has the predicate. -/
def shows (k : Nat) (b : Bool) (lane : Nat := 0) (_ : State) (w : Warp) : Bool := (w.lane lane).pred k == b

/-- R94. The S-form rows of the opcode table. -/
theorem test_decode_short :
    decodeWords 0x11400C00 0 0 = some (.iaddS (sf 0x11 0x40 0 false 3)) ∧
      decodeWords 0x12417004 0 0 = some (.isubS (sf 0x12 0x41 1 true 4)) ∧
      decodeWords 0x13429408 0 0 = some (.inegS (sf 0x13 0x42 2 false 5)) ∧
      decodeWords 0x1443F80C 0 0 = some (.andS (sf 0x14 0x43 3 true 6)) ∧
      decodeWords 0x15441C10 0 0 = some (.orS (sf 0x15 0x44 0 false 7)) ∧
      decodeWords 0x16456014 0 0 = some (.xorS (sf 0x16 0x45 1 true 0)) ∧
      decodeWords 0x17468418 0 0 = some (.notS (sf 0x17 0x46 2 false 1)) ∧
      decodeWords 0x1847E81C 0 0 = some (.movS (sf 0x18 0x47 3 true 2)) ∧
      decodeWords 0x19480C20 0 0 = some (.shlS (sf 0x19 0x48 0 false 3)) ∧
      decodeWords 0x1A497024 0 0 = some (.shrS (sf 0x1A 0x49 1 true 4)) ∧
      decodeWords 0x1B4A9440 0 0 = some (.braS (sf 0x1B 0x4A 2 false 5)) ∧
      decodeWords 0x1C4BF844 0 0 = some (.bendS (sf 0x1C 0x4B 3 true 6)) ∧
      decodeWords 0x1D4C1C48 0 0 = some (.belseS (sf 0x1D 0x4C 0 false 7)) ∧
      decodeWords 0x1E4D604C 0 0 = some (.exitS (sf 0x1E 0x4D 1 true 0)) ∧
      decodeWords 0x1F4E8450 0 0 = some (.yieldS (sf 0x1F 0x4E 2 false 1)) ∧
      decodeWords 0x204FE854 0 0 = some (.electS (sf 0x20 0x4F 3 true 2)) ∧
      decodeWords 0x21500C58 0 0 = some (.fmtsetS (sf 0x21 0x50 0 false 3)) ∧
      decodeWords 0x2251705C 0 0 = some (.waitc (sf 0x22 0x51 1 true 4)) ∧
      decodeWords 0x23529460 0 0 = some (.retS (sf 0x23 0x52 2 false 5)) ∧
      decodeWords 0x2453F8FC 0 0 = some (.nopS (sf 0x24 0x53 3 true 6)) := by decide +kernel

/-- R95, R96. The rows whose L/X opcode lies from 0x000 to 0x01F; every seventh word is of X form. -/
theorem test_decode_long_000 :
    decodeWords 0x53028801 0xA005C180 0 = some (.iadd (lx none 0x5A0 0x30 5 false 1 0x80 0xC1 0x05)) ∧
      decodeWords 0x53135005 0xB106C281 0 = some (.isub (lx none 0x5B1 0x31 6 true 2 0x81 0xC2 0x06)) ∧
      decodeWords 0x53239809 0xC207C382 0 = some (.iaddc (lx none 0x5C2 0x32 7 false 3 0x82 0xC3 0x07)) ∧
      decodeWords 0x5334600E 0xD308C483 0x1234567B = some (.imul (lx (some 0x1234567B) 0x5D3 0x33 8 true 4 0x83 0xC4 0x08)) ∧
      decodeWords 0x5344A811 0xE409C584 0 = some (.imulh (lx none 0x5E4 0x34 9 false 5 0x84 0xC5 0x09)) ∧
      decodeWords 0x53557015 0xF50AC685 0 = some (.imad (lx none 0x5F5 0x35 10 true 6 0x85 0xC6 0x0A)) ∧
      decodeWords 0x6365B819 0x060BC786 0 = some (.imadw (lx none 0x606 0x36 11 false 7 0x86 0xC7 0x0B)) ∧
      decodeWords 0x6376401D 0x170CC887 0 = some (.idiv (lx none 0x617 0x37 12 true 0 0x87 0xC8 0x0C)) ∧
      decodeWords 0x63868821 0x280DC988 0 = some (.irem (lx none 0x628 0x38 13 false 1 0x88 0xC9 0x0D)) ∧
      decodeWords 0x63975025 0x390ECA89 0 = some (.imin (lx none 0x639 0x39 14 true 2 0x89 0xCA 0x0E)) ∧
      decodeWords 0x63A7982A 0x4A0FCB8A 0x12345682 = some (.imax (lx (some 0x12345682) 0x64A 0x3A 15 false 3 0x8A 0xCB 0x0F)) ∧
      decodeWords 0x63B0602D 0x5B10CC8B 0 = some (.iabs (lx none 0x65B 0x3B 0 true 4 0x8B 0xCC 0x10)) ∧
      decodeWords 0x63C0A831 0x6C11CD8C 0 = some (.ineg (lx none 0x66C 0x3C 1 false 5 0x8C 0xCD 0x11)) ∧
      decodeWords 0x63D17035 0x7D12CE8D 0 = some (.andL (lx none 0x67D 0x3D 2 true 6 0x8D 0xCE 0x12)) ∧
      decodeWords 0x63E1B839 0x8E13CF8E 0 = some (.orL (lx none 0x68E 0x3E 3 false 7 0x8E 0xCF 0x13)) ∧
      decodeWords 0x63F2403D 0x9F14D08F 0 = some (.xorL (lx none 0x69F 0x3F 4 true 0 0x8F 0xD0 0x14)) ∧
      decodeWords 0x64028841 0xB015D190 0 = some (.andn (lx none 0x6B0 0x40 5 false 1 0x90 0xD1 0x15)) ∧
      decodeWords 0x64135046 0xC116D291 0x12345689 = some (.notL (lx (some 0x12345689) 0x6C1 0x41 6 true 2 0x91 0xD2 0x16)) ∧
      decodeWords 0x64239849 0xD217D392 0 = some (.lop3 (lx none 0x6D2 0x42 7 false 3 0x92 0xD3 0x17)) ∧
      decodeWords 0x6434604D 0xE318D493 0 = some (.shl (lx none 0x6E3 0x43 8 true 4 0x93 0xD4 0x18)) ∧
      decodeWords 0x6444A851 0xF419D594 0 = some (.shr (lx none 0x6F4 0x44 9 false 5 0x94 0xD5 0x19)) ∧
      decodeWords 0x74557055 0x051AD695 0 = some (.rotl (lx none 0x705 0x45 10 true 6 0x95 0xD6 0x1A)) ∧
      decodeWords 0x7465B859 0x161BD796 0 = some (.shf (lx none 0x716 0x46 11 false 7 0x96 0xD7 0x1B)) ∧
      decodeWords 0x7476405D 0x271CD897 0 = some (.bfx (lx none 0x727 0x47 12 true 0 0x97 0xD8 0x1C)) ∧
      decodeWords 0x74868862 0x381DD998 0x12345690 = some (.bfi (lx (some 0x12345690) 0x738 0x48 13 false 1 0x98 0xD9 0x1D)) ∧
      decodeWords 0x74975065 0x491EDA99 0 = some (.popc (lx none 0x749 0x49 14 true 2 0x99 0xDA 0x1E)) ∧
      decodeWords 0x74A79869 0x5A1FDB9A 0 = some (.clz (lx none 0x75A 0x4A 15 false 3 0x9A 0xDB 0x1F)) ∧
      decodeWords 0x74B0606D 0x6B20DC9B 0 = some (.ctz (lx none 0x76B 0x4B 0 true 4 0x9B 0xDC 0x20)) ∧
      decodeWords 0x74C0A871 0x7C21DD9C 0 = some (.brev (lx none 0x77C 0x4C 1 false 5 0x9C 0xDD 0x21)) ∧
      decodeWords 0x74D17075 0x8D22DE9D 0 = some (.perm (lx none 0x78D 0x4D 2 true 6 0x9D 0xDE 0x22)) ∧
      decodeWords 0x74E1B879 0x9E23DF9E 0 = some (.selL (lx none 0x79E 0x4E 3 false 7 0x9E 0xDF 0x23)) ∧
      decodeWords 0x74F2407E 0xAF24E09F 0x12345697 = some (.icmp (lx (some 0x12345697) 0x7AF 0x4F 4 true 0 0x9F 0xE0 0x24)) := by decide +kernel

/-- R95, R96. The rows whose L/X opcode lies from 0x020 to 0x03F; every seventh word is of X form. -/
theorem test_decode_long_010 :
    decodeWords 0x53028881 0xA005C180 0 = some (.plop (lx none 0x5A0 0x30 5 false 1 0x80 0xC1 0x05)) ∧
      decodeWords 0x53135085 0xB106C281 0 = some (.ppack (lx none 0x5B1 0x31 6 true 2 0x81 0xC2 0x06)) ∧
      decodeWords 0x53239889 0xC207C382 0 = some (.punpk (lx none 0x5C2 0x32 7 false 3 0x82 0xC3 0x07)) ∧
      decodeWords 0x5334608E 0xD308C483 0x1234567B = some (.mov (lx (some 0x1234567B) 0x5D3 0x33 8 true 4 0x83 0xC4 0x08)) ∧
      decodeWords 0x5344A891 0xE409C584 0 = some (.movl (lx none 0x5E4 0x34 9 false 5 0x84 0xC5 0x09)) ∧
      decodeWords 0x53557095 0xF50AC685 0 = some (.lea (lx none 0x5F5 0x35 10 true 6 0x85 0xC6 0x0A)) ∧
      decodeWords 0x6365B89D 0x060BC786 0 = some (.idot4 (lx none 0x606 0x36 11 false 7 0x86 0xC7 0x0B)) := by decide +kernel

/-- R95, R96. The rows whose L/X opcode lies from 0x040 to 0x05F; every seventh word is of X form. -/
theorem test_decode_long_020 :
    decodeWords 0x53028901 0xA005C180 0 = some (.fadd (lx none 0x5A0 0x30 5 false 1 0x80 0xC1 0x05)) ∧
      decodeWords 0x53135105 0xB106C281 0 = some (.fsub (lx none 0x5B1 0x31 6 true 2 0x81 0xC2 0x06)) ∧
      decodeWords 0x53239909 0xC207C382 0 = some (.fmul (lx none 0x5C2 0x32 7 false 3 0x82 0xC3 0x07)) ∧
      decodeWords 0x5334610E 0xD308C483 0x1234567B = some (.ffma (lx (some 0x1234567B) 0x5D3 0x33 8 true 4 0x83 0xC4 0x08)) ∧
      decodeWords 0x5344A911 0xE409C584 0 = some (.fmin (lx none 0x5E4 0x34 9 false 5 0x84 0xC5 0x09)) ∧
      decodeWords 0x53557115 0xF50AC685 0 = some (.fmax (lx none 0x5F5 0x35 10 true 6 0x85 0xC6 0x0A)) ∧
      decodeWords 0x6365B919 0x060BC786 0 = some (.fcmp (lx none 0x606 0x36 11 false 7 0x86 0xC7 0x0B)) ∧
      decodeWords 0x6376411D 0x170CC887 0 = some (.fclass (lx none 0x617 0x37 12 true 0 0x87 0xC8 0x0C)) ∧
      decodeWords 0x63868921 0x280DC988 0 = some (.frnd (lx none 0x628 0x38 13 false 1 0x88 0xC9 0x0D)) ∧
      decodeWords 0x63975125 0x390ECA89 0 = some (.fscale (lx none 0x639 0x39 14 true 2 0x89 0xCA 0x0E)) ∧
      decodeWords 0x63A7992A 0x4A0FCB8A 0x12345682 = some (.fexp (lx (some 0x12345682) 0x64A 0x3A 15 false 3 0x8A 0xCB 0x0F)) ∧
      decodeWords 0x63B06141 0x5B10CC8B 0 = some (.cvt (lx none 0x65B 0x3B 0 true 4 0x8B 0xCC 0x10)) ∧
      decodeWords 0x63C0A945 0x6C11CD8C 0 = some (.pack8 (lx none 0x66C 0x3C 1 false 5 0x8C 0xCD 0x11)) ∧
      decodeWords 0x63D17149 0x7D12CE8D 0 = some (.unpk8 (lx none 0x67D 0x3D 2 true 6 0x8D 0xCE 0x12)) ∧
      decodeWords 0x63E1B94D 0x8E13CF8E 0 = some (.pack4 (lx none 0x68E 0x3E 3 false 7 0x8E 0xCF 0x13)) ∧
      decodeWords 0x63F24151 0x9F14D08F 0 = some (.unpk4 (lx none 0x69F 0x3F 4 true 0 0x8F 0xD0 0x14)) ∧
      decodeWords 0x64028955 0xB015D190 0 = some (.qscale (lx none 0x6B0 0x40 5 false 1 0x90 0xD1 0x15)) ∧
      decodeWords 0x6413515A 0xC116D291 0x12345689 = some (.fmtset (lx (some 0x12345689) 0x6C1 0x41 6 true 2 0x91 0xD2 0x16)) ∧
      decodeWords 0x6423995D 0xD217D392 0 = some (.modeset (lx none 0x6D2 0x42 7 false 3 0x92 0xD3 0x17)) := by decide +kernel

/-- R95, R96. The rows whose L/X opcode lies from 0x060 to 0x07F; every seventh word is of X form. -/
theorem test_decode_long_030 :
    decodeWords 0x53028981 0xA005C180 0 = some (.rcp (lx none 0x5A0 0x30 5 false 1 0x80 0xC1 0x05)) ∧
      decodeWords 0x53135185 0xB106C281 0 = some (.rsq (lx none 0x5B1 0x31 6 true 2 0x81 0xC2 0x06)) ∧
      decodeWords 0x53239989 0xC207C382 0 = some (.sqrt (lx none 0x5C2 0x32 7 false 3 0x82 0xC3 0x07)) ∧
      decodeWords 0x5334618E 0xD308C483 0x1234567B = some (.exp2 (lx (some 0x1234567B) 0x5D3 0x33 8 true 4 0x83 0xC4 0x08)) ∧
      decodeWords 0x5344A991 0xE409C584 0 = some (.log2 (lx none 0x5E4 0x34 9 false 5 0x84 0xC5 0x09)) ∧
      decodeWords 0x53557195 0xF50AC685 0 = some (.sinpi (lx none 0x5F5 0x35 10 true 6 0x85 0xC6 0x0A)) ∧
      decodeWords 0x6365B999 0x060BC786 0 = some (.cospi (lx none 0x606 0x36 11 false 7 0x86 0xC7 0x0B)) ∧
      decodeWords 0x6376419D 0x170CC887 0 = some (.tanh (lx none 0x617 0x37 12 true 0 0x87 0xC8 0x0C)) ∧
      decodeWords 0x638689A1 0x280DC988 0 = some (.fdiv (lx none 0x628 0x38 13 false 1 0x88 0xC9 0x0D)) ∧
      decodeWords 0x639751A5 0x390ECA89 0 = some (.fsqrt (lx none 0x639 0x39 14 true 2 0x89 0xCA 0x0E)) := by decide +kernel

/-- R95, R96. The rows whose L/X opcode lies from 0x080 to 0x09F; every seventh word is of X form. -/
theorem test_decode_long_040 :
    decodeWords 0x53028A01 0xA005C180 0 = some (.shfl (lx none 0x5A0 0x30 5 false 1 0x80 0xC1 0x05)) ∧
      decodeWords 0x53135205 0xB106C281 0 = some (.vote (lx none 0x5B1 0x31 6 true 2 0x81 0xC2 0x06)) ∧
      decodeWords 0x53239A09 0xC207C382 0 = some (.redux (lx none 0x5C2 0x32 7 false 3 0x82 0xC3 0x07)) ∧
      decodeWords 0x5334620E 0xD308C483 0x1234567B = some (.scan (lx (some 0x1234567B) 0x5D3 0x33 8 true 4 0x83 0xC4 0x08)) ∧
      decodeWords 0x5344AA11 0xE409C584 0 = some (.matchL (lx none 0x5E4 0x34 9 false 5 0x84 0xC5 0x09)) ∧
      decodeWords 0x53557215 0xF50AC685 0 = some (.elect (lx none 0x5F5 0x35 10 true 6 0x85 0xC6 0x0A)) ∧
      decodeWords 0x6365BA19 0x060BC786 0 = some (.rdlane (lx none 0x606 0x36 11 false 7 0x86 0xC7 0x0B)) ∧
      decodeWords 0x6376421D 0x170CC887 0 = some (.wrlane (lx none 0x617 0x37 12 true 0 0x87 0xC8 0x0C)) ∧
      decodeWords 0x63868A21 0x280DC988 0 = some (.wfuse (lx none 0x628 0x38 13 false 1 0x88 0xC9 0x0D)) ∧
      decodeWords 0x63975241 0x390ECA89 0 = some (.hash (lx none 0x639 0x39 14 true 2 0x89 0xCA 0x0E)) ∧
      decodeWords 0x63A79A46 0x4A0FCB8A 0x12345682 = some (.hashc (lx (some 0x12345682) 0x64A 0x3A 15 false 3 0x8A 0xCB 0x0F)) ∧
      decodeWords 0x63B06249 0x5B10CC8B 0 = some (.partL (lx none 0x65B 0x3B 0 true 4 0x8B 0xCC 0x10)) ∧
      decodeWords 0x63C0AA4D 0x6C11CD8C 0 = some (.pcount (lx none 0x66C 0x3C 1 false 5 0x8C 0xCD 0x11)) := by decide +kernel

/-- R95, R96. The rows whose L/X opcode lies from 0x0A0 to 0x0BF; every seventh word is of X form. -/
theorem test_decode_long_050 :
    decodeWords 0x53028A81 0xA005C180 0 = some (.sld (lx none 0x5A0 0x30 5 false 1 0x80 0xC1 0x05)) ∧
      decodeWords 0x53135285 0xB106C281 0 = some (.scmp (lx none 0x5B1 0x31 6 true 2 0x81 0xC2 0x06)) ∧
      decodeWords 0x53239A89 0xC207C382 0 = some (.shash (lx none 0x5C2 0x32 7 false 3 0x82 0xC3 0x07)) ∧
      decodeWords 0x5334628E 0xD308C483 0x1234567B = some (.sfind (lx (some 0x1234567B) 0x5D3 0x33 8 true 4 0x83 0xC4 0x08)) ∧
      decodeWords 0x5344AA91 0xE409C584 0 = some (.spfx (lx none 0x5E4 0x34 9 false 5 0x84 0xC5 0x09)) ∧
      decodeWords 0x53557295 0xF50AC685 0 = some (.sutf (lx none 0x5F5 0x35 10 true 6 0x85 0xC6 0x0A)) ∧
      decodeWords 0x6365BA99 0x060BC786 0 = some (.scase (lx none 0x606 0x36 11 false 7 0x86 0xC7 0x0B)) := by decide +kernel

/-- R95, R96. The rows whose L/X opcode lies from 0x0C0 to 0x0DF; every seventh word is of X form. -/
theorem test_decode_long_060 :
    decodeWords 0x53028B01 0xA005C180 0 = some (.mma (lx none 0x5A0 0x30 5 false 1 0x80 0xC1 0x05)) ∧
      decodeWords 0x53135305 0xB106C281 0 = some (.mmas (lx none 0x5B1 0x31 6 true 2 0x81 0xC2 0x06)) ∧
      decodeWords 0x53239B09 0xC207C382 0 = some (.mmav (lx none 0x5C2 0x32 7 false 3 0x82 0xC3 0x07)) ∧
      decodeWords 0x5334630E 0xD308C483 0x1234567B = some (.gangset (lx (some 0x1234567B) 0x5D3 0x33 8 true 4 0x83 0xC4 0x08)) ∧
      decodeWords 0x5344AB11 0xE409C584 0 = some (.mldt (lx none 0x5E4 0x34 9 false 5 0x84 0xC5 0x09)) ∧
      decodeWords 0x53557315 0xF50AC685 0 = some (.mstt (lx none 0x5F5 0x35 10 true 6 0x85 0xC6 0x0A)) := by decide +kernel

/-- R95, R96. The rows whose L/X opcode lies from 0x100 to 0x11F; every seventh word is of X form. -/
theorem test_decode_long_080 :
    decodeWords 0x53028C01 0xA005C180 0 = some (.ld (lx none 0x5A0 0x30 5 false 1 0x80 0xC1 0x05)) ∧
      decodeWords 0x53135405 0xB106C281 0 = some (.st (lx none 0x5B1 0x31 6 true 2 0x81 0xC2 0x06)) ∧
      decodeWords 0x53239C09 0xC207C382 0 = some (.lds (lx none 0x5C2 0x32 7 false 3 0x82 0xC3 0x07)) ∧
      decodeWords 0x5334640E 0xD308C483 0x1234567B = some (.sts (lx (some 0x1234567B) 0x5D3 0x33 8 true 4 0x83 0xC4 0x08)) ∧
      decodeWords 0x5344AC11 0xE409C584 0 = some (.ldf (lx none 0x5E4 0x34 9 false 5 0x84 0xC5 0x09)) ∧
      decodeWords 0x53557415 0xF50AC685 0 = some (.stf (lx none 0x5F5 0x35 10 true 6 0x85 0xC6 0x0A)) ∧
      decodeWords 0x6365BC19 0x060BC786 0 = some (.feset (lx none 0x606 0x36 11 false 7 0x86 0xC7 0x0B)) ∧
      decodeWords 0x6376441D 0x170CC887 0 = some (.atom (lx none 0x617 0x37 12 true 0 0x87 0xC8 0x0C)) ∧
      decodeWords 0x63868C21 0x280DC988 0 = some (.red (lx none 0x628 0x38 13 false 1 0x88 0xC9 0x0D)) ∧
      decodeWords 0x63975425 0x390ECA89 0 = some (.atoms (lx none 0x639 0x39 14 true 2 0x89 0xCA 0x0E)) ∧
      decodeWords 0x63A79C2A 0x4A0FCB8A 0x12345682 = some (.pref (lx (some 0x12345682) 0x64A 0x3A 15 false 3 0x8A 0xCB 0x0F)) ∧
      decodeWords 0x63B0642D 0x5B10CC8B 0 = some (.fence (lx none 0x65B 0x3B 0 true 4 0x8B 0xCC 0x10)) ∧
      decodeWords 0x63C0AC31 0x6C11CD8C 0 = some (.bara (lx none 0x66C 0x3C 1 false 5 0x8C 0xCD 0x11)) ∧
      decodeWords 0x63D17435 0x7D12CE8D 0 = some (.barw (lx none 0x67D 0x3D 2 true 6 0x8D 0xCE 0x12)) ∧
      decodeWords 0x63E1BC39 0x8E13CF8E 0 = some (.monw (lx none 0x68E 0x3E 3 false 7 0x8E 0xCF 0x13)) ∧
      decodeWords 0x63F2443D 0x9F14D08F 0 = some (.baraw (lx none 0x69F 0x3F 4 true 0 0x8F 0xD0 0x14)) := by decide +kernel

/-- R95, R96. The rows whose L/X opcode lies from 0x160 to 0x17F; every seventh word is of X form. -/
theorem test_decode_long_0b0 :
    decodeWords 0x53028D81 0xA005C180 0 = some (.rgbeg (lx none 0x5A0 0x30 5 false 1 0x80 0xC1 0x05)) ∧
      decodeWords 0x53135585 0xB106C281 0 = some (.rgend (lx none 0x5B1 0x31 6 true 2 0x81 0xC2 0x06)) ∧
      decodeWords 0x53239D89 0xC207C382 0 = some (.rgabt (lx none 0x5C2 0x32 7 false 3 0x82 0xC3 0x07)) ∧
      decodeWords 0x5334658E 0xD308C483 0x1234567B = some (.rgbnd (lx (some 0x1234567B) 0x5D3 0x33 8 true 4 0x83 0xC4 0x08)) ∧
      decodeWords 0x5344AD91 0xE409C584 0 = some (.rgnar (lx none 0x5E4 0x34 9 false 5 0x84 0xC5 0x09)) ∧
      decodeWords 0x53557595 0xF50AC685 0 = some (.rgst (lx none 0x5F5 0x35 10 true 6 0x85 0xC6 0x0A)) := by decide +kernel

/-- R95, R96. The rows whose L/X opcode lies from 0x180 to 0x19F; every seventh word is of X form. -/
theorem test_decode_long_0c0 :
    decodeWords 0x53028E01 0xA005C180 0 = some (.bra (lx none 0x5A0 0x30 5 false 1 0x80 0xC1 0x05)) ∧
      decodeWords 0x53135605 0xB106C281 0 = some (.brx (lx none 0x5B1 0x31 6 true 2 0x81 0xC2 0x06)) ∧
      decodeWords 0x53239E09 0xC207C382 0 = some (.call (lx none 0x5C2 0x32 7 false 3 0x82 0xC3 0x07)) ∧
      decodeWords 0x5334660E 0xD308C483 0x1234567B = some (.ret (lx (some 0x1234567B) 0x5D3 0x33 8 true 4 0x83 0xC4 0x08)) ∧
      decodeWords 0x5344AE11 0xE409C584 0 = some (.bif (lx none 0x5E4 0x34 9 false 5 0x84 0xC5 0x09)) ∧
      decodeWords 0x53557615 0xF50AC685 0 = some (.belse (lx none 0x5F5 0x35 10 true 6 0x85 0xC6 0x0A)) ∧
      decodeWords 0x6365BE19 0x060BC786 0 = some (.bend (lx none 0x606 0x36 11 false 7 0x86 0xC7 0x0B)) ∧
      decodeWords 0x6376461D 0x170CC887 0 = some (.bbrk (lx none 0x617 0x37 12 true 0 0x87 0xC8 0x0C)) ∧
      decodeWords 0x63868E21 0x280DC988 0 = some (.bloop (lx none 0x628 0x38 13 false 1 0x88 0xC9 0x0D)) ∧
      decodeWords 0x63975625 0x390ECA89 0 = some (.regang (lx none 0x639 0x39 14 true 2 0x89 0xCA 0x0E)) ∧
      decodeWords 0x63A79E2E 0x4A0FCB8A 0x12345682 = some (.exit (lx (some 0x12345682) 0x64A 0x3A 15 false 3 0x8A 0xCB 0x0F)) ∧
      decodeWords 0x63B06631 0x5B10CC8B 0 = some (.yield (lx none 0x65B 0x3B 0 true 4 0x8B 0xCC 0x10)) ∧
      decodeWords 0x63C0AE35 0x6C11CD8C 0 = some (.lease (lx none 0x66C 0x3C 1 false 5 0x8C 0xCD 0x11)) ∧
      decodeWords 0x63D17639 0x7D12CE8D 0 = some (.flash (lx none 0x67D 0x3D 2 true 6 0x8D 0xCE 0x12)) ∧
      decodeWords 0x63E1BE41 0x8E13CF8E 0 = some (.launch (lx none 0x68E 0x3E 3 false 7 0x8E 0xCF 0x13)) ∧
      decodeWords 0x63F24645 0x9F14D08F 0 = some (.qpush (lx none 0x69F 0x3F 4 true 0 0x8F 0xD0 0x14)) ∧
      decodeWords 0x64028E49 0xB015D190 0 = some (.qpop (lx none 0x6B0 0x40 5 false 1 0x90 0xD1 0x15)) ∧
      decodeWords 0x6413564E 0xC116D291 0x12345689 = some (.qclose (lx (some 0x12345689) 0x6C1 0x41 6 true 2 0x91 0xD2 0x16)) ∧
      decodeWords 0x64239E51 0xD217D392 0 = some (.xcopy (lx none 0x6D2 0x42 7 false 3 0x92 0xD3 0x17)) ∧
      decodeWords 0x64346655 0xE318D493 0 = some (.xgath (lx none 0x6E3 0x43 8 true 4 0x93 0xD4 0x18)) ∧
      decodeWords 0x6444AE59 0xF419D594 0 = some (.xscat (lx none 0x6F4 0x44 9 false 5 0x94 0xD5 0x19)) ∧
      decodeWords 0x7455765D 0x051AD695 0 = some (.xred (lx none 0x705 0x45 10 true 6 0x95 0xD6 0x1A)) ∧
      decodeWords 0x7465BE61 0x161BD796 0 = some (.xfill (lx none 0x716 0x46 11 false 7 0x96 0xD7 0x1B)) ∧
      decodeWords 0x74764665 0x271CD897 0 = some (.fcinc (lx none 0x727 0x47 12 true 0 0x97 0xD8 0x1C)) ∧
      decodeWords 0x74868E6A 0x381DD998 0x12345690 = some (.fcwait (lx (some 0x12345690) 0x738 0x48 13 false 1 0x98 0xD9 0x1D)) := by decide +kernel

/-- R95, R96. The rows whose L/X opcode lies from 0x1C0 to 0x1DF; every seventh word is of X form. -/
theorem test_decode_long_0e0 :
    decodeWords 0x53028F01 0xA005C180 0 = some (.trap (lx none 0x5A0 0x30 5 false 1 0x80 0xC1 0x05)) ∧
      decodeWords 0x53135705 0xB106C281 0 = some (.eret (lx none 0x5B1 0x31 6 true 2 0x81 0xC2 0x06)) ∧
      decodeWords 0x53239F09 0xC207C382 0 = some (.rdsr (lx none 0x5C2 0x32 7 false 3 0x82 0xC3 0x07)) ∧
      decodeWords 0x5334670E 0xD308C483 0x1234567B = some (.wrsr (lx (some 0x1234567B) 0x5D3 0x33 8 true 4 0x83 0xC4 0x08)) ∧
      decodeWords 0x5344AF11 0xE409C584 0 = some (.bkpt (lx none 0x5E4 0x34 9 false 5 0x84 0xC5 0x09)) ∧
      decodeWords 0x53557715 0xF40AC685 0 = some (.tlbinvPage (lx none 0x5F4 0x35 10 true 6 0x85 0xC6 0x0A)) ∧
      decodeWords 0x6365BF15 0x050BC786 0 = some (.tlbinvAll (lx none 0x605 0x36 11 false 7 0x86 0xC7 0x0B)) ∧
      decodeWords 0x63764715 0x160CC887 0 = some (.tlbinvGlob (lx none 0x616 0x37 12 true 0 0x87 0xC8 0x0C)) ∧
      decodeWords 0x63868F19 0x280DC988 0 = some (.tblrd (lx none 0x628 0x38 13 false 1 0x88 0xC9 0x0D)) ∧
      decodeWords 0x6397571D 0x390ECA89 0 = some (.tblwr (lx none 0x639 0x39 14 true 2 0x89 0xCA 0x0E)) ∧
      decodeWords 0x63A79F22 0x4A0FCB8A 0x12345682 = some (.halt (lx (some 0x12345682) 0x64A 0x3A 15 false 3 0x8A 0xCB 0x0F)) ∧
      decodeWords 0x63B06725 0x5B10CC8B 0 = some (.nop (lx none 0x65B 0x3B 0 true 4 0x8B 0xCC 0x10)) ∧
      decodeWords 0x63C0AF29 0x6011CD8C 0 = some (.cctlIcinv (lx none 0x660 0x3C 1 false 5 0x8C 0xCD 0x11)) ∧
      decodeWords 0x63D17729 0x7112CE8D 0 = some (.cctlL1wb (lx none 0x671 0x3D 2 true 6 0x8D 0xCE 0x12)) ∧
      decodeWords 0x63E1BF29 0x8213CF8E 0 = some (.cctlL1inv (lx none 0x682 0x3E 3 false 7 0x8E 0xCF 0x13)) ∧
      decodeWords 0x63F24729 0x9314D08F 0 = some (.cctlLinewb (lx none 0x693 0x3F 4 true 0 0x8F 0xD0 0x14)) ∧
      decodeWords 0x64028F29 0xB415D190 0 = some (.cctlEvict (lx none 0x6B4 0x40 5 false 1 0x90 0xD1 0x15)) ∧
      decodeWords 0x6413572E 0xC116D291 0x12345689 = some (.ctxsv (lx (some 0x12345689) 0x6C1 0x41 6 true 2 0x91 0xD2 0x16)) ∧
      decodeWords 0x64239F31 0xD217D392 0 = some (.ctxld (lx none 0x6D2 0x42 7 false 3 0x92 0xD3 0x17)) := by decide +kernel
/-! ## Integers, bits and predicates (R153 to R167): each line runs with nothing to stop it, and has its result in lane 0 -/

theorem test_add :
    gives (.iadd (op 0x000 4 1 2)) 0xFFFFFFFF 2 0 4 1 ∧ gives (.iadd (op 0x011 4 1 2)) 0x7FFFFFFF 1 0 4 0x7FFFFFFF ∧
      gives (.iaddS (short 1 2)) 0xFFFFFFFF 2 0 1 1 ∧ gives (.isub (op 0x000 4 1 2)) 1 2 0 4 0xFFFFFFFF ∧
      gives (.isubS (short 1 2)) 5 7 0 1 0xFFFFFFFE ∧ gives (.iaddc (op 0x000 4 1 2 0)) 1 2 0 4 4 ∧
      answers (.iadd (op 0x020 4 1 2)) (start [] [(1, 0xFFFFFFFF), (2, 2)]) (shows 1 true) ∧
      answers (.isub (op 0x020 4 1 2)) (start [] [(1, 1), (2, 2)]) (shows 1 false) := by decide +kernel

theorem test_multiply :
    gives (.imul (op 0x000 4 1 2)) 0x10001 0x10000 0 4 0x10000 ∧ gives (.imulh (op 0x000 4 1 2)) 0x10000 0x10000 0 4 1 ∧
      gives (.imulh (op 0x001 4 1 2)) 0xFFFFFFFF 2 0 4 0xFFFFFFFF ∧ gives (.imad (op 0x000 4 1 2 3)) 3 5 7 4 22 ∧
      gives (.imadw (op 0x000 4 1 2 6)) 0xFFFFFFFF 0xFFFFFFFF 0 4 1 ∧ gives (.imadw (op 0x000 4 1 2 6)) 0xFFFFFFFF 0xFFFFFFFF 0 5 0xFFFFFFFE ∧
      gives (.idot4 (op 0x000 4 1 2 3)) 0x01020304 0x01010102 5 4 19 ∧ gives (.idot4 (op 0x030 4 1 2 3)) 0xFF 2 0 4 0xFFFFFFFE := by decide +kernel

theorem test_minimum_and_sign :
    gives (.imin (op 0x001 4 1 2)) 0xFFFFFFFF 1 0 4 0xFFFFFFFF ∧ gives (.imin (op 0x000 4 1 2)) 0xFFFFFFFF 1 0 4 1 ∧
      gives (.imax (op 0x001 4 1 2)) 0xFFFFFFFF 1 0 4 1 ∧ gives (.iabs (op 0x001 4 1)) 0x80000000 0 0 4 0x80000000 ∧
      gives (.ineg (op 0x001 4 1)) 1 0 0 4 0xFFFFFFFF ∧ gives (.inegS (short 4 1)) 0x80000000 0 0 4 0x80000000 := by decide +kernel

theorem test_bitwise :
    gives (.andL (op 0x000 4 1 2)) 12 10 0 4 8 ∧ gives (.andS (short 1 2)) 12 10 0 1 8 ∧ gives (.orL (op 0x000 4 1 2)) 12 10 0 4 14 ∧
      gives (.orS (short 1 2)) 12 10 0 1 14 ∧ gives (.xorL (op 0x000 4 1 2)) 12 10 0 4 6 ∧ gives (.xorS (short 1 2)) 12 10 0 1 6 ∧
      gives (.andn (op 0x000 4 1 2)) 12 10 0 4 4 ∧ gives (.notL (op 0x000 4 1)) 12 0 0 4 0xFFFFFFF3 ∧ gives (.notS (short 4 1)) 12 0 0 4 0xFFFFFFF3 ∧
      gives (.lop3 (op 0xD80 4 1 2 3)) 12 10 9 4 9 := by decide +kernel

theorem test_shifts :
    gives (.shl (op 0x000 4 1 2)) 3 33 0 4 6 ∧ gives (.shlS (short 1 2)) 3 32 0 1 3 ∧ gives (.shr (op 0x001 4 1 2)) 0x80000000 31 0 4 0xFFFFFFFF ∧
      gives (.shr (op 0x000 4 1 2)) 0x80000000 31 0 4 1 ∧ gives (.shrS (short 1 2)) 0x80000000 4 0 1 0x08000000 ∧
      gives (.rotl (op 0x000 4 1 2)) 0x80000001 4 0 4 0x18 ∧ gives (.shf (op 0x000 4 1 2 3)) 0 4 0xF 4 0xF0000000 ∧
      gives (.shf (op 0x010 4 1 2 3)) 0xF0000000 4 1 4 0x1F := by decide +kernel

theorem test_fields :
    gives (.bfx (op 0x000 4 1 2 3)) 0xABCD1234 8 8 4 0x12 ∧ gives (.bfx (op 0x001 4 1 2 3)) 0xABCD1234 28 4 4 0xFFFFFFFA ∧
      gives (.bfx (op 0x001 4 1 2 3)) 0x80000000 24 32 4 0xFFFFFF80 ∧ gives (.bfi (op 0x000 4 1 2 3)) 0xFFFFFFFF 0 0x0804 4 0xFFFFF00F ∧
      gives (.popc (op 0x000 4 1)) 0xF0F 0 0 4 8 ∧ gives (.clz (op 0x000 4 1)) 0 0 0 4 32 ∧ gives (.clz (op 0x000 4 1)) 0x00010000 0 0 4 15 ∧
      gives (.ctz (op 0x000 4 1)) 8 0 0 4 3 ∧ gives (.brev (op 0x000 4 1)) 1 0 0 4 0x80000000 ∧
      gives (.perm (op 0x000 4 1 2 3)) 0x33221100 0x77665544 0xD740 4 0x00774400 := by decide +kernel

theorem test_moves :
    gives (.mov (op 0x000 4 1)) 7 0 0 4 7 ∧ gives (.movS (short 4 1)) 7 0 0 4 7 ∧ gives (.mov (op 0x005 4 1)) 0x8000 0 0 4 0xFFFF8000 ∧
      gives (.movl (op 0x000 4 1 2)) 7 9 0 5 9 ∧ gives (.selL (op 0x000 4 1 2 0)) 7 9 0 4 7 ∧ gives (.selL (op 0x010 4 1 2 0)) 7 9 0 4 9 ∧
      gives (.lea (op 0x031 4 2 1 0xFC)) 0xFFFFFFFF 0x10 0 4 8 ∧ gives (.ppack (op 0x000 4 0xFC)) 0 0 0 4 1 ∧
      -- the scalar path, a literal, and a destination that discards
      answers (.iadd (op 0x000 0xC2 0xC0 0xC1)) (start [(0, 40), (1, 2)]) (holds 0xC2 42) ∧
      answers (.iadd (op 0x000 4 1 0xFF 0xFC (some 0x64))) (start [] [(1, 1)]) (holds 4 101) ∧
      answers (.iadd (op 0x000 0xFC 1 1)) (start [] [(1, 1)]) (holds 1 1) := by decide +kernel

theorem test_predicates :
    answers (.icmp (op 0x021 2 1 2)) (start [] [(1, 0xFFFFFFFF), (2, 1)]) (shows 2 true) ∧
      answers (.icmp (op 0x020 2 1 2)) (start [] [(1, 0xFFFFFFFF), (2, 1)]) (shows 2 false) ∧
      answers (.icmp (op 0x280 2 1 2 0)) (start [] [(1, 1), (2, 1)]) (shows 2 false) ∧
      answers (.plop (op 0x960 3 0 1 2)) (start []) (shows 3 true) ∧
      answers (.punpk (op 0x000 0xFC 1)) (start [] [(1, 0x80)]) (shows 7 true) ∧
      answers (.fcmp (op 0x010 2 1 2)) (start [] [(1, 0xBF800000), (2, 0x3F800000)]) (shows 2 true) ∧
      -- an unordered pair: not less, flag NV in the signalling form
      answers (.fcmp (op 0x050 2 1 2)) (start [] [(1, 0x7FC00000), (2, 0x3F800000)]) (fun t w => shows 2 false 0 t w && w.flagsInAll == flagNV) := by
  decide +kernel

/-! ## Floating point and packed elements (R170 to R185) -/

theorem test_float :
    gives (.fadd (op 0x000 4 1 2)) 0x3F800000 0x40000000 0 4 0x40400000 ∧ gives (.fsub (op 0x000 4 1 2)) 0x3F800000 0x40000000 0 4 0xBF800000 ∧
      gives (.fmul (op 0x000 4 1 2)) 0x40400000 0x3F000000 0 4 0x3FC00000 ∧ gives (.ffma (op 0x000 4 1 2 3)) 0x40000000 0x40400000 0x3F800000 4 0x40E00000 ∧
      gives (.fmin (op 0x000 4 1 2)) 0x7FC00000 0x3F800000 0 4 0x3F800000 ∧ gives (.fmax (op 0x040 4 1 2)) 0x7FC00000 0x3F800000 0 4 0x7FC00000 ∧
      gives (.fmin (op 0x000 4 1 2)) 0 0x80000000 0 4 0x80000000 ∧
      -- two halves of f16, and a sum of infinities with its flag
      gives (.fadd (op 0x002 4 1 2)) 0x3C004000 0x3C003C00 0 4 0x40004200 ∧ gives (.fadd (op 0x000 4 1 2)) 0x7F800000 0xFF800000 0 4 0x7FC00000 ∧
      answers (.fadd (op 0x000 4 1 2)) (start [] [(1, 0x7F800000), (2, 0xFF800000)]) (fun _ w => w.flagsInAll == flagNV) := by decide +kernel

theorem test_float_unary :
    gives (.fclass (op 0x000 4 1)) 0x80000000 0 0 4 8 ∧ gives (.fclass (op 0x000 4 1)) 0x7F800001 0 0 4 0x100 ∧
      gives (.frnd (op 0x000 4 1)) 0x40200000 0 0 4 0x40000000 ∧ gives (.fscale (op 0x000 4 1 2)) 0x3F800000 3 0 4 0x41000000 ∧
      gives (.fexp (op 0x000 4 1)) 0x40800000 0 0 4 2 ∧ gives (.fexp (op 0x000 4 1)) 0 0 0 4 0x80000000 := by decide +kernel

/-- A warp whose slices hold an FMT. -/
def formatted (fmt : BitVec 12) (v : SMap Word) : State := start [] v (fun w => { w with slices := w.slices.map (fun q => { q with fmt := fmt }) })

/-- R64: 5.5 is the code 0x4B of K8 and 0.1875 the code 0x0C. -/
theorem test_convert_and_pack :
    answers (.cvt (op 0x081 4 1)) (start [] [(1, 0xC0200000)]) (holds 4 0xFFFFFFFE) (late := lateCvt) ∧
      answers (.cvt (op 0x018 4 1)) (start [] [(1, 0xFFFFFFFF)]) (holds 4 0xBF800000) (late := lateCvt) ∧
      answers (.cvt (op 0x0F8 4 1)) (formatted 0x044 [(1, 0x4B)]) (holds 4 0x40B00000) (late := lateCvt) ∧
      answers (.pack8 (op 0x000 4 8)) (formatted 0x044 [(8, 0x40B00000), (9, 0x3E400000), (10, 0x42800000)]) (holds 4 0x00400C4B) (late := latePack [2, 3, 4, 6, 7, 8]) ∧
      answers (.unpk8 (op 0x000 4 1)) (formatted 0x044 [(1, 0x80400C4B)]) (holds 5 0x3E400000) (late := latePack [2, 3, 4, 6, 7, 8]) ∧
      answers (.unpk8 (op 0x000 4 1)) (formatted 0x044 [(1, 0x80400C4B)]) (holds 7 0x7FC00000) (late := latePack [2, 3, 4, 6, 7, 8]) ∧
      answers (.pack4 (op 0x000 4 8 12)) (formatted 0x055 [(8, 0x3F800000), (9, 0x40000000), (10, 0x40400000), (11, 0x40C00000)]) (holds 4 0x7542)
        (late := latePack [5]) ∧
      answers (.unpk4 (op 0x000 4 1)) (formatted 0x055 [(1, 0x7542)]) (holds 7 0x40C00000) (late := latePack [5]) ∧
      answers (.qscale (op 0x000 4 1)) (formatted 0x055 [(1, 0xBF800000)]) (holds 4 125) (late := latePack [2, 3, 4, 5, 6]) := by decide +kernel

/-- R70. The code 0x3F800000 of f32 is a finite value. -/
theorem witness_HeldValuesStay : Fmt.f32 ≠ .k8 ∧ Fmt.f32 ≠ .mxint8 ∧ 0x3F800000 < 2 ^ Fmt.f32.bits ∧
    ∃ neg m e, Fmt.f32.value 0x3F800000 = .fin neg m e := ⟨by decide, by decide, by decide, _, _, _, rfl⟩

/-! ## Keys, strings and lanes (R195 to R219) -/

theorem test_keys :
    gives (.hash (op 0x000 4 1 2)) 0x12345678 0x9ABCDEF0 0 4 0xC3DD09B1 ∧ gives (.hashc (op 0x000 4 1 2)) 1 2 0 4 0xD444EDB4 ∧
      gives (.partL (op 0x000 4 1 2 3)) 0xABCD 8 0xF 4 0xB ∧ gives (.partL (op 0x001 4 1 2)) 0x80000000 10 0 4 5 := by decide +kernel

/-- The strings "abc" and "ABD" in the runs at v8 and v12. -/
theorem test_strings : let s (n : Word) : State := start [] [(1, n), (2, 0x42), (8, 0x00636261), (12, 0x00444241)]
    answers (.scmp (op 0x000 4 8 12 1)) (s 0x0303) (holds 4 2) ∧ answers (.scmp (op 0x001 4 8 12 1)) (s 0x0303) (holds 4 0x201) ∧
      answers (.shash (op 0x001 4 8 1 0xFC)) (s 3) (holds 4 0x5DC77E7A) ∧ answers (.shash (op 0x000 4 8 1 0xFC)) (s 3) (holds 4 0x619D5C6D) ∧
      answers (.sfind (op 0x000 4 12 2 1)) (s 3) (holds 4 1) ∧ answers (.sfind (op 0x000 4 8 2 1)) (s 3) (holds 4 0xFFFFFFFF) ∧
      answers (.spfx (op 0x000 4 8 1)) (s 3) (holds 5 0x61626300) ∧ answers (.scase (op 0x000 4 12 1)) (s 2) (holds 4 0x6261) ∧
      answers (.sutf (op 0x000 4 8 1)) (s 3) (fun _ _ => true) := by decide +kernel

/-- Lane l holds l in v1 and l + 1 in v2. -/
def lanes32 (r : SMap Word := []) : State := start32 r (fun l => [(1, BitVec.ofNat 32 l), (2, BitVec.ofNat 32 (l + 1))])

theorem test_exchange :
    answers (.shfl (op 0x000 4 1 2)) lanes32 (holds 4 6 5) ∧ answers (.shfl (op 0x020 4 1 2)) lanes32 (shows 1 true 31) ∧
      answers (.shfl (op 0x021 4 1 2)) lanes32 (fun t w => holds 4 3 3 t w && shows 1 false 3 t w) ∧
      answers (.matchL (op 0x000 4 1)) lanes32 (holds 4 0x20 5) ∧ answers (.pcount (op 0x000 4 0xFC)) lanes32 (holds 4 31 31) ∧
      answers (.vote (op 0x000 1 0)) lanes32 (shows 1 true 7) ∧ answers (.vote (op 0x007 4 0)) lanes32 (holds 4 0) ∧
      answers (.elect (op 0x000 1 0xFC)) lanes32 (fun t w => shows 1 true 0 t w && shows 1 false 1 t w) ∧
      answers (.electS (short 1)) lanes32 (shows 1 false 31) ∧ answers (.redux (op 0x000 4 2)) lanes32 (holds 4 528 9) ∧
      answers (.redux (op 0x002 0xC4 1)) lanes32 (holds 0xC4 31) ∧ answers (.scan (op 0x000 4 2)) lanes32 (holds 4 6 2) ∧
      answers (.scan (op 0x100 4 2)) lanes32 (holds 4 3 2) := by decide +kernel

theorem test_lane_by_identifier :
    answers (.rdlane (op 0x000 0xC4 1 0xC0)) (lanes32 [(0, 31)]) (holds 0xC4 31) ∧ answers (.rdlane (op 0x000 0xC4 1 0xC0)) (lanes32 [(0, 32)]) (holds 0xC4 0) ∧
      answers (.wrlane (op 0x000 4 0xC1 0xC0)) (lanes32 [(0, 31), (1, 9)]) (fun t w => holds 4 9 31 t w && holds 4 0 30 t w) := by decide +kernel

/-! ## Modes and special registers (R123 to R130, R144 to R147) -/

theorem test_modes :
    answers (.fmtset (op 0x000 0xFC 0xC0)) (start [(0, 0x177)]) (fun _ w => (w.slice 7).fmt == 0x177) ∧
      answers (.fmtsetS (short 0xFC 0xC0)) (start [(0, 0x044)]) (fun _ w => (w.slice 0).fmt == 0x044) ∧
      answers (.modeset (op 0x002 0xC4 0xC0)) (start [(0, 0x77)] (f := fun w => { w with mode := 0x11 })) (fun t w => holds 0xC4 0x11 0 t w && w.mode == 0x71) ∧
      answers (.lease (op 0x000 0xC4 0xC0)) (start [(0, 200)]) (fun _ w => w.lease.decl == 128) ∧
      answers (.lease (op 0x002 0xC4 0xC0)) (start [(0, 3)]) (fun _ w => w.lease.decl == 3 && w.lease.fixed) := by decide +kernel

/-- Reads of the special registers, each number that R123 names in user or privileged mode. -/
theorem test_read_special :
    (answers (.rdsr (op 0x000 4 0xFC)) lanes32 (holds 4 31 31) && answers (.rdsr (op 0x009 0xC4 0xFC)) (start [] (f := fun w => { w with mode := 5 })) (holds 0xC4 5) &&
      [0x01, 0x02, 0x03, 0x04, 0x05, 0x06, 0x07, 0x08, 0x0A, 0x0B, 0x0C, 0x0D, 0x10, 0x11, 0x12, 0x13, 0x14, 0x18, 0x19, 0x1A].all
        (fun n => answers (.rdsr (op n 0xC4 0xFC)) (start [] (f := fun w => { w with special := { w.special with priv := true } })) (fun _ _ => true))) = true := by
  decide +kernel

theorem test_write_special : let s : State := start [(0, 0xFFFFFFFF), (1, 3)] (f := fun w => { w with special := { w.special with priv := true } })
    answers (.wrsr (op 0x011 0xFC 0xC0)) s (fun _ w => w.special.estat == 0x00FFFC00) ∧
      answers (.wrsr (op 0x012 0xFC 0xC0)) s (fun _ w => w.special.ecause == 0xF000FFFF) ∧
      answers (.wrsr (op 0x014 0xFC 0xC0)) s (fun _ w => w.special.evec == 0x3FFFFFFFF) ∧
      answers (.wrsr (op 0x010 0xFC 0xC0)) s (fun _ w => w.special.epc == 0x3FFFFFFFF) ∧
      answers (.wrsr (op 0x013 0xFC 0xC0)) s (fun _ w => w.special.eval == 0x3FFFFFFFF) ∧
      answers (.wrsr (op 0x009 0xFC 0xC1)) s (fun _ w => w.mode == 3) ∧
      answers (.wrsr (op 0x007 0xFC 0xC0)) s (fun _ w => w.special.schk && w.special.priv) ∧
      answers (.wrsr (op 0x008 0xFC 0xC0)) s (fun _ w => w.flagsInAll == 0x1F) (hyp := fun x t => x.flagsApplied t) := by decide +kernel
/-! ## Control (R131 to R145) -/

/-- Lanes 0 to 3 have p1, the others do not. -/
def split (r : SMap Word := []) : State := start32 r (fun l => [(1, if l < 4 then 0 else 1)]) (fun w => { w with
  lanes := w.lanes.map (fun l => { l with p := if l.lid.toNat < 4 then 3 else 1 }) })

def pcIs (pc : Nat) (_ : State) (w : Warp) : Bool := decide ((w.slice 0).pc.toNat = pc)

theorem test_branches :
    answers (.bra (op 0x000 0xFC 4 0 0)) (start []) (pcIs 0x1010) ∧
      -- with the slice of lanes 0 to 3 taking it, and the record of the whole group in s4 and s5
      answers (.bra (lx none 0x010 0xC4 0 false 1 4 0 0)) split
        (fun t w => holds 0xC4 0xFF 0 t w && holds 0xC5 0x410 0 t w && pcIs 0x1010 t w && (w.slice 1).pc == 0x1008 && w.groups.map (·.mask) == [1, 0xFE]) ∧
      answers (.braS (sf 0xFF 0xFF 0 false 0)) (start []) (pcIs 0xFFC) ∧
      answers (.call (op 0x000 0xC4 4 0 0)) (start []) (fun t w => pcIs 0x1010 t w && holds 0xC4 0x1008 0 t w) ∧
      answers (.ret (op 0x000 0xFC 0xC4)) (start [(4, 0x2000), (5, 0)]) (pcIs 0x2000) ∧
      answers (.retS (short 0xFC 0xC4)) (start [(4, 0x2000), (5, 0)]) (pcIs 0x2000) ∧
      -- no executing lane
      answers (.call (lx none 0 0xC4 0 true 0 4 0 0)) (start []) (fun t w => pcIs 0x1008 t w && holds 0xC4 0 0 t w) := by decide +kernel

/-- A jump table at 0x2000 with two targets and the join. -/
def tabled (s : State) : State :=
  { s with mem := [(0x2000, 3), (0x2004, 0x10), (0x2008, 0x20), (0x200C, 0x30)] }

theorem test_indexed_branch :
    answers (.brx (lx none 0 0xFC 0 true 0 1 0xC4 0xFC)) (start []) (pcIs 0x1008) ∧
      answers (.brx (op 0x000 0xC6 1 0xC4)) (tabled (split [(4, 0x2000)]))
        (fun t w => pcIs 0x2040 t w && (w.slice 7).pc == 0x2080 && w.groups.map (·.mask) == [1, 0xFE] && holds 0xC7 0x830 0 t w)
        (hyp := fun x s => match x.tableWord s.begun 0x2000 0 with
          | .ok (n, s1) => n == 3 && (match x.tableTargets 0x2000 s1 [0, 1, 2] with | .ok _ => true | _ => false)
          | _ => false) := by decide +kernel

theorem test_structured :
    let nested (n : BitVec 8) : State := start [] (f := fun w => { w with lanes := w.lanes.map (fun l => { l with nest := n }) })
    let nest (n : BitVec 8) (pc : Nat) (t : State) (w : Warp) : Bool := pcIs pc t w && (w.lane 0).nest == n
    let acts (i : Instr) (n m : BitVec 8) (pc : Nat) : Bool := answers i (nested n) (nest m pc) (late := lateHandler)
    acts (.bif (op 0x001 0xFC 4 0 0)) 0 1 0x1010 ∧ acts (.bif (op 0x000 0xFC 4 0 0)) 0 0 0x1008 ∧ acts (.bif (op 0x000 0xFC 4 0 0)) 254 255 0x1010 ∧
      acts (.belse (op 0x000 0xFC 4 0 0)) 1 0 0x1008 ∧ acts (.belseS (sf 0 4 0 false 0)) 0 1 0x1010 ∧ acts (.bend (op 0x000 0xFC)) 1 0 0x1008 ∧
      acts (.bendS (short 0xFC)) 0 0 0x1004 ∧ acts (.bbrk (op 0xFE0 0xFC 4 0 0)) 0 255 0x1010 ∧ acts (.bloop (op 0x001 0xFC 4 0 0)) 0 1 0x1008 ∧
      acts (.bloop (op 0x000 0xFC 0xFE 0xFF 0xFF)) 0 0 0xFF8 := by decide +kernel

/-- The groups of slices 0 to 3, selected, and 4 to 7 stand at one REGANG of slices 0 to 7: the second waits there, or has not come. -/
def regrouping (there : Bool) : State :=
  let s := { start32 [(4, 0x177FF), (5, 0x400)] (fun _ => []) (fun w => { w with groups := [{ mask := 0x0F }, { mask := 0xF0 }] }) with
    sel := [{ core := 0, slot := 0, mask := 0x0F }] }
  if there then
    match exec (.regang (op 0x000 0xC0 0xC4)) { s with sel := [{ core := 0, slot := 0, mask := 0xF0 }] } with
    | .next t => { t with sel := s.sel }
    | _ => s
  else s

theorem test_regang :
    answers (.regang (op 0x000 0xC0 0xC4)) (regrouping false) (fun _ w => w.groups.map (fun q => (q.mask, q.hold)) == [(0x0F, .regang 0xFF 0 0 0xC0), (0xF0, .none)]) ∧
      answers (.regang (op 0x000 0xC0 0xC4)) (regrouping true) (fun t w => w.groups.map (·.mask) == [0xFF] && holds 0xC0 0xFF 0 t w && (w.slice 7).fmt == 0x177 && (w.slice 7).pc == 0x1008)
        (hyp := fun x _ => x.w.groups.map (·.hold) == [.none, .regang 0xFF 0 0 0xC0] &&
          (x.w.group? 0xF0).any (fun q => q.prog.note == 0x177 + 4096 * (Instr.regang x.f).length) && x.w.pcOf 0xF0 == x.pc) ∧
    answers (.regang (op 0x000 0xC0 0xC4)) (start [(4, 0xFF), (5, 0x401)]) (holds 0xC0 0xFF) ∧
      answers (.regang (op 0x000 0xC0 0xC4)) (start [(4, 0x177FF), (5, 0x400)]) (fun t w => holds 0xC0 0xFF 0 t w && (w.slice 0).fmt == 0x177)
        (hyp := fun x _ => decide (bitsOf x.pc 33 2 = x.a 2 scalarLane / 2 ^ 32 ∧ x.w.groups.length = 1)) := by decide +kernel

theorem test_exit_yield_wait :
    answers (.exit (op 0x000 0xFC)) (start []) (fun t w => w.groups.isEmpty && (w.lane 0).exited && t.pending.contains (.warpEnd 0 0)) ∧
      answers (.exitS (short 0xFC)) split (fun _ w => w.groups.isEmpty) ∧
      answers (.exit (lx none 0 0xFC 0 false 1 0xFC 0xFC 0xFC)) split (fun _ w => w.groups.map (·.mask) == [0xFE]) ∧
      answers (.yield (op 0x000 0xFC)) (start []) (fun _ w => w.groups.map (·.readyAt) == [33]) ∧
      answers (.yieldS (short 0xFC)) (start []) (fun _ w => w.groups.map (·.readyAt) == [33]) ∧ answers (.nop (op 0x000 0xFC)) (start []) (pcIs 0x1008) ∧
      answers (.nopS (short 0xFC)) (start []) (pcIs 0x1004) ∧
      answers (.waitc (short 0x01 0xC0)) (start [(0, 2)] (f := fun w => { w with paths := { stg := 2 } })) (pcIs 0x1004) := by decide +kernel

theorem test_flash :
    answers (.flash (op 0x005 0xFC 0xC0 0xC1)) (start [(0, 64), (1, 8)])
        (fun _ w => w.flash.valid && w.flash.pc == 0x1008 && w.flash.nv == 64 && w.flash.ns == 8 && w.flash.label == 5) (late := lateFlash) ∧
      answers (.flash (op 0x005 0xFC 0xC0 0xC1)) (start [(0, 64), (1, 8)] (f := fun w => { w with region := { w.region with depth := 1, st := 1 } }))
        (fun _ w => !w.flash.valid) (hyp := fun x _ => x.w.region.active) (late := lateFlash) := by decide +kernel

/-! ## Global memory (R277 to R297) -/

/-- What the walks of these addresses' pages fill does not touch the warp. -/
def pages (vas : List Nat) (x : Ctx) (s : State) : Bool := decide ((s.begun.keepPages x vas).warp? x.core x.slot = s.warp? x.core x.slot)

/-- The lanes' addresses translate, outside PEER or within it. -/
def reach (peer : Bool) (perm : Perm) (reads : Bool) (n : Ctx → Nat) (x : Ctx) (s : State) : Bool :=
  match x.gparts s.begun perm reads (n x) (x.f.mb 5 4 * (if perm == .read ∨ !reads then 1 else 0)) x.places with
  | .ok l => !l.isEmpty && !x.w.region.active && l.all (fun p => decide ((p.dom = domPeer) = peer ∧ (physKind p.pa = .peer) = peer)) && pages (l.map (·.va)) x s
  | .error _ => false

/-- A release has nothing to wait for: no access in flight, no collapse, no dirty line, no write on its way. -/
def calm (x : Ctx) (s : State) : Bool :=
  x.w.accesses.isEmpty && x.w.collapses == 0 && s.caldera.requests.isEmpty && s.cores.all (fun e => e.2.l1.all (fun l => l.dirty == 0) && e.2.nyrus.isEmpty)

/-- A second page lies in another module, in domain PEER. -/
def linked (s : State) : State :=
  { s.modCore 0 (fun k => { k with tlb := k.tlb ++ [{ tenant := 0, va := 0x40000000, bits := 30, pte := 0x040000000000007B }] }) with
    tenants := [(0, { troot := 1, regions := [(0, 0xBC00000040010000)] })] }

/-- v2 and v3 hold an address, v5 data. -/
def addressed (a : Word) (d : Word := 0) (f : Warp → Warp := id) : State := start [] [(2, a), (3, 0), (5, d)] f

/-- A line of the core's own that holds the word 0x89ABCDEF at its first four bytes. -/
def lined (dirty : LineMask) (s : State) : State :=
  s.modCore 0 (fun k => { k with l1 := [{ line := 0x40, tenant := 0, va := 0x2000, quad := 0, owner := 0, valid := 0xF, dirty := dirty, data := 0x89ABCDEF }] })

def wl (x : Ctx) : Nat := widthBytes (x.f.mb 3 0)
def wa (x : Ctx) : Nat := atomBytes (x.f.mb 7 4)

theorem test_loads :
    answers (.ld (lx none 0 4 0 true 0 2 0xFC 0xFC)) (addressed 0x2000) (pcIs 0x1008) (late := lateGlobal .ldg .read) ∧
      -- no copy: a request and the counter
      answers (.ld (op 0x000 4 2)) (addressed 0x2000) (fun t w => w.paths.ldg == 1 && t.caldera.requests.length == 1 && holds 4 0 0 t w)
        (fun x s => reach false .read true wl x s && x.w.accesses.isEmpty) (lateGlobal .ldg .read) ∧
      -- the last byte of its own copy, sign-extended when it returns
      answers (.ld (op 0x004 4 2)) (lined 0 (addressed 0x2003)) (fun t w => t.caldera.requests.isEmpty && t.pending.contains (.accessReturn 0 0 1) &&
        (w.access? 1).any (fun a => SMap.get? 0x2003 a.bytes == some 0x89)) (reach false .read true wl) (lateGlobal .ldg .read) ∧
      answers (.sld (op 0x000 4 2 5)) (addressed 0x2000 3) (fun _ w => w.paths.ldg == 1 && (w.access? 1).any (fun a => a.parts.all (fun p => p.2.1 == 0x2000 && p.2.2 == 3)))
        (fun x s => match x.allStrings s.begun x.places with | .ok l => !l.isEmpty && l.all (fun p => physKind p.pa == .hbm) && pages ((l.filter (fun p => p.n ≠ 0)).map (·.va)) x s | _ => false) lateSld := by
  decide +kernel

theorem test_stores :
    answers (.st (lx none 0 0xFC 0 true 0 2 0xFC 5)) (addressed 0x2000) (pcIs 0x1008) (late := lateGlobal .stg .write) ∧
      answers (.st (op 0x003 0xFC 2 0xFC 5)) (lined 0 (addressed 0x2003 0x1FF)) (fun t w => w.paths.stg == 1 &&
        (t.l1Find 0 0 0x40).any (fun l => l.dirty.getLsbD 3 && !l.dirty.getLsbD 2 && l.byteAt 3 == 0xFF && l.byteAt 2 == 0xAB))
        (reach false .write false wl) (lateGlobal .stg .write) ∧
      answers (.st (op 0x040 0xFC 2 0xFC 5)) (addressed 0x2000 7) (fun t w => w.paths.stg == 1 &&
        t.caldera.requests.any (fun e => e.2.kind == .write true && SMap.get? 0x2000 e.2.bytes == some 7))
        (fun x s => reach false .write false wl x s && calm x s) (lateGlobal .stg .write) := by decide +kernel

theorem test_atomics :
    answers (.atom (op 0x000 4 2 0xFC 5)) (addressed 0x2000 7) (fun t w => w.paths.ldg == 1 &&
        t.caldera.requests.any (fun e => e.2.kind == .atomic 0 0 && e.2.lanes == [(0, 0x2000, 7, 0)])) (fun x s => reach false .write true wa x s && calm x s)
        (lateGlobal .ldg .write) ∧
      answers (.red (op 0x012 0xFC 2 0xFC 5)) (addressed 0x2000 7) (fun t w => w.paths.stg == 1 &&
        t.caldera.requests.any (fun e => e.2.kind == .atomic 2 1)) (fun x s => reach false .write true wa x s && calm x s) (lateGlobal .stg .write) ∧
      answers (.red (lx none 0 0xFC 0 true 0 2 0xFC 5)) (addressed 0x2000) (pcIs 0x1008) (late := lateGlobal .stg .write) ∧
      answers (.atom (lx none 0 4 0 true 0 2 0xFC 5)) (addressed 0x2000) (pcIs 0x1008) (late := lateGlobal .ldg .write) := by decide +kernel

/-- The peer page: the request waits for the group to leave. -/
theorem test_peer : let post (o : Nat) (t : State) (w : Warp) : Bool := w.paths.peer == 1 && w.groups.all (fun g => g.hold == .leave) &&
      (t.core? 0).any (fun k => k.nyrus.map (fun r => (r.op, r.line)) == [(o, lineOf 0x400000000002000)])
    answers (.ld (op 0x000 4 2)) (linked (addressed 0x40002000)) (post 0) (reach true .read true wl) (lateGlobal .ldg .read) ∧
      answers (.st (op 0x000 0xFC 2 0xFC 5)) (linked (addressed 0x40002000)) (post 1) (reach true .write false wl) (lateGlobal .stg .write) ∧
      answers (.atom (op 0x000 4 2 0xFC 5)) (linked (addressed 0x40002000)) (post 2) (fun x s => reach true .write true wa x s && calm x s) (lateGlobal .ldg .write) ∧
      answers (.red (op 0x000 0xFC 2 0xFC 5)) (linked (addressed 0x40002000)) (post 2) (fun x s => reach true .write true wa x s && calm x s) (lateGlobal .stg .write) := by
  decide +kernel

/-- R280: at a handler, the cause and the address. -/
theorem test_misaligned : let s : State := addressed 0x2002 (f := fun w => { w with special := { w.special with evec := 0x8000 } })
    let post (_ : State) (w : Warp) : Bool := w.special.ecause.toNat % 256 == 7 && w.special.eval == 0x2002 && (w.slice 0).pc == 0x8000
    let odd (n : Ctx → Nat) (x : Ctx) (_ : State) : Bool := x.places.head?.any (fun p => decide (x.gaddr p % n x ≠ 0))
    answers (.ld (op 0x000 4 2)) s post (odd wl) (lateGlobal .ldg .read) ∧ answers (.st (op 0x000 0xFC 2 0xFC 5)) s post (odd wl) (lateGlobal .stg .write) ∧
      answers (.atom (op 0x000 4 2 0xFC 5)) s post (odd wa) (lateGlobal .ldg .write) ∧
      answers (.red (op 0x000 0xFC 2 0xFC 5)) s post (odd wa) (lateGlobal .stg .write) := by decide +kernel

theorem test_prefetch_fence_monitor :
    answers (.pref (op 0x000 0xFC 2)) (addressed 0x2000) (fun t _ => t.caldera.requests.any (fun e => e.2.kind == .prefetch true && e.2.line == 0x40))
        (fun x s => match x.gpart s.begun .read false 0 0 0x2000 1 with | .ok q => decide (q.dom ≠ domPeer) && cached q.pa && pages ((x.prefParts s.begun).map (·.va)) x s | _ => false) (lateGlobal .ldg .read) ∧
      answers (.fence (op 0x002 0xFC 2)) (lined 0 (addressed 0x2000)) (fun t _ => (t.core? 0).map (·.l1) == ((lined 0 (addressed 0x2000)).core? 0).map (·.l1)) calm ∧
      answers (.fence (op 0x000 0xFC 2)) (lined 0 (addressed 0x2000)) (fun t _ => (t.l1Find 0 0 0x40).isNone) calm ∧
      -- a monitored line: the check is asked for; in another module the answer is false
      answers (.monw (op 0x000 2 0xC4 0xC6 0xFC)) (start [(4, 0x2000)]) (fun t w => t.caldera.requests.any (fun e => e.2.kind == .monitor 0x2000 0 4) &&
        w.groups.all (fun g => g.hold == .event)) (pages [0x2000]) ∧
      answers (.monw (op 0x000 2 0xC4 0xC6 0xFC)) (linked (start [(4, 0x40002000)])) (fun t w => shows 2 false 0 t w && pcIs 0x1008 t w) (pages [0x40002000]) := by
  decide +kernel
/-! ## The scratchpad window (R247 to R251, R287 to R294) -/

/-- The warp's block has the window, words 1 and 2 of it are empty; v2 holds an offset, v5 data. -/
def windowed (m : SMap Byte) (o : Word := 0) (d : Word := 0) (r : SMap Word := []) (f : Warp → Warp := id) : State :=
  (start r [(2, o), (5, d)] f).modBlock 0 1 (fun b => { b with window := m, empty := [1, 2] })

/-- The bytes of the block's window at an offset. -/
def spad (o n v : Nat) (t : State) (_ : Warp) : Bool := (t.block? 0 1).any (fun b => b.readNum o n == v)
def empties (l : List Nat) (t : State) (_ : Warp) : Bool := (t.block? 0 1).any (fun b => b.empty == l)

/-- The accesses lie within the window, nobody waits for it. -/
def within (n : Ctx → Nat) (x : Ctx) (s : State) : Bool :=
  (s.block? 0 1).any (fun b => b.waiters.isEmpty && b.poison.isEmpty && x.places.all (fun p => decide (x.saddr p % n x = 0 ∧ x.saddr p + n x ≤ b.length))) &&
    !x.lanes.isEmpty && x.w.accesses.isEmpty && x.w.park == .none && calm x s

theorem test_window :
    answers (.lds (op 0x004 4 2)) (windowed [(0xFFFF, 0x80)] 0xFFFF) (fun t w => w.paths.spd == 1 && t.pending.contains (.accessReturn 0 0 1) &&
        (w.access? 1).any (fun a => a.results == [(0, 0xFFFFFF80)])) (within wl) lateSpad ∧
      answers (.sts (op 0x003 0xFC 2 0xFC 5)) (windowed [(6, 7)] 5 0x1FF) (fun t w => spad 4 4 0x7FF00 t w && empties [2] t w) (within wl) lateSpad ∧
      answers (.stf (op 0x001 0xFC 2 0xFC 6)) (windowed [(0, 7), (8, 7), (12, 7)] 8) (fun t w => spad 0 16 7 t w && empties [1] t w) (within wl) lateSpad ∧
      answers (.feset (op 0x000 0xFC 2)) (windowed [] 12) (empties [1, 2, 3]) (within wl) lateSpad ∧
      answers (.feset (op 0x041 0xFC 2)) (windowed [] 0) (empties [2]) (within wl) lateSpad ∧
      -- a full word is taken, an empty one filled
      answers (.ldf (op 0x000 4 2)) (windowed [(12, 9)] 12) (fun t w => holds 4 9 0 t w && empties [1, 2, 3] t w) (within wl) lateSpad ∧
      answers (.stf (op 0x040 0xFC 2 0xFC 5)) (windowed [] 8 0x55) (fun t w => spad 8 4 0x55 t w && empties [1] t w) (within wl) lateSpad := by
  decide +kernel

/-- ATOMS on the word at offset 12. -/
def atoms (m : BitVec 12) (old v fresh : Word) : Bool :=
  answers (.atoms (op m 4 2 0xFC 5)) (windowed (cellsOf 12 4 old.toNat) 12 v)
    (fun t w => spad 12 4 fresh.toNat t w && (w.access? 1).any (fun a => a.results == [(0, old.toNat)])) (within wa) lateSpad

theorem test_window_atomics :
    atoms 0x000 0xFFFFFFFF 2 1 ∧ atoms 0x011 1 0xFFFFFFFF 0xFFFFFFFF ∧ atoms 0x002 1 0xFFFFFFFF 0xFFFFFFFF ∧ atoms 0x003 12 10 8 ∧ atoms 0x004 12 10 14 ∧
      atoms 0x005 12 10 6 ∧ atoms 0x006 12 10 10 ∧ atoms 0x008 12 12 0 ∧ atoms 0x009 0 12 12 := by decide +kernel

/-- Two lanes of ATOMS on one word, the second with what the first has left; a compare and swap of the pair v6, v7; no executing lane. -/
theorem test_window_atomics_forms :
    answers (.atoms (op 0x000 4 2 0xFC 5))
        ((start32 [] (fun l => [(2, 12), (5, BitVec.ofNat 32 (10 + l))]) (fun w => { w with lanes := w.lanes.map (fun l => { l with exited := 2 ≤ l.lid.toNat }) })).modBlock 0 1 (fun b =>
          { b with window := [(12, 3)] }))
        (fun t w => spad 12 4 24 t w && (w.access? 1).any (fun a => a.results == [(0, 3), (1, 13)])) (within wa) lateSpad ∧
      answers (.atoms (op 0x007 4 2 0xFC 6)) ((windowed [(12, 5)] 12).modWarp 0 0 (fun w => { w with lanes := w.lanes.map (fun l => { l with v := [(2, 12), (6, 5), (7, 9)] }) }))
        (fun t w => spad 12 4 9 t w && (w.access? 1).any (fun a => a.results == [(0, 5)])) (within wa) lateSpad ∧
      answers (.atoms (lx none 0x000 4 0 true 0 2 0xFC 5)) (windowed [(12, 5)] 12) (fun t w => spad 12 4 5 t w && pcIs 0x1008 t w) (late := lateSpad) := by decide +kernel

/-- The barrier word at offset 16 expects one arrival, or two of which one has come. -/
theorem test_barriers : let word (v : Nat) : SMap Byte := (cellsOf 16 8 v)
    answers (.bara (op 0x000 0xC4 0xC0 0xFC 5)) (windowed (word 0x00000001) 0 1 [(0, 16)]) (fun t w => spad 16 8 0x100000001 t w && pcIs 0x1008 t w)
        (within (fun _ => 8)) lateBarrier ∧
      answers (.baraw (op 0x000 0xC4 0xC0 0xFC 5)) (windowed (word 0x100010002) 0 1 [(0, 16)]) (fun t w => spad 16 8 2 t w && pcIs 0x1008 t w)
        (within (fun _ => 8)) lateBarrier ∧
      answers (.baraw (op 0x000 0xC4 0xC0 0xFC 5)) (windowed (word 0x00000002) 0 1 [(0, 16)]) (fun t w => spad 16 8 0x10002 t w && w.park == .barrier 16 false)
        (within (fun _ => 8)) lateBarrier ∧
      answers (.barw (op 0x000 0xFC 0xC0 0xFC 0xC1)) (windowed (word 0x100000002) 0 0 [(0, 16), (1, 1)]) (fun _ w => w.park == .barrier 16 true) (within (fun _ => 8)) ∧
      answers (.barw (op 0x000 0xFC 0xC0 0xFC 0xC1)) (windowed (word 0x100000002) 0 0 [(0, 16), (1, 0)]) (pcIs 0x1008) (within (fun _ => 8)) := by decide +kernel

/-! ## The class-Q units and the matrix unit (R186 to R189, R204, R221 to R241) -/

def queued (divider : Bool) (v : Nat) (t : State) (_ : Warp) : Bool :=
  (t.core? 0).any (fun k => (if divider then (k.quad 0).divider else (k.quad 0).sfu).map (·.values) == [[(0, v)]])

theorem test_class_q : let acts (i : Instr) (a b : Word) (divider : Bool) (v : Nat) : Bool := answers i (start [] [(1, a), (2, b)]) (queued divider v)
    acts (.rcp (op 0x000 4 1)) 0x40000000 0 false 0x3F000000 ∧ acts (.rsq (op 0x000 4 1)) 0x40800000 0 false 0x3F000000 ∧
      acts (.sqrt (op 0x000 4 1)) 0x40800000 0 false 0x40000000 ∧ acts (.exp2 (op 0x000 4 1)) 0x40400000 0 false 0x41000000 ∧
      acts (.log2 (op 0x000 4 1)) 0x41000000 0 false 0x40400000 ∧ acts (.sinpi (op 0x000 4 1)) 0x3F000000 0 false 0x3F800000 ∧
      acts (.cospi (op 0x000 4 1)) 0x3F800000 0 false 0xBF800000 ∧ acts (.tanh (op 0x000 4 1)) 0x7F800000 0 false 0x3F800000 ∧
      acts (.fdiv (op 0x000 4 1 2)) 0x3F800000 0x40000000 true 0x3F000000 ∧ acts (.fsqrt (op 0x000 4 1)) 0x40800000 0 true 0x40000000 ∧
      acts (.idiv (op 0x001 4 1 2)) 0xFFFFFFF9 2 true 0xFFFFFFFD ∧ acts (.irem (op 0x001 4 1 2)) 0xFFFFFFF9 2 true 0xFFFFFFFF ∧
      acts (.idiv (op 0x000 4 1 2)) 7 0 true 0xFFFFFFFF ∧ acts (.irem (op 0x000 4 1 2)) 7 0 true 7 := by decide +kernel

/-- A full unit, and no executing lane. -/
theorem test_class_q_waits : let q : QResult := { slot := 1, code := 0, regs := 1, values := [], flags := 0, start := 0, due := 9 }
    answers (.rcp (op 0x000 4 1)) ((start []).modCore 0 (fun k => { k with quads := k.quads.map (fun y => { y with sfu := List.replicate 8 q }) }))
        (fun _ w => w.groups.map (·.hold) == [.sfuFull]) ∧
      answers (.fdiv (op 0x000 4 1 2)) ((start []).modCore 0 (fun k => { k with quads := k.quads.map (fun y => { y with divider := List.replicate 4 q }) }))
        (fun _ w => w.groups.map (·.hold) == [.dividerFull]) ∧
      answers (.idiv (lx none 0 4 0 true 0 1 2 0xFC)) (start []) (pcIs 0x1008) := by decide +kernel

/-- A window that holds the descriptor of a tensor of one element. -/
def tensor : Nat := 2 ^ 32 + 2 ^ 48 + 2 ^ 64 + 2 ^ 80 + 2 ^ 96 + 2 ^ 112 + 2 ^ 120 + 2 ^ 128 + 2 ^ 132 + 2 ^ 136 + 2 ^ 140

def matrixed (fmt : BitVec 12) (gang : Word := 0) (full : Bool := false) : State :=
  let o (n : Nat) : MatrixOp := { id := n, kind := 0, members := [], block := 1, entered := 0 }
  ((windowed (cellsOf 0x400 32 tensor) 0 0 [(0, 0x400), (1, 0), (2, 0x1000)] (fun w => { w with gang := gang, slices := w.slices.map (fun q => { q with fmt := fmt }) })).modCore 0
    (fun k => { k with quads := k.quads.map (fun q => { q with matrix := if full then [o 1, o 2] else [], nextMatrix := 3 }) }))

def entered (kind : Nat) (t : State) (w : Warp) : Bool := pcIs 0x1008 t w && (t.core? 0).any (fun k => (k.quad 0).matrix.map (·.kind) == [kind])

theorem test_matrix :
    answers (.mma (op 0x000 0 24 48)) (matrixed 0x177) (entered 0) (late := lateMatrix) ∧
      answers (.mma (op 0x020 0 24 0xC2)) (matrixed 0x177) (fun t w => entered 0 t w && w.paths.mmx == 1)
        (fun x s => (s.block? 0 1).any (fun b => x.windowOperands.all (fun o => decide (o.1 % 16 = 0 ∧ o.1 + 3072 * o.2 ≤ b.length)))) lateMatrix ∧
      answers (.mmas (op 0x000 0 24 48 72)) (matrixed 0x422) (entered 1) (late := lateMatrix) ∧
      answers (.mmav (op 0x000 0 0xC0 48 0xFC)) (matrixed 0x177) (entered 2) (fun x s => (s.block? 0 1).any (fun b => !b.poisoned x.descOffset 32)) lateMatrix ∧
      answers (.mma (op 0x000 0 24 48)) (matrixed 0x177 0 true) (fun _ w => w.groups.map (·.hold) == [.places 0 0]) (late := lateMatrix) ∧
      answers (.mma (lx none 0 0 0 true 0 24 48 0xFC)) (matrixed 0x177) (pcIs 0x1008) (late := lateMatrix) := by decide +kernel

/-- A gang of the slots 0 and 1: the warp in slot 1 waits at its form of the instruction, or not yet. -/
def ganged (there : Bool) (i : Instr) : State :=
  let s := matrixed 0x177 0x10000010
  match s.warp? 0 0 with
  | none => s
  | some w =>
    let s1 := (s.setWarp 0 1 { w with gang := 0x11000010 }).modBlock 0 1 (fun b => { b with slots := [0, 1] })
    if there then
      match exec i { s1 with sel := [{ core := 0, slot := 1, mask := 0xFF }] } with
      | .next t => { t with sel := s1.sel }
      | _ => s1
    else s1

theorem test_gang :
    answers (.mma (op 0x040 0 24 0xFC)) (ganged false (.nop (op 0 0xFC))) (fun _ w => w.groups.map (·.hold) == [.event] && w.latch.isSome)
        (fun x s => (s.gangGifts x (x.gift ((s.block? 0 1).getD noWindow))).isNone && (x.operandTrouble s).isNone && (gangSlots x.w.gang.toNat 0).contains 0) lateMatrix ∧
      answers (.mma (op 0x040 0 24 0xFC)) (ganged true (.mma (op 0x040 0xFC 0xFC 48)))
        (fun t w => entered 0 t w && (t.core? 0).any (fun k => (k.quad 0).matrix.all (fun o => o.members.map (·.slot) == [0, 1])))
        (fun x s => match s.gangGifts x (x.gift ((s.block? 0 1).getD noWindow)) with
          | some l => s.gangAgrees x l && l.all (·.exec)
          | none => false) lateMatrix ∧
      answers (.gangset (op 0x000 0xC4 0xFC)) (matrixed 0x177 0x10000010) (fun t w => w.gang == 0 && holds 0xC4 0 0 t w) (late := lateGangset) := by decide +kernel

/-- GANGSET in slot 0 of a gang of the slots 0 and 1. -/
def forming (there : Bool) : State :=
  let s := windowed [] 0 0 [(0, 0x10000010)]
  let i : Instr := .gangset (op 0x000 0xC4 0xC0)
  match s.warp? 0 0 with
  | none => s
  | some w =>
    let s1 := (s.setWarp 0 1 w).modBlock 0 1 (fun b => { b with slots := [0, 1] })
    if there then
      match exec i { s1 with sel := [{ core := 0, slot := 1, mask := 0xFF }] } with
      | .next t => { t with sel := s1.sel }
      | _ => s1
    else s1

theorem test_gangset :
    answers (.gangset (op 0x000 0xC4 0xC0)) (forming false) (fun _ w => w.groups.map (·.hold) == [.event] && w.latch.isSome) (late := lateGangset) ∧
      answers (.gangset (op 0x000 0xC4 0xC0)) (forming true) (fun t w => w.gang == 0x10000010 && w.latch.isNone && holds 0xC4 0x10000010 0 t w)
        (fun _ s => (s.warp? 0 1).any (fun p => p.latch.isSome)) lateGangset ∧
      -- slot 1 waits for slot 0, which names no member
      answers (.gangset (op 0x000 0xC4 0xFC)) (forming true) (fun t w => w.gang == 0 && holds 0xC4 0 0 t w && (t.warp? 0 1).any (fun p => p.latch.isNone && p.gang == 0))
        (fun _ s => (s.warp? 0 1).any (fun p => p.latch.any (·.ganging.isSome))) lateGangset := by decide +kernel

theorem test_tiles : let s : State := (windowed [] 0 0 [(0, 0x10), (1, 0xC0), (2, 0x40)] (fun w => { w with slices := w.slices.map (fun q => { q with fmt := 0x177 }) }))
    answers (.mldt (op 0x000 0 0xC0 0xC1)) s (fun t w => w.paths.mmx == 1 && (t.core? 0).any (fun k => (k.quad 0).matrix.map (·.tile) == [(0x10, 0xC0, 192)])) (late := lateTile .mmx) ∧
      answers (.mldt (op 0x001 0 0xC0 0xC2)) s (fun t _ => (t.core? 0).any (fun k => (k.quad 0).matrix.map (·.tile) == [(0x10, 0x40, 64)])) (late := lateTile .mmx) ∧
      -- element (0, 0) of the tile is v0 of the lane with LID 0
      answers (.mstt (op 0x000 0xFC 0 0xC0 0xC2)) (s.modWarp 0 0 (fun w => { w with lanes := w.lanes.map (fun l => { l with v := [(0, l.lid.setWidth 32 + 0x100)] }) }))
        (fun t w => spad 0x10 4 0x100 t w && spad 0x30 4 0x101 t w && spad 0x50 4 0x102 t w && spad 0x3D0 4 0x11E t w) (within (fun _ => 1)) lateMstt := by
  decide +kernel

/-- WFUSE of slots 0 and 1 with one kept lane each: the partner's slot is empty, or its warp waits in the latch. -/
def fusing (there : Bool) : State :=
  let s := start [(0, 1), (1, 8), (2, 0)] [(0, 5)]
  let i : Instr := .wfuse (op 0x000 0xC4 0 0xC2 0xC1)
  match s.warp? 0 0 with
  | none => s
  | some w =>
    if there then
      match exec i { s.setWarp 0 1 w with sel := [{ core := 0, slot := 1, mask := 0xFF }] } with
      | .next t => { t with sel := s.sel }
      | _ => s
    else s

theorem test_fuse :
    answers (.wfuse (op 0x000 0xC4 0 0xC0 0xC1)) (fusing false) (holds 0xC4 0x201) (fun x s => !x.vectorBusy s) lateWfuse ∧
      answers (.wfuse (op 0x000 0xC4 0 0xC0 0xC1)) (fusing true)
        (fun t w => holds 0 5 0 t w && holds 0 5 1 t w && (w.lanes.filter (fun l => !l.exited)).length == 2 && (t.warp? 0 1).any (·.groups.isEmpty))
        (fun x s => !x.vectorBusy s && (s.warp? 0 1).any (fun p => p.latch.any (fun l => l.fusing && l.partner == 0) && p.lanes.length == 32)) lateWfuse := by
  decide +kernel
/-! ## Regions, queues and the copy engine (R303 to R373) -/

/-- A warp in a region of this depth, with bounds 1 to 9. -/
def inRegion (depth : Nat) (r : SMap Word := []) (f : Warp → Warp := id) : State :=
  start r [] (fun w => f { w with region := { w.region with depth := depth, st := if depth = 0 then 0 else 1, alo := 1, ahi := 9 } })

theorem test_region_begin :
    answers (.rgbeg (op 0x001 0xFC 4 0 0)) (inRegion 0) (fun _ w => w.region.depth == 1 && w.region.rigid && w.region.target == 0x1010 && w.region.epoch == 1)
        (late := lateGanged) ∧
      answers (.rgbeg (op 0x000 0xFC 4 0 0)) (inRegion 0 [] (fun w => { w with paths := { peer := 1 } })) (fun _ w => w.groups.map (·.hold) == [.regionStart])
        (late := lateGanged) ∧
      answers (.rgbeg (op 0x000 0xFC 4 0 0)) (inRegion 6) (fun _ w => w.region.depth == 7) (late := lateGanged) ∧
      answers (.rgbeg (op 0x000 0xFC 4 0 0)) (inRegion 7) (fun _ w => w.region.cause == some (9, 0)) (late := lateGanged) := by decide +kernel

theorem test_region_end :
    answers (.rgend (op 0x000 0xC4 0xFC)) (inRegion 0) (pcIs 0x1008) (late := lateGanged) ∧
      answers (.rgend (op 0x000 0xC4 0xFC)) (inRegion 2) (fun _ w => w.region.depth == 1) (late := lateGanged) ∧
      answers (.rgend (op 0x000 0xC4 0xFC)) (inRegion 1) (fun t w => w.region.st == 3 && w.region.commits == 1 && holds 0xC4 1 0 t w)
        (fun x s => calm x s && (s.banksOf 0).isEmpty) lateGanged ∧
      answers (.rgend (op 0x000 0xC4 0xFC))
        { inRegion 1 with caldera := { banks := [(5, { conflicts := [{ region := 0, line := 0x40, read := true, write := false, rver := 0, lo := 1, hi := 9 }] })] } }
        (fun t w => w.region.st == 2 && w.region.toVisit == [5] && t.pending.contains (.commitVisit 0 5)) (fun x s => calm x s && s.banksOf 0 == [5]) lateGanged := by
  decide +kernel

theorem test_region_rest :
    answers (.rgabt (op 0x000 0xFC 0xC0)) (inRegion 1 [(0, 0x1FF)]) (fun t w => w.region.cause == some (6, 255) && t.pending.contains (.regionAbort 0 0)) ∧
      answers (.rgbnd (op 0x000 0xC4 0xFC)) (inRegion 1) (fun t w => holds 0xC4 1 0 t w && holds 0xC6 9 0 t w) ∧
      answers (.rgnar (op 0x000 0xFC 0xC4)) (inRegion 1 [(4, 1)]) (fun _ w => w.region.ahi == 1 && w.region.cause.isNone) ∧
      answers (.rgnar (op 0x000 0xFC 0xC4)) (inRegion 1) (fun _ w => w.region.ahi == 0 && w.region.cause == some (1, 0)) ∧
      answers (.rgst (op 0x000 0xC4 0xFC)) (inRegion 1) (holds 0xC4 0x22000000) ∧
      answers (.rgst (op 0x009 0xC4 0xFC)) (inRegion 0 [] (fun w => { w with region := { w.region with aborts := [(9, 3)] } })) (holds 0xC4 3) ∧
      answers (.rgst (op 0x00A 0xC4 0xFC)) (inRegion 0 [] (fun w => { w with region := { w.region with commits := 7 } })) (holds 0xC4 7) := by decide +kernel

/-- A header at 0x2000 for a ring of four records of 64 bytes at 0x3000: s4 and s5 name it. Its counters are `c`. -/
def staged (c : Nat := 0) (f : Warp → Warp := id) : State :=
  { start [(4, 0x2000)] [(2, 0x2000)] f with mem := Memory.writeBytes [] 0x2000 (bytesOf (c + 0x3000 + 3 * 2 ^ 64) 128), tenants := [(0, { troot := 1, queues := [(0, { ctrl := 0x400009 })] })] }

def headed (x : Ctx) (s : State) : Bool := (match x.header s.begun true with | .ok pa _ ring => pa == 0x2000 && ring == 0x3000 | _ => false) && calm x s && pages [0x2000] x s

theorem test_queues :
    answers (.launch (op 0x000 0xC4 2 0xFC 0xC0)) (staged) (fun t w => w.paths.stg == 1 && (w.access? 1).any (fun a => a.results == [(32, 1)]) &&
        ((t.tenant 0).queue 0).tail == 1 && t.pending.contains .launchRecordTake)
        (fun x s => (match x.launchParts s.begun x.children with | .ok l => !l.isEmpty && pages (l.map (·.2.1)) x s && l.all (fun e => !s.remote e.2.2) | _ => false) && calm x s) lateLaunch ∧
      answers (.qpush (op 0x000 1 0xC4 0xFC 16)) staged (fun t w => w.paths.stg == 1 && t.pending.contains (.stagePush 1) &&
        (t.message? 1).any (fun m => m.op == 0 && m.header == 0x2000 && m.lanes.map Prod.fst == [0])) headed (lateHeader true .stg) ∧
      answers (.qpop (op 0x1A2 16 0xC4)) staged (fun t w => w.paths.ldg == 1 && t.pending.contains (.stagePop 1)) headed (lateHeader true .ldg) ∧
      answers (.qpop (op 0x1A2 16 0xC4)) (staged 0 (fun w => { w with reassign := true }))
        (fun _ w => (w.access? 1).any (fun a => a.preds == [(0, 1, false), (0, 2, false), (0, 3, true)])) headed (lateHeader true .ldg) ∧
      answers (.qclose (op 0x000 0xFC 0xC4)) staged (fun t w => w.paths.stg == 1 && Memory.read t.mem 0x200C == 1) headed (lateHeader false .stg) := by
  decide +kernel

/-- A descriptor at 0x2000 of one element of four bytes, of type .n32 where it is combined. -/
def described (busy : Bool) : State :=
  let e : EngineCommand := { slot := 3, access := 9, op := 0, flags := 0, desc := [], descVa := 0 }
  { (start [(4, 0x2000), (6, 0x100), (8, 0x200)]).modCore 0 (fun k => { k with engine := if busy then List.replicate 4 e else [] }) with
    mem := Memory.writeBytes [] 0x2000 (bytesOf (2 ^ 195 + 2 ^ 193 + 2 ^ 256) 160) }

def commanded (o : Nat) (t : State) (w : Warp) : Bool :=
  w.paths.xen == 1 && (t.core? 0).any (fun k => k.engine.map (fun e => (e.op, e.src, e.dst)) == [(o, 0x100, 0x200)]) && t.pending.contains (.engineCommand 0 0)

theorem test_engine : let d (x : Ctx) (s : State) : Bool := (match x.descriptor s.begun with | .ok _ => true | _ => false) && pages [0x2000, 0x209F] x s
    answers (.xcopy (op 0x000 0xFC 0xC4 0xC6 0xC8)) (described false) (commanded 0) d lateEngine ∧ answers (.xgath (op 0x000 0xFC 0xC4 0xC6 0xC8)) (described false) (commanded 1) d lateEngine ∧
      answers (.xscat (op 0x000 0xFC 0xC4 0xC6 0xC8)) (described false) (commanded 2) d lateEngine ∧ answers (.xred (op 0x000 0xFC 0xC4 0xC6 0xC8)) (described false) (commanded 3) d lateEngine ∧
      answers (.xfill (op 0x000 0xFC 0xC4 0xC6 0xC8)) (described false) (commanded 4) d lateEngine ∧
      answers (.xcopy (op 0x000 0xFC 0xC4 0xC6 0xC8)) (described true) (fun _ w => w.groups.map (·.hold) == [.engineFull]) d lateEngine := by decide +kernel

theorem test_counters : let s (n : Word) : State := { start [(0, 255), (1, 5), (4, n)] with tenants := [(0, { troot := 1, fences := [(255, 0xFFFFFFFFFFFFFFFF)] })] }
    answers (.fcinc (op 0x000 0xC6 0xC0 0xC1)) (s 0) (fun t w => w.paths.stg == 1 && (t.tenant 0).fence 255 == 4 && (w.access? 1).any (fun a => a.results == [(32, 2 ^ 64 - 1)]))
        calm (lateFence [.stg]) ∧
      answers (.fcwait (op 0x000 0xFC 0xC0 0xC4)) (s 9) (pcIs 0x1008) (late := lateFence []) ∧
      answers (.fcwait (op 0x000 0xFC 0xC1 0xC4)) (s 9) (fun _ w => w.park == .fence 5 9 && w.lease.st == .parked) (late := lateFence []) := by decide +kernel

/-! ## Exceptions, caches, tables and contexts (R393 to R443) -/

/-- A warp with a handler at 0x8000. -/
def handled (priv : Bool := false) (f : Warp → Warp := id) : State :=
  start [] [] (fun w => f { w with special := { w.special with evec := 0x8000, priv := priv, estat := 0xFF0000, ecause := 0x0E, epc := 0x3000 } })

def trapped (cause epc eval : Nat) (_ : State) (w : Warp) : Bool :=
  (w.slice 0).pc == 0x8000 && w.special.priv && w.special.ecause.toNat == cause && w.special.epc.toNat == epc && w.special.eval.toNat == eval

/-- A matrix result on its way: an older write. -/
def older (s : State) : State := s.modCore 0 (fun k => { k with quads := k.quads.map (fun q => { q with sfu := [{ slot := 0, code := 0, regs := 1, values := [], flags := 0, start := 0, due := 9 }] }) })

theorem test_trap :
    answers (.trap (op 0x042 0xFC)) handled (trapped 0x0E 0x1008 0x42) ∧ answers (.bkpt (op 0x042 0xFC)) handled (trapped 0x0F 0x1000 0x42) ∧
      answers (.trap (lx none 0x042 0xFC 0 true 0 0xFC 0xFC 0xFC)) handled (pcIs 0x1008) ∧
      -- in an active region, behind an older write, in a handler
      answers (.trap (op 0x042 0xFC)) (handled false (fun w => { w with region := { w.region with depth := 1, st := 1, target := 0x2000 } }))
        (fun t w => trapped 0x0E 0x2000 0x42 t w && w.region.reason == 7) ∧
      answers (.trap (op 0x042 0xFC)) (older handled) (fun _ w => w.trap.isSome && !w.special.priv) ∧
      answers (.bkpt (op 0x042 0xFC)) (handled true) (fun t w => w.ending == some (0x0F, 0x1000, 0) && w.groups.isEmpty && t.pending.contains (.warpEnd 0 0)) := by
  decide +kernel

theorem test_return_and_halt :
    answers (.eret (op 0x000 0xFC)) (handled true) (fun t w => pcIs 0x3000 t w && !w.special.priv) (late := lateEret) ∧
      answers (.halt (op 0x000 0xFC)) (handled true) (fun _ w => w.ending == some (0x0E, 0x1000, 0) && w.groups.isEmpty) ∧
      answers (.halt (lx none 0 0xFC 0 true 0 0xFC 0xFC 0xFC)) (handled true) (pcIs 0x1008) ∧
      -- with a fault queue at 0x4000: the record's first word
      answers (.halt (op 0x000 0xFC))
        { handled true with tenants := [(0, { troot := 1, fqBase := 0x4000, fqCtrl := 0x400001 })], caldera := { lines := [(0x80, { hold := 3 })] } }
        (fun t _ => Memory.readNum t.mem 0x4000 4 == 0x20000001 && (t.tenant 0).fqTail == 1) (fun x s => (s.tenant x.w.tenant).fqOn && s.slotOpen 0x4000) := by
  decide +kernel

/-- The first step of an instruction that a check of its own stops: it issues, and its answer has `post`. -/
def stops (i : Instr) (s : State) (post : State → Warp → Bool) (late : Ctx → State → Late := noLate) : Bool :=
  match s.sel.head? with
  | none => false
  | some g =>
    match s.warp? g.core g.slot with
    | none => false
    | some w =>
      let x := s.seenBy i g w
      ((w.group? g.mask).map (·.prog.stage) == some 0) && x.waits s (late x s) == none && !i.sig.illegalInstr x.f && !(late x s).illegalInstr &&
        !i.sig.illegalOperand x.f && !(late x s).illegalOperand && !i.sig.registerRange x.f w.alloc && !(late x s).registerRange &&
        match exec i s with
        | .next t => (match t.warp? g.core g.slot with | some w' => post t w' | none => false)
        | _ => false

/-- Where a test of this kind holds, the instruction starts, as the statements have it. -/
theorem stops_starts {i : Instr} {s : State} {post late} (h : stops i s post late = true) : ∃ g w, Starts i late s g w := by
  simp only [stops] at h
  split at h
  · cases h
  · rename_i g hg
    split at h
    · cases h
    · rename_i w hw
      simp only [Bool.and_eq_true, beq_iff_eq, Bool.not_eq_true'] at h
      exact ⟨g, w, ⟨hg, hw⟩, h.1.1.1.1.1.1.1.1, h.1.1.1.1.1.1.1.2, h.1.1.1.1.1.1.2, h.1.1.1.1.1.2, h.1.1.1.1.2, h.1.1.1.2, h.1.1.2, h.1.2⟩

theorem test_privilege : let post (_ : State) (w : Warp) : Bool := (w.slice 0).pc == 0x8000 && w.special.ecause.toNat == 4 && w.special.epc == 0x1000
    stops (.eret (op 0x000 0xFC)) handled post lateEret ∧ stops (.halt (op 0x000 0xFC)) handled post ∧ stops (.tlbinvPage (op 0x000 0xFC 0xC4)) handled post ∧
      stops (.tlbinvAll (op 0x001 0xFC)) handled post ∧ stops (.tlbinvGlob (op 0x002 0xFC 0xFC 0xC0)) handled post lateGlob ∧
      stops (.tblrd (op 0x000 0xC4 0xC6)) handled post (lateTable false) ∧ stops (.tblwr (op 0x000 0xFC 0xC4 0xC6)) handled post (lateTable true) ∧
      stops (.cctlEvict (op 0x004 0xFC 0xC4)) handled post ∧ stops (.ctxsv (op 0x000 0xFC 0xC4)) handled post ∧ stops (.ctxld (op 0x000 0xFC 0xC4)) handled post ∧
      -- ERET of a group that is not the one of ESTAT ends the warp
      stops (.eret (op 0x000 0xFC)) (handled true (fun w => { w with special := { w.special with estat := 0x010000 } }))
        (fun _ w => w.ending == some (0x0C, 0x1000, 0)) lateEret := by decide +kernel

/-- A trap that has waited goes to its handler. -/
theorem test_trap_entry : (match exec (.trapEntry 0 0) (handled false (fun w => { w with trap := some ⟨0xFF, 0x1004, 0x0E, 0x1008, 0x42, false, 0, false, 0, 0⟩ })) with
    | .next t => (t.warp? 0 0).any (trapped 0x0E 0x1008 0x42 t)
    | _ => false) = true := by decide +kernel

/-- A privileged warp whose s4 and s5 hold a number, s6 and s7 another. -/
def ruling (a b : Nat := 0) (f : Warp → Warp := id) : State :=
  start [(0, BitVec.ofNat 32 b), (4, BitVec.ofNat 32 a), (5, BitVec.ofNat 32 (a / 2 ^ 32)), (6, BitVec.ofNat 32 b), (7, BitVec.ofNat 32 (b / 2 ^ 32))] []
    (fun w => f { w with special := { w.special with priv := true } })

def bare (t : State) (w : Warp) : Bool := pcIs 0x1008 t w && (t.core? 0).any (fun k => k.tlb.isEmpty)

theorem test_invalidation :
    answers (.tlbinvPage (op 0x000 0xFC 0xC4)) (ruling 0x3FFFFFFF) bare calm ∧ answers (.tlbinvPage (op 0x000 0xFC 0xC4)) (ruling 0x40000000) (fun t w => !bare t w) calm ∧
      answers (.tlbinvAll (op 0x001 0xFC)) ruling bare calm ∧ answers (.tlbinvGlob (op 0x002 0xFC 0xFC 0xC0)) ruling bare calm lateGlob ∧
      answers (.tlbinvAll (lx none 0x001 0xFC 0 true 0 0xFC 0xFC 0xFC)) ruling (fun t w => !bare t w && pcIs 0x1008 t w) ∧
      -- another warp of the tenant has a load in flight; a copy-engine request to a peer, or a MONW's check, is
      answers (.tlbinvAll (op 0x001 0xFC)) (ruling.setWarp 0 16 { placeWarp with accesses := [{ id := 1, path := .ldg, needs := [2], pages := [0] }] })
        (fun _ w => w.groups.map (·.hold) == [.settles]) calm ∧
      answers (.tlbinvAll (op 0x001 0xFC)) (ruling.modCore 0 (fun k => { k with nyrus := [{ id := 3, slot := 0, access := 1, op := 0, line := 0x40, va := 0x2000, engine := true }] }))
        (fun _ w => w.groups.map (·.hold) == [.settles]) ∧
      answers (.tlbinvAll (op 0x001 0xFC))
        { ruling with caldera := { requests := [(3, { core := 0, slot := 0, access := 0, kind := .monitor 0x2000 0 4, tenant := 0, line := 0x40, sector := 0, va := 0x2000 })] } }
        (fun _ w => w.groups.map (·.hold) == [.settles]) := by decide +kernel

theorem test_cache_control :
    answers (.cctlIcinv (op 0x000 0xFC)) (ruling.modCore 0 (fun k => { k with icache := [(0x1000, 0)] })) (fun t _ => (t.core? 0).any (fun k => k.icache.isEmpty)) ∧
      answers (.cctlL1wb (op 0x001 0xFC)) (lined 1 ruling) (fun t w => (t.l1Find 0 0 0x40).any (fun l => l.dirty == 0) && w.groups.map (·.hold) == [.acks] &&
        t.caldera.requests.any (fun e => SMap.get? 0x2000 e.2.bytes == some 0xEF)) ∧
      answers (.cctlL1wb (op 0x001 0xFC)) (lined 0 ruling) (pcIs 0x1008) ∧
      answers (.cctlL1inv (op 0x002 0xFC)) (lined 1 ruling) (fun t w => (t.l1Find 0 0 0x40).isNone && w.groups.map (·.hold) == [.acks]) ∧
      answers (.cctlLinewb (op 0x003 0xFC 0xC4)) (lined 1 (ruling 0x2000)) (fun t w => (t.l1Find 0 0 0x40).isNone && w.groups.map (·.hold) == [.acks]) ∧
      answers (.cctlLinewb (op 0x003 0xFC 0xC4)) (lined 0 (ruling 0x2000)) (pcIs 0x1008) ∧
      answers (.cctlEvict (op 0x004 0xFC 0xC4)) { lined 0 (ruling 0x2000) with caldera := { lines := [(0x40, { hold := 3 })] } }
        (fun t w => pcIs 0x1008 t w && (t.dir? 0x40).isNone) (fun x s => s.mayEvict 0x40 && pages [0x2000] x s) := by decide +kernel

/-- Reads of management space at the first and the last item of each kind. -/
theorem test_table_reads : let f : LX := op 0x000 0xC6 0xC4
    let s (a : Nat) : State := { ruling a with tenants := [(15, { troot := 0x60001, poisons := 7, regions := [(255, 0x400)] })] }
    let reads (a n : Nat) : Bool := answers (.tblrd f) (s a) (holds 0xC6 (BitVec.ofNat 32 n)) (late := lateTable false)
    reads (15 * 2 ^ 20) 0x60001 ∧ reads (15 * 2 ^ 20 + 8) 7 ∧ reads (15 * 2 ^ 20 + 0x1000 + 8 * 255) 0x400 ∧ reads 0 0 ∧
      reads 0x01000018 0xFF000000 ∧ reads (0x01000000 + 0x40 * 2015 + 0x18) 0xFF000000 ∧ reads 0x02000000 0xFFFF ∧ reads (0x02000000 + 8 * 2015) 0xFFFF ∧ reads 0x03000030 0 ∧
      reads 0x05000000 0 ∧ reads 0x05000008 0 ∧ reads 0x05000010 8 ∧ reads 0x05000018 7 ∧ reads 0x10000318 0 ∧ reads 0x10000338 0 ∧ reads 0x10000340 0 ∧
      answers (.tblrd (lx none 0 0xC6 0 true 0 0xC4 0xFC 0xFC)) (s 8) (pcIs 0x1008) (late := lateTable false) := by decide +kernel

theorem test_table_writes : let f : LX := op 0x000 0xFC 0xC4 0xC6
    let writes (a n : Nat) (post : State → Warp → Bool) : Bool := answers (.tblwr f) (ruling a n) post (late := lateTable true)
    writes (15 * 2 ^ 20) (2 ^ 64 - 1) (fun t _ => (t.tenant 15).troot == 0x0FFFFFFFFFFE0001) ∧
      writes (15 * 2 ^ 20 + 0x1000 + 8 * 255) (2 ^ 63 - 1) (fun t _ => SMap.get? 255 (t.tenant 15).regions == some 0x7EFFFFFFFFFFFC00) ∧
      writes 0x01000018 5 (fun t w => t.pending == [.partitionWrite 0 3 5] && w.groups.map (·.prog.stage) == [23]) ∧
      writes 0x03000000 0x2000 (fun t _ => t.pending == [.directoryProbe 0 0 0x2000]) ∧ writes 0x05000010 0 (fun t _ => t.modul.threshold == 2) ∧
      writes 0x05000018 15 (fun t _ => t.modul.fill == 8) ∧
      writes 0x10000318 0x7 (fun t _ => (t.core? 0).any (fun k => (k.quad 3).pcfgSet == [none, none, none, some 7])) ∧
      writes 0x10000338 (2 ^ 48 + 3) (fun t _ => (t.core? 0).any (fun k => (k.quad 3).pcSet == [none, none, none, some 3])) ∧
      answers (.tblwr (lx none 0 0xFC 0 true 0 0xC4 0xC6 0xFC)) (ruling 0 1) (pcIs 0x1008) (late := lateTable true) := by decide +kernel

/-- A held instruction goes on: its group has the progress `p`, and the answer has `post`. -/
def resumes (i : Instr) (p : Progress) (s : State) (post : State → Warp → Bool) : Bool :=
  let s1 := s.modWarp 0 0 (fun w => { w with groups := w.groups.map (fun g => { g with prog := p }) })
  match exec i s1 with
  | .next t => (match t.warp? 0 0 with | some w' => post t w' | none => false)
  | _ => false

theorem test_goes_on :
    resumes (.tblwr (op 0x000 0xFC 0xC4 0xC6)) { stage := 23 } (ruling 0x03000000 1) (pcIs 0x1008) ∧
      resumes (.monw (op 0x000 2 0xC4 0xC6 0xFC)) { stage := 10, vals := [1] } (start [(4, 0x2000)]) (fun t w => pcIs 0x1008 t w && shows 2 true 0 t w) := by decide +kernel

/-- A step of the machine's own, or of the world's, answers a state of which `post` holds. -/
def becomes (e : Instr) (s : State) (post : State → Bool) : Bool := match exec e s with | .next t => post t | _ => false

/-- PARTITION_WRITE gives quadrant 3 way 0 and bank 0, and its tenant where it has no warp. -/
theorem test_partition_and_probe :
    becomes (.partitionWrite 0 3 (2 ^ 32 + 1 + 5 * 2 ^ 40)) (start []) (fun t => (t.core? 0).any (fun k =>
        (k.quad 3).tenant == 5 && !(k.quad 3).en && (k.quad 3).banks == 0xFF000001 && (k.quad 0).banks == 0xFE && (k.quad 3).ways == 0xC1 && (k.quad 0).ways == 2)) ∧
      becomes (.partitionWrite 0 0 (5 * 2 ^ 40)) (start []) (fun t => (t.core? 0).any (fun k => (k.quad 0).tenant == 0 && (k.quad 0).en)) ∧
      becomes (.directoryProbe 0 0 0x2000) { start [] with caldera := { lines := [(0x40, { hold := 3, pin := true, rmask := [41], wpos := 7 })] } }
        (fun t => (t.warp? 0 0).any (fun w => w.probe.getLsbD 273 && bitsOf w.probe.toNat 330 318 == 3 && w.probe.toNat % 2 ^ 64 == 7)) ∧
      -- way 0 holds a locked line, or an earlier write of the entry waits
      becomes (.partitionWrite 0 3 (2 ^ 32)) ((lined 0 (start [])).modCore 0 (fun k => { k with l1 := k.l1.map (fun l => { l with lock := some 0 }) }))
        (fun t => t.later == [.partitionWrite 0 3 (2 ^ 32)] && (t.core? 0).any (fun k => (k.quad 3).ways == 0xC0)) ∧
      becomes (.partitionWrite 0 3 (2 ^ 32)) { start [] with later := [.partitionWrite 0 3 7] } (fun t => t.later == [.partitionWrite 0 3 7, .partitionWrite 0 3 (2 ^ 32)]) ∧
      becomes (.directoryProbe 0 0 0x2000)
        { start [] with caldera := { lines := [(0x40, { hold := 3, rmask := [41], astamp := 5, use := 9, pull := 33, h0 := 1, h1 := 2, watch := [7], mtgt := some 6, apin := true })] } }
        (fun t => (t.warp? 0 0).any (fun w => bitsOf w.probe.toNat 317 276 == 2 ^ 41 &&
          bitsOf w.probe.toNat 275 230 == 2 ^ 44 + 2 ^ 41 + 5 * 2 ^ 28 + 9 * 2 ^ 24 + 33 * 2 ^ 18 + 2 * 2 ^ 16 + 2 ^ 14 + 2 ^ 13 + 6)) ∧
      becomes (.directoryProbe 0 0 0x2000) (start []) (fun t => (t.warp? 0 0).any (fun w => w.probe.toNat == 0x40 * 2 ^ 331)) := by decide +kernel

/-- CTXSV and CTXLD begin to drain; drained, their span of memory stands ready. -/
theorem test_contexts :
    answers (.ctxsv (op 0x000 0xFC 0xC4)) (ruling 0x8000) (fun _ w => w.drain && w.groups.map (·.hold) == [.drain])
        (fun x s => match s.begun.translate 0 0 (x.a 2 scalarLane) .write true with | .ok _ _ => !x.w.region.active && pages [0x8000] x s | _ => false) ∧
      answers (.ctxld (op 0x000 0xFC 0xC4)) (ruling 0x8000) (fun _ w => w.drain && w.groups.map (·.prog.stage) == [20])
        (fun x s => match s.begun.translate 0 0 (x.a 2 scalarLane) .read true with | .ok pa _ => !s.poisoned pa 32768 | _ => false) ∧
      (State.spanStops (ruling 0x8000) 0x8000 32768 true).isNone ∧ 0x8000 % 32768 = 0 ∧ 0x8000 + 32768 ≤ hbmEnd := by decide +kernel
/-! ## Steps of the machine's own and of the world: each line's state meets the hypotheses of one clause of a statement, and the step has the
clause's chief effect -/

def warpHas (p : Nat) (f : Warp → Bool) (t : State) : Bool := (t.warp? 0 p).any f
def coreHas (f : Core → Bool) (t : State) : Bool := (t.core? 0).any f

/-- Two warps of quadrant 0, each with a lease of 20: in slot 0 one that waits or is head, in slot 1 an admitted one. -/
def contending (st : Admission) (cyc : Nat) (head : Option Nat) : State :=
  ((start []).modWarp 0 0 (fun w => { w with lease := { st := st, decl := 20 } })).modCore 0 (fun k => { k with
    cyc := cyc, warps := k.warps ++ [(1, { placeWarp with lease := { st := .admitted, counted := true, decl := 20 } })],
    quads := k.quads.map (fun q => { q with head := head }) })

theorem test_cycle :
    becomes (.issueCycle 0) { start [] with sel := [] } (fun t => t.cyc 0 == 1 && t.sel.map (·.slot) == [0]) ∧
      becomes (.admissionCycle 0 0) ((start []).modWarp 0 0 (fun w => { w with lease := {} })) (fun t =>
        warpHas 0 (fun w => w.lease.st == .admitted && w.lease.counted) t && coreHas (fun k => (k.quad 0).admitted == 16) t) ∧
      becomes (.headQualify 0 0) (contending .waiting 16383 none) (fun t => coreHas (fun k => (k.quad 0).head == some 0) t &&
        warpHas 0 (fun w => w.lease.st == .head) t && warpHas 1 (fun w => w.lease.st == .returning) t) ∧
      becomes (.headWiden 0 0) (contending .head 16383 (some 0)) (fun t => coreHas (fun k => (k.quad 0).widened) t && warpHas 1 (fun w => w.lease.st == .returning) t) ∧
      (contending .head 16383 (some 0)).core? 0 ≠ none ∧ (contending .waiting 16383 none).modul.fill * 2 * Config.l1Sets / 8 < 640 ∧
      320 ≤ (contending .waiting 16383 none).modul.fill * 2 * Config.l1Sets / 8 ∧
      becomes (.leaseDecay 0 0) (start []) (warpHas 0 (fun w => w.lease.meas == 16)) ∧
      becomes (.runonLimit 0 0) (start [] [] (fun w => { w with preempt := some 4096 })) (warpHas 0 (·.drain)) := by decide +kernel

/-- A result of the divider or of the special-function unit of quadrant 0. -/
def due (divider : Bool) : State :=
  let r : QResult := { slot := 0, code := 4, regs := 2, values := [(0, 7 + 9 * 2 ^ 32)], flags := flagNX, start := 0, due := 1 }
  (start []).modCore 0 (fun k => { k with quads := k.quads.map (fun q => if divider then { q with divider := [r] } else { q with sfu := [r] }) })

/-- A matrix operation in quadrant 0 of the warp in slot 0, whose window starts with the byte 5. -/
def multiplying (o : MatrixOp) (a : List Access := []) : State :=
  (windowed [(0, 5)] 0 0 [] (fun w => { w with accesses := a, paths := { mmx := a.length }, lanes := w.lanes.map (fun l => { l with v := [] }) })).modCore 0 (fun k => { k with
    cyc := 200, quads := k.quads.map (fun q => { q with matrix := [o], nextMatrix := 2 }) })

/-- A multiply whose operands begin with these bytes. -/
def starting (fmt : Nat) (a b : List Byte) : State :=
  let rows (l : List Byte) : MatrixSource := .rows (l ++ List.replicate (3072 - l.length) 0)
  multiplying { id := 1, kind := 0, members := [{ slot := 0, acc := 8, tiles := [0] }], block := 1, entered := 0, fmt := fmt, a := rows a, b := rows b }

theorem test_units : let m : MatrixMember := { slot := 0, acc := 8, tiles := [0] }
    becomes (.classQResult 0 0 false) (due false) (fun t => warpHas 0 (fun w => w.regWord 4 0 == 7 && w.regWord 5 0 == 9 && w.special.fflags == flagNX) t &&
        coreHas (fun k => (k.quad 0).sfu.isEmpty) t) ∧
      becomes (.classQResult 0 0 true) (due true) (warpHas 0 (fun w => w.regWord 5 0 == 9)) ∧
      becomes (.matrixOperandFetched 0 0 1) (multiplying { id := 1, kind := 0, members := [m], block := 1, entered := 0, fetch := some 201 })
        (coreHas (fun k => (k.quad 0).matrix.any (fun o => o.fetch.isNone))) ∧
      becomes (.matrixOperandFetched 0 0 1)
        (multiplying { id := 1, kind := 3, members := [{ m with access := some 1 }], block := 1, entered := 0, fetch := some 201, a := .rows [5], tile := (0, 64, 64) }
          [{ id := 1, path := .mmx, kind := .tile, dst := 8, regs := 8 }])
        (warpHas 0 (fun w => w.regWord 8 0 == 5)) ∧
      -- a poisoned byte of the fetch
      becomes (.matrixOperandFetched 0 0 1) (multiplying { id := 1, kind := 0, members := [m], block := 1, entered := 0, fetch := some 201, bad := some 0x40 })
        (fun t => warpHas 0 (fun w => w.deferred.map (fun d => (d.cause, d.addr, d.code, d.regs)) == [(0x0B, 0x40, 8, 8)]) t && coreHas (fun k => (k.quad 0).matrix.isEmpty) t) ∧
      becomes (.matrixStart 0 0 1) (starting 0x177 [0xFF] [3])
        (coreHas (fun k => (k.quad 0).matrix.any (fun o => o.start == some 201 && o.result.getD 0 0 == 2 ^ 32 - 3))) ∧
      -- the group of R81's example: 1 + 2^-24 + 2^-24 + 2^-50 in bf16, each times 1
      becomes (.matrixStart 0 0 1) (starting 0 [0x80, 0x3F, 0x80, 0x33, 0x80, 0x33, 0x80, 0x26] [0x80, 0x3F, 0x80, 0x3F, 0x80, 0x3F, 0x80, 0x3F])
        (coreHas (fun k => (k.quad 0).matrix.any (fun o => o.result.getD 0 0 == 0x3F800001))) ∧
      becomes (.matrixWriteback 0 0 1) (multiplying { id := 1, kind := 0, members := [m], block := 1, entered := 0, start := some 101, result := [7, 9] })
        (fun t => warpHas 0 (fun w => w.regWord 8 0 == 7 && w.regWord 9 0 == 9) t && coreHas (fun k => (k.quad 0).matrix.isEmpty) t) := by decide +kernel

/-- A warp whose one group is held at a stage. -/
def heldAt (p : Progress) (f : Warp → Warp := id) : State := start [] [] (fun w => f { w with groups := w.groups.map (fun g => { g with hold := .event, prog := p }) })

theorem test_warp_steps : let g (m : BitVec 8) : Group := { mask := m, hold := .regang 0xFF 0 200 0xC4 }
    let s (f : Warp → Warp) : State := (start [] [] f).modCore 0 (fun k => { k with cyc := 200 })
    becomes (.regangTimeout 0 0 0x1000) (s (fun w => { w with groups := [g 0x0F, g 0xF0] })) (warpHas 0 (fun w => w.groups.map (·.mask) == [0xFF] && w.regWord 0xC4 0 == 0xFF)) ∧
      becomes (.wfuseLatchEntry 0 0) (s (fun w => { w with latch := some { instr := .wfuse (op 0x000 0xC4 0 0xC0 0xC1), mask := 0xFF, vals := [1, 8, 0] } }))
        (warpHas 0 (fun w => w.latch.isNone && w.regWord 0xC4 0 == 0x201)) ∧
      becomes (.flashLatch 0 0) (s (fun w => { w with preempt := some 0, latch := some { instr := .flash (op 0x005 0xFC 0xC0 0xC1), mask := 0xFF, vals := [64, 8] } }))
        (fun t => warpHas 0 (fun w => w.flash.valid && w.flash.nv == 64 && w.latch.isNone) t && t.pending.contains (.flashbackSave 0 0)) ∧
      becomes (.accessReturn 0 0 1) (s (fun w => { w with paths := { ldg := 1 }, accesses := [{ id := 1, path := .ldg, kind := .load 4 false, dst := 4, parts := [(0, 0x2000, 4)], bytes := cellsOf 0x2000 4 7 }] }))
        (warpHas 0 (fun w => w.regWord 4 0 == 7 && w.paths.ldg == 0 && w.accesses.isEmpty)) ∧
      becomes (.writeBackAcknowledgement 0 0 3) (start [] [] (fun w => { w with groups := w.groups.map (fun g => { g with hold := .acks, prog := { stage := 2, acks := [3, 4] } }) }))
        (warpHas 0 (fun w => w.groups.map (·.prog.acks) == [[4]])) ∧
      becomes (.monwBoundExpiry 0 0) (s (fun w => { w with park := .monitor 0x40 (some 200), groups := w.groups.map (fun g => { g with hold := .event, prog := { stage := 9 } }) }))
        (warpHas 0 (fun w => w.park == .none && w.lease.st == .waiting && w.groups.map (·.prog.vals) == [[0]])) ∧
      becomes (.writeNotice 0 0x40) (s (fun w => { w with park := .monitor 0x40 none, groups := w.groups.map (fun g => { g with hold := .event, prog := { stage := 9 } }) }))
        (warpHas 0 (fun w => w.park == .none && w.groups.map (·.prog.vals) == [[1]])) ∧
      becomes (.monwCheckReply 0 0 8) (heldAt { stage := 8, note := 3, vals := [0x40, 7, 0, 8, 1] }) (warpHas 0 (fun w => w.groups.map (·.prog.vals) == [[1]])) ∧
      becomes (.monwCheckReply 0 0 7) (heldAt { stage := 8, note := 3, vals := [0x40, 7, 9, 7, 1] }) (fun t => warpHas 0 (fun w => w.park == .monitor 0x40 (some 8)) t &&
        coreHas (fun k => k.monitors.any (fun m => m.line == 0x40)) t) ∧
      becomes (.tlbWalk 0 0 3) (start []) (coreHas (fun k => k.tlb.any (fun y => y.bits == 30 && y.pte == 0x7B))) := by decide +kernel

/-! ### Caldera (R254 to R269) -/

/-- A line at 0x2000 with its entry, and requests on their way. -/
def lineAt (d : DirLine) (reqs : SMap Request := []) (f : Warp → Warp := id) : State :=
  { start [] [] f with mem := cellsOf 0x2000 4 0x89ABCDEF, caldera := { lines := [(0x40, d)], requests := reqs, nextRequest := 9 } }

def lineIs (f : DirLine → Bool) (t : State) : Bool := (t.dir? 0x40).any f
def request (k : RequestKind) : Request := { core := 0, slot := 0, access := 1, kind := k, tenant := 0, line := 0x40, sector := 0 }

theorem test_caldera_requests :
    becomes (.calderaRequest 3) (lineAt { hold := 3 } [(3, request (.read false))] (fun w => { w with accesses := [{ id := 1, path := .ldg, kind := .load 4 false, dst := 4, parts := [(0, 0x2000, 4)], needs := [needCaldera 3] }] }))
        (fun t => t.caldera.requests.isEmpty && t.pending.contains (.accessReturn 0 0 1) && warpHas 0 (fun w => (w.access? 1).any (fun a => SMap.get? 0x2001 a.bytes == some 0xCD)) t) ∧
      becomes (.calderaRequest 3) (lineAt { hold := 3, watch := [5] } [(3, { request (.write false) with bytes := [(0x2001, 7)] })])
        (fun t => Memory.read t.mem 0x2001 == 7 && Memory.read t.mem 0x2000 == 0xEF && lineIs (fun d => d.dirty == [0x100]) t && t.pending.contains (.writeNotice 5 0x40)) ∧
      becomes (.calderaRequest 3) { lineAt { hold := 3 } [(3, request (.read false))] with caldera := { requests := [(3, request (.read false))], nextRequest := 9 } }
        (fun t => SMap.get? 0x40 t.caldera.fills == some [3] && t.pending.contains (.calderaFill 0x40)) := by decide +kernel

theorem test_moves_and_replicas :
    (lineAt { hold := 3 }).demandAt 3 = false ∧ (lineAt { hold := 3 } [(3, request (.read false))]).demandAt 4 = false ∧
      becomes (.moveStart 0x40) (lineAt { hold := 3, mtgt := some 4 }) (fun t => lineIs (fun d => d.st == .moving) t && t.pending.contains (.moveInstall 0x40)) ∧
      becomes (.moveInstall 0x40) (lineAt { hold := 3, st := .moving, mtgt := some 4 }) (fun t => (t.bank 4).lru == [0x40] && t.pending.contains (.moveComplete 0x40)) ∧
      becomes (.moveComplete 0x40) ((lineAt { hold := 3, st := .moving, mtgt := some 4 }).modBank 4 (fun b => { b with lru := [0x40] })) (lineIs (fun d => d.hold == 4 && d.st == .resident && d.mtgt.isNone)) ∧
      becomes (.replicaDropNotice 0x40 5) (lineAt { hold := 3, rmask := [5, 7] }) (lineIs (fun d => d.rmask == [7])) ∧
      becomes (.collapse 0x40) (lineAt { hold := 3, rmask := [5] }) (fun t => lineIs (fun d => d.st == .collapsing && d.unacked == [5]) t && t.pending.contains (.replicaInvalidation 0x40 5)) ∧
      becomes (.replicaInvalidation 0x40 5) (lineAt { hold := 3, st := .collapsing, rmask := [5], unacked := [5], replicas := [(5, 0)] })
        (fun t => lineIs (fun d => d.replicas.isEmpty) t && t.pending.contains (.collapseAck 0x40 5)) ∧
      becomes (.collapseAck 0x40 5) (lineAt { hold := 3, st := .collapsing, rmask := [5, 7], unacked := [5, 7] }) (lineIs (fun d => d.unacked == [7] && d.st == .collapsing)) ∧
      becomes (.collapseAck 0x40 5) (lineAt { hold := 3, st := .collapsing, rmask := [5], unacked := [5] }) (lineIs (fun d => d.rmask.isEmpty && d.st == .resident)) ∧
      becomes (.anchorUnpin 0x40) ((lineAt { hold := 3, apin := true }).modBank ((start []).anchor 0x40) (fun b => { b with count := 4096 })) (lineIs (fun d => !d.apin)) := by
  decide +kernel

/-- An Absent line that one read waits for, and its channel. -/
def filling (f : Channel → Channel) : State :=
  { lineAt { hold := 3 } with caldera := { requests := [(3, request (.read false))], nextRequest := 9, fills := [(0x40, [3])] }, hbm := { channels := [((start []).hbm.channelOf 0x2000, f {})] } }
def coolRow : Nat := hbmRow 0x2000

/-- The fill of the line is due; a row without a counted activation is below the limit, whatever it is, and one above it is not. -/
theorem test_fills : let ch := (start []).hbm.channelOf 0x2000
    becomes (.rowCooldownRelease ch) (filling (fun c => { c with cool := [0x40], acts := [(coolRow, 9)] })) (fun t => (t.hbm.channel ch).cool.isEmpty && t.pending.contains (.calderaFill 0x40)) ∧
      becomes (.wcBufferDrain ch) (filling (fun c => { c with combine := [(0x40, [0x100])] })) (fun t => (t.hbm.channel ch).combine.isEmpty) ∧
      (filling id).dir? 0x40 = none ∧ SMap.get? 0x40 (filling id).caldera.fills = some [3] ∧ (filling id).olderRequest 3 (request (.read false)) = false ∧
      hostLine 0x40 = false := by decide +kernel

/-- Work of class 1 waits at the bank that holds the line at 0x2000, or at its anchor, and units wait behind it. -/
def demanded (d : DirLine) (e : List Instr := []) (scrubs : List (ScrubTarget × ScrubFound) := []) : State :=
  let s := lineAt d [(3, request (.read false))]
  { s with caldera := { s.caldera with scrubs := scrubs }, pending := .calderaRequest 3 :: e }

theorem test_classes : let home := (start []).anchor 0x40
    becomes (.moveStart 0x40) (demanded { hold := 3, mtgt := some 4 }) (lineIs (fun d => d.st == .resident)) ∧
      becomes (.forcedUnit 3 3) (demanded { hold := 3, mtgt := some 4 } [.moveStart 0x40]) (lineIs (fun d => d.st == .moving)) ∧
      becomes (.forcedUnit 4 3) (demanded { hold := 3, st := .moving, mtgt := some 4 } [.moveInstall 0x40]) (fun t => (t.bank 4).lru == [0x40]) ∧
      becomes (.forcedUnit home 2) (demanded { hold := home, rmask := [5] } [.collapse 0x40]) (lineIs (fun d => d.st == .collapsing && d.unacked == [5])) ∧
      becomes (.forcedUnit ((start []).standIn 0x40 5) 2) (demanded { hold := 3, st := .collapsing, rmask := [5], unacked := [5], replicas := [(5, 0)] } [.replicaInvalidation 0x40 5])
        (fun t => lineIs (fun d => d.replicas.isEmpty) t && t.pending.contains (.collapseAck 0x40 5)) ∧
      becomes (.scrubUnit (.bank home) (.corrected true)) (demanded { hold := home }) (fun t => t.caldera.scrubs == [(.bank home, .corrected true)] && t.modul.errors.isEmpty) ∧
      becomes (.forcedUnit home 4) (demanded { hold := home } [] [(.bank home, .corrected true)]) (fun t => t.caldera.scrubs.isEmpty && t.pending.contains (.bankRetirement home)) ∧
      -- a tenant stopped at the line's channel; a notice while the line moves
      becomes (.calderaFill 0x40) (filling (fun c => { c with stopped := [0] })) (fun t => t.later.contains (.calderaFill 0x40) && (t.dir? 0x40).isNone) ∧
      becomes (.replicaDropNotice 0x40 5) (lineAt { hold := 3, st := .moving, mtgt := some 4, rmask := [5, 7] }) (lineIs (fun d => d.rmask == [7])) := by decide +kernel

/-- The granule that is copied next, of channel 1 and row 0, begins with line 522: its bank has class-1 work, or not. -/
theorem test_reinterleave : let g := (start []).anchor 522
    let s (busy : Bool) : State := { lineAt { hold := 3 } with
      hbm := { before := [(1, { st := 2, ch := 1 })] }, caldera := { requests := [(3, { request (.read false) with line := 522 })] }, pending := if busy then [.calderaRequest 3] else [] }
    (s true).moveBanks.head? = some g ∧ becomes .reinterleaveUnit (s false) (fun t => t.hbm.watermark == 1) ∧ becomes .reinterleaveUnit (s true) (fun t => t.hbm.watermark == 0) ∧
      becomes (.forcedUnit g 4) (s true) (fun t => t.hbm.watermark == 1) := by decide +kernel

theorem witness_lane : (({ cool := List.replicate 16 0x40 } : Channel).lane (hbmRow 0x2000)).length = 16 := by simp [Channel.lane]

theorem witness_rows (c : Channel) (s : State) : { c with acts := [(5, s.rowLimit + 1)] }.limited s.rowLimit 5 = true ∧ { c with acts := [] }.limited s.rowLimit 5 = false :=
  ⟨decide_eq_true ⟨Nat.succ_ne_zero s.rowLimit, Nat.le_succ s.rowLimit⟩, rfl⟩

theorem test_retirement : let s : State := lineAt { hold := 3 }
    becomes (.channelRetirement 5) s (fun t => (t.hbm.entry 5).st == 2) ∧
      becomes (.channelRetirement 5) { s with hbm := { list := [(7, { st := 2, ch := 7 })], retired := [7] } } (fun t => SMap.get? 0 t.hbm.lost == some 0 && t.hbm.retired == [7, 5]) ∧
      becomes .reinterleaveUnit { s with hbm := { list := [(5, { st := 2, ch := 5 })], retired := [5] } } (fun t => t.hbm.watermark == 1 && (t.hbm.entry 5).st == 0 && (t.hbm.entry 5).ch != 5) ∧
      becomes .reinterleaveUnit { s with hbm := { before := [(5, { st := 2, ch := 5 })], watermark := 2 ^ 23 - 1 } } (fun t => t.hbm.before.isEmpty) ∧
      becomes (.bankRetirement 3) s (fun t => !(t.bank 3).live && (t.dir? 0x40).isNone) ∧
      becomes (.forcedUnit 3 3) { lineAt { hold := 3, mtgt := some 4 } with pending := [.moveStart 0x40] } (lineIs (fun d => d.st == .moving)) ∧
      becomes (.scrubUnit (.bank 3) (.corrected true)) s (fun t => t.pending.contains (.bankRetirement 3) && (SMap.get 0 (0x11100000 + 0x60 + 4) t.modul.errors).toNat == 1) ∧
      becomes (.scrubUnit (.bank 3) (.uncorrectable false 0x2000)) (lineAt { hold := 3, dirty := [0x100] }) (fun t => t.poison == [0x100]) ∧
      becomes (.scrubUnit (.bank 3) .clean) s (· == s) ∧
      becomes (.coreRetirement 0) (s.modCore 0 (fun k => { k with blocks := [], warps := [] })) (fun t => coreHas (fun k => k.st == 3 && k.lnum == 0xFFFF) t && t.modul.probation.contains 0) := by
  decide +kernel

/-! ### Banks and regions, stage queues, the copy engine (R305 to R324, R354 to R359) -/

/-- A warp of core 0 in region number 5, which touches the line at 0x2000. -/
def regional (g : Region → Region := id) (d : DirLine := { hold := 3, wpos := 6 }) (reqs : SMap Request := []) (f : Bank → Bank := id) : State :=
  (lineAt d reqs (fun w => { w with region := g { st := 1, depth := 1, epoch := 5, alo := 2, ahi := 90, target := 0x3000, latchFmt := 0x42, latch := [{ p := 3 }] }, accesses := [{ id := 1, path := .ldg, kind := .load 4 false, parts := [(0, 0x2000, 4)], needs := [needCaldera 3] }] })).modBank
    ((start []).anchor 0x40) f

def regionIs (f : Region → Bool) : State → Bool := warpHas 0 (fun w => f w.region)
def bankIs (f : Bank → Bool) (t : State) : Bool := f (t.bank ((start []).anchor 0x40))
def tracked (k : RequestKind) : Request := { request k with lo := 1, hi := 50 }
def conflictAt (write granted : Bool) : Conflict := { region := 5, line := 0x40, read := !write, write := write, rver := 6, lo := 7, hi := 50, grant := granted }
def visit (granted : Bool) : Visit := { region := 5, lines := [0x40], bytes := [(0x2001, 7)], granted := granted }

theorem test_conflicts : let home := (start []).anchor 0x40
    becomes (.regionTrackedRead 3) (regional id { hold := 3, wpos := 6 } [(3, tracked (.tracked 5))]) (fun t => bankIs (fun b => b.conflicts == [{ conflictAt false false with lo := 7, made := 1 }]) t &&
        regionIs (fun r => (SMap.get? 0x40 r.reads).isSome) t && t.caldera.requests.isEmpty) ∧
      becomes (.writeIntent 3) (regional id { hold := 3, wpos := 6 } [(3, tracked (.intent 5))]) (bankIs (fun b => b.conflicts.map (fun e => (e.write, e.read, e.lo)) == [(true, false, 1)])) ∧
      becomes (.narrowMsg { region := 5, partner := 9, pre := false, fol := true, lo := 10, hi := 40 }) (regional (fun r => { r with rigid := true })) (fun t => t.pending.contains (.regionAbort 0 0)) ∧
      becomes (.narrowMsg { region := 5, partner := 9, pre := false, fol := true, lo := 10, hi := 40 }) (regional)
        (regionIs (fun r => r.alo == 10 && r.ahi == 40 && r.partners == [{ region := 9, fol := true, pre := false }])) ∧
      becomes (.commitVisit 5 home) (regional (fun r => { r with toVisit := [home] }) { hold := 3 } [] (fun b => { b with conflicts := [conflictAt true false] }))
        (fun t => bankIs (fun b => b.visits.map (·.lines) == [[0x40]]) t && t.pending.contains (.commitGrant 5 home)) ∧
      becomes (.commitGrant 5 home) (regional (fun r => { r with toVisit := [home], ceiling := 90 }) { hold := 3, wpos := 6 } [] (fun b => { b with conflicts := [conflictAt true false], visits := [visit false] }))
        (fun t => bankIs (fun b => b.conflicts.map (·.grant) == [true]) t && regionIs (fun r => r.granted == [home] && r.toVisit.isEmpty && r.floor == 7 && r.ceiling == 50) t) ∧
      -- a half that the host holds is asked back first
      becomes (.commitGrant 5 home) (regional (fun r => { r with toVisit := [home], ceiling := 90 }) { hold := 3, wpos := 6, h0 := 1 } [] (fun b => { b with conflicts := [conflictAt true false], visits := [visit false] }))
        (fun t => lineIs (fun d => d.snooped == [0]) t && regionIs (fun r => r.granted.isEmpty && r.toVisit == [home]) t) ∧
      becomes (.finalAtPartner 5 9 20) (regional (fun r => { r with partners := [{ region := 9, pre := true }] })) (regionIs (fun r => r.alo == 21 && r.ahi == 90)) ∧
      becomes (.finalMsg 5 home 20) (regional id { hold := 3, wpos := 6 } [] (fun b => { b with conflicts := [conflictAt true true], visits := [visit true] }))
        (fun t => bankIs (fun b => b.conflicts.isEmpty && b.visits.isEmpty) t && Memory.read t.mem 0x2001 == 7 && Memory.read t.mem 0x2000 == 0xEF && lineIs (fun d => d.wpos == 20) t) ∧
      becomes (.releaseMsg 5 home) (regional (fun r => { r with depth := 0 }) { hold := 3 } [] (fun b => { b with conflicts := [conflictAt false false, { conflictAt true false with region := 6 }] }))
        (bankIs (fun b => b.conflicts.map (·.region) == [6])) ∧
      becomes (.regionAbort 0 0) (regional (fun r => { r with cause := some (1, 0x44) }) { hold := 3 } [] (fun b => { b with conflicts := [conflictAt false false] }))
        (fun t => regionIs (fun r => r.st == 4 && r.depth == 0 && r.reason == 1 && r.detail == 0x44 && SMap.get 0 1 r.aborts == 1) t && t.pending.contains (.releaseMsg 5 home) &&
          warpHas 0 (fun w => (w.slice 0).pc == 0x3000 && (w.slice 0).fmt == 0x42 && (w.lane 0).p == 3) t) := by decide +kernel

/-- A queue header at 0x2000 of two slots of 64 bytes at 0x3000: TAIL, READY, HEAD, whether it is closed. -/
def header (tail ready head : Nat) (closed : Bool := false) : Nat :=
  0x3000 + 2 ^ 64 + (if closed then 2 ^ 96 else 0) + head * 2 ^ 160 + tail * 2 ^ 192 + ready * 2 ^ 224 + head % 2 * 2 ^ 256 + tail % 2 * 2 ^ 272 + ready % 2 * 2 ^ 288

/-- The cells of a number, without those that hold 0. -/
def sparse (a v : Nat) : List Host.Cell := (cellsOf a 128 v).filter (fun e => e.2 != 0)

/-- A message of the warp's access 1 to that header; ring slot 0 starts with the byte 9. -/
def messaged (h : Nat) (m : StageMessage) (preds : List Nat := []) : State :=
  let s := start [] [] (fun w => { w with accesses := [{ id := 1, path := .xen, parts := [(0, 0, 0)], ops := [(preds.getD 0 1, preds.getD 1 2, preds.getD 2 3, 0)] }] })
  { s with mem := sparse 0x2000 h ++ [(0x3000, 9)], launches := { s.launches with messages := [(1, m)], nextMessage := 2 } }

def message (o : Nat) : StageMessage := { core := 0, slot := 0, access := 1, header := 0x2000, ring := 0x3000, op := o, tenant := 0, lanes := [(0, 0x55)] }
def headerIs (f : Nat → Bool) (t : State) : Bool := f (Memory.readNum t.mem 0x2000 128)
def accessHas (f : Access → Bool) : State → Bool := warpHas 0 (fun w => (w.access? 1).any f)

theorem test_stage_messages :
    becomes (.stagePush 1) (messaged (header 0 0 0) (message 0)) (fun t => headerIs (· == header 1 0 0) t && t.pending.contains (.stageRecordAck 2) && (t.message? 2).any (fun m => m.op == 2 && m.place == 0 && m.bytes.take 2 == [0x55, 0])) ∧
      becomes (.stagePush 1) (messaged (header 0 0 0 true) (message 0)) (accessHas (fun a => a.preds == [(0, 1, false)])) ∧
      becomes (.stagePush 1) (messaged (header 2 0 0) (message 0)) (fun t => t.mem == (messaged (header 2 0 0) (message 0)).mem) ∧
      becomes (.stageRecordAck 1) (messaged (header 1 0 0) { message 2 with lanes := [], bytes := bytesOf 0x55 64 }) (fun t => headerIs (· == header 1 1 0) t && Memory.read t.mem 0x3000 == 0x55) ∧
      becomes (.stagePop 1) (messaged (header 1 1 0) (message 1)) (fun t => headerIs (· == header 1 1 1) t && accessHas (fun a => SMap.get? 0 a.values == some 9 && a.preds == [(0, 1, true), (0, 2, false), (0, 3, false)]) t) ∧
      becomes (.stagePop 1) (messaged (header 1 1 1 true) (message 1)) (accessHas (fun a => a.preds == [(0, 1, false), (0, 2, true), (0, 3, false)])) ∧
      becomes (.stagePop 1) (messaged (header 1 1 1) (message 1)) (warpHas 0 (fun w => w.park == .queue 0x2000 && w.lease.st == .parked)) ∧
      -- of a warp that is parked already
      becomes (.stagePop 1) ((messaged (header 1 1 1) (message 1)).modWarp 0 0 (fun w => { w with park := .barrier 16 true })) (warpHas 0 (fun w => w.park == .queue 0x2000 && w.behind == [.barrier 16 true])) := by
  decide +kernel

/-- A command of the copy engine: two words within the window, with the strides 4. -/
def engaged (e : EngineCommand → EngineCommand) : State :=
  (windowed [(4, 9)] 0 0 [] (fun w => { w with accesses := [{ id := 1, path := .xen, needs := [1] }] })).modCore 0 (fun k => { k with
    engine := [e { slot := 0, access := 1, op := 0, flags := 0, descVa := 0x3000, src := 4, dst := 16, desc := bytesOf (4 + 16 * 2 ^ 64 + (2 + 2 ^ 3 + 2 ^ 7 + 2 ^ 8) * 2 ^ 192 + (2 + 4 * 2 ^ 32 + 4 * 2 ^ 80) * 2 ^ 256) 128 }] })

theorem test_engine_steps :
    -- another quadrant has the turn of this cycle
    becomes (.engineCommand 0 0) ((engaged id).modCore 0 (fun k => { k with engineTurn := { cyc := some k.cyc, quad := 1, left := 64 } }))
        (fun t => t.later.contains (.engineCommand 0 0) && coreHas (fun k => k.engine.map (·.next) == [0]) t) ∧
      becomes (.engineCommand 0 0) (engaged id) (fun t => (t.block? 0 1).any (fun b => SMap.get 0 16 b.window == 9) && coreHas (fun k => k.engine.map (·.next) == [1]) t && t.pending.contains (.engineCommand 0 0)) ∧
      becomes (.engineCommand 0 0) (engaged (fun e => { e with next := 1 })) (fun t => coreHas (fun k => k.engine.map (·.done) == [true]) t && t.pending.contains (.engineCommandDone 0 0)) ∧
      becomes (.engineCommandDone 0 0) (engaged (fun e => { e with done := true, stage := 1, returns := [1] })) (fun t => t.later.contains (.engineCommandDone 0 0) && coreHas (fun k => k.engine.map (·.stage) == [1]) t) ∧
      becomes (.engineCommandDone 0 0) (engaged (fun e => { e with done := true })) (fun t => coreHas (fun k => k.engine.isEmpty) t && t.pending.contains (.accessReturn 0 0 1)) := by decide +kernel

/-! ### Launches, pre-emption and the links (R33 to R60, R142, R346 to R364, R426 to R429, R452 to R455) -/

/-- A launch record of four blocks of one warp of 16 lanes, with the entry 0x1000, the parameters 0x9_0000_0007 and 16 registers. -/
def launchRecord (tenant : Nat := 0) : Nat :=
  0x1000 + (7 + 9 * 2 ^ 32) * 2 ^ 64 + 16 * 2 ^ 320 + (4 + 2 ^ 24) * 2 ^ 352 + 16 * 2 ^ 768 + 20 * 2 ^ 804 + tenant * 2 ^ 815 + 2 * 2 ^ 821

/-- Queue 3 of tenant 0, with a ring of four records at 0x2000 of which the first waits. -/
def queueing (r : Nat) : State :=
  { start [] with mem := sparse 0x2000 r, tenants := [(0, { troot := 1, queues := [(3, { base := 0x2000, ctrl := 1 + 2 ^ 21, tail := 1 })] })] }

def queueIs (f : LaunchQueue → Bool) (t : State) : Bool := f ((t.tenant 0).queue 3)
def launchHas (id : Nat) (f : Launch → Bool) (t : State) : Bool := (t.launch? id).any f

/-- A launch of tenant 0 with the number 1, which the placed warp belongs to. -/
def launched (l : Launch → Launch) (f : Warp → Warp := id) : State :=
  let s := start [] [] f
  { s with launches := { s.launches with launches := [(1, l { tenant := 0, queue := 3, va := 0x2000, record := bytesOf launchRecord 128 })], nextLaunch := 2 } }

theorem test_launch_records :
    becomes .launchRecordTake (queueing (launchRecord 1)) (fun t => queueIs (fun q => q.head == 1 && q.stat == 1) t && t.launches.launches.isEmpty && (t.tenant 0).fqLost == 1) ∧
      becomes .launchRecordTake (queueing launchRecord) (fun t => queueIs (fun q => q.head == 1 && q.stat == 0) t && launchHas 1 (fun l => l.waiting.map Prod.fst == [0, 1, 2, 3] && l.va == 0x2000) t) ∧
      becomes (.blockStart 1 2 0) (launched (fun l => { l with waiting := [(2, some 0)] })) (fun t => launchHas 1 (fun l => l.started && l.waiting.isEmpty && l.liveWarps == 1) t &&
        coreHas (fun k => k.warps.any (fun e => e.1 != 0 && e.2.regWord 192 32 == 7 && e.2.regWord 193 32 == 9 && (e.2.slice 7).pc == 0x1000 && (e.2.lane 16).exited && !(e.2.lane 15).exited &&
          e.2.lease.decl == 20)) t) ∧
      becomes (.warpEnd 0 0) (launched (fun l => { l with started := true, liveWarps := 1 }) (fun w => { w with groups := [] }))
        (fun t => (t.warp? 0 0).isNone && (t.block? 0 1).isNone && launchHas 1 (fun l => l.liveWarps == 0) t && t.pending.contains (.launchCompletion 1)) ∧
      becomes (.launchCompletion 1) (launched (fun l => { l with started := true })) (launchHas 1 (·.flushed)) ∧
      becomes (.launchCompletion 1) (launched (fun l => { l with started := true, flushed := true, record := bytesOf (launchRecord + 2 ^ 986 + 5 * 2 ^ 978) 128 }))
        (fun t => (t.launch? 1).isNone && (t.tenant 0).fence 5 == 1) := by decide +kernel

/-- A tenant with a context area of two slots, and a block that is to be saved in slot 1; its launch's recipe stands at 0x2000. -/
def stopping (b : Block → Block) (f : Warp → Warp := id) : State :=
  let s := launched (fun l => { l with record := bytesOf (launchRecord + 0x2000 * 2 ^ 192) 128 }) f
  { s.modCore 0 (fun k => { k with blocks := k.blocks.map (fun e => (e.1, b e.2)) }) with
    mem := cellsOf 0x2000 8 (1 + 4 * 2 ^ 32), tenants := [(0, { troot := 1, ctxArea := 0x1000000, ctxSlots := 2, slotsUsed := [0] })] }

/-- The block with its one warp, saved in slot 1. -/
def savedOne : State :=
  let s := stopping id
  { s with
    cores := [(0, { warps := [], blocks := [], tlb := [{ tenant := 0, va := 0, bits := 30, pte := placeLeaf }] })], mem := [(0x1600000, 9), (0x1680000, 1)],
    tenants := [(0, { troot := 1, ctxArea := 0x1000000, ctxSlots := 2, slotsUsed := [1] })],
    launches := { s.launches with saved := [{ tenant := 0, launch := 1, slot := 1, prio := 0, reticle := some 0, warps := [(0, placeWarp)], block := { launch := 1, tenant := 0, index := 0, slots := [0], spad := 64, barriers := 0, banks := [], saving := some 1 } }] } }

theorem test_preemption :
    becomes (.flashbackSave 0 0)
        (stopping (fun b => { b with saving := some 1 }) (fun w => { w with preempt := some 0, flash := { valid := true, pc := 0x1008 }, paths := { ldg := 1 }, accesses := [{ id := 1, path := .ldg, needs := [7] }] }))
        (warpHas 0 (fun w => w.saved == some (some 0x2010) && w.preempt.isNone && w.lease.st == .parked && w.accesses.map (·.refused) == [true])) ∧
      becomes (.preemptRequest 0 0) (stopping id) (fun t => (t.tenant 0).slotsUsed == [0, 1] && (t.block? 0 1).any (fun b => b.saving == some 1) && warpHas 0 (fun w => w.preempt == some 0) t) ∧
      becomes (.preemptRequest 0 3) (stopping id) (· == stopping id) ∧
      becomes (.blockResume 0 1 0) savedOne (fun t => (t.block? 0 1).any (fun b => SMap.get 0 0 b.window == 9 && b.empty.head? == some 1 && b.empty.length == 15) && (t.warp? 0 0).isSome &&
        t.launches.saved.isEmpty && (t.tenant 0).slotsUsed.isEmpty) := by decide +kernel

/-- A QPUSH of the warp is half served. -/
theorem test_half_served : becomes (.flashbackSave 0 0)
    { stopping (fun b => { b with saving := some 1 }) (fun w => { w with preempt := some 0, flash := { valid := true, pc := 0x1008 }, accesses := [{ id := 1, path := .stg, preds := [(0, 1, true)] }] }) with
      launches := { (stopping id).launches with messages := [(1, message 0)], nextMessage := 2 } }
    (warpHas 0 (fun w => w.saved.isNone && w.preempt.isSome)) = true := by decide +kernel

/-- A request of the warp to module 1. -/
def linked1 (sent : Option Nat) (line : Nat := 2 ^ 51 + 2 ^ 37 + 0x40) : State :=
  (start [] [] (fun w => { w with accesses := [{ id := 1, path := .peer, kind := .load 4 false, dst := 4, parts := [(0, 2 ^ 58 + 2 ^ 44 + 0x2000, 4)], needs := [needNyrus 3] }] })).modCore 0 (fun k => { k with
    cyc := 0x400005, nyrus := [{ id := 3, slot := 0, access := 1, op := 0, line := line, va := 0x40, sent := sent }] })

def failedOnce (t : State) : Bool :=
  warpHas 0 (fun w => w.deferred.map (fun d => (d.cause, d.addr)) == [(0x0D, 0x40)]) t && coreHas (fun k => k.nyrus.isEmpty) t && t.pending.contains (.accessReturn 0 0 1)

def answered (l : List (List Byte)) (t : State) : Bool := t.modul.answers == l

theorem test_links : let s : State := { start [] with mem := [(0x2001, 7)] }
    becomes (.nyrusRequestLeave 0 3) (linked1 none) (coreHas (fun k => k.nyrus.map (·.sent) == [some 0x400005])) ∧
      becomes (.nyrusRequestLeave 0 3) (linked1 none (2 ^ 51 + 9216 * 2 ^ 37)) failedOnce ∧
      becomes (.nyrusRequestLeave 0 3) { linked1 none with modul := { (linked1 none).modul with noRoute := [1] } } failedOnce ∧
      becomes (.peerTimeout 0 3) (linked1 (some 5)) failedOnce ∧
      -- with no lane of the link left: a request to the module itself is served, another waits
      becomes (.nyrusRequestLeave 0 3)
        { linked1 none (2 ^ 51 + 0x40) with caldera := { lines := [(0x40, { hold := 3 })] }, modul := { (linked1 none).modul with lanesRetired := List.range 72 } }
        (fun t => coreHas (fun k => k.nyrus.isEmpty) t && t.pending.contains (.accessReturn 0 0 1)) ∧
      becomes (.nyrusRequestLeave 0 3) { linked1 none with modul := { (linked1 none).modul with lanesRetired := List.range 72 } } (coreHas (fun k => k.nyrus.map (·.sent) == [none])) ∧
      becomes (.nyrusResponse 0 3 (0x11 :: List.replicate 127 0x22)) (linked1 (some 6)) (fun t => coreHas (fun k => k.nyrus.isEmpty) t &&
        warpHas 0 (fun w => (w.access? 1).any (fun a => SMap.get? (2 ^ 58 + 2 ^ 44 + 0x2000) a.bytes == some 0x11)) t && t.pending.contains (.accessReturn 0 0 1)) ∧
      becomes (.peerRequestServe (.read 0x2000 3)) { s with caldera := { lines := [(0x40, { hold := 3 })] } } (answered [[0, 7, 0]]) ∧
      becomes (.peerRequestServe (.read 0x2000 3)) s (answered [[0, 7, 0]]) ∧ becomes (.peerRequestServe (.read 0x2E400000000 3)) s (answered [[]]) ∧
      becomes (.peerRequestServe (.write 0x2002 [8, 9])) s (fun t => answered [[]] t && Memory.readNum t.mem 0x2000 4 == 0x09080700) ∧
      becomes (.nyrusLaneRetire 71) s (fun t => t.modul.lanesRetired == [71] && (SMap.get 0 0x113008E8 t.modul.errors).toNat == 1) := by decide +kernel

/-- Port 2 belongs to tenant 0, with one header at 0x2000 for both directions: a ring of four records of 128 bytes at 0x3000. -/
def ported (tail ready head : Nat) (r : Nat) : State :=
  let h := header tail ready head + 2 * 2 ^ 64 + 2 ^ 80
  { start [] with mem := sparse 0x2000 h ++ sparse 0x3000 r, modul := { (start []).modul with ports := [(2, { owner := some 0, rxHeader := 0x2000, txHeader := 0x2000 })] } }

def ethSlot (buf len stat : Nat) (t : State) : Bool := Memory.readNum t.mem 0x3000 128 == buf + len * 2 ^ 64 + stat * 2 ^ 96
def pointers (tail ready head : Nat) : State → Bool := headerIs (fun h => h == header tail ready head + 2 * 2 ^ 64 + 2 ^ 80)
def portHas (f : EthPort → Bool) (t : State) : Bool := f (t.port 2)

theorem test_ports :
    becomes (.ethTransmit 2) (ported 1 1 0 (0x4000 + 64 * 2 ^ 64)) (fun t => pointers 1 1 1 t && ethSlot 0x4000 64 0 t && portHas (fun p => p.sent.map (·.length) == [64]) t) ∧
      becomes (.ethTransmit 2) (ported 1 1 0 (0x4000 + 63 * 2 ^ 64)) (fun t => pointers 1 1 1 t && ethSlot 0x4000 63 2 t && portHas (·.sent.isEmpty) t) := by decide +kernel

theorem test_frames :
    becomes (.ethFrameReceive 2 [1, 2] true) (ported 0 0 0 0x4000) (fun t => pointers 1 1 0 t && ethSlot 0x4000 2 2 t) ∧
      becomes (.ethFrameReceive 2 [1, 2] true) (ported 4 4 0 0x4000) (portHas (fun p => p.drops == 1)) := by decide +kernel

/-! ### Host and management (R270, R271, R343 to R345, R361, R423, R448 to R461) -/

/-- Tenant 5 with the launch queue 3 of four records, of which two wait, and a fault queue of four records at 0x5000 that is full. -/
def hosted (t : Tenant → Tenant := id) (q : LaunchQueue → LaunchQueue := id) : State :=
  { (start []).modCore 0 (fun k => { k with tlb := { tenant := 5, va := 0, bits := 30, pte := placeLeaf } :: k.tlb }) with tenants := [(0, { troot := 1 }), (5, t {
    troot := 1, queues := [(3, q { base := 0x2000, ctrl := 1 + 2 ^ 21, head := 1, tail := 3 })], fqBase := 0x5000, fqCtrl := 1 + 2 ^ 21, fqHead := 1, fqTail := 5 })] }

def tenantIs (f : Tenant → Bool) (t : State) : Bool := f (t.tenant 5)

theorem test_registers : let q (f : LaunchQueue → Bool) : State → Bool := tenantIs (fun t => f (t.queue 3))
    let r : List Byte := 0x77 :: List.replicate 63 0x66
    becomes (.qtailWrite 5 3 5) (hosted) (fun t => q (fun k => k.tail == 5 && k.stat == 0) t && t.pending.contains .launchRecordTake) ∧
      becomes (.qtailWrite 5 3 6) (hosted) (q (fun k => k.tail == 3 && k.stat == 0x10000)) ∧
      becomes (.qtailWrite 5 3 2) (hosted) (q (fun k => k.tail == 3 && k.stat == 0x10000)) ∧
      becomes (.qtailWrite 5 3 4) (hosted id (fun k => { k with ctrl := 9 + 2 ^ 21 })) (· == hosted id (fun k => { k with ctrl := 9 + 2 ^ 21 })) ∧
      becomes (.registerWrite 5 0x12008 ⟨8, 0xFFFFFFFFFFFC⟩) (hosted) (tenantIs (fun t => t.tvec == 0xFFFFFFFFFFFC)) ∧
      becomes (.registerWrite 5 0x12008 ⟨8, 0x1000000000000⟩) (hosted) (· == hosted) ∧ becomes (.registerWrite 5 0x12008 ⟨8, 2⟩) (hosted) (· == hosted) ∧
      becomes (.registerWrite 5 0x10060 ⟨8, 0x20FF⟩) (hosted id (fun k => { k with ctrl := 0 })) (q (fun k => k.base == 0x2080)) ∧
      becomes (.registerWrite 5 0x21000 ⟨8, 1⟩) (hosted) (· == hosted) ∧
      becomes (.fqheadWrite 5 2) (hosted) (tenantIs (fun t => t.fqHead == 2 && t.fqTail == 5)) ∧
      becomes (.fqheadWrite 5 2) { hosted (fun t => { t with fqWait := [r] }) with caldera := { lines := [(0xA0, { hold := 3 })] } } (tenantIs (fun t => t.fqTail == 6)) ∧
      becomes (.fqheadWrite 5 2) (hosted (fun t => { t with fqWait := [r] })) (fun t => tenantIs (fun t => t.fqHead == 2 && t.fqTail == 6 && t.fqWait.isEmpty) t && Memory.read t.mem 0x5041 == 0x66) ∧
      becomes (.qtailWrite 5 3 4) (hosted (fun t => { t with resetting := true })) (· == hosted (fun t => { t with resetting := true })) ∧
      becomes (.registerWrite 5 (0x11800 + 8 * 255) ⟨8, 2⟩) (hosted) (tenantIs (fun t => t.fence 255 == 2)) ∧ becomes (.registerWrite 5 0x11800 ⟨4, 2⟩) (hosted) (· == hosted) ∧
      becomes (.fcvalWrite 5 255 7) (hosted) (fun t => tenantIs (fun t => t.fence 255 == 7) t && t.pending.contains .launchRecordTake) ∧
      becomes (.fcaddWrite 5 255 2) (hosted (fun t => { t with fences := [(255, 0xFFFFFFFFFFFFFFFF)] })) (tenantIs (fun t => t.fence 255 == 1)) ∧
      becomes (.functionLevelReset 5) (hosted (fun t => { t with tvec := 4, fences := [(1, 2)] })) (fun t => tenantIs (· == { troot := 1 }) t && (t.tenant 0).troot == 1) := by decide +kernel

/-- The warp is parked on token 7, after a fault at 0x40. -/
def paused : State :=
  let s := start [] [] (fun w => { w with
    park := .pageFault 7, special := { w.special with evec := 0x8000 }, faulted := some ⟨0xFF, 0x1008, 6, 0x1008, 0x42, false, 0, false, 0, 0⟩, lease := { w.lease with st := .parked } })
  { s with launches := { s.launches with parked := [(0, 7, 0, 0)] } }

theorem test_tokens :
    becomes (.resumeWrite 0 7) paused (fun t => (t.parkedOn 0 7).isEmpty && warpHas 0 (fun w => w.park == .none && w.lease.st == .waiting && !w.special.priv) t) ∧
      becomes (.fqfail 0 7) paused (fun t => (t.parkedOn 0 7).isEmpty && warpHas 0 (fun w => w.park == .none && w.special.priv && (w.slice 0).pc == 0x8000 && w.special.epc == 0x1008 &&
        w.special.eval == 0x42 && bitsOf w.special.ecause.toNat 7 0 == 6) t) := by decide +kernel

/-- The module's settings by the mailbox: a command's code, arguments, whether it is signed, and one field that it leaves. -/
def mailed (code : Nat) (args : List DWord) (signed : Bool) (f : Module → Nat) (n : Nat) : Prop :=
  becomes (.mboxCommand { code := code, args := args, signed := signed }) (start []) (fun t => f t.modul == n) = true

theorem test_mailbox : mailed 1 [0, 0, 16] true (·.threshold) 15 ∧ mailed 1 [0, 0, 1] true (·.threshold) 2 ∧ mailed 2 [0, 0, 9] true (·.fill) 8 ∧ mailed 3 [0, 0, 0] true (·.peerTimeout) 4096 ∧
    mailed 4 [0, 0, 1] true (·.powerCap) 4000 ∧ mailed 8 [0, 0, 0] true (fun m => m.rowLimit.getD 0) 1 ∧ mailed 10 [0, 0, 7, 0] true (fun m => m.noRoute.headD 0) 7 ∧ mailed 0 [0, 0, 9] true (fun m => m.approved.headD 0) 9 ∧ mailed 1 [0, 0, 2] false (·.threshold) 8 ∧ mailed 1 [0, 1, 2] true (·.threshold) 8 := by
  unfold mailed; decide +kernel

theorem test_management : let s : State := start []
    becomes (.functionLevelReset 0) { s with poison := [3], modul := { s.modul with mgen := 4 } } (fun t => t.cores.isEmpty && t.tenants.isEmpty && !t.modul.booted && t.modul.mgen == 4 && t.poison == [3]) ∧
      -- the HBM keeps what lay below a dirty sector
      becomes (.functionLevelReset 0) { s with mem := [(0x2001, 7)], hbm := { under := [(0x100, (0x900, true))] } } (fun t => Memory.read t.mem 0x2001 == 9 && t.poison == [0x100] && t.hbm.under.isEmpty) ∧
      becomes (.registerWrite 0 0x20002 ⟨2, 0x1234⟩) s (fun t => t.modul.mbox == [(2, 0x34), (3, 0x12)]) ∧
      becomes (.mboxCommand { code := 11, args := [0, 0, 1, 3], signed := true }) s (·.pending.contains (.bankRetirement 3)) ∧
      becomes (.mboxCommand { code := 12, args := [0, 0, 0], signed := true }) s (fun t => t.modul.trip == some 0) ∧
      becomes (.firmwareReload [1, 2] false) s (fun t => t.cores.isEmpty && !t.modul.booted && t.modul.image == [1, 2] && !t.modul.imageOk) ∧
      becomes (.monitorSnapshot 0) (s.modCore 0 (fun k => { k with cyc := 77 })) (fun t => t.modul.snapshots.map (fun e => (e.1, e.2.1)) == [(0, 77)]) ∧
      becomes .powerCapReached s (fun t => t.modul.clock == 15) ∧ becomes .thermalTrip s (fun t => t.modul.halved) ∧
      becomes .temperatureBelowTrip { s with modul := { s.modul with halved := true } } (fun t => !t.modul.halved) ∧
      becomes .criticalTemperature s (fun t => t.modul.stopped && t.modul.reports == [.critical] && t.sel.isEmpty) ∧
      becomes (.laharBringUp { fused := [], cores := [], banks := [], channels := [5], reticles := [1], images := [(0, true), (1, false)] }) { State.reset with modul := { imageOk := true } }
        (fun t => t.modul.booted && t.pending.contains (.channelRetirement 5) && (t.core? 0).any (fun k => k.st == 2) && (t.core? 1).any (fun k => k.st == 0) && (t.core? 48).any (fun k => k.st == 2)) ∧
      becomes (.laharBringUp { fused := [], cores := [], banks := [], channels := [] }) { State.reset with modul := { imageOk := false } } (fun t => !t.modul.booted && t.modul.reports == [.unbooted]) := by decide +kernel

theorem test_spdm (l : List Byte) : ∃ t, exec (.spdmRequest l) (start []) = .next t ∧ t.modul.answers.length = 1 := ⟨_, rfl, rfl⟩

/-- The start of the host range (R245). -/
def hostStart : Nat := 2 ^ 56

/-- A line of the host range at 0x40 lines from its start, with the states of its halves; its first byte is 0xEF. -/
def hostSide (h0 : Nat) (obs : SMap (List (Nat × Request)) := []) (f : Warp → Warp := id) : State :=
  { start [] [] f with mem := cellsOf (128 * (hostStart / 128 + 0x40)) 1 0xEF, caldera := { lines := [(hostStart / 128 + 0x40, { hold := 3, h0 := h0, h1 := 1 })], observing := obs } }

def sideIs (f : DirLine → Bool) (t : State) : Bool := (t.dir? (hostStart / 128 + 0x40)).any f
def unseen (ack : Bool) : SMap (List (Nat × Request)) := [(hostStart / 128 + 0x40, [(3, { request (.write true) with bytes := [(hostStart + 0x2001, 7)], ack := ack })])]

/-- A module that is not up answers nothing but CXL.io. -/
theorem test_unbooted : let s : State := { State.reset with modul := { imageOk := true } }
    becomes (.peerRequestServe (.read 0x2000 3)) s (· == s) ∧ becomes (.ethFrameReceive 2 [1] true) s (· == s) ∧ becomes (.hostSnoop hostStart true []) s (· == s) ∧
      becomes (.hostCxlMemRequest 0x2000 ⟨none, 0⟩) s (· == s) := by decide +kernel

theorem test_cxl : let a := hostStart + 0x2000
    becomes (.hostSnoop a true []) (hostSide 3) (fun t => sideIs (fun d => d.h0 == 0 && d.h1 == 1) t && t.modul.answers.map (fun l => (l.length, l.take 2)) == [(65, [3, 0xEF])]) ∧
      becomes (.hostSnoop a false []) (hostSide 2) (fun t => sideIs (fun d => d.h0 == 1) t && answered [[2]] t) ∧
      becomes (.hostSnoop a true []) (hostSide 3 (unseen false)) (fun t => sideIs (fun d => d.h0 == 3) t && t.caldera.snoops.map (fun e => e.2) == [[(a, true, [])]] && t.modul.answers.isEmpty) ∧
      becomes (.globalObservationResponse (hostStart / 128 + 0x40)) (hostSide 3 (unseen true) (fun w => { w with groups := w.groups.map (fun g => { g with hold := .acks, prog := { acks := [3] } }) }))
        (fun t => t.caldera.observing.isEmpty && t.pending.contains (.writeBackAcknowledgement 0 0 3)) ∧
      becomes (.hostCxlMemRequest 0x2000 ⟨none, 0⟩) (lineAt { hold := 3 }) (fun t => lineIs (fun d => d.h0 == 1 && d.h1 == 0) t && t.modul.answers.map (·.take 2) == [[0xEF, 0xCD]]) ∧
      becomes (.hostCxlMemRequest 0x2040 ⟨some [5], 0⟩) (lineAt { hold := 3 }) (fun t => lineIs (fun d => d.h1 == 1) t && Memory.read t.mem 0x2040 == 5) ∧
      becomes (.hostCxlMemRequest 0x2E400000000 ⟨none, 0⟩) (lineAt { hold := 3 }) (answered [[]]) ∧
      becomes (.hostCxlMemRequest 0x2000 ⟨none, 1⟩) (lineAt { hold := 3 }) (answered [[]]) ∧
      becomes (.backInvalidateResponse 0x2000 none) (lineAt { hold := 3, h0 := 1 }) (lineIs (fun d => d.h0 == 0)) ∧
      becomes (.backInvalidateResponse 0x2000 (some (List.replicate 64 4))) (lineAt { hold := 3, h0 := 3 }) (fun t => lineIs (fun d => d.h0 == 0) t && Memory.read t.mem 0x203F == 4) := by decide +kernel

/-! ## Well-formed instructions: one that each check refuses (R94 to R101, R106), and the trap that it takes when it issues -/

/-- Not well-formed, and when it issues it traps with the cause. -/
def refused (i : Instr) (cause : Nat) : Bool :=
  !i.wellFormed && becomes i handled (warpHas 0 (fun w => (w.slice 0).pc == 0x8000 && bitsOf w.special.ecause.toNat 7 0 == cause && w.special.epc == 0x1000 && w.special.eval == i.evalWords))

theorem test_wellFormed : (Instr.iadd (op 0x000 1 2 3)).wellFormed ∧ (Instr.iadd (op 0x000 1 0xFF 3 0xFC (some 7))).wellFormed ∧ (Instr.bendS (short 0xFC 0xFC)).wellFormed ∧
    -- a modifier with a reserved value, a guard on an instruction that has none, a field that is not used and not 0xFC
    refused (.iadd (op 0x00F 1 2 3)) 1 ∧ refused (.rgbeg (lx none 0 0xFC 0 false 1 0 0 2)) 1 ∧ refused (.iadd (op 0x000 1 2 3 4)) 1 ∧ refused (.movS (short 0xFF 1)) 2 ∧
    -- 0xFF as a destination, or as a source without a literal; a pair at an odd register; a predicate above p7; a vector source beside a scalar
    -- destination; a special register that there is not
    refused (.iadd (op 0x000 0xFF 2 3)) 2 ∧ refused (.iadd (op 0x000 1 0xFF 3)) 2 ∧ refused (.iadd (op 0x002 3 4 6)) 2 ∧ refused (.elect (op 0x000 8)) 2 ∧
    refused (.iadd (op 0x000 0xC0 1 2)) 2 ∧ refused (.rdsr (op 0x0FF 0xC0)) 2 := by decide +kernel

/-- What no word stands for, and what another constructor's words stand for, is not well-formed either. -/
theorem test_wellFormed_forms : (Instr.issueCycle 0).wellFormed = false ∧ (Instr.tlbinvPage (op 0x001 0xFC 0xC4)).wellFormed = false ∧ (Instr.tlbinvAll (op 0x001 0xFC)).wellFormed = true ∧
    (Instr.cctlEvict (op 0x003 0xFC 0xC4)).wellFormed = false ∧ (Instr.cctlEvict (op 0x004 0xFC 0xC4)).encodable = true := by decide +kernel

/-- Above the allocation (R101). -/
theorem test_register_range : becomes (.iadd (op 0x000 1 2 100)) (handled false (fun w => { w with alloc := 96 })) (warpHas 0 (fun w => bitsOf w.special.ecause.toNat 7 0 == 3)) := by decide +kernel

/-! ## The step (R50, R91 to R93) -/

def steps (s : State) (post : State → Bool) : Bool := match step s with | .next t => post t | _ => false

/-- A placed program word, and a handler. -/
def placedWord (w : Nat) : State := ((State.reset.place (bytesOf w 12)).modWarp 0 0 (fun w => { w with special := { w.special with evec := 0x8000 } }))

theorem test_step :
    -- TRAP 0x042, a long word with a literal, and a word that is no instruction: opcode 0 of the L form
    steps (placedWord 0x42FCFCFC0FC00701) (warpHas 0 (trapped 0x0E 0x1008 0x42 State.reset)) ∧
      steps (placedWord 0x00000003) (warpHas 0 (fun w => bitsOf w.special.ecause.toNat 7 0 == 1 && (w.slice 0).pc == 0x8000 && w.special.epc == 0x1000 && w.special.eval == 3)) ∧
      -- with nothing selected: what is on its way, else the next core's cycle; what the world chooses comes before both
      steps { start [] with sel := [], pending := [.leaseDecay 0 0], agenda := [] } (fun t => t.pending.isEmpty && t.cyc 0 == 0) ∧
      steps { start [] with sel := [] } (fun t => t.cyc 0 == 1) ∧
      steps { start [] with sel := [], agenda := [.temperatureBelowTrip], modul := { (start []).modul with halved := true } } (fun t => t.agenda.isEmpty && !t.modul.halved && t.cyc 0 == 0) ∧
      (start []).admits .temperatureBelowTrip := by decide +kernel

/-- The hypotheses of the statement that a step runs the decoded instruction. -/
theorem witness_fetch : let s := placedWord 0x42FCFCFC0FC00701
    s.agenda.isEmpty ∧ s.sel.map (·.mask) = [0xFF] ∧ (s.warp? 0 0).any (fun w => (w.group? 0xFF).isSome && w.park == .none && w.trap.isNone && w.ending.isNone && w.saved.isNone && w.pcOf 0xFF == 0x1000) ∧
      lengthOf 0x0FC00701 = 8 ∧ ((match s.translate 0 0 0x1004 .fetch false with | .ok pa _ => Memory.readNum s.mem pa 4 == 0x42FCFCFC | _ => false) : Bool) ∧
      (s.core? 0).any (fun k => k.icache.isEmpty) := by decide +kernel

/-- A step of a well-formed memory, and one instruction with its words. -/
theorem witness_memory : Memory.wf (placedWord 0x42FCFCFC0FC00701).mem = true ∧ steps (placedWord 0x42FCFCFC0FC00701) (fun t => Memory.wf t.mem) := by decide +kernel

theorem witness_encoding : (Instr.iadd (op 0x000 1 2 3)).encodable = true ∧ encode (.iadd (op 0x000 1 0xFF 3 0xFC (some 7))) ≠ encode (.iadd (op 0x000 1 2 3)) := by decide +kernel

/-- An image that CTXLD takes: its version is 1, its allocation that of the warp. -/
theorem witness_image : let m : List Word := List.replicate 0x1FC0 0 ++ [1, 192] ++ List.replicate 62 0
    m.length = 8192 ∧ Image.refused m 192 = false := by decide +kernel

end Sys2Proof.Tests
end

/-! # Structured divergence and FLASH (R137 to R139, R145) -/

namespace Sys2Proof.Machine

/-! ## A further change of the instruction's own warp -/

/-- A change of the warp in the instruction's own slot stays within what the instruction may change. -/
theorem OnlyWarp.modCore {x : Ctx} {s t : State} (h : OnlyWarp x s t) {f : Core → Core}
    (hf : ∀ k, f k = { k with warps := (f k).warps })
    (hw : ∀ k p, p ≠ x.slot → SMap.get? p (f k).warps = SMap.get? p k.warps) : OnlyWarp x s (t.modCore x.core f) := by
  have hquad : ∀ c k', (t.modCore x.core f).core? c = some k' → ∃ k1, t.core? c = some k1 ∧ k'.quads = k1.quads := by
    intro c k' hk'
    rw [State.core?_modCore] at hk'
    split at hk'
    · obtain ⟨k1, hk1, rfl⟩ := Option.map_eq_some_iff.1 hk'
      exact ⟨k1, hk1, by rw [hf]⟩
    · exact ⟨k', hk', rfl⟩
  refine ⟨by rw [State.modCore, h.state], h.due, fun c p hcp => ?_, fun c k hk => ?_, fun c k k' q hk hk' => ?_,
    fun c k k' q hk hk' e => ?_⟩
  · rw [← h.warps c p hcp, State.warp?, State.warp?, State.core?_modCore]
    split
    · rename_i hc
      have hp : p ≠ x.slot := by omega
      cases t.core? c with
      | none => rfl
      | some k => exact hw k p hp
    · rfl
  · obtain ⟨k1, hk1, he⟩ := h.cores c k hk
    rw [State.core?_modCore, hk1]
    split
    · exact ⟨f k1, rfl, by rw [hf, he]⟩
    · exact ⟨k1, rfl, he⟩
  · obtain ⟨k1, hk1, hq⟩ := hquad c k' hk'
    simpa only [Core.quad, hq] using h.quads c k k1 q hk hk1
  · obtain ⟨k1, hk1, hq⟩ := hquad c k' hk'
    simpa only [Core.quad, hq] using h.latches c k k1 q hk hk1 e

theorem OnlyWarp.modWarp {x : Ctx} {s t : State} (h : OnlyWarp x s t) (f : Warp → Warp) :
    OnlyWarp x s (t.modWarp x.core x.slot f) :=
  h.modCore (fun _ => rfl) (fun _ _ hp => by rw [SMap.get?_modify, if_neg hp])

theorem OnlyWarp.setWarp {x : Ctx} {s t : State} (h : OnlyWarp x s t) (w : Warp) : OnlyWarp x s (t.setWarp x.core x.slot w) :=
  h.modCore (fun _ => rfl) (fun _ _ hp => SMap.get?_put_other hp ..)

theorem State.pushOnce_pending (s : State) (e : Instr) : ∃ l, (s.pushOnce e).pending = s.pending ++ l := by
  simp only [State.pushOnce]; split
  · exact ⟨[], (List.append_nil _).symm⟩
  · exact ⟨[e], rfl⟩

theorem State.mem_pushOnce (s : State) (e : Instr) : e ∈ (s.pushOnce e).pending := by
  simp only [State.pushOnce]; split
  · rename_i h; simpa using h
  · simp [State.push]

theorem State.pushOnce_eq (s : State) (e : Instr) : s.pushOnce e = { s with pending := (s.pushOnce e).pending } := by
  simp only [State.pushOnce]; split <;> rfl

@[simp] theorem State.core?_pushOnce (s : State) (e : Instr) (c : Nat) : (s.pushOnce e).core? c = s.core? c := by
  rw [State.core?, State.pushOnce_cores]; rfl

@[simp] theorem State.warp?_pushOnce (s : State) (e : Instr) (c p : Nat) : (s.pushOnce e).warp? c p = s.warp? c p := by
  rw [State.warp?, State.core?_pushOnce]; rfl

/-- A further step that comes due stays within what an instruction may change. -/
theorem OnlyWarp.pushOnce {x : Ctx} {s t : State} (h : OnlyWarp x s t) (e : Instr) : OnlyWarp x s (t.pushOnce e) := by
  obtain ⟨l, hl⟩ := h.due
  obtain ⟨l', hl'⟩ := t.pushOnce_pending e
  refine ⟨?_, ⟨l ++ l', by rw [hl', hl, List.append_assoc]⟩, fun c p hcp => ?_, ?_, ?_, ?_⟩
  · rw [State.pushOnce_eq, h.state]
  · rw [State.warp?_pushOnce, h.warps c p hcp]
  · simpa using h.cores
  · simpa using h.quads
  · simpa using h.latches

theorem SMap.modify_self {α : Type} {f : α → α} (hf : ∀ v, f v = v) (k : Nat) (m : SMap α) : SMap.modify k f m = m := by
  induction m with
  | nil => rfl
  | cons e t ih => simp only [SMap.modify, ih, hf, ite_self]

/-- An instruction that completes, with its group at `pc`. -/
theorem State.completeAt_begun {s : State} {x : Ctx} {w : Warp} (pc : Nat) (hw : s.warp? x.core x.slot = some w) :
    OnlyWarp x s (s.begun.completeAt x pc) ∧ (s.begun.completeAt x pc).warp? x.core x.slot = some (w.finished x pc) := by
  have hs : s.begun.modWarp x.core x.slot id = s.begun := by
    rw [State.modWarp, State.modCore, SMap.modify_self (fun k => by rw [SMap.modify_self (f := id) fun _ => rfl])]
  have h := State.completeAt_spec (x := x) id pc hw
  rwa [hs] at h

/-- A completed instruction that is no commit leaves its warp as it is, but for its slices, its groups and what is counted. -/
theorem Warp.finished_eq {x : Ctx} (hi : x.i.isCommit = false) (w : Warp) (pc : Nat) :
    w.finished x pc = { w with
      slices := (w.finished x pc).slices, groups := (w.finished x pc).groups,
      lease := { w.lease with run := w.lease.run + 1 }, preempt := w.preempt.map (· + 1) } := by
  simp only [Warp.finished, hi]; rfl

/-! ## The nesting counters (R137 to R139) -/

theorem Warp.lane_foldl_modLane (f : Nat → Lane → Lane) (l : List Nat) (hl : l.Nodup) (w : Warp) (j : Nat) :
    (l.foldl (fun w i => w.modLane i (f i)) w).lane j = if j ∈ l ∧ j < w.lanes.length then f j (w.lane j) else w.lane j := by
  induction l generalizing w with
  | nil => simp
  | cons i t ih =>
    rw [List.nodup_cons] at hl
    have hlen : (w.modLane i (f i)).lanes.length = w.lanes.length := by simp [Warp.modLane]
    rw [List.foldl_cons, ih hl.2, Warp.lane_modLane, hlen]
    by_cases hj : j = i
    · subst hj; simp [hl.1]
    · simp [hj]

theorem Warp.foldl_modLane_eq (f : Nat → Lane → Lane) (l : List Nat) (w : Warp) :
    l.foldl (fun w i => w.modLane i (f i)) w = { w with lanes := (l.foldl (fun w i => w.modLane i (f i)) w).lanes } := by
  induction l generalizing w with
  | nil => rfl
  | cons i t ih => rw [List.foldl_cons, ih]; rfl

/-- The lanes of the group that are not exited: those whose counters a structured instruction changes. -/
def Ctx.nestLanes (x : Ctx) : List Nat := (x.w.lanesByLid x.mask).filter (fun l => !(x.w.lane l).exited)

theorem Ctx.mem_nestLanes (x : Ctx) (l : Nat) :
    l ∈ x.nestLanes ↔ l < 32 ∧ inMask x.mask (l / 4) = true ∧ (x.w.lane l).exited = false := by
  simp [Ctx.nestLanes, Warp.mem_lanesByLid, and_assoc]

theorem Ctx.nestLanes_nodup (x : Ctx) : x.nestLanes.Nodup := (Warp.lanesByLid_nodup _ _).filter _

/-- The warp with new counters. -/
def Warp.setNests (w : Warp) (after : Nat → Nat) (l : List Nat) : Warp :=
  l.foldl (fun w i => w.modLane i (fun q => { q with nest := BitVec.ofNat 8 (after i) })) w

theorem Warp.setNests_eq (w : Warp) (after : Nat → Nat) (l : List Nat) :
    w.setNests after l = { w with lanes := (w.setNests after l).lanes } := Warp.foldl_modLane_eq _ l w

theorem Warp.lane_setNests (w : Warp) (after : Nat → Nat) (l : List Nat) (hl : l.Nodup) (j : Nat) :
    (w.setNests after l).lane j =
      if j ∈ l ∧ j < w.lanes.length then { w.lane j with nest := BitVec.ofNat 8 (after j) } else w.lane j :=
  Warp.lane_foldl_modLane _ l hl w j

/-- Where no counter passes 255, a structured instruction sets the counters and completes at the PC that it jumps to. -/
theorem structured_eq {loop : Bool} {target : Option Nat} {count : Ctx → Nat → Nat} {x : Ctx} (s : State) {after : Nat → Nat}
    (hcount : ∀ l, count x l = after l) (hle : ∀ l ∈ x.nestLanes, after l ≤ 255) :
    structured loop target count x s =
      (s.completeAt x (if x.nestLanes.any (fun l => after l == 0) == loop then target.getD x.next else x.next)).modWarp
        x.core x.slot (·.setNests after x.nestLanes) := by
  have hnone : x.nestLanes.find? (fun l => decide (255 < count x l)) = none := by
    simp only [List.find?_eq_none, decide_eq_true_eq, hcount]
    exact fun l hl => by have := hle l hl; omega
  simp only [Ctx.nestLanes] at hnone
  simp only [structured, hnone]
  simp only [hcount]
  cases target with
  | none => simp only [Option.getD_none, ite_self]; rfl
  | some t => rfl

/-- What a structured instruction does outside a handler: `count` gives a lane's new counter from the old one, `jumps` says of the lanes
active afterwards whether the group jumps by `offset`. -/
def StructuredStep (i : Instr) (count : Ctx → Nat → Nat → Nat) (jumps : Bool → Bool) (offset : Ctx → Nat) : Prop :=
  ∀ s g w, Runs i s g w (late := lateHandler) →
    let x := s.seenBy i g w
    let touched (l : Nat) : Prop := l < 32 ∧ inMask x.mask (l / 4) = true ∧ (x.w.lane l).exited = false
    let after (l : Nat) : Nat := count x l (x.w.lane l).nest.toNat
    (∀ l, touched l → after l ≤ 255) →
    Reaches i x s fun _ w' =>
      w' = { x.w with
        lanes := w'.lanes, slices := w'.slices, groups := w'.groups,
        lease := { x.w.lease with run := x.w.lease.run + 1 }, preempt := x.w.preempt.map (· + 1) } ∧
      (∀ k, (w'.slice k).fmt = (x.w.slice k).fmt) ∧
      (∀ l, touched l → l < x.w.lanes.length → w'.lane l = { x.w.lane l with nest := BitVec.ofNat 8 (after l) }) ∧
      (∀ l, ¬touched l ∨ x.w.lanes.length ≤ l → w'.lane l = x.w.lane l) ∧
      ((∃ l, touched l ∧ after l = 0) → GroupGoes x w' (if jumps true then (x.pc + 4 * offset x) % 2 ^ 48 else x.next)) ∧
      ((∀ l, touched l → after l ≠ 0) → GroupGoes x w' (if jumps false then (x.pc + 4 * offset x) % 2 ^ 48 else x.next))

/-- An instruction that is issued as a structured one takes that step. -/
theorem StructuredStep.of_issue {i : Instr} {loop : Bool} {target : Ctx → Option Nat} {counted : Ctx → Nat → Nat}
    {count : Ctx → Nat → Nat → Nat} {jumps : Bool → Bool} {offset : Ctx → Nat}
    (hex : ∀ s, exec i s = issue i lateHandler (fun x => structured loop (target x) counted x) s) (hi : i.isCommit = false)
    (hcount : ∀ x l, counted x l = count x l (x.w.lane l).nest.toNat)
    (hgoes : ∀ (x : Ctx) b, (if b == loop then (target x).getD x.next else x.next) =
      if jumps b then (x.pc + 4 * offset x) % 2 ^ 48 else x.next) : StructuredStep i count jumps offset := by
  intro s g w hr x touched after hle
  obtain ⟨goes, hgoesx⟩ : ∃ goes : Bool → Nat, ∀ b, goes b = if jumps b then (x.pc + 4 * offset x) % 2 ^ 48 else x.next := ⟨_, fun _ => rfl⟩
  simp only [← hgoesx]
  have hmem : ∀ l, l ∈ x.nestLanes ↔ touched l := x.mem_nestLanes
  have hle' : ∀ l ∈ x.nestLanes, after l ≤ 255 := fun l hl => hle l ((hmem l).1 hl)
  obtain ⟨active, ha⟩ : ∃ b, b = x.nestLanes.any (fun l => after l == 0) := ⟨_, rfl⟩
  obtain ⟨honly, hw'⟩ := State.completeAt_begun (x := x) (goes active) hr.1.2
  have hex' : exec i s = .next ((s.begun.completeAt x (goes active)).modWarp x.core x.slot (·.setNests after x.nestLanes)) := by
    rw [hex, issue_of_clear hr.1 hr.2, structured_eq s.begun (hcount x) hle', hgoes, ← hgoesx, ha]
  have hfin := Warp.finished_eq (x := x) hi w (goes active)
  have hlane := Warp.lane_setNests (w.finished x (goes active)) after x.nestLanes x.nestLanes_nodup
  have heq := Warp.setNests_eq (w.finished x (goes active)) after x.nestLanes
  have hlen : (w.finished x (goes active)).lanes.length = x.w.lanes.length := by rw [hfin]; rfl
  have hfmt := (OnlyResults.of_delivered (x := x) (goes active) hi (Delivered.refl w)).fmt
  have hgo := GroupGoes.of_delivered (x := x) (goes active) (Delivered.refl w)
  simp only [hlen, Warp.lane_finished] at hlane
  refine ⟨_, (w.finished x (goes active)).setNests after x.nestLanes, hex',
    by rw [State.warp?_modWarp, if_pos ⟨rfl, rfl⟩, hw', Option.map_some], honly.modWarp _, ?_⟩
  generalize (w.finished x (goes active)).setNests after x.nestLanes = w' at hlane heq ⊢
  have hgroup : GroupGoes x w' (goes active) := by
    rw [heq]; exact ⟨hgo.slices, hgo.groups⟩
  refine ⟨?_, ?_, ?_, ?_, ?_, ?_⟩
  · rw [heq, hfin]; rfl
  · intro k; rw [heq]; exact hfmt k
  · intro l hl hlt
    rw [hlane, if_pos ⟨(hmem l).2 hl, hlt⟩]; rfl
  · intro l hl
    rw [hlane, if_neg]
    · rfl
    · rw [hmem]; exact fun h => hl.elim (· h.1) (fun h' => by omega)
  · rintro ⟨l, hl, h0⟩
    have : active = true := by rw [ha, List.any_eq_true]; exact ⟨l, (hmem l).2 hl, by simp [h0]⟩
    rwa [this] at hgroup
  · intro h0
    have : active = false := by
      rw [ha, List.any_eq_false]; exact fun l hl => by simpa using h0 l ((hmem l).1 hl)
    rwa [this] at hgroup

theorem Ctx.cond_eq (x : Ctx) (l : Nat) : x.cond l = if x.f.mb 3 3 = 1 then !x.pd l (x.f.mb 2 0) else x.pd l (x.f.mb 2 0) := by
  by_cases h : x.f.mb 3 3 = 1
  · rw [Ctx.cond, h, if_pos rfl]; simp
  · rw [Ctx.cond, if_neg h, beq_eq_false_iff_ne.2 h, Bool.bne_false]

/-! ## The flashback point (R57, R145) -/

theorem Warp.pickEarly_nil {w : Warp} (h : w.undelivered = []) (cyc draw : Nat) : w.pickEarly cyc draw = w := by
  simp [Warp.pickEarly, h]

/-- In an active region no point is set. -/
theorem State.setFlash_active {s : State} {c p : Nat} {w : Warp} (hw : s.warp? c p = some w) (ha : w.region.active = true)
    (mask : BitVec 8) (next nv ns label : Nat) : s.setFlash c p mask next nv ns label = s := by
  simp only [State.setFlash, hw, ha, if_true]

/-- Outside a region, of a warp whose results are all delivered, the point is set; a pre-emption that waits for one is carried out. -/
theorem State.setFlash_inactive {s : State} {c p : Nat} {w : Warp} (hw : s.warp? c p = some w) (ha : w.region.active = false)
    (hu : w.undelivered = []) (mask : BitVec 8) (next nv ns label : Nat) :
    s.setFlash c p mask next nv ns label =
      (let s1 := s.setWarp c p { w with flash := w.flashPoint mask next nv ns label }
       if w.preempt.isSome then s1.pushOnce (.flashbackSave c p) else s1) := by
  simp only [State.setFlash, hw, ha, Warp.pickEarly_nil hu]; rfl

theorem State.warp?_setFlash_inactive {s : State} {c p : Nat} {w : Warp} (hw : s.warp? c p = some w) (ha : w.region.active = false)
    (hu : w.undelivered = []) (mask : BitVec 8) (next nv ns label : Nat) :
    (s.setFlash c p mask next nv ns label).warp? c p = some { w with flash := w.flashPoint mask next nv ns label } := by
  obtain ⟨k, hk, -⟩ := State.core?_of_warp? hw
  rw [State.setFlash_inactive hw ha hu]
  split <;> simp only [State.warp?_pushOnce, State.warp?_setWarp, hk, Option.isSome_some, and_self, if_true]

theorem OnlyWarp.setFlash {x : Ctx} {s t : State} (h : OnlyWarp x s t) (mask : BitVec 8) (next nv ns label : Nat) :
    OnlyWarp x s (t.setFlash x.core x.slot mask next nv ns label) := by
  simp only [State.setFlash]
  split
  · exact h
  · split
    · exact h
    · split
      · exact (h.setWarp _).pushOnce _
      · exact h.setWarp _

/-- A FLASH of a warp with no access in flight completes and sets its point. -/
theorem flashEff_of_allZero {x : Ctx} (s : State) (h : x.w.paths.allZero = true) :
    flashEff x s = (s.complete x).setFlash x.core x.slot x.mask x.next (x.a 1 scalarLane) (x.b 1 scalarLane) (x.f.mb 11 0) := by
  simp only [flashEff, h, if_true]

/-- Settles O23: each of the five instructions is `structured` with its own count. -/
theorem structuredDivergence : Obligations.StructuredDivergence := by
  unfold Obligations.StructuredDivergence
  intro f h cond acts
  have hacts : acts = StructuredStep := rfl
  rw [hacts]
  have hactive : ∀ (b : Bool) (p q : Nat), (if (b == false) = true then p else q) = if (!b) = true then p else q := fun b p q => by
    cases b <;> rfl
  have hloop : ∀ (b : Bool) (p q : Nat), (if (b == true) = true then p else q) = if b = true then p else q := fun b p q => by
    cases b <;> rfl
  refine ⟨StructuredStep.of_issue (target := fun x => some (x.target x.offset)) (fun _ => rfl) rfl (fun x l => ?_) fun x b => hactive b _ _,
    StructuredStep.of_issue (target := fun x => some (x.target x.offset)) (fun _ => rfl) rfl (fun x l => rfl) fun x b => hactive b _ _,
    StructuredStep.of_issue (target := fun x => some (x.target (shortOffset h))) (fun _ => rfl) rfl (fun x l => rfl) fun x b => hactive b _ _,
    StructuredStep.of_issue (target := fun _ => none) (fun _ => rfl) rfl (fun x l => rfl) fun x b => ite_self _,
    StructuredStep.of_issue (target := fun _ => none) (fun _ => rfl) rfl (fun x l => rfl) fun x b => ite_self _,
    StructuredStep.of_issue (target := fun x => some (x.target x.offset)) (fun _ => rfl) rfl (fun x l => ?_) fun x b => hactive b _ _,
    StructuredStep.of_issue (target := fun x => some (x.target x.offset)) (fun _ => rfl) rfl (fun x l => ?_) fun x b => hloop b _ _⟩
  · rw [x.cond_eq]; rfl
  · rw [x.cond_eq]; rfl
  · simp only [bloopCount, x.cond_eq, Bool.not_eq_true']; rfl

/-- Settles O26: a FLASH that need not wait completes, then sets its point. -/
theorem flash : Obligations.Flash := by
  unfold Obligations.Flash
  intro f s g w hr x hz hu
  obtain ⟨honly, hw'⟩ := State.completeAt_begun (x := x) x.next hr.1.2
  have hex : exec (.flash f) s = .next ((s.begun.complete x).setFlash x.core x.slot x.mask x.next (x.a 1 scalarLane)
      (x.b 1 scalarLane) (x.f.mb 11 0)) := by
    rw [← flashEff_of_allZero _ hz]; exact issue_of_clear hr.1 hr.2
  have hfin := Warp.finished_eq (x := x) rfl w x.next
  have hfmt := (OnlyResults.of_delivered (x := x) x.next rfl (Delivered.refl w)).fmt
  have hgo := GroupGoes.of_delivered (x := x) x.next (Delivered.refl w)
  obtain ⟨w1, hw1⟩ : ∃ w1, w1 = w.finished x x.next := ⟨_, rfl⟩
  rw [← hw1] at hw' hfin hfmt hgo
  cases ha : w.region.active with
  | true =>
    have ha1 : w1.region.active = true := by rw [hfin]; exact ha
    rw [State.complete, State.setFlash_active hw' ha1] at hex
    exact ⟨_, w1, hex, hw', honly, by rw [hfin]; rfl, hgo, hfmt, fun _ => by rw [hfin]; rfl, fun h => absurd (ha.symm.trans h) (by decide)⟩
  | false =>
    have ha1 : w1.region.active = false := by rw [hfin]; exact ha
    have hu1 : w1.undelivered = [] := by rw [hfin]; exact hu
    refine ⟨_, _, hex, State.warp?_setFlash_inactive hw' ha1 hu1 .., honly.setFlash .., by rw [hfin]; rfl, ⟨hgo.slices, hgo.groups⟩,
      hfmt, fun h => absurd (ha.symm.trans h) (by decide), fun _ => ⟨?_, fun hp => ?_⟩⟩
    · have hf := hfmt (lowSlice x.mask)
      simp only [Warp.flashPoint, Warp.fmtOf, hf]
      rw [hfin]; rfl
    · have hp1 : w1.preempt.isSome = true := by rw [hfin]; exact Option.isSome_map.trans hp
      rw [State.complete, State.setFlash_inactive hw' ha1 hu1]
      simp only [hp1, if_true]
      exact State.mem_pushOnce ..

end Sys2Proof.Machine

/-! # The fetch of an instruction and the step that runs it (R50, R91 to R93) -/

namespace Sys2Proof.Machine

/-! ## What a fetch finds -/

/-- A word whose instruction cache holds no other value is fetched as memory has it. -/
theorem State.fetchWord_eq {s : State} {c pa : Nat}
    (h : ∀ k v, s.core? c = some k → SMap.get? pa k.icache = some v → v = BitVec.ofNat 32 (Memory.readNum s.mem pa 4)) (n : Nat) :
    s.fetchWord c pa n = BitVec.ofNat 32 (Memory.readNum s.mem pa 4) := by
  simp only [State.fetchWord]
  split
  · rename_i v hv
    obtain ⟨k, hk, hkv⟩ := Option.bind_eq_some_iff.1 hv
    rw [if_pos (h k v hk hkv)]
  · rfl

/-- A word that translates, can be read and holds no stale copy. -/
theorem State.fetchOne_eq {s : State} {c tenant va pa n : Nat} {priv : Bool} {pte : DWord}
    (ht : s.translate c tenant va .fetch priv = .ok pa pte)
    (hr : s.wordHeld c pa = true ∨ cached pa = false ∨ (s.poisoned pa 4 = false ∧ s.lineStops (lineOf pa) false [pa / 64 % 2] tenant = false))
    (h : ∀ k v, s.core? c = some k → SMap.get? pa k.icache = some v → v = BitVec.ofNat 32 (Memory.readNum s.mem pa 4)) :
    s.fetchOne c tenant va n priv = .words [BitVec.ofNat 32 (Memory.readNum s.mem pa 4)] := by
  simp only [State.fetchOne, ht, State.fetchWord_eq h]
  rcases hr with hr | hr | ⟨hp, hl⟩
  · simp [hr]
  · simp [hr]
  · simp [hp, hl]

/-- Words that are fetched one by one are fetched together. -/
theorem State.fetchWords_eq {s : State} {c tenant pc : Nat} {priv : Bool} {word : Nat → Word} (m k : Nat)
    (h : ∀ j, k ≤ j → j < k + m → s.fetchOne c tenant ((pc + 4 * j) % 2 ^ 48) j priv = .words [word j]) :
    s.fetchWords c tenant pc priv k m = .words ((List.range m).map (fun j => word (k + j))) := by
  induction m generalizing k with
  | zero => rfl
  | succ m ih =>
    rw [State.fetchWords, h k (le_refl k) (by omega)]
    simp only [ih (k + 1) (fun j h1 h2 => h j (by omega) (by omega))]
    rw [List.range_succ_eq_map, List.map_cons, List.map_map]
    simp only [List.singleton_append, Nat.add_zero, Function.comp_def, Nat.add_assoc, Nat.add_comm 1]

theorem lengthOf_cases (w : Word) : lengthOf w = 4 ∨ lengthOf w = 8 ∨ lengthOf w = 12 := by
  simp only [lengthOf]; split <;> simp

theorem getD_map_range {n : Nat} (word : Nat → Word) (k : Nat) : ((List.range n).map word).getD k 0 = if k < n then word k else 0 := by
  rw [List.getD_eq_getElem?_getD, List.getElem?_map]
  split
  · rename_i h; simp [h]
  · rename_i h; simp [h]

theorem evalOfWords_eq (l : List Word) : evalOfWords l = (l.getD 0 0).toNat + 2 ^ 32 * (l.getD 1 0).toNat := by
  rcases l with _ | ⟨a, _ | ⟨b, t⟩⟩ <;> rfl

/-! ## What a fetch leaves -/

/-- `t` is `s` but for translations, and words in the instruction cache of a core. -/
structure FetchKept (c : Nat) (s t : State) : Prop where
  state : t = { s with cores := t.cores, caches := t.caches }
  cores : ∀ d k, s.core? d = some k → ∃ k', t.core? d = some k' ∧ k' = { k with tlb := k'.tlb, icache := k'.icache } ∧ (d ≠ c → k' = k)

theorem FetchKept.refl (c : Nat) (s : State) : FetchKept c s s := ⟨rfl, fun _ k h => ⟨k, h, rfl, fun _ => rfl⟩⟩

theorem FetchKept.trans {c : Nat} {a b t : State} (h : FetchKept c a b) (h' : FetchKept c b t) : FetchKept c a t := by
  refine ⟨by rw [h'.state, h.state], fun d k hk => ?_⟩
  obtain ⟨k1, hk1, he1, ho1⟩ := h.cores d k hk
  obtain ⟨k2, hk2, he2, ho2⟩ := h'.cores d k1 hk1
  exact ⟨k2, hk2, by rw [he2, he1], fun hd => (ho2 hd).trans (ho1 hd)⟩

theorem FetchKept.of_modify {c : Nat} {f : Core → Core} (hf : ∀ k, f k = { k with tlb := (f k).tlb, icache := (f k).icache })
    (s : State) (cs : SMap (List TlbEntry)) : FetchKept c s { s with cores := SMap.modify c f s.cores, caches := cs } := by
  refine ⟨rfl, fun d k hk => ?_⟩
  simp only [State.core?, SMap.get?_modify] at hk ⊢
  split
  · exact ⟨f k, by rw [hk]; rfl, hf k, fun hd => absurd (by assumption) hd⟩
  · exact ⟨k, hk, rfl, fun _ => rfl⟩

theorem FetchKept.warp? {c : Nat} {s t : State} (h : FetchKept c s t) {d p : Nat} {w : Warp} (hw : s.warp? d p = some w) :
    t.warp? d p = some w := by
  obtain ⟨k, hk, hkw⟩ := State.core?_of_warp? hw
  obtain ⟨k', hk', he, -⟩ := h.cores d k hk
  rw [State.warp?, hk', Option.bind_some, he]; exact hkw

theorem FetchKept.selects {c : Nat} {s t : State} (h : FetchKept c s t) {g : Selected} {w : Warp} (hs : s.selects g w) :
    t.selects g w := ⟨by rw [h.state]; exact hs.1, h.warp? hs.2⟩

/-- What a lookup finds joins the TLB of the core and its translation cache. -/
theorem State.cacheLookup_eq (s : State) (c tenant va : Nat) : ∃ (f : Core → List TlbEntry) (cs : SMap (List TlbEntry)),
    s.cacheLookup c tenant va = { s with cores := SMap.modify c (fun k => { k with tlb := f k }) s.cores, caches := cs } := by
  simp only [State.cacheLookup]
  split
  · exact ⟨_, _, rfl⟩
  · split
    · exact ⟨Core.tlb, s.caches, by rw [SMap.modify_self (fun _ => rfl)]⟩
    · exact ⟨_, _, rfl⟩

/-- A lookup that reads nothing at a primary copy keeps translations alone, and the words that are held. -/
theorem State.usePage_quiet {s : State} {c tenant va : Nat} (h : (s.lookup c tenant va).read = []) :
    FetchKept c s (s.usePage c tenant va) ∧ ∀ pa, (s.usePage c tenant va).wordHeld c pa = s.wordHeld c pa := by
  obtain ⟨f, cs, hf⟩ := s.cacheLookup_eq c tenant va
  rw [State.usePage, h, List.foldl_nil, hf]
  refine ⟨FetchKept.of_modify (fun _ => rfl) s cs, fun pa => ?_⟩
  simp only [State.wordHeld, State.core?, SMap.get?_modify, if_true]
  cases SMap.get? c s.cores <;> rfl

/-- A word that is held, or stands where Caldera holds nothing, is kept without a read. -/
theorem State.keepWord_quiet {s : State} {c tenant pa : Nat} (h : s.wordHeld c pa = true ∨ cached pa = false) (x : Word) :
    FetchKept c s (s.keepWord c tenant pa x) := by
  simp only [State.keepWord]
  split
  · exact .refl c s
  · rename_i hw
    rcases h with h | h
    · exact absurd h hw
    · simp only [h, Bool.false_eq_true, if_false]
      exact FetchKept.of_modify (fun _ => rfl) s s.caches

/-- A fetch that reads nothing at a primary copy keeps translations and words alone. `t` is the state that the fetch has reached at word `k`. -/
theorem State.keepFetch_quiet {s : State} {c tenant pc : Nat} {priv : Bool} (m k : Nat) (t : State)
    (ht : ∀ j, s.keepFetch c tenant pc priv 0 (k + j) = t.keepFetch c tenant pc priv k j)
    (hq : ∀ j, j < k + m → ((s.keepFetch c tenant pc priv 0 j).lookup c tenant ((pc + 4 * j) % 2 ^ 48)).read = [] ∧
      ∀ q pte, (s.keepFetch c tenant pc priv 0 j).translate c tenant ((pc + 4 * j) % 2 ^ 48) .fetch priv = .ok q pte →
        (s.keepFetch c tenant pc priv 0 j).wordHeld c q = true ∨ cached q = false) :
    FetchKept c t (t.keepFetch c tenant pc priv k m) := by
  induction m generalizing k t with
  | zero => exact .refl c t
  | succ m ih =>
    have hk : s.keepFetch c tenant pc priv 0 k = t := ht 0
    have hstep : ∀ j, t.keepFetch c tenant pc priv k (j + 1) =
        match t.translate c tenant ((pc + 4 * k) % 2 ^ 48) .fetch priv with
        | .ok pa _ => ((t.usePage c tenant ((pc + 4 * k) % 2 ^ 48)).keepWord c tenant pa (t.fetchWord c pa k)).keepFetch c tenant pc priv (k + 1) j
        | _ => t := fun _ => rfl
    obtain ⟨hread, hheld⟩ := hq k (by omega)
    rw [hk] at hread hheld
    rw [hstep]
    cases hx : t.translate c tenant ((pc + 4 * k) % 2 ^ 48) .fetch priv with
    | ok pa pte =>
      obtain ⟨hpage, hword⟩ := State.usePage_quiet hread
      have hone := hpage.trans (State.keepWord_quiet (tenant := tenant) (by rw [hword]; exact hheld pa pte hx) (t.fetchWord c pa k))
      refine hone.trans (ih (k + 1) _ (fun j => ?_) (fun j hj => hq j (by omega)))
      rw [show k + 1 + j = k + (j + 1) by omega, ht, hstep, hx]
    | absent => exact .refl c t
    | fatal => exact .refl c t
    | stops line => exact .refl c t

/-! ## The step -/

section
variable {s : State} {g : Selected} {w : Warp} {n : Nat} {word : Nat → Word} (hs : s.selects g w) (hsel : s.selectable g = true)
  (hlen : lengthOf (word 0) = 4 * n)
  (hf : ∀ k, k < n → s.fetchOne g.core w.tenant ((w.pcOf g.mask + 4 * k) % 2 ^ 48) k w.special.priv = .words [word k])

include hlen hf in
/-- The first word of the group's instruction, and all of them. -/
theorem State.fetchWords_group : s.fetchWords g.core w.tenant (w.pcOf g.mask) w.special.priv 0 1 = .words [word 0] ∧
    s.fetchWords g.core w.tenant (w.pcOf g.mask) w.special.priv 0 n = .words ((List.range n).map word) ∧
    lengthOf (([word 0] : List Word).headD 0) / 4 = n := by
  have hn : 0 < n := by have := lengthOf_cases (word 0); omega
  refine ⟨State.fetchWords_eq 1 0 (fun j _ hj => hf j (by omega)), ?_, by rw [List.headD_cons]; omega⟩
  rw [State.fetchWords_eq n 0 (fun j _ hj => hf j (by omega))]; simp only [Nat.zero_add]

include hs hsel hlen hf in
/-- A group whose words can all be fetched runs what they decode to. -/
theorem State.fetch_run {i : Instr}
    (hi : decodeWords (if 0 < n then word 0 else 0) (if 1 < n then word 1 else 0) (if 2 < n then word 2 else 0) = some i) :
    s.fetch = .run i (s.keepFetch g.core w.tenant (w.pcOf g.mask) w.special.priv 0 n) := by
  obtain ⟨hfirst, hall, hdiv⟩ := State.fetchWords_group hlen hf
  obtain ⟨rest, hl⟩ := List.head?_eq_some_iff.1 hs.1
  simp only [State.fetch, hl, hs.2, hsel, hfirst, hdiv, hall, Bool.not_true, Bool.false_eq_true, if_false, getD_map_range, hi]

include hs hsel hlen hf in
/-- Where they decode to nothing it traps with Illegal Instruction. -/
theorem State.fetch_trapped
    (hi : decodeWords (if 0 < n then word 0 else 0) (if 1 < n then word 1 else 0) (if 2 < n then word 2 else 0) = none) :
    s.fetch = .trapped ({ s.keepFetch g.core w.tenant (w.pcOf g.mask) w.special.priv 0 n with sel := s.sel.tail }.raise g.core g.slot g.mask
      { cause := causeIllegalInstr, epc := w.pcOf g.mask,
        eval := (if 0 < n then word 0 else 0).toNat + 2 ^ 32 * (if 1 < n then word 1 else 0).toNat }) := by
  obtain ⟨hfirst, hall, hdiv⟩ := State.fetchWords_group hlen hf
  obtain ⟨rest, hl⟩ := List.head?_eq_some_iff.1 hs.1
  simp only [State.fetch, hl, hs.2, hsel, hfirst, hdiv, hall, Bool.not_true, Bool.false_eq_true, if_false, getD_map_range, hi, evalOfWords_eq,
    List.tail_cons]

end

/-- A group that stands and whose warp nothing stops is selectable. -/
theorem State.selectable_of {s : State} {g : Selected} {w : Warp} (hs : s.selects g w) (hg : (w.group? g.mask).isSome = true)
    (hf : w.faulted = none) (ht : w.trap = none) (he : w.ending = none) (hv : w.saved = none) : s.selectable g = true := by
  simp only [State.selectable, hs.2, hg, hf, ht, he, hv]; rfl

/-- A trap of a warp that is in no region and no handler, has a handler, and waits for no older write: the warp is at its handler. -/
theorem State.raise_handler {s : State} {c p : Nat} {w : Warp} {mask : BitVec 8} {cause epc eval : Nat} (hw : s.warp? c p = some w)
    (ho : s.noOlder c p) (hr : w.region.active = false) (hp : w.special.priv = false) (hv : s.vector w ≠ 0) (hc : cause < 256)
    (hcause : cause ≠ causePoison) :
    ∃ w', (s.raise c p mask { cause := cause, epc := epc, eval := eval }).warp? c p = some w' ∧
      (s.raise c p mask { cause := cause, epc := epc, eval := eval }).mem = s.mem ∧
      AtHandler mask w w' (s.vector w) epc eval cause := by
  obtain ⟨k, hk, -⟩ := State.core?_of_warp? hw
  obtain ⟨t, ht⟩ : ∃ t : PendingTrap, t =
      { mask := mask, pc := w.pcOf mask, cause := cause, epc := epc, eval := BitVec.ofNat 64 eval, perLane := false, lid := 0,
        deferred := false, source := 0, access := 0 } := ⟨_, rfl⟩
  have hhandler : handlerOf w (s.tenant w.tenant) = s.vector w := rfl
  have hraise : s.raise c p mask { cause := cause, epc := epc, eval := eval } =
      (s.setWarp c p (w.enterHandler t mask epc (s.vector w))).unselect c p := by
    simp only [State.raise, hw, Option.map_some, Option.getD_some, ← ht, State.raisePending, hk, ho k hk, List.isEmpty_nil, if_true,
      State.enterTrap, hr, Bool.false_eq_true, if_false, State.countPoison, hhandler, hp, hv, or_self]
    rw [ht]; simp only [if_neg hcause]
  rw [hraise]
  refine ⟨w.enterHandler t mask epc (s.vector w), ?_, rfl, rfl, ?_, fun i => ?_, ?_⟩
  · show (s.setWarp c p _).warp? c p = _
    rw [State.warp?_setWarp, if_pos ⟨rfl, rfl, by rw [hk]; rfl⟩]
  · rw [ht]; simp [Warp.enterHandler, estatOf, ecauseOf, Nat.mod_eq_of_lt hc]
  · have := Warp.slice_setPc w mask (s.vector w) i
    simp only [Warp.slice, Warp.enterHandler] at this ⊢
    rw [this]; split <;> rfl
  · simp only [Warp.enterHandler, beq_iff_eq]; rfl

/-- With nothing that the world chooses, a selected group's instruction runs. -/
theorem step_of_fetch_run {s t : State} {i : Instr} (ha : s.agenda = []) (hs : s.sel ≠ []) (hf : s.fetch = .run i t) : step s = exec i t := by
  simp only [step, ha, hf, List.isEmpty_iff, hs, if_false]

/-- Or its fetch traps. -/
theorem step_of_fetch_trapped {s t : State} (ha : s.agenda = []) (hs : s.sel ≠ []) (hf : s.fetch = .trapped t) : step s = .next t := by
  simp only [step, ha, hf, List.isEmpty_iff, hs, if_false]

/-- Settles O50: the chain of cases of `step`, with what the fetch of the selected group finds and leaves. -/
theorem stepRunsDecoded : Obligations.StepRunsDecoded := by
  unfold Obligations.StepRunsDecoded
  intro s
  refine ⟨fun e rest ha hadm => ?_, fun ha hsel => ⟨fun e rest hp he => ?_, fun hp hb => ?_⟩, ?_⟩
  · simp only [step, ha, hadm, if_true]
  · simp only [step, ha, hsel, hp, he, List.isEmpty_nil, if_true]
  · simp only [step, ha, hsel, hp, List.isEmpty_nil, if_true, State.nextTurn, hb]
  · intro g w n pa ha hs hg hfaulted htrap hend hsaved va kept word hlen htr hread hstale words quiet
    have hone : ∀ k, k < n → s.fetchOne g.core w.tenant (va k) k w.special.priv = .words [word k] := fun k hk => by
      obtain ⟨pte, hpte⟩ := htr k hk
      exact State.fetchOne_eq hpte (hread k hk) (fun c v hc hv => hstale c k v hc hk hv)
    have hsel := State.selectable_of hs hg hfaulted htrap hend hsaved
    have hne : s.sel ≠ [] := fun h => by have := hs.1; rw [h] at this; cases this
    have hkept : quiet → FetchKept g.core s (kept n) := fun hq =>
      State.keepFetch_quiet n 0 s (fun j => by rw [Nat.zero_add]) (fun j hj => hq j (by omega))
    refine ⟨fun hq => ⟨(hkept hq).state, (hkept hq).selects hs, (hkept hq).cores⟩, fun i hi => ?_, fun hi => ?_⟩
    · exact step_of_fetch_run ha hne (State.fetch_run hs hsel hlen hone hi)
    · have hnext : step s = .next ({ kept n with sel := s.sel.tail }.raise g.core g.slot g.mask
          { cause := 0x01, epc := w.pcOf g.mask, eval := (words 0).toNat + 2 ^ 32 * (words 1).toNat }) :=
        step_of_fetch_trapped ha hne (State.fetch_trapped hs hsel hlen hone hi)
      refine ⟨hnext, fun hq ho hreg hpriv hvec => ?_⟩
      have hk := hkept hq
      have ho' : ({ kept n with sel := s.sel.tail } : State).noOlder g.core g.slot := fun k' hk' => by
        obtain ⟨k, hck, -⟩ := State.core?_of_warp? hs.2
        obtain ⟨k1, hk1, he, -⟩ := hk.cores g.core k hck
        obtain rfl : k1 = k' := Option.some.inj (hk1.symm.trans hk')
        rw [he]; exact ho k hck
      have hvec' : ({ kept n with sel := s.sel.tail } : State).vector w = s.vector w := by
        simp only [State.vector, State.tenant]; rw [hk.state]
      obtain ⟨w', hw', hmem, hat⟩ := State.raise_handler (s := { kept n with sel := s.sel.tail }) (mask := g.mask) (cause := 0x01)
        (epc := w.pcOf g.mask) (eval := (words 0).toNat + 2 ^ 32 * (words 1).toNat) (hk.warp? hs.2) ho' hreg hpriv
        (by rw [hvec']; exact hvec) (by decide) (by decide)
      exact ⟨_, w', hnext, hw', hmem.trans (by rw [hk.state]), hvec' ▸ hat⟩

end Sys2Proof.Machine

/-! # Steps that rewrite one warp: the rules they share -/

namespace Sys2Proof.Machine

/-! ## What leaves every warp as it is -/

@[simp] theorem State.core?_taken (s : State) (e : Instr) (c : Nat) : (s.taken e).core? c = s.core? c := rfl
@[simp] theorem State.warp?_taken (s : State) (e : Instr) (c p : Nat) : (s.taken e).warp? c p = s.warp? c p := rfl
@[simp] theorem State.cyc_taken (s : State) (e : Instr) (c : Nat) : (s.taken e).cyc c = s.cyc c := rfl
@[simp] theorem State.core?_modDir (s : State) (l : Nat) (f : DirLine → DirLine) (c : Nat) : (s.modDir l f).core? c = s.core? c := rfl
@[simp] theorem State.warp?_modDir (s : State) (l : Nat) (f : DirLine → DirLine) (c p : Nat) : (s.modDir l f).warp? c p = s.warp? c p := rfl

theorem State.cyc_eq {s : State} {c : Nat} {k : Core} (h : s.core? c = some k) : s.cyc c = k.cyc := by simp [State.cyc, h]

theorem State.cyc_modCore (s : State) (c d : Nat) {f : Core → Core} (hf : ∀ k, (f k).cyc = k.cyc) : (s.modCore c f).cyc d = s.cyc d := by
  simp only [State.cyc, State.core?_modCore]
  split
  · rename_i h; subst h; cases s.core? d with
    | none => rfl
    | some k => simp [hf]
  · rfl

@[simp] theorem State.cyc_modWarp (s : State) (c p d : Nat) (f : Warp → Warp) : (s.modWarp c p f).cyc d = s.cyc d :=
  s.cyc_modCore c d (fun _ => rfl)

/-- A change of a core that keeps its warps. -/
theorem State.warp?_modCore (s : State) (c d q : Nat) {f : Core → Core} (hf : ∀ k, (f k).warps = k.warps) :
    (s.modCore c f).warp? d q = s.warp? d q := by
  simp only [State.warp?, State.core?_modCore]
  split
  · cases s.core? d with
    | none => rfl
    | some k => simp [hf]
  · rfl

theorem State.mem_taken {s : State} {e f : Instr} (h : f ∈ (s.taken e).pending) : f ∈ s.pending := by
  have hd : ∀ l : List Instr, f ∈ dropFirst (· == e) l → f ∈ l := by
    intro l
    induction l with
    | nil => exact id
    | cons a t ih =>
      simp only [dropFirst]
      split
      · exact List.mem_cons_of_mem _
      · intro h
        rcases List.mem_cons.1 h with h | h
        · exact h ▸ List.mem_cons_self ..
        · exact List.mem_cons_of_mem _ (ih h)
  exact hd _ h

theorem State.mem_pushOnce_of_mem {s : State} {e f : Instr} (h : f ∈ s.pending) : f ∈ (s.pushOnce e).pending := by
  obtain ⟨l, hl⟩ := s.pushOnce_pending e
  rw [hl]; exact List.mem_append_left _ h

/-! ## The warp of a slot becomes another one, and no other warp does -/

section
variable {c p : Nat} {s t u : State} {w w' v : Warp}

theorem Rewrites.refl (h : s.warp? c p = some w) : Rewrites c p s s w := ⟨h, fun _ _ _ => rfl⟩

theorem Rewrites.trans (h : Rewrites c p s t w) (h' : Rewrites c p t u w') : Rewrites c p s u w' :=
  ⟨h'.1, fun d q hdq => (h'.2 d q hdq).trans (h.2 d q hdq)⟩

/-- Before and after, what leaves every warp as it is may happen. -/
theorem Rewrites.after (h : Rewrites c p s t w) (hu : ∀ d q, u.warp? d q = t.warp? d q) : Rewrites c p s u w :=
  ⟨(hu c p).trans h.1, fun d q hdq => (hu d q).trans (h.2 d q hdq)⟩

theorem Rewrites.before (h : Rewrites c p t u w) (ht : ∀ d q, t.warp? d q = s.warp? d q) : Rewrites c p s u w :=
  ⟨h.1, fun d q hdq => (h.2 d q hdq).trans (ht d q)⟩

theorem Rewrites.modWarp (h : s.warp? c p = some w) (f : Warp → Warp) : Rewrites c p s (s.modWarp c p f) (f w) :=
  ⟨by rw [State.warp?_modWarp, if_pos ⟨rfl, rfl⟩, h]; rfl, fun d q hdq => by rw [State.warp?_modWarp, if_neg (by omega)]⟩

theorem Rewrites.setWarp (h : s.warp? c p = some w) (w' : Warp) : Rewrites c p s (s.setWarp c p w') w' := by
  obtain ⟨k, hk, -⟩ := State.core?_of_warp? h
  exact ⟨by rw [State.warp?_setWarp, if_pos ⟨rfl, rfl, by rw [hk]; rfl⟩], fun d q hdq => by rw [State.warp?_setWarp, if_neg (by omega)]⟩

end

/-- A change of a warp, or of nothing but what comes due, leaves everything but cores and what comes due. -/
theorem State.modWarp_taken_eq (s : State) (e : Instr) (c p : Nat) (f : Warp → Warp) :
    (s.taken e).modWarp c p f = { s with
      cores := ((s.taken e).modWarp c p f).cores, pending := ((s.taken e).modWarp c p f).pending } := rfl

/-- A completed instruction rewrites its own warp. -/
theorem Rewrites.completeAt {s : State} {x : Ctx} {w : Warp} (pc : Nat) (h : s.warp? x.core x.slot = some w) :
    Rewrites x.core x.slot s (s.completeAt x pc) (w.finished x pc) := by
  have heq : s.completeAt x pc = (((s.setWarp x.core x.slot (w.finished x pc)).modQuad x.core (quadOf x.slot) (·.completes x)).pushAll
      ((w.finished x pc).dueAfter x.core x.slot)) := by
    simp only [State.completeAt, h]; rfl
  rw [heq]
  exact (Rewrites.setWarp h _).after (fun d q => by simp)

/-! ## Runs of registers that are written at once -/

theorem Warp.regWord_setReg_other (w : Warp) {c l c' l' : Nat} (x : Word) (h : ¬(c' = c ∧ (192 ≤ c ∨ l' = l))) :
    (w.setReg c l x).regWord c' l' = w.regWord c' l' := by
  by_cases hc' : c' < 252
  · rw [Warp.regWord_setReg _ _ _ _ _ _ hc', if_neg (by omega)]
  · have h192 : ¬c' < 192 := by omega
    simp only [Warp.setReg, Warp.regWord, h192, if_false]
    split
    · rfl
    · split
      · rw [SMap.get_set, if_neg (by omega)]
      · rfl

/-- Writing a register changes lanes and scalar registers alone, and of the lanes none but their registers. -/
theorem Warp.setReg_eq (w : Warp) (c l : Nat) (x : Word) :
    w.setReg c l x = { w with lanes := (w.setReg c l x).lanes, s := (w.setReg c l x).s } := by
  simp only [Warp.setReg]; split
  · rfl
  · split <;> rfl

theorem Warp.setRun_eq (w : Warp) (c l x n : Nat) :
    w.setRun c l x n = { w with lanes := (w.setRun c l x n).lanes, s := (w.setRun c l x n).s } := by
  induction n generalizing w c x with
  | zero => rfl
  | succ n ih =>
    simp only [Warp.setRun]; split
    · rw [ih, Warp.setReg_eq]
    · rfl

theorem Warp.length_setReg (w : Warp) (c l : Nat) (x : Word) : (w.setReg c l x).lanes.length = w.lanes.length :=
  (Delivered.setReg w c l x).count

theorem Warp.length_setRun (w : Warp) (c l x n : Nat) : (w.setRun c l x n).lanes.length = w.lanes.length := by
  induction n generalizing w c x with
  | zero => rfl
  | succ n ih =>
    simp only [Warp.setRun]; split
    · rw [ih, Warp.length_setReg]
    · rfl

theorem Warp.regWord_setRun_other (w : Warp) {c l c' l' x n : Nat} (h : ¬(c ≤ c' ∧ c' < c + n ∧ (192 ≤ c' ∨ l' = l))) :
    (w.setRun c l x n).regWord c' l' = w.regWord c' l' := by
  induction n generalizing w c x with
  | zero => rfl
  | succ n ih =>
    simp only [Warp.setRun]; split
    · rw [ih _ (by omega), Warp.regWord_setReg_other _ _ (by omega)]
    · rfl

theorem Warp.regWord_setRun_same (w : Warp) {c l x n j : Nat} (hj : j < n) (hc : c + n ≤ 252)
    (hl : 192 ≤ c + j ∨ l < w.lanes.length) : (w.setRun c l x n).regWord (c + j) l = BitVec.ofNat 32 (x / 2 ^ (32 * j)) := by
  induction n generalizing w c x j with
  | zero => omega
  | succ n ih =>
    simp only [Warp.setRun, show c < 252 by omega, if_true]
    cases j with
    | zero =>
      rw [Warp.regWord_setRun_other _ (by omega), Nat.add_zero, Warp.regWord_setReg _ _ _ _ _ _ (by omega), if_pos ⟨rfl, by omega⟩]
      simp
    | succ j =>
      rw [show c + (j + 1) = c + 1 + j by omega, ih _ (by omega) (by omega) (by rw [Warp.length_setReg]; omega), Nat.div_div_eq_div_mul,
        ← Nat.pow_add, show 32 + 32 * j = 32 * (j + 1) by omega]

/-- The runs of a list of lanes with their values. -/
def Warp.setRuns (w : Warp) (code n : Nat) (l : List (Nat × Nat)) : Warp := l.foldl (fun w r => w.setRun code r.1 r.2 n) w

theorem Warp.setRuns_eq (w : Warp) (code n : Nat) (l : List (Nat × Nat)) :
    w.setRuns code n l = { w with lanes := (w.setRuns code n l).lanes, s := (w.setRuns code n l).s } := by
  induction l generalizing w with
  | nil => rfl
  | cons e t ih => rw [Warp.setRuns, List.foldl_cons, ← Warp.setRuns, ih, Warp.setRun_eq]

theorem Warp.regWord_setRuns_other (w : Warp) {code n c' l' : Nat} {l : List (Nat × Nat)}
    (h : ∀ e ∈ l, ¬(code ≤ c' ∧ c' < code + n ∧ (192 ≤ c' ∨ l' = e.1))) : (w.setRuns code n l).regWord c' l' = w.regWord c' l' := by
  induction l generalizing w with
  | nil => rfl
  | cons e t ih =>
    rw [Warp.setRuns, List.foldl_cons, ← Warp.setRuns, ih _ (fun e he => h e (List.mem_cons_of_mem _ he)),
      Warp.regWord_setRun_other _ (h e (List.mem_cons_self ..))]

/-- Runs of vector registers in different lanes, or one scalar run, hold their values. -/
theorem HoldsRun.setRuns (w : Warp) {code n : Nat} {l : List (Nat × Nat)} (hn : (l.map Prod.fst).Nodup)
    (h : (code + n ≤ 192 ∧ ∀ e ∈ l, e.1 < w.lanes.length) ∨ (192 ≤ code ∧ code + n ≤ 252 ∧ l.length ≤ 1)) :
    HoldsRun (w.setRuns code n l) code n l := by
  induction l generalizing w with
  | nil => intro e he; cases he
  | cons a t ih =>
    rw [List.map_cons, List.nodup_cons] at hn
    intro e he j hj
    rw [Warp.setRuns, List.foldl_cons, ← Warp.setRuns]
    rcases List.mem_cons.1 he with rfl | he
    · rw [Warp.regWord_setRuns_other, Warp.regWord_setRun_same _ hj (by omega)]
      · rcases h with h | h
        · exact .inr (h.2 e (List.mem_cons_self ..))
        · exact .inl (by omega)
      · rintro b hb ⟨-, -, h3⟩
        rcases h with h | h
        · exact hn.1 (List.mem_map.2 ⟨b, hb, by omega⟩)
        · have : t = [] := List.length_eq_zero_iff.1 (by have := h.2.2; rw [List.length_cons] at this; omega)
          rw [this] at hb; cases hb
    · refine ih (w.setRun code a.1 a.2 n) hn.2 ?_ e he j hj
      rcases h with h | h
      · exact .inl ⟨h.1, fun e he => by rw [Warp.length_setRun]; exact h.2 e (List.mem_cons_of_mem _ he)⟩
      · exact .inr ⟨h.1, h.2.1, by have := h.2.2; rw [List.length_cons] at this; omega⟩

end Sys2Proof.Machine

/-! # What a waiting warp meets (R57, R111, R141, R204, R282, R283, R295, R296, R398) -/

namespace Sys2Proof.Machine

/-! ## REGANG's timeout (R141) -/

theorem inMask_or (a b : BitVec 8) (k : Nat) : inMask (a ||| b) k = (inMask a k || inMask b k) := by simp [inMask]

theorem inMask_and (a b : BitVec 8) (k : Nat) : inMask (a &&& b) k = (inMask a k && inMask b k) := by simp [inMask]

/-- The lowest slice of a mask that has one is one of its slices. -/
theorem inMask_lowSlice {m : BitVec 8} (h : m ≠ 0) : inMask m (lowSlice m) = true := by
  cases hf : (List.range 8).find? (inMask m) with
  | some k => rw [lowSlice, hf]; exact List.find?_some hf
  | none =>
    refine absurd (BitVec.eq_of_getLsbD_eq fun i hi => ?_) h
    have := List.find?_eq_none.1 hf i (List.mem_range.2 hi)
    simpa [inMask] using this

/-- Two groups without a common slice. -/
theorem inMask_disjoint {a b : BitVec 8} (h : a &&& b = 0) (k : Nat) : ¬(inMask a k = true ∧ inMask b k = true) := by
  have := inMask_and a b k
  rw [h] at this
  rintro ⟨ha, hb⟩
  rw [ha, hb] at this
  simp [inMask] at this

theorem Warp.slice_setFmt (w : Warp) (mask : BitVec 8) (x : BitVec 12) (k : Nat) :
    (w.setFmt mask x).slice k = if inMask mask k = true ∧ k < w.slices.length then { w.slice k with fmt := x } else w.slice k := by
  simp only [Warp.slice, Warp.setFmt, List.getD_eq_getElem?_getD, List.getElem?_mapIdx]
  by_cases hk : k < w.slices.length
  · rw [List.getElem?_eq_getElem hk]
    simp only [Option.map_some, Option.getD_some, hk, and_true]
  · rw [List.getElem?_eq_none (by omega)]
    simp [hk]

/-- A class-F write of a scalar register of a warp whose results are all delivered. -/
theorem Warp.regWord_deliverReg_scalar {w : Warp} (hu : w.undelivered = []) {code : Nat} (hc : 192 ≤ code ∧ code < 252)
    (cyc draw due : Nat) (x : Word) : (w.deliverReg cyc draw due code scalarLane x).regWord code scalarLane = x := by
  obtain ⟨us, h⟩ := Warp.deliverReg_eq w cyc draw due code scalarLane x hc.2 (fun u hm => by rw [hu] at hm; cases hm)
  rw [h, Warp.regWord_undelivered, Warp.regWord_setReg _ _ _ _ _ _ hc.2, if_pos ⟨rfl, .inl hc.1⟩]

theorem Delivered.slices {w w' : Warp} (h : Delivered w w') : w'.slices = w.slices := by rw [h.warp]

theorem Delivered.groups {w w' : Warp} (h : Delivered w w') : w'.groups = w.groups := by rw [h.warp]

section
variable {w : Warp} {a b : Group} {m : BitVec 8} {ta tb lim pc : Nat} {d : BitVec 8}

/-- The two groups of a warp that wait at one REGANG. -/
theorem Warp.regangWaiters_two (hg : w.groups = [a, b]) (ha : a.hold = .regang m ta lim d) (hb : b.hold = .regang m tb lim d)
    (hpa : w.pcOf a.mask = pc) (hpb : w.pcOf b.mask = pc) : w.regangWaiters pc = [(a, m, ta, lim, d), (b, m, tb, lim, d)] := by
  simp only [Warp.regangWaiters, hg, List.filterMap_cons, ha, hb, hpa, hpb, if_true, List.filterMap_nil]

theorem Warp.regangExpired_two (hw : w.regangWaiters pc = [(a, m, ta, lim, d), (b, m, tb, lim, d)]) {cyc : Nat} (hl : lim ≠ 0)
    (ht : min ta tb + lim ≤ cyc) : w.regangExpired pc cyc = true := by
  simp only [Warp.regangExpired, hw, List.foldl_cons, List.foldl_nil, List.any_cons, List.any_nil, Bool.or_false, Bool.or_self,
    decide_eq_true_eq]
  exact ⟨hl, by omega⟩

/-- The merge of the two groups of a warp: their slices, their group and its register. -/
theorem Warp.regangMerge_two (hg : w.groups = [a, b]) (hw : w.regangWaiters pc = [(a, m, ta, lim, d), (b, m, tb, lim, d)])
    (hdis : a.mask &&& b.mask = 0) (ha : a.mask ≠ 0) (hd : 192 ≤ d.toNat ∧ d.toNat < 252) (hu : w.undelivered = []) (cyc draw : Nat) :
    (w.regangMerge pc cyc draw).groups = [{ mask := a.mask ||| b.mask, readyAt := max a.readyAt b.readyAt, held := a.held || b.held }] ∧
      (w.regangMerge pc cyc draw).regWord d.toNat scalarLane = (a.mask ||| b.mask).setWidth 32 ∧
      ∀ i, inMask (a.mask ||| b.mask) i = true → i < w.slices.length → (w.regangMerge pc cyc draw).slice i =
        { pc := BitVec.ofNat 48 ((pc + b.prog.note / 4096) % 2 ^ 48 / 4 * 4), fmt := BitVec.ofNat 12 (b.prog.note % 4096) } := by
  have hmask : (0 : BitVec 8) ||| a.mask ||| b.mask = a.mask ||| b.mask := by simp
  have hor : a.mask ||| b.mask ≠ 0 := fun h => ha (by
    have : a.mask &&& (a.mask ||| b.mask) = a.mask := by ext i; simp +contextual
    rw [h] at this; simpa using this.symm)
  have hlow := inMask_lowSlice hor
  have hone := inMask_disjoint hdis (lowSlice (a.mask ||| b.mask))
  rw [inMask_or, Bool.or_eq_true] at hlow
  simp only [Warp.regangMerge, hw, List.getLast?_cons_cons, List.getLast?_singleton, List.foldl_cons, List.foldl_nil, hmask]
  refine ⟨?_, ?_, fun i hi hlt => ?_⟩
  · rw [(Delivered.deliverReg ..).groups]
    simp only [Warp.setFmt, Warp.setPc, hg, List.filterMap_cons, List.filterMap_nil, List.any_cons, List.any_nil, beq_self_eq_true,
      Bool.true_or, Bool.or_true, Bool.not_true, Bool.false_eq_true, if_false, Bool.or_false, Nat.zero_max]
    rcases hlow with hl | hl
    · rw [if_pos hl, if_neg (fun h => hone ⟨hl, h⟩)]
    · rw [if_neg (fun h => hone ⟨h, hl⟩), if_pos hl]
  · rw [Warp.regWord_deliverReg_scalar (by exact hu) hd, BitVec.ofNat_toNat]
  · rw [Warp.slice, (Delivered.deliverReg ..).slices]
    have h := Warp.slice_setFmt (w.setPc (a.mask ||| b.mask) ((pc + b.prog.note / 4096) % 2 ^ 48)) (a.mask ||| b.mask)
      (BitVec.ofNat 12 (b.prog.note % 4096)) i
    rw [if_pos ⟨hi, by simpa [Warp.setPc] using hlt⟩, Warp.slice_setPc, if_pos ⟨hi, hlt⟩] at h
    exact h

end

/-! ## WFUSE and FLASH in their latches (R57, R204) -/

/-- The slices of a group that completes go to its next instruction. -/
theorem Warp.slice_pc_finished (w : Warp) (x : Ctx) (pc i : Nat) (hi : inMask x.mask i = true) (hlt : i < w.slices.length) :
    ((w.finished x pc).slice i).pc = BitVec.ofNat 48 (pc / 4 * 4) := by
  rw [Warp.slice_finished, Warp.slice_setPc, if_pos ⟨hi, hlt⟩]

@[simp] theorem Warp.fmtOf_finished (w : Warp) (x : Ctx) (pc : Nat) (m : BitVec 8) : (w.finished x pc).fmtOf m = w.fmtOf m := by
  rw [Warp.fmtOf, Warp.slice_finished, Warp.slice_setPc]
  split <;> rfl

theorem Warp.finished_parts (w : Warp) (x : Ctx) (pc : Nat) : (w.finished x pc).lanes = w.lanes ∧ (w.finished x pc).s = w.s ∧
    (w.finished x pc).latch = w.latch ∧ (w.finished x pc).slices.length = w.slices.length := by
  have hs : (w.setPc x.mask pc).slices.length = w.slices.length := by simp [Warp.setPc]
  simp only [Warp.finished, Warp.countIssue, Warp.commitFlash]
  split <;> exact ⟨rfl, rfl, rfl, hs⟩

/-- A WFUSE whose partner is not there completes alone: the count of its lanes that are not exited, with bit 9 set, is its result. -/
theorem State.fuseAlone_spec {s : State} {c p : Nat} {w : Warp} {l : Rendezvous} {f : LX} (hw : s.warp? c p = some w)
    (hl : w.latch = some l) (hi : l.instr = .wfuse f) (hd : 192 ≤ f.dst.toNat ∧ f.dst.toNat < 252) :
    ∃ w', Rewrites c p s (s.fuseAlone c p) w' ∧ w'.latch = none ∧ w'.lanes = w.lanes ∧
      (∀ i, inMask l.mask i = true → i < w.slices.length →
        (w'.slice i).pc = BitVec.ofNat 48 ((w.pcOf l.mask + l.instr.length) % 2 ^ 48 / 4 * 4)) ∧
      w'.regWord f.dst.toNat scalarLane = BitVec.ofNat 32 (2 ^ 9 + (w.lanes.filter (fun l => !l.exited)).length) := by
  obtain ⟨x, hx⟩ : ∃ x, x = w.latchCtx l c p (s.cyc c) s.tick := ⟨_, rfl⟩
  have hf : x.f.dst = f.dst := by rw [hx]; simp only [Warp.latchCtx, hi]; rfl
  obtain ⟨w1, hw1⟩ : ∃ w1 : Warp, w1 = { w.setReg f.dst.toNat scalarLane (BitVec.ofNat 32 (2 ^ 9 + w.liveLanes)) with latch := none } := ⟨_, rfl⟩
  have heq : s.fuseAlone c p = (s.modWarp c p (fun w => { w.setReg x.f.dst.toNat scalarLane (BitVec.ofNat 32 (2 ^ 9 + w.liveLanes)) with
      latch := none })).complete x := by simp only [State.fuseAlone, hw, hl, ← hx]
  have hmod := Rewrites.modWarp hw (fun w => { w.setReg x.f.dst.toNat scalarLane (BitVec.ofNat 32 (2 ^ 9 + w.liveLanes)) with latch := none })
  rw [hf, ← hw1] at hmod
  have hcx : x.core = c ∧ x.slot = p ∧ x.mask = l.mask := by rw [hx]; exact ⟨rfl, rfl, rfl⟩
  obtain ⟨hcore, hslot, hmask⟩ := hcx
  have hfin := Rewrites.completeAt (x := x) x.next (by rw [hcore, hslot]; exact hmod.1)
  rw [hcore, hslot] at hfin
  have hnext : x.next = (w.pcOf l.mask + l.instr.length) % 2 ^ 48 := by rw [hx]; rfl
  have hreg : w.setReg f.dst.toNat scalarLane (BitVec.ofNat 32 (2 ^ 9 + w.liveLanes)) =
      { w with s := SMap.set 0 (f.dst.toNat - 192) (BitVec.ofNat 32 (2 ^ 9 + w.liveLanes)) w.s } := by
    rw [Warp.setReg, if_neg (by omega), if_pos hd.2]
  obtain ⟨hlanes, hs, hlatch, -⟩ := Warp.finished_parts w1 x x.next
  rw [heq, hf]
  refine ⟨_, hmod.trans hfin, ?_, ?_, fun i hm hlt => ?_, ?_⟩
  · rw [hlatch, hw1]
  · rw [hlanes, hw1, hreg]
  · rw [Warp.slice_pc_finished _ _ _ _ (by rw [hmask]; exact hm) (by rw [hw1, hreg]; exact hlt), hnext]
  · rw [Warp.regWord_finished, hw1]
    exact (Warp.regWord_setReg w f.dst.toNat scalarLane f.dst.toNat scalarLane _ hd.2).trans (if_pos ⟨rfl, .inl hd.1⟩)

/-- The groups that a REGANG's timeout joins (R141). -/
theorem becomes_regangTimeout {s : State} {c p : Nat} {k : Core} {w : Warp} (hk : s.core? c = some k) (hw : s.warp? c p = some w)
    {a b : Group} {m : BitVec 8} {ta tb lim pc : Nat} {d : BitVec 8} (hg : w.groups = [a, b]) (ha : a.hold = .regang m ta lim d)
    (hb : b.hold = .regang m tb lim d) (hdis : a.mask &&& b.mask = 0) (ha0 : a.mask ≠ 0) (hpa : w.pcOf a.mask = pc)
    (hpb : w.pcOf b.mask = pc) (hl : lim ≠ 0) (ht : min ta tb + lim ≤ k.cyc) (hd : 192 ≤ d.toNat ∧ d.toNat < 252)
    (hu : w.undelivered = []) (hs : w.slices.length = 8) :
    Becomes (.regangTimeout c p pc) s fun t => ∃ w', Rewrites c p s t w' ∧
      w'.groups = [{ mask := a.mask ||| b.mask, readyAt := max a.readyAt b.readyAt, held := a.held || b.held }] ∧
      w'.regWord d.toNat scalarLane = (a.mask ||| b.mask).setWidth 32 ∧
      ∀ i, i < 8 → inMask (a.mask ||| b.mask) i = true → w'.slice i =
        { pc := BitVec.ofNat 48 ((pc + b.prog.note / 4096) % 2 ^ 48 / 4 * 4), fmt := BitVec.ofNat 12 (b.prog.note % 4096) } := by
  have hws := Warp.regangWaiters_two hg ha hb hpa hpb
  have hexp : w.regangExpired pc (s.cyc c) = true := Warp.regangExpired_two hws hl (by rw [State.cyc_eq hk]; exact ht)
  have hex : exec (.regangTimeout c p pc) s =
      .next (({ s.taken (.regangTimeout c p pc) with tick := s.tick + 1 }).setWarp c p (w.regangMerge pc (s.cyc c) s.tick)) := by
    show execRegangTimeout c p pc s = _
    simp only [execRegangTimeout, State.warp?_taken, hw, State.cyc_taken, hexp, if_true]
    rfl
  obtain ⟨hgroups, hreg, hslice⟩ := Warp.regangMerge_two hg hws hdis ha0 hd hu (s.cyc c) s.tick
  refine ⟨_, hex, _, (Rewrites.setWarp (w := w) hw _).before fun _ _ => rfl, hgroups, hreg, fun i hi hm => hslice i hm (hs ▸ hi)⟩

/-- A WFUSE that enters its latch completes alone where its partner has gone. -/
theorem State.enterFusion_alone {s : State} {c p : Nat} {w : Warp} {l : Rendezvous} (hw : s.warp? c p = some w) (hl : w.latch = some l)
    (hp : s.warp? c l.partner = none) :
    s.enterFusion c p = (s.modWarp c p (fun w => { w with latch := some { l with entered := true } })).fuseAlone c p := by
  have hne : l.partner ≠ p := fun h => by rw [h, hw] at hp; cases hp
  have hp1 : (s.modWarp c p (fun w => { w with latch := some { l with entered := true } })).warp? c l.partner = none :=
    ((Rewrites.modWarp hw _).2 c l.partner (.inr hne)).trans hp
  simp only [State.enterFusion, hw, hl, hp1]

/-- A WFUSE whose partner has gone enters its latch, and completes alone (R204). -/
theorem becomes_wfuseLatchEntry {s : State} {c p : Nat} {w : Warp} (hw : s.warp? c p = some w) {l : Rendezvous} {f : LX}
    (hl : w.latch = some l) (hi : l.instr = .wfuse f) (he : l.entered = false) (hz : w.paths.allZero = true)
    (hp : s.warp? c l.partner = none) (hd : 192 ≤ f.dst.toNat ∧ f.dst.toNat < 252) :
    Becomes (.wfuseLatchEntry c p) s fun t => ∃ w', Rewrites c p s t w' ∧ w'.latch = none ∧
      (∀ i, inMask l.mask i = true → i < w.slices.length →
        (w'.slice i).pc = BitVec.ofNat 48 ((w.pcOf l.mask + l.instr.length) % 2 ^ 48 / 4 * 4)) ∧ w'.lanes = w.lanes ∧
      w'.regWord f.dst.toNat scalarLane = BitVec.ofNat 32 (2 ^ 9 + (w.lanes.filter (fun l => !l.exited)).length) := by
  have hmod := Rewrites.modWarp (s := s.taken (.wfuseLatchEntry c p)) hw (fun w => { w with latch := some { l with entered := true } })
  have hex : exec (.wfuseLatchEntry c p) s = .next (((s.taken (.wfuseLatchEntry c p)).modWarp c p
      (fun w => { w with latch := some { l with entered := true } })).fuseAlone c p) := by
    show execWfuseLatchEntry c p s = _
    rw [← State.enterFusion_alone (by exact hw) hl (by exact hp)]
    simp only [execWfuseLatchEntry, State.warp?_taken, hw, hl, hi, hz, he]
    rfl
  obtain ⟨w', hrw, hlatch, hlanes, hpc, hreg⟩ := State.fuseAlone_spec hmod.1 rfl hi hd
  exact ⟨_, hex, w', (hmod.trans hrw).before fun _ _ => rfl, hlatch, hpc, hlanes, hreg⟩

theorem mb_low_twelve (f : LX) : f.mb 11 0 = f.modi.toNat := by
  simp only [LX.mb, bitsOf]; have := f.modi.isLt; omega

/-- A FLASH that has waited for its accesses completes, and sets the point of the next instruction (R57). -/
theorem becomes_flashLatch {s : State} {c p : Nat} {w : Warp} (hw : s.warp? c p = some w) {l : Rendezvous} {f : LX}
    (hl : w.latch = some l) (hi : l.instr = .flash f) (hz : w.paths.allZero = true) (ha : w.region.active = false)
    (hu : w.undelivered = []) :
    Becomes (.flashLatch c p) s fun t => ∃ w', Rewrites c p s t w' ∧ w'.latch = none ∧
      (∀ i, inMask l.mask i = true → i < w.slices.length →
        (w'.slice i).pc = BitVec.ofNat 48 ((w.pcOf l.mask + l.instr.length) % 2 ^ 48 / 4 * 4)) ∧ w'.lanes = w.lanes ∧ w'.s = w.s ∧
      w'.flash = {
        valid := true, pc := BitVec.ofNat 48 ((w.pcOf l.mask + l.instr.length) % 2 ^ 48), nv := l.vals.getD 0 0, ns := l.vals.getD 1 0,
        label := f.modi.toNat, fmt := w.fmtOf l.mask, mode := w.mode,
        lanes := w.lanes.map (fun y => { p := y.p, nest := y.nest, exited := y.exited }) } ∧
      (w.preempt.isSome = true → .flashbackSave c p ∈ t.pending) := by
  obtain ⟨x, hx⟩ : ∃ x, x = w.latchCtx l c p (s.cyc c) s.tick := ⟨_, rfl⟩
  have hcx : x.core = c ∧ x.slot = p ∧ x.mask = l.mask ∧ x.i = .flash f ∧ x.next = (w.pcOf l.mask + l.instr.length) % 2 ^ 48 ∧ x.f = f := by
    rw [hx]; exact ⟨rfl, rfl, rfl, hi, rfl, by simp only [Warp.latchCtx, hi]; rfl⟩
  obtain ⟨hcore, hslot, hmask, hinstr, hnext, hf⟩ := hcx
  have hmod := Rewrites.modWarp (s := s.taken (.flashLatch c p)) hw (fun w => { w with latch := none })
  have hfin := Rewrites.completeAt (x := x) x.next (by rw [hcore, hslot]; exact hmod.1)
  rw [hcore, hslot] at hfin
  have hex : exec (.flashLatch c p) s = .next ((((s.taken (.flashLatch c p)).modWarp c p (fun w => { w with latch := none })).complete x).setFlash
      c p l.mask x.next (l.vals.getD 0 0) (l.vals.getD 1 0) (x.f.mb 11 0)) := by
    show execFlashLatch c p s = _
    rw [hx]
    simp only [execFlashLatch, State.warp?_taken, hw, hl, hi, hz]
    rfl
  obtain ⟨w0, hw0⟩ : ∃ w0 : Warp, w0 = { w with latch := none } := ⟨_, rfl⟩
  rw [← hw0] at hmod hfin
  have heq := Warp.finished_eq (x := x) (by rw [hinstr]; rfl) w0 x.next
  have hfmt : (w0.finished x x.next).fmtOf l.mask = w.fmtOf l.mask :=
    (Warp.fmtOf_finished ..).trans (by rw [hw0]; rfl)
  have hpc : ∀ i, inMask l.mask i = true → i < w.slices.length → ((w0.finished x x.next).slice i).pc = BitVec.ofNat 48 (x.next / 4 * 4) :=
    fun i hm hlt => Warp.slice_pc_finished _ _ _ _ (by rw [hmask]; exact hm) (by rw [hw0]; exact hlt)
  generalize w0.finished x x.next = w1 at hfin heq hfmt hpc
  have ha1 : w1.region.active = false := by rw [heq, hw0]; exact ha
  have hu1 : w1.undelivered = [] := by rw [heq, hw0]; exact hu
  have hpre : w.preempt.isSome = true → w1.preempt.isSome = true := fun h => by rw [heq, hw0]; exact Option.isSome_map.trans h
  rw [State.complete, State.setFlash_inactive hfin.1 ha1 hu1, hf, mb_low_twelve] at hex
  refine ⟨_, hex, { w1 with flash := w1.flashPoint l.mask x.next (l.vals.getD 0 0) (l.vals.getD 1 0) f.modi.toNat },
    (((hmod.trans hfin).trans (Rewrites.setWarp hfin.1 _)).after fun d q => ?_).before fun _ _ => rfl, ?_, fun i hm hlt => ?_, ?_, ?_, ?_, ?_⟩
  · split
    · rw [State.warp?_pushOnce]
    · rfl
  · show w1.latch = none; rw [heq, hw0]
  · rw [← hnext]; exact hpc i hm hlt
  · show w1.lanes = w.lanes; rw [heq, hw0]
  · show w1.s = w.s; rw [heq, hw0]
  · simp only [Warp.flashPoint, hfmt, hnext]
    rw [heq, hw0]; rfl
  · intro h
    simp only [hpre h, if_true]
    exact State.mem_pushOnce ..

end Sys2Proof.Machine

/-! # Returns, acknowledgements, wakes and walks (R111, R282, R283, R295, R296, R398) -/

namespace Sys2Proof.Machine

/-! ## An access that has returned (R111, R282) -/

theorem State.checkEnd_eq {s : State} {c p : Nat} {w : Warp} (hw : s.warp? c p = some w) :
    s.checkEnd c p = if w.atEnd then s.pushOnce (.warpEnd c p) else s := by simp only [State.checkEnd, hw]

@[simp] theorem State.warp?_checkEnd (s : State) (c p d q : Nat) : (s.checkEnd c p).warp? d q = s.warp? d q := by
  cases h : s.warp? c p with
  | none => simp only [State.checkEnd, h]
  | some w => rw [State.checkEnd_eq h]; split <;> simp only [State.warp?_pushOnce]

@[simp] theorem State.warp?_pathsFell (s : State) (c p d q : Nat) : (s.pathsFell c p).warp? d q = s.warp? d q := by
  simp only [State.pathsFell]
  split
  · rfl
  · split
    · rfl
    · split
      · simp only [State.warp?_checkEnd]
      · split
        · simp only [State.warp?_pushOnce, State.warp?_checkEnd]
        · split <;> simp only [State.warp?_pushOnce, State.warp?_checkEnd]
        · simp only [State.warp?_checkEnd]

/-- The counters of a warp that is at its end have come to 0: its end comes due. -/
theorem State.mem_pathsFell {s : State} {c p : Nat} {w : Warp} (hw : s.warp? c p = some w) (he : w.atEnd = true) :
    .warpEnd c p ∈ (s.pathsFell c p).pending := by
  have hz : w.paths.allZero = true := by
    simp only [Warp.atEnd, Bool.and_eq_true] at he; exact he.1.2
  have hend : .warpEnd c p ∈ (s.checkEnd c p).pending := by
    rw [State.checkEnd_eq hw, if_pos he]; exact State.mem_pushOnce ..
  simp only [State.pathsFell, hw, hz, Bool.not_true, Bool.false_eq_true, if_false]
  split
  · exact hend
  · split
    · exact State.mem_pushOnce_of_mem hend
    · split
      · exact hend
      · exact State.mem_pushOnce_of_mem hend
    · exact hend

theorem Warp.takeImage_of_ne {a : Access} (h : a.kind ≠ .image) (w : Warp) : w.takeImage a = w := by
  simp only [Warp.takeImage]; split
  · rename_i hk _; exact absurd hk h
  · rfl

/-- The oldest access of its path returns alone: it leaves the list and its counter falls by one. -/
theorem Warp.settlePath_head {w : Warp} {a : Access} {rest : List Access} (hacc : w.accesses = a :: rest) (hr : a.returned = true)
    (hrest : ∀ b ∈ rest, b.id ≠ a.id ∧ (b.path = a.path → b.returned = false)) :
    w.settlePath a.path = { w with
      accesses := rest, paths := w.paths.set a.path (w.paths.get a.path - 1), uncovered := (w.settlePath a.path).uncovered } := by
  have hlater : (rest.filter (fun b => b.path == a.path)).takeWhile (·.returned) = [] := by
    cases hf : rest.filter (fun b => b.path == a.path) with
    | nil => rfl
    | cons b t =>
      have hb : b ∈ rest.filter (fun b => b.path == a.path) := by rw [hf]; exact List.mem_cons_self ..
      rw [List.mem_filter, beq_iff_eq] at hb
      rw [List.takeWhile_cons, (hrest b hb.1).2 hb.2]; rfl
  have hdone : ((w.accesses.filter (fun b => b.path == a.path)).takeWhile (·.returned)).map (·.id) = [a.id] := by
    rw [hacc, List.filter_cons_of_pos (by simp), List.takeWhile_cons, hr, if_pos rfl, hlater]; rfl
  have hkeep : w.accesses.filter (fun b => !([a.id]).contains b.id) = rest := by
    rw [hacc, List.filter_cons_of_neg (by simp)]
    exact List.filter_eq_self.2 fun b hb => by simpa using (hrest b hb).1
  simp only [Warp.settlePath, hdone, hkeep, List.length_singleton]

theorem Warp.writeAccess_eq {a : Access} (hr : a.refused = false) (hp : a.preds = []) (w : Warp) :
    w.writeAccess a = w.setRuns a.dst a.regs a.results := by
  simp only [Warp.writeAccess, hr, hp]; rfl

/-- The oldest access of its path, which waits for nothing: its results are in their registers, and it is counted no more. -/
theorem Warp.returnAccess_head {w : Warp} {a : Access} {rest : List Access} (hacc : w.accesses = a :: rest) (hr : a.returned = false)
    (href : a.refused = false) (hp : a.preds = []) (hrest : ∀ b ∈ rest, b.id ≠ a.id ∧ (b.path = a.path → b.returned = false)) :
    w.returnAccess a.id = { w with
      lanes := (w.setRuns a.dst a.regs a.results).lanes, s := (w.setRuns a.dst a.regs a.results).s, accesses := rest,
      paths := w.paths.set a.path (w.paths.get a.path - 1), uncovered := (w.returnAccess a.id).uncovered } := by
  have hfind : w.access? a.id = some a := by simp [Warp.access?, hacc]
  have heq : w.returnAccess a.id =
      ((w.setRuns a.dst a.regs a.results).modAccess a.id (fun a => { a with returned := true })).settlePath a.path := by
    simp only [Warp.returnAccess, hfind, hr, Warp.writeAccess_eq href hp]; rfl
  obtain ⟨ls, ss, hruns⟩ : ∃ ls ss, w.setRuns a.dst a.regs a.results = { w with lanes := ls, s := ss } := ⟨_, _, Warp.setRuns_eq ..⟩
  rw [heq, hruns]
  have hmod : (({ w with lanes := ls, s := ss } : Warp).modAccess a.id (fun a => { a with returned := true })).accesses =
      { a with returned := true } :: rest := by
    rw [Warp.modAccess, hacc]
    simp only [List.map_cons, if_true]
    exact congrArg _ ((List.map_congr_left fun b hb => if_neg (hrest b hb).1).trans (List.map_id' rest))
  exact Warp.settlePath_head (a := { a with returned := true }) hmod rfl hrest

theorem State.raiseFloor_inactive {s : State} {c p : Nat} {w : Warp} (hw : s.warp? c p = some w) (ha : w.region.active = false)
    (lo : DWord) : s.raiseFloor c p lo = s := by simp [State.raiseFloor, hw, ha]

@[simp] theorem State.warp?_registersWritten (s : State) (c p code n d q : Nat) : (s.registersWritten c p code n).warp? d q = s.warp? d q :=
  State.warp?_modQuad ..

/-- An access that waits for nothing more returns (R282). -/
theorem becomes_accessReturn {s : State} {c p : Nat} {w : Warp} (hw : s.warp? c p = some w) {a : Access} {rest : List Access}
    (hacc : w.accesses = a :: rest) (hneeds : a.needs = []) (hr : a.returned = false) (href : a.refused = false) (hp : a.preds = [])
    (hkind : a.kind ≠ .image) (ha : w.region.active = false)
    (hrest : ∀ b ∈ rest, b.id ≠ a.id ∧ (b.path = a.path → b.returned = false)) (hnodup : (a.results.map Prod.fst).Nodup)
    (hregs : (a.dst + a.regs ≤ 192 ∧ ∀ e ∈ a.results, e.1 < w.lanes.length) ∨
      (192 ≤ a.dst ∧ a.dst + a.regs ≤ 252 ∧ a.results.length ≤ 1)) :
    Becomes (.accessReturn c p a.id) s fun t => ∃ w', Rewrites c p s t w' ∧ HoldsRun w' a.dst a.regs a.results ∧
      w' = { w with lanes := w'.lanes, s := w'.s, accesses := rest, paths := w.paths.set a.path (w.paths.get a.path - 1), uncovered := w'.uncovered } ∧
      (∀ code l, (code < a.dst ∨ a.dst + a.regs ≤ code) → w'.regWord code l = w.regWord code l) ∧
      (w.over = true → w'.paths.allZero = true → (∀ y ∈ w.groups, y.prog.stage = 0) → .warpEnd c p ∈ t.pending) := by
  have hfind : w.access? a.id = some a := by simp [Warp.access?, hacc]
  have hmod := (Rewrites.modWarp (s := s.taken (.accessReturn c p a.id)) hw (·.takeImage a)).trans
    (Rewrites.modWarp (Rewrites.modWarp (s := s.taken (.accessReturn c p a.id)) hw (·.takeImage a)).1 (·.returnAccess a.id))
  simp only [Warp.takeImage_of_ne hkind] at hmod
  have heq := Warp.returnAccess_head hacc hr href hp hrest
  generalize w.returnAccess a.id = w' at hmod heq
  have hret := hmod.after (u := ((s.taken (.accessReturn c p a.id)).modWarp c p (·.takeImage a)).returnAccess c p a)
    fun d q => by simp only [State.returnAccess, State.warp?_registersWritten, Warp.takeImage_of_ne hkind]
  have hex : exec (.accessReturn c p a.id) s =
      .next ((((s.taken (.accessReturn c p a.id)).modWarp c p (·.takeImage a)).returnAccess c p a).pathsFell c p) := by
    show execAccessReturn c p a.id s = _
    have hout : a.outstanding = false := by simp [Access.outstanding, hneeds]
    simp only [execAccessReturn, State.warp?_taken, hw, Option.bind_some, hfind, hout, Bool.false_eq_true, if_false]
    rw [State.raiseFloor_inactive hret.1 (by rw [heq]; exact ha)]
  refine ⟨_, hex, w', (hret.after fun d q => by rw [State.warp?_pathsFell]).before fun _ _ => rfl, ?_, ?_, fun code l hcode => ?_,
    fun hover hz hst => State.mem_pathsFell hret.1 ?_⟩
  · rw [heq]; exact HoldsRun.setRuns w hnodup hregs
  · rw [heq]
  · rw [heq]; exact Warp.regWord_setRuns_other w fun e _ => by omega
  · have hover' : w'.over = true := by rw [heq]; exact hover
    have hgroups : w'.groups = w.groups := by rw [heq]
    simp only [Warp.atEnd, hover', hz, hgroups, Bool.true_and, List.all_eq_true, beq_iff_eq]
    exact hst

end Sys2Proof.Machine

/-! # What wakes a parked warp, and what a walk keeps (R283, R295, R296, R398) -/

namespace Sys2Proof.Machine

/-! ## An acknowledgement (R283) -/

theorem becomes_writeBackAcknowledgement {s : State} {c p : Nat} {w : Warp} (hw : s.warp? c p = some w) (id : Nat) :
    Becomes (.writeBackAcknowledgement c p id) s fun t => t = { s with cores := t.cores, pending := t.pending } ∧
      Rewrites c p s t { w with
        groups := w.groups.map (fun y => if y.hold = .acks then
          { y with prog := { y.prog with acks := y.prog.acks.filter (fun a => decide (a ≠ id)) } } else y) } :=
  ⟨_, rfl, State.modWarp_taken_eq .., (Rewrites.modWarp (s := s.taken (.writeBackAcknowledgement c p id)) hw _).before fun _ _ => rfl⟩

/-! ## MONW's wakes (R295, R296) -/

@[simp] theorem State.core?_forgetWatch (s : State) (c line d : Nat) : (s.forgetWatch c line).core? d = s.core? d := by
  simp only [State.forgetWatch]; split <;> rfl

@[simp] theorem State.warp?_forgetWatch (s : State) (c line d q : Nat) : (s.forgetWatch c line).warp? d q = s.warp? d q := by
  simp only [State.forgetWatch]; split <;> rfl

@[simp] theorem State.mem_forgetWatch (s : State) (c line : Nat) : (s.forgetWatch c line).mem = s.mem := by
  simp only [State.forgetWatch]; split <;> rfl

@[simp] theorem State.warp?_leaveMonitor (s : State) (c tenant line d q : Nat) :
    (s.leaveMonitor c tenant line).warp? d q = s.warp? d q := by
  simp only [State.leaveMonitor, State.warp?_forgetWatch]
  exact State.warp?_modCore _ _ _ _ (fun _ => rfl)

@[simp] theorem State.cyc_leaveMonitor (s : State) (c tenant line d : Nat) : (s.leaveMonitor c tenant line).cyc d = s.cyc d := by
  simp only [State.leaveMonitor, State.cyc, State.core?_forgetWatch]
  exact State.cyc_modCore _ _ _ (fun _ => rfl)

@[simp] theorem State.mem_leaveMonitor (s : State) (c tenant line : Nat) : (s.leaveMonitor c tenant line).mem = s.mem := by
  simp only [State.leaveMonitor, State.mem_forgetWatch]; rfl

/-- The warp that a MONW has parked, awake with the result of the MONW. -/
def Warp.woken (w : Warp) (cyc r : Nat) : Warp :=
  { w with
    park := .none, faulted := none, lease := { w.lease with st := .waiting, waitFrom := cyc },
    groups := w.groups.map (fun y => if y.prog.stage = 9 then { y with hold := .none, prog := { stage := 10, vals := [r] } } else y) }

theorem Warp.monitorPark_of_park {w : Warp} {line : Nat} {e : Option Nat} (h : w.park = .monitor line e) :
    w.monitorPark = some (line, e) := by simp [Warp.monitorPark, Warp.parkedBy, Warp.causes, h]

theorem Warp.monitorPark_of_awake {w : Warp} (h : w.park = .none) : w.monitorPark = none := by
  simp [Warp.monitorPark, Warp.parkedBy, Warp.causes, h]

/-- A warp that MONW parks on a line has this cause among its causes. -/
theorem Warp.mem_causes_of_monitorPark {w : Warp} {line : Nat} {e : Option Nat} (h : w.monitorPark = some (line, e)) :
    .monitor line e ∈ w.causes := by
  simp only [Warp.monitorPark, Warp.parkedBy] at h
  split at h
  · rename_i hf
    obtain ⟨rfl, rfl⟩ := Prod.mk.inj (Option.some.inj h)
    exact List.mem_of_find?_eq_some hf
  · cases h

/-- The only cause of a warp's sleep is over: it wakes. -/
theorem Warp.unpark_last {w : Warp} {r : ParkReason} (hp : w.park = r) (hr : r ≠ .none) (hb : w.behind = []) (cyc : Nat) :
    w.unpark r cyc = w.wake cyc := by
  have hc : w.causes = [r] := by rw [Warp.causes, hp, if_neg hr, hb]
  simp [Warp.unpark, hc]

theorem Warp.woken_eq {w : Warp} {line : Nat} {e : Option Nat} (hp : w.park = .monitor line e) (hb : w.behind = []) (cyc : Nat) (r : Bool) :
    (w.monitorResult (fun g => decide (g.prog.stage = stReply)) r).unpark (.monitor line e) cyc = w.woken cyc (if r then 1 else 0) := by
  rw [Warp.unpark_last (by exact hp) (by simp) (by exact hb)]
  simp only [Warp.wake, Warp.monitorResult, Warp.woken, hb, decide_eq_true_eq]
  rfl

/-- A wake is of its own slot alone. -/
theorem State.warp?_wakeMonitor_other (s : State) {c p d q : Nat} (r : Bool) (h : d ≠ c ∨ q ≠ p) :
    (s.wakeMonitor c p r).warp? d q = s.warp? d q := by
  simp only [State.wakeMonitor]
  split
  · rfl
  · split
    · simp only [State.warp?_leaveMonitor, State.unparkFrom]
      rw [State.warp?_modWarp, if_neg (by omega), State.warp?_modWarp, if_neg (by omega)]
    · rfl

@[simp] theorem State.cyc_wakeMonitor (s : State) (c p d : Nat) (r : Bool) : (s.wakeMonitor c p r).cyc d = s.cyc d := by
  simp only [State.wakeMonitor]
  split
  · rfl
  · split
    · simp only [State.cyc_leaveMonitor, State.unparkFrom, State.cyc_modWarp]
    · rfl

@[simp] theorem State.mem_wakeMonitor (s : State) (c p : Nat) (r : Bool) : (s.wakeMonitor c p r).mem = s.mem := by
  simp only [State.wakeMonitor]
  split
  · rfl
  · split
    · simp only [State.mem_leaveMonitor]; rfl
    · rfl

theorem State.wakeMonitor_awake {s : State} {c p : Nat} {w : Warp} (hw : s.warp? c p = some w) (h : w.monitorPark = none) (r : Bool) :
    s.wakeMonitor c p r = s := by simp only [State.wakeMonitor, hw, h]

theorem State.wakeMonitor_parked {s : State} {c p line : Nat} {e : Option Nat} {w : Warp} (hw : s.warp? c p = some w)
    (hp : w.park = .monitor line e) (hb : w.behind = []) (r : Bool) :
    Rewrites c p s (s.wakeMonitor c p r) (w.woken (s.cyc c) (if r then 1 else 0)) := by
  refine ⟨?_, fun d q h => State.warp?_wakeMonitor_other s r h⟩
  simp only [State.wakeMonitor, hw, Warp.monitorPark_of_park hp, State.warp?_leaveMonitor, State.unparkFrom]
  rw [State.warp?_modWarp, if_pos ⟨rfl, rfl⟩, State.warp?_modWarp, if_pos ⟨rfl, rfl⟩, hw, Option.map_some, Option.map_some,
    State.cyc_modWarp, Warp.woken_eq hp hb]

/-- A MONW whose bound has come wakes without a change (R295). -/
theorem becomes_monwBoundExpiry {s : State} {c p : Nat} {k : Core} {w : Warp} (hk : s.core? c = some k) (hw : s.warp? c p = some w)
    {line e : Nat} (hp : w.park = .monitor line (some e)) (hb : w.behind = []) (he : e ≤ k.cyc) (hn : .writeNotice c line ∉ s.pending) :
    Becomes (.monwBoundExpiry c p) s fun t => Rewrites c p s t (w.woken k.cyc 0) := by
  have hn' : (s.taken (.monwBoundExpiry c p)).pending.contains (.writeNotice c line) = false := by
    simpa using fun h => hn (State.mem_taken h)
  have hcyc := State.cyc_eq hk
  have hex : exec (.monwBoundExpiry c p) s = .next ((s.taken (.monwBoundExpiry c p)).wakeMonitor c p false) := by
    show execMonwBoundExpiry c p s = _
    simp only [execMonwBoundExpiry, State.warp?_taken, hw, Warp.monitorPark_of_park hp, State.cyc_taken, hcyc, hn']
    rw [if_pos ⟨he, rfl⟩]
  have hwake := State.wakeMonitor_parked (s := s.taken (.monwBoundExpiry c p)) hw hp hb false
  rw [State.cyc_taken, hcyc] at hwake
  exact ⟨_, hex, hwake.before fun _ _ => rfl⟩

/-- The warps of the core `c` at the slots, awake where they have been parked by MONW. -/
def State.wakeMonitors (s : State) (c : Nat) (slots : List Nat) : State := slots.foldl (fun s p => s.wakeMonitor c p true) s

theorem State.wakeMonitors_cons (s : State) (c q : Nat) (t : List Nat) :
    s.wakeMonitors c (q :: t) = (s.wakeMonitor c q true).wakeMonitors c t := rfl

theorem State.mem_wakeMonitors (s : State) (c : Nat) (slots : List Nat) : (s.wakeMonitors c slots).mem = s.mem := by
  induction slots generalizing s with
  | nil => rfl
  | cons q t ih => rw [State.wakeMonitors_cons, ih, State.mem_wakeMonitor]

theorem State.warp?_wakeMonitors_other (s : State) {c q : Nat} {slots : List Nat} (h : q ∉ slots) :
    (s.wakeMonitors c slots).warp? c q = s.warp? c q := by
  induction slots generalizing s with
  | nil => rfl
  | cons a t ih =>
    rw [List.mem_cons, not_or] at h
    rw [State.wakeMonitors_cons, ih _ h.2, State.warp?_wakeMonitor_other _ _ (.inr h.1)]

/-- A warp that MONW does not park is not woken. -/
theorem State.warp?_wakeMonitors_awake {s : State} {c p : Nat} {w : Warp} (hw : s.warp? c p = some w) (h : w.monitorPark = none)
    (slots : List Nat) : (s.wakeMonitors c slots).warp? c p = some w := by
  induction slots generalizing s with
  | nil => exact hw
  | cons q t ih =>
    rw [State.wakeMonitors_cons]
    by_cases hq : p = q
    · subst hq; rw [State.wakeMonitor_awake hw h]; exact ih hw
    · exact ih ((State.warp?_wakeMonitor_other _ _ (.inr hq)).trans hw)

/-- A warp that MONW parks is woken once, at the first of the places that name it. -/
theorem State.warp?_wakeMonitors_parked {s : State} {c p line : Nat} {e : Option Nat} {w : Warp} (hw : s.warp? c p = some w)
    (hp : w.park = .monitor line e) (hb : w.behind = []) {slots : List Nat} (hm : p ∈ slots) :
    (s.wakeMonitors c slots).warp? c p = some (w.woken (s.cyc c) 1) := by
  induction slots generalizing s with
  | nil => cases hm
  | cons q t ih =>
    rw [State.wakeMonitors_cons]
    by_cases hq : p = q
    · subst hq
      exact State.warp?_wakeMonitors_awake (State.wakeMonitor_parked hw hp hb true).1 (Warp.monitorPark_of_awake rfl) t
    · rw [ih ((State.warp?_wakeMonitor_other _ _ (.inr hq)).trans hw) ((List.mem_cons.1 hm).resolve_left hq), State.cyc_wakeMonitor]

theorem SMap.mem_of_get? {α : Type} {k : Nat} {v : α} {m : SMap α} (h : SMap.get? k m = some v) : (k, v) ∈ m := by
  induction m with
  | nil => cases h
  | cons e t ih =>
    simp only [SMap.get?] at h
    split at h
    · rename_i hk; obtain rfl := Option.some.inj h; subst hk; exact List.mem_cons_self ..
    · exact List.mem_cons_of_mem _ (ih h)

theorem SMap.get?_of_mem {α : Type} {k : Nat} {v : α} {m : SMap α} (hn : (m.map Prod.fst).Nodup) (h : (k, v) ∈ m) :
    SMap.get? k m = some v := by
  induction m with
  | nil => cases h
  | cons e t ih =>
    rw [List.map_cons, List.nodup_cons] at hn
    simp only [SMap.get?]
    rcases List.mem_cons.1 h with rfl | h
    · rw [if_pos rfl]
    · rw [if_neg, ih hn.2 h]
      rintro rfl; exact hn.1 (List.mem_map.2 ⟨_, h, rfl⟩)

/-- The slots of a core whose warps MONW parks on a line. -/
def Core.monitorSlots (k : Core) (line : Nat) : List Nat :=
  (k.warps.filter (fun e => (e.2.monitorPark.map (fun m => decide (m.1 = line))).getD false)).map Prod.fst

theorem Core.mem_monitorSlots {k : Core} {line p : Nat} :
    p ∈ k.monitorSlots line ↔ ∃ w, (p, w) ∈ k.warps ∧ ∃ e, w.monitorPark = some (line, e) := by
  simp only [Core.monitorSlots, List.mem_map, List.mem_filter, Prod.exists, exists_and_right, exists_eq_right]
  refine exists_congr fun w => and_congr_right fun _ => ?_
  cases w.monitorPark with
  | none => simp
  | some m => obtain ⟨l, e⟩ := m; simp

theorem exec_writeNotice {s : State} {c : Nat} {k : Core} (hk : s.core? c = some k) (line : Nat) :
    exec (.writeNotice c line) s = .next ((s.taken (.writeNotice c line)).wakeMonitors c (k.monitorSlots line)) := by
  show execWriteNotice c line s = _
  simp only [execWriteNotice, State.core?_taken, hk]
  rfl

/-- A notice of a write to a line wakes the warps that MONW parks there (R296), and no other warp. -/
theorem becomes_writeNotice {s : State} {c p : Nat} {k : Core} {w : Warp} (hk : s.core? c = some k) (hw : s.warp? c p = some w)
    {line : Nat} {e : Option Nat} (hp : w.park = .monitor line e) (hb : w.behind = []) :
    Becomes (.writeNotice c line) s fun t => t.mem = s.mem ∧ t.warp? c p = some (w.woken k.cyc 1) ∧
      ((k.warps.map Prod.fst).Nodup → ∀ q v, s.warp? c q = some v → (∀ x, ParkReason.monitor line x ∉ v.causes) →
        t.warp? c q = some v) := by
  have hget : ∀ q v, s.warp? c q = some v → SMap.get? q k.warps = some v := fun q v h => by
    simpa [State.warp?, hk] using h
  refine ⟨_, exec_writeNotice hk line, State.mem_wakeMonitors .., ?_, fun hn q v hv hno => ?_⟩
  · rw [State.warp?_wakeMonitors_parked (s := s.taken (.writeNotice c line)) hw hp hb
      (Core.mem_monitorSlots.2 ⟨w, SMap.mem_of_get? (hget p w hw), e, Warp.monitorPark_of_park hp⟩), State.cyc_taken, State.cyc_eq hk]
  · refine (State.warp?_wakeMonitors_other _ fun hm => ?_).trans hv
    obtain ⟨v', hv', x, hx⟩ := Core.mem_monitorSlots.1 hm
    obtain rfl : v' = v := Option.some.inj ((SMap.get?_of_mem hn hv').symm.trans (hget q v hv))
    exact hno x (Warp.mem_causes_of_monitorPark hx)

/-! ## The reply of a MONW's check (R295) -/

theorem Warp.replied_single {w : Warp} {y : Group} (hg : w.groups = [y]) {v line expected bound n : Nat} (hs : y.prog.stage = 8)
    (hv : y.prog.vals = [line, expected, bound, v, n]) : w.replied v = some y := by
  have h : (decide (y.prog.stage = stCheck) && y.prog.vals[3]? == some v) = true := by rw [hs, hv]; simp [stCheck]
  simp only [Warp.replied, hg, List.filter_cons, h, if_true, List.filter_nil, List.foldl_cons, List.foldl_nil]

section
variable {s : State} {c p : Nat} {k : Core} {w : Warp} {y : Group} {line expected bound n : Nat} {v : DWord}

/-- The value that a MONW's check has read is another one: its result is true. -/
theorem becomes_monwCheckReply_differs (hw : s.warp? c p = some w) (hg : w.groups = [y]) (hs : y.prog.stage = 8)
    (hv : y.prog.vals = [line, expected, bound, v.toNat, n]) (hne : v.toNat ≠ expected) :
    Becomes (.monwCheckReply c p v) s fun t =>
      Rewrites c p s t { w with groups := [{ y with hold := .none, prog := { stage := 10, vals := [1] } }] } := by
  have hex : exec (.monwCheckReply c p v) s = .next (((s.taken (.monwCheckReply c p v)).modWarp c p
      (·.monitorResult (fun q => q.mask == y.mask) true)).forgetWatch c line) := by
    show execMonwCheckReply c p v s = _
    simp only [execMonwCheckReply, State.warp?_taken, hw, Warp.replied_single hg hs hv, hv]
    exact if_pos hne
  have hmod := Rewrites.modWarp (s := s.taken (.monwCheckReply c p v)) hw (·.monitorResult (fun q => q.mask == y.mask) true)
  have hw' : w.monitorResult (fun q => q.mask == y.mask) true =
      { w with groups := [{ y with hold := .none, prog := { stage := 10, vals := [1] } }] } := by
    simp only [Warp.monitorResult, hg, List.map_cons, List.map_nil, beq_self_eq_true, if_true]; rfl
  rw [hw'] at hmod
  exact ⟨_, hex, (hmod.after fun d q => State.warp?_forgetWatch ..).before fun _ _ => rfl⟩

theorem Core.monitorRoom_of_lt (h : k.monitors.length < Config.monitorEntries) (tenant line : Nat) : k.monitorRoom tenant line = true := by
  simp [Core.monitorRoom, h]

/-- A waiter that joins a line has an entry there. -/
theorem Core.mem_joinMonitor (k : Core) (tenant line : Nat) : ∃ m ∈ (k.joinMonitor tenant line).monitors, m.line = line ∧ m.tenant = tenant := by
  simp only [Core.joinMonitor]
  split
  · rename_i h
    obtain ⟨m, hm, he⟩ := List.any_eq_true.1 h
    rw [decide_eq_true_eq] at he
    refine ⟨_, List.mem_map.2 ⟨m, hm, rfl⟩, ?_⟩
    rw [if_pos he]; exact ⟨he.2, he.1⟩
  · exact ⟨_, List.mem_append_right _ (List.mem_singleton.2 rfl), rfl, rfl⟩

theorem Core.warps_joinMonitor (k : Core) (tenant line : Nat) : (k.joinMonitor tenant line).warps = k.warps := by
  simp only [Core.joinMonitor]; split <;> rfl

/-- The value that a MONW's check has read is the one expected: the warp joins the waiters of the line and parks. -/
theorem becomes_monwCheckReply_same (hk : s.core? c = some k) (hw : s.warp? c p = some w) (hg : w.groups = [y]) (hs : y.prog.stage = 8)
    (hv : y.prog.vals = [line, expected, bound, v.toNat, n]) (heq : v.toNat = expected) (hp : w.park = .none)
    (hroom : k.monitors.length < Config.monitorEntries) :
    Becomes (.monwCheckReply c p v) s fun t => ∃ w' k',
      Rewrites c p s t w' ∧ t.core? c = some k' ∧ w'.park = .monitor line (if bound = 0 then none else some (bound - 1)) ∧
      w'.lease.st = .parked ∧ (∃ m ∈ k'.monitors, m.line = line ∧ m.tenant = w.tenant) := by
  obtain ⟨park, hpark⟩ : ∃ f : Warp → Warp, f = fun w => (w.modGroup y.mask (fun g => { g with prog := { g.prog with stage := stReply } })).parkFor
      (.monitor line (if bound = 0 then none else some (bound - 1))) (s.cyc c) := ⟨_, rfl⟩
  obtain ⟨s1, hs1⟩ : ∃ s1, s1 = (s.taken (.monwCheckReply c p v)).modCore c (fun k => k.joinMonitor w.tenant line) := ⟨_, rfl⟩
  have hex : exec (.monwCheckReply c p v) s = .next (s1.modWarp c p park) := by
    show execMonwCheckReply c p v s = _
    rw [hs1, hpark]
    simp only [execMonwCheckReply, State.warp?_taken, hw, Warp.replied_single hg hs hv, hv, State.core?_taken, hk, Option.map_some,
      Option.getD_some, Core.monitorRoom_of_lt hroom]
    rw [if_neg (by simp [heq]), if_neg (by simp [hp])]
    rfl
  have hwarps : ∀ d q, s1.warp? d q = s.warp? d q := fun d q => by
    rw [hs1]; exact State.warp?_modCore _ _ _ _ (fun k => Core.warps_joinMonitor ..)
  have hk1 : s1.core? c = some (k.joinMonitor w.tenant line) := by
    rw [hs1, State.core?_modCore, if_pos rfl, State.core?_taken, hk]; rfl
  refine ⟨_, hex, park w, { k.joinMonitor w.tenant line with warps := SMap.modify p park (k.joinMonitor w.tenant line).warps },
    (Rewrites.modWarp ((hwarps c p).trans hw) park).before hwarps, ?_, ?_, ?_, Core.mem_joinMonitor k w.tenant line⟩
  · rw [State.modWarp, State.core?_modCore, if_pos rfl, hk1]; rfl
  · rw [hpark]; rfl
  · rw [hpark]; rfl

end

end Sys2Proof.Machine

/-! # What a walk keeps (R398) -/

namespace Sys2Proof.Machine

/-- The step from a table entry goes on only where the entry is no leaf. -/
theorem walkEntry_table {level base : Nat} {pte : DWord} (h : walkEntry level pte = .table base) : pte.toNat.testBit 1 = false := by
  simp only [walkEntry] at h
  split at h
  · cases h
  split at h
  · cases h
  split at h
  · cases h
  split at h
  · cases h
  split at h
  · cases h
  · rename_i hl; simpa using hl

theorem walkEntry_page {level b : Nat} {pte p : DWord} (h : walkEntry level pte = .done (.page p b)) : pte.toNat.testBit 1 = true ∧ p = pte := by
  simp only [walkEntry] at h
  split at h
  · cases h
  split at h
  · cases h
  split at h
  · cases h
  split at h
  · cases h
  split at h
  · rename_i hl; cases h; exact ⟨hl, rfl⟩
  · cases h

/-- The leaves among what a lookup has found. -/
def Walked.leaves (w : Walked) : List (Nat × Nat × DWord) := w.found.filter (fun e => e.2.2.toNat.testBit 1)

/-- A walk that ends at a page finds one leaf, the page's. -/
theorem leaves_walkFrom {mem : Memory} {va draw fuel level base bits : Nat} {pte : DWord}
    (h : (walkFrom mem va draw fuel level base).walk = .page pte bits) :
    (walkFrom mem va draw fuel level base).leaves = [(va / 2 ^ bits * 2 ^ bits, bits, pte)] := by
  induction fuel generalizing level base with
  | zero => simp [walkFrom] at h
  | succ fuel ih =>
    rw [walkFrom] at h ⊢
    dsimp only at h ⊢
    generalize (if level = 3 then contigEntry mem base (walkIndex level va) draw (BitVec.ofNat 64 (mem.readNum (base + 8 * walkIndex level va) 8))
      else BitVec.ofNat 64 (mem.readNum (base + 8 * walkIndex level va) 8)) = own at h ⊢
    split at h
    · rename_i p b he
      cases h
      obtain ⟨hl, rfl⟩ := walkEntry_page he
      simp [Walked.leaves, hl]
    · rename_i w hne he
      exact (hne pte bits h).elim
    · rename_i b he
      simpa [Walked.leaves, walkEntry_table he] using ih h

/-- A leaf that is found covers the address. -/
theorem findLeaf_spec {l : List TlbEntry} {tenant va : Nat} {e : TlbEntry} (h : findLeaf l tenant va = some e) :
    e.tenant = tenant ∧ e.va = va / 2 ^ e.bits * 2 ^ e.bits ∧ e.pte.toNat.testBit 1 = true := by
  have hp := List.find?_some h
  simp only [TlbEntry.covers, Bool.and_eq_true, decide_eq_true_eq] at hp
  exact ⟨hp.1.1, hp.1.2, hp.2⟩

/-- The TLB of a core. -/
def State.tlb (s : State) (c : Nat) : List TlbEntry := ((SMap.get? c s.cores).map (·.tlb)).getD []

/-- A lookup that ends at a page has it from the TLB, or finds one leaf, the page's. -/
theorem State.lookup_page {s : State} {c tenant va bits : Nat} {pte : DWord} (h : (s.lookup c tenant va).walk = .page pte bits) :
    (∃ e, findLeaf (s.tlb c) tenant va = some e ∧ e.pte = pte ∧ e.bits = bits) ∨
      (findLeaf (s.tlb c) tenant va = none ∧ (s.lookup c tenant va).leaves = [(va / 2 ^ bits * 2 ^ bits, bits, pte)]) := by
  have htlb : ((SMap.get? c s.cores).map (·.tlb)).getD [] = s.tlb c := rfl
  simp only [State.lookup, htlb] at h ⊢
  split at h
  · cases h
  · rename_i htr
    rw [if_neg htr]
    cases hf : findLeaf (s.tlb c) tenant va with
    | some e =>
      rw [hf] at h
      cases h
      exact .inl ⟨e, rfl, rfl, rfl⟩
    | none =>
      rw [hf] at h
      refine .inr ⟨rfl, ?_⟩
      dsimp only at h ⊢
      cases hc : findLeaf (SMap.get [] (c / Config.coresPerReticle) s.caches) tenant va with
      | some e =>
        rw [hc] at h
        cases h
        obtain ⟨-, hva, hleaf⟩ := findLeaf_spec hc
        simp [Walked.leaves, hleaf, ← hva]
      | none =>
        rw [hc] at h
        dsimp only at h ⊢
        split at h
        · cases h
        · rename_i hpois
          rw [if_neg hpois]
          exact leaves_walkFrom h

/-- An entry that a lookup has found, as the TLB keeps it. -/
def tlbEntry (tenant : Nat) (e : Nat × Nat × DWord) : TlbEntry := { tenant := tenant, va := e.1, bits := e.2.1, pte := e.2.2 }

def Walked.entries (w : Walked) (tenant : Nat) : List TlbEntry := w.found.map (tlbEntry tenant)

def Walked.leafEntries (w : Walked) (tenant : Nat) : List TlbEntry := (w.entries tenant).filter (fun e => e.pte.toNat.testBit 1)

/-- What a lookup has found beyond the TLB goes into the TLB, the leaves, and into the translation cache. -/
theorem State.cacheLookup_walked {s : State} {c tenant va : Nat} (hn : findLeaf (s.tlb c) tenant va = none)
    (hne : (s.lookup c tenant va).entries tenant ≠ []) :
    s.cacheLookup c tenant va = { s with
      cores := SMap.modify c (fun k =>
        { k with tlb := insertTlb Config.tlbEntries k.tlb ((s.lookup c tenant va).leafEntries tenant) }) s.cores,
      caches := SMap.put (c / Config.coresPerReticle) (((s.lookup c tenant va).entries tenant).foldl insertCache
        (SMap.get [] (c / Config.coresPerReticle) s.caches)) s.caches } := by
  have hempty : ((s.lookup c tenant va).entries tenant).isEmpty = false := by simpa using hne
  have hentries : (s.lookup c tenant va).found.map (fun e => ({ tenant := tenant, va := e.1, bits := e.2.1, pte := e.2.2 } : TlbEntry)) =
      (s.lookup c tenant va).entries tenant := rfl
  simp only [State.tlb] at hn
  simp only [State.cacheLookup, hn, hentries, hempty]
  rfl

/-- A lookup that ends at a page leaves the page's leaf in the TLB, and changes no more than that and the translation cache. -/
theorem State.cacheLookup_page {s : State} {c tenant va bits : Nat} {pte : DWord} (h : (s.lookup c tenant va).walk = .page pte bits) :
    ∃ (f : Core → List TlbEntry) (cs : SMap (List TlbEntry)),
      s.cacheLookup c tenant va = { s with cores := SMap.modify c (fun k => { k with tlb := f k }) s.cores, caches := cs } ∧
      ∀ k, ∃ y ∈ f k, y.tenant = tenant ∧ y.bits = bits ∧ y.pte = pte ∧ y.va = va / 2 ^ bits * 2 ^ bits := by
  have htlb : ((SMap.get? c s.cores).map (·.tlb)).getD [] = s.tlb c := rfl
  rcases State.lookup_page h with ⟨e, he, rfl, rfl⟩ | ⟨hnone, hleaves⟩
  · obtain ⟨ht, hva, -⟩ := findLeaf_spec he
    exact ⟨fun k => putFirst e k.tlb, s.caches, by simp only [State.cacheLookup, htlb, he],
      fun k => ⟨e, List.mem_cons_self .., ht, rfl, rfl, hva⟩⟩
  · have hmap : (s.lookup c tenant va).leafEntries tenant =
        [tlbEntry tenant (va / 2 ^ bits * 2 ^ bits, bits, pte)] := by
      rw [Walked.leafEntries, Walked.entries, List.filter_map, show ((fun e : TlbEntry => e.pte.toNat.testBit 1) ∘ tlbEntry tenant) =
        fun e => e.2.2.toNat.testBit 1 from rfl, ← Walked.leaves, hleaves]; rfl
    have hne : (s.lookup c tenant va).entries tenant ≠ [] := fun hl => by rw [Walked.leafEntries, hl] at hmap; cases hmap
    have heq := State.cacheLookup_walked hnone hne
    rw [hmap] at heq
    exact ⟨_, _, heq, fun k => ⟨_, List.mem_cons_self .., rfl, rfl, rfl, rfl⟩⟩

/-- A walk reads its words at their primary copies, then fills the TLB of its core (R398). -/
theorem becomes_tlbWalk (s : State) (c tenant page bits : Nat) (pte : DWord) (k1 : Core) :
    let s1 := (s.lookup c tenant (page * 2 ^ 17)).read.foldl (fun s a => (s.readFor tenant (a / 128) [a / 64 % 2]).1) (s.taken (.tlbWalk c tenant page))
    s1.core? c = some k1 → (s1.lookup c tenant (page * 2 ^ 17)).walk = .page pte bits → Becomes (.tlbWalk c tenant page) s fun t =>
      t = { s1 with cores := t.cores, caches := t.caches } ∧ (∀ d, d ≠ c → t.core? d = s1.core? d) ∧ ∃ k', t.core? c = some k' ∧
        k' = { k1 with tlb := k'.tlb } ∧
        ∃ y ∈ k'.tlb, y.tenant = tenant ∧ y.bits = bits ∧ y.pte = pte ∧ y.va = page * 2 ^ 17 / 2 ^ bits * 2 ^ bits := by
  intro s1 hk1 hwalk
  obtain ⟨f, cs, hf, hmem⟩ := State.cacheLookup_page hwalk
  have hex : exec (.tlbWalk c tenant page) s = .next (s1.cacheLookup c tenant (page * 2 ^ 17)) := rfl
  have hcore : ∀ d, (s1.cacheLookup c tenant (page * 2 ^ 17)).core? d =
      if d = c then (s1.core? d).map (fun k => { k with tlb := f k }) else s1.core? d := fun d => by
    rw [hf]; exact SMap.get?_modify ..
  refine ⟨_, hex, by rw [hf], fun d hd => by rw [hcore, if_neg hd], { k1 with tlb := f k1 }, ?_, rfl, hmem k1⟩
  rw [hcore, if_pos rfl, hk1]; rfl

/-- Settles O56, step by step. -/
theorem warpSteps : Obligations.WarpSteps := by
  unfold Obligations.WarpSteps
  intro s c p k w hk hw moved woken
  refine ⟨fun a b m ta tb lim d pc hg ha hb hdis ha0 _ hpa hpb hl ht hd hd' hu hs =>
      becomes_regangTimeout hk hw hg ha hb hdis ha0 hpa hpb hl ht ⟨hd, hd'⟩ hu hs,
    fun l f hl hi he hz hp hd hd' => becomes_wfuseLatchEntry hw hl hi he hz hp ⟨hd, hd'⟩,
    fun l f hl hi hz ha hu => becomes_flashLatch hw hl hi hz ha hu,
    fun a rest hacc hneeds hr href hp hkind ha hrest hn hregs => becomes_accessReturn hw hacc hneeds hr href hp hkind ha hrest hn hregs,
    becomes_writeBackAcknowledgement hw,
    fun line e hp hb he hn => ?_, fun line e hp hb => ?_,
    fun y line expected bound n v hg hs hv => ⟨becomes_monwCheckReply_differs hw hg hs hv, becomes_monwCheckReply_same hk hw hg hs hv⟩,
    fun tenant page pte bits k1 => becomes_tlbWalk s c tenant page bits pte k1⟩
  · obtain ⟨t, hex, hrw⟩ := becomes_monwBoundExpiry hk hw hp hb he hn
    exact ⟨t, hex, _, hrw, rfl⟩
  · obtain ⟨t, hex, hmem, hw', hothers⟩ := becomes_writeNotice hk hw hp hb
    exact ⟨t, hex, hmem, ⟨_, hw', rfl⟩, hothers⟩

end Sys2Proof.Machine

/-! # What Caldera does for a party that reads or writes a line (R255 to R264, R267)

Two facts about each operation of Caldera: what it leaves as it is (`State.outside`), and that it comes to the same for two states that
differ in nothing but the machine's own agenda, or in that and their cores (`Off`). -/

namespace Sys2Proof.Machine

/-! ## What Caldera leaves as it is -/

/-- A state without what Caldera's operations may change. -/
def State.outside (s : State) : State :=
  { s with
    cores := [], poison := [], caldera := {}, hbm := {}, modul := { s.modul with errors := [], reports := [], records := [] },
    caches := [], pending := [], later := [] }

section
variable {s t : State} (h : t.outside = s.outside)
include h

theorem mem_of_outside : t.mem = s.mem := congrArg (·.mem) h
theorem tenants_of_outside : t.tenants = s.tenants := congrArg (·.tenants) h
theorem launches_of_outside : t.launches = s.launches := congrArg (·.launches) h
theorem ports_of_outside : t.modul.ports = s.modul.ports := congrArg (·.modul.ports) h
theorem answers_of_outside : t.modul.answers = s.modul.answers := congrArg (·.modul.answers) h
theorem tenant_of_outside (n : Nat) : t.tenant n = s.tenant n := by rw [State.tenant, tenants_of_outside h]; rfl

end

theorem outside_foldl {α : Type} {f : State → α → State} (hf : ∀ s a, (f s a).outside = s.outside) (l : List α) (s : State) :
    (l.foldl f s).outside = s.outside := by
  induction l generalizing s with
  | nil => rfl
  | cons a t ih => rw [List.foldl_cons, ih, hf]

@[simp] theorem outside_push (s : State) (e : Instr) : (s.push e).outside = s.outside := rfl
@[simp] theorem outside_pushAll (s : State) (l : List Instr) : (s.pushAll l).outside = s.outside := rfl
@[simp] theorem outside_taken (s : State) (e : Instr) : (s.taken e).outside = s.outside := rfl
@[simp] theorem outside_modCore (s : State) (c : Nat) (f : Core → Core) : (s.modCore c f).outside = s.outside := rfl
@[simp] theorem outside_modWarp (s : State) (c p : Nat) (f : Warp → Warp) : (s.modWarp c p f).outside = s.outside := rfl
@[simp] theorem outside_modDir (s : State) (l : Nat) (f : DirLine → DirLine) : (s.modDir l f).outside = s.outside := rfl
@[simp] theorem outside_modBank (s : State) (g : Nat) (f : Bank → Bank) : (s.modBank g f).outside = s.outside := rfl
@[simp] theorem outside_modChannel (s : State) (c : Nat) (f : Channel → Channel) : (s.modChannel c f).outside = s.outside := rfl
@[simp] theorem outside_countError (s : State) (o n : Nat) : (s.countError o n).outside = s.outside := rfl
@[simp] theorem outside_record (s : State) (t : ScrubTarget) : (s.record t).outside = s.outside := rfl
@[simp] theorem outside_resend (s : State) (l : List Nat) : (s.resend l).outside = s.outside := rfl
@[simp] theorem outside_toHost (s : State) (l : NSet) : (s.toHost l).outside = s.outside := rfl
@[simp] theorem outside_install (s : State) (line hint : Nat) : (s.install line hint).outside = s.outside := rfl
@[simp] theorem outside_dropReplica (s : State) (line ret : Nat) : (s.dropReplica line ret).outside = s.outside := rfl

@[simp] theorem outside_pushOnce (s : State) (e : Instr) : (s.pushOnce e).outside = s.outside := by
  rw [State.pushOnce_eq]; rfl

@[simp] theorem outside_retry (s : State) (e : Instr) : (s.retry e).outside = s.outside := by
  simp only [State.retry]; split <;> rfl

@[simp] theorem outside_notify (s : State) (line : Nat) : (s.notify line).outside = s.outside := by
  simp only [State.notify]; split
  · exact outside_foldl (fun s c => outside_push ..) _ s
  · rfl

@[simp] theorem outside_useRemap (s : State) (ch : Nat) : (s.useRemap ch).outside = s.outside := by
  simp only [State.useRemap]
  generalize (s.hbm.channel ch).vote = v
  obtain ⟨c, n, bad⟩ := v
  dsimp only
  split
  · simp only [outside_pushOnce, outside_record, outside_countError]; split <;> rfl
  · split <;> rfl

@[simp] theorem outside_drain (s : State) (ch : Nat) : (s.drain ch).outside = s.outside := by
  simp only [State.drain]
  split
  · rfl
  · refine (outside_foldl (fun s e => ?_) _ _).trans ?_
    · split
      · rfl
      · rw [outside_pushOnce, outside_modChannel]
    · exact outside_useRemap s ch

@[simp] theorem outside_toHbm (s : State) (line : Nat) (sectors : NSet) : (s.toHbm line sectors).outside = s.outside := by
  simp only [State.toHbm, outside_pushOnce, outside_modChannel]
  split
  · exact outside_drain ..
  · rfl

@[simp] theorem outside_owe (s : State) (c : Nat) (m : NSet) (n : Int) : (s.owe c m n).outside = s.outside :=
  outside_foldl (fun s m => outside_modWarp s c (m % 64) _) _ s

@[simp] theorem outside_tellWriters (s : State) (line : Nat) : (s.tellWriters line).outside = s.outside := by
  simp only [State.tellWriters]; split
  · rw [outside_modDir]; exact outside_foldl (fun s w => outside_owe ..) _ s
  · rfl

@[simp] theorem outside_evictLine (s : State) (line : Nat) : (s.evictLine line).outside = s.outside := by
  simp only [State.evictLine]; split
  · rfl
  · rw [outside_resend]
    refine (outside_foldl (fun s g => outside_modBank s g _) _ _).trans ?_
    rw [outside_tellWriters]
    split
    · exact outside_notify ..
    · split
      · rw [outside_toHost, outside_notify]
      · rw [outside_toHbm, outside_notify]

@[simp] theorem outside_evictFrom (s : State) (g line : Nat) : (s.evictFrom g line).outside = s.outside := by
  simp only [State.evictFrom]; split
  · split
    · exact outside_evictLine ..
    · rfl
  · rfl

@[simp] theorem outside_abortRegion (s : State) (r reason : Nat) : (s.abortRegion r reason).outside = s.outside := by
  simp only [State.abortRegion, State.abortLater]; split
  · rw [outside_pushOnce]; rfl
  · rfl

@[simp] theorem outside_extern (s : State) (line : Nat) (own : Nat → Bool) : (s.extern line own).outside = s.outside :=
  outside_foldl (fun _ _ => outside_abortRegion ..) _ s

@[simp] theorem outside_loseLine (s : State) (line : Nat) : (s.loseLine line).outside = s.outside := by
  simp only [State.loseLine]; split <;> rfl

theorem outside_makeTagRoom {s t : State} {line : Nat} (h : s.makeTagRoom line = .free t) : t.outside = s.outside := by
  simp only [State.makeTagRoom] at h
  split at h
  · cases h; rfl
  split at h
  · cases h; rfl
  split at h
  · cases h; exact outside_evictLine ..
  · split at h <;> cases h

theorem outside_makeRoom {s t : State} {g line : Nat} (h : s.makeRoom g line = .free t) : t.outside = s.outside := by
  simp only [State.makeRoom] at h
  split at h
  · cases h; rfl
  split at h
  · cases h; exact outside_evictFrom ..
  · split at h <;> cases h

@[simp] theorem outside_takeIn (s : State) (line hint : Nat) : (s.takeIn line hint).1.outside = s.outside := by
  simp only [State.takeIn]
  split
  · rfl
  · split
    · rfl
    · split
      · exact outside_abortRegion ..
      · rfl
    · rename_i s1 h1
      split
      · exact outside_makeTagRoom h1
      · split
        · rw [outside_abortRegion]; exact outside_makeTagRoom h1
        · exact outside_makeTagRoom h1
      · rename_i s2 h2
        rw [outside_install, outside_loseLine, outside_makeRoom h2, outside_makeTagRoom h1]

theorem outside_readRow {s t : State} {line : Nat} (h : s.readRow line = some t) : t.outside = s.outside := by
  simp only [State.readRow] at h
  split at h
  · cases h; rfl
  split at h
  · cases h
  · cases h; rw [outside_modChannel, outside_useRemap]

@[simp] theorem outside_bring (s : State) (tenant line hint : Nat) : (s.bring tenant line hint).1.outside = s.outside := by
  simp only [State.bring]
  split
  · rfl
  split
  · rfl
  split
  · rename_i h
    rw [outside_takeIn]
    split at h
    · cases h
    · exact outside_readRow h
  · rfl

@[simp] theorem outside_askHost (s : State) (line : Nat) (l : List Nat) (w : Bool) : (s.askHost line l w).outside = s.outside := by
  simp only [State.askHost]; split
  · rfl
  · split <;> rfl

@[simp] theorem outside_askLine (s : State) (line : Nat) (w : Bool) (l : List Nat) (t : Nat) : (s.askLine line w l t).outside = s.outside := by
  rw [State.askLine, outside_askHost, outside_bring]

@[simp] theorem outside_countBank (s : State) (g : Nat) : (s.countBank g).outside = s.outside :=
  outside_foldl (fun _ _ => outside_pushOnce ..) _ _

@[simp] theorem outside_promote (s : State) (g line : Nat) : (s.promote g line).outside = s.outside := by
  simp only [State.promote]; split <;> rfl

@[simp] theorem outside_promoteTag (s : State) (line : Nat) : (s.promoteTag line).outside = s.outside := by
  simp only [State.promoteTag]; split <;> rfl

@[simp] theorem outside_touchBanks (s : State) (line hint : Nat) (near : Bool) (d : DirLine) :
    (s.touchBanks line hint near d).outside = s.outside := by
  have hcount : (if decide (d.hold = s.anchor line) || near then s.countBank d.hold else (s.countBank (s.anchor line)).countBank d.hold).outside =
      s.outside := by split <;> simp only [outside_countBank]
  simp only [State.touchBanks]
  split
  · exact hcount
  · rw [outside_promoteTag, outside_promote]; exact hcount

@[simp] theorem outside_fetchHalf (s : State) (line sector : Nat) : (s.fetchHalf line sector).outside = s.outside := by
  simp only [State.fetchHalf]; split <;> rfl

@[simp] theorem outside_readFor (s : State) (tenant line : Nat) (l : List Nat) : (s.readFor tenant line l).1.outside = s.outside := by
  have hb := outside_bring s tenant line 0
  simp only [State.readFor]
  split
  · rename_i h; rw [h] at hb; exact hb
  · rename_i h
    rw [h] at hb
    refine (outside_foldl (fun s a => outside_fetchHalf ..) _ _).trans (Eq.trans ?_ hb)
    split
    · exact outside_touchBanks ..
    · rfl

end Sys2Proof.Machine

/-! # What the machine's own agenda does not decide (R255, R264, R267) -/

namespace Sys2Proof.Machine

/-- `t` is `s` but for the machine's agenda, and for the cores where `b` does not hold. -/
structure Off (b : Prop) (s t : State) : Prop where
  rest  : t = { s with cores := t.cores, sel := t.sel, pending := t.pending, later := t.later, turn := t.turn }
  cores : b → t.cores = s.cores

section
variable {b : Prop} {s t u : State}

theorem Off.refl (b : Prop) (s : State) : Off b s s := ⟨rfl, fun _ => rfl⟩

/-- What is put on the agenda does not count. -/
theorem Off.of_agenda {s' t' : State} (h : Off b s t)
    (hs : s' = { s with sel := s'.sel, pending := s'.pending, later := s'.later, turn := s'.turn })
    (ht : t' = { t with sel := t'.sel, pending := t'.pending, later := t'.later, turn := t'.turn }) : Off b s' t' := by
  refine ⟨?_, fun hb => ?_⟩
  · rw [ht, h.rest, hs]
  · rw [ht, hs]; exact h.cores hb

theorem Off.push (h : Off b s t) (e : Instr) : Off b (s.push e) (t.push e) := h.of_agenda rfl rfl

theorem Off.pushOnce (h : Off b s t) (e : Instr) : Off b (s.pushOnce e) (t.pushOnce e) :=
  h.of_agenda (by rw [State.pushOnce_eq]) (by rw [State.pushOnce_eq])

theorem Off.foldl {α : Type} {f : State → α → State} (hf : ∀ s t a, Off b s t → Off b (f s a) (f t a)) (h : Off b s t) (l : List α) :
    Off b (l.foldl f s) (l.foldl f t) := by
  induction l generalizing s t with
  | nil => exact h
  | cons a r ih => exact ih (hf s t a h)

theorem Off.modCore (h : Off b s t) (c : Nat) (f : Core → Core) : Off b (s.modCore c f) (t.modCore c f) := by
  refine ⟨?_, fun hb => ?_⟩
  · simp only [State.modCore]; rw [h.rest]
  · simp only [State.modCore, h.cores hb]

theorem Off.modWarp (h : Off b s t) (c p : Nat) (f : Warp → Warp) : Off b (s.modWarp c p f) (t.modWarp c p f) := h.modCore ..

theorem Off.modDir (h : Off b s t) (l : Nat) (f : DirLine → DirLine) : Off b (s.modDir l f) (t.modDir l f) := by
  refine ⟨?_, h.cores⟩; simp only [State.modDir]; rw [h.rest]

theorem Off.modBank (h : Off b s t) (g : Nat) (f : Bank → Bank) : Off b (s.modBank g f) (t.modBank g f) := by
  refine ⟨?_, h.cores⟩; simp only [State.modBank, State.bank]; rw [h.rest]

theorem Off.modChannel (h : Off b s t) (c : Nat) (f : Channel → Channel) : Off b (s.modChannel c f) (t.modChannel c f) := by
  refine ⟨?_, h.cores⟩; simp only [State.modChannel]; rw [h.rest]

theorem Off.countError (h : Off b s t) (o n : Nat) : Off b (s.countError o n) (t.countError o n) := by
  refine ⟨?_, h.cores⟩; simp only [State.countError]; rw [h.rest]

theorem Off.record (h : Off b s t) (r : ScrubTarget) : Off b (s.record r) (t.record r) := by
  refine ⟨?_, h.cores⟩; simp only [State.record]; rw [h.rest]

/-! ## What is found -/

theorem Off.dir? (h : Off b s t) (line : Nat) : t.dir? line = s.dir? line := by rw [h.rest]; rfl
theorem Off.anchor (h : Off b s t) (line : Nat) : t.anchor line = s.anchor line := by
  have hb : ∀ n g, State.followRedir t n g = State.followRedir s n g := fun n => by
    induction n with
    | zero => intro g; rfl
    | succ n ih => intro g; simp only [State.followRedir, ih]; rw [h.rest]; rfl
  simp only [State.anchor, hb]; rw [h.rest]
theorem Off.standIn (h : Off b s t) (line ret : Nat) : t.standIn line ret = s.standIn line ret := by
  have hb : ∀ n g, State.liveFrom t ret n g = State.liveFrom s ret n g := fun n => by
    induction n with
    | zero => intro g; rfl
    | succ n ih => intro g; simp only [State.liveFrom, ih]; rw [h.rest]; rfl
  simp only [State.standIn, hb]
theorem Off.bank (h : Off b s t) (g : Nat) : t.bank g = s.bank g := by rw [h.rest]; rfl
theorem Off.hbm (h : Off b s t) : t.hbm = s.hbm := by rw [h.rest]
theorem Off.modul (h : Off b s t) : t.modul = s.modul := by rw [h.rest]
theorem Off.caldera (h : Off b s t) : t.caldera = s.caldera := by rw [h.rest]

theorem Off.trackedLine (h : Off b s t) (line : Nat) : t.trackedLine line = s.trackedLine line := by
  simp only [State.trackedLine, h.anchor, h.bank]

theorem Off.victim (h : Off b s t) (l : List Nat) : t.victim l = s.victim l := by
  have hm : t.mayEvict = s.mayEvict := by
    funext line; simp only [State.mayEvict, h.dir?, h.trackedLine, h.modul]
  simp only [State.victim, hm, h.dir?]

theorem Off.lastNamed (h : Off b s t) (l : List Nat) : t.lastNamed l = s.lastNamed l := by
  simp only [State.lastNamed, h.anchor, h.bank]

theorem Off.waysKept (h : Off b s t) (g line : Nat) : t.waysKept g line = s.waysKept g line := by
  simp only [State.waysKept, h.caldera, h.bank]

theorem Off.rowsStopped (h : Off b s t) (tenant line : Nat) : t.rowsStopped tenant line = s.rowsStopped tenant line := by
  rw [h.rest]; rfl

theorem Off.atLimit (h : Off b s t) (line : Nat) : t.atLimit line = s.atLimit line := by rw [h.rest]; rfl

theorem Off.lostSector (h : Off b s t) : t.lostSector = s.lostSector := by rw [h.rest]; rfl

theorem Off.grantedTo (h : Off b s t) (line me : Nat) : t.grantedTo line me = s.grantedTo line me := by
  simp only [State.grantedTo, h.anchor, h.bank]

/-! ## What is done -/

theorem Off.notify (h : Off b s t) (line : Nat) : Off b (s.notify line) (t.notify line) := by
  simp only [State.notify, h.dir?]
  split
  · exact Off.foldl (fun _ _ c h => h.push (.writeNotice c line)) h _
  · exact h

theorem Off.useRemap (h : Off b s t) (ch : Nat) : Off b (s.useRemap ch) (t.useRemap ch) := by
  simp only [State.useRemap, h.hbm]
  generalize (s.hbm.channel ch).vote = v
  obtain ⟨c, n, bad⟩ := v
  dsimp only
  obtain ⟨s1, hs1⟩ : ∃ f : State → State, f = fun s => if n = 0 then s else
    ((s.modChannel ch (fun _ => c)).countError (0x11200000 + 0x20 * ch + 0xC) n).countError (0x11200000 + 0x20 * ch + 0x10) n := ⟨_, rfl⟩
  have h1 : Off b (s1 s) (s1 t) := by
    rw [hs1]; dsimp only
    split
    · exact h
    · exact ((h.modChannel ..).countError ..).countError ..
  have hm : (s1 t).modul = (s1 s).modul := h1.modul
  rw [hs1] at hm h1
  dsimp only at hm h1
  rw [h.modul]
  split
  · exact (((h1.countError ..).countError ..).record _).pushOnce _
  · exact h1


theorem Off.setHbm (h : Off b s t) {m m' : Hbm} (hm : m' = m) : Off b { s with hbm := m } { t with hbm := m' } := by
  refine ⟨?_, h.cores⟩; rw [h.rest, hm]

theorem Off.withCaldera (h : Off b s t) (f : Caldera → Caldera) :
    Off b { s with caldera := f s.caldera } { t with caldera := f t.caldera } := by
  refine ⟨?_, h.cores⟩; rw [h.rest]

theorem Off.drain (h : Off b s t) (ch : Nat) : Off b (s.drain ch) (t.drain ch) := by
  have hl : t.rowLimit = s.rowLimit := by rw [h.rest]; rfl
  simp only [State.drain, h.hbm, h.modul, hl]
  split
  · exact h
  · refine Off.foldl (fun s t e h => ?_) ?_ _
    · simp only [h.hbm]
      split
      · exact h
      · exact (h.modChannel ..).pushOnce _
    · have h1 := (h.useRemap ch).modChannel ch
      exact (h1 _).setHbm (by rw [(h1 _).hbm])

theorem Off.toHbm (h : Off b s t) (line : Nat) (sectors : NSet) : Off b (s.toHbm line sectors) (t.toHbm line sectors) := by
  simp only [State.toHbm, h.hbm]
  refine Off.pushOnce (Off.modChannel ?_ ..) _
  have h1 : Off b (if combineEntries ≤ (s.hbm.channel (s.hbm.channelOf (128 * line))).combine.length && (s.hbm.buffered line).isEmpty then
      s.drain (s.hbm.channelOf (128 * line)) else s)
      (if combineEntries ≤ (s.hbm.channel (s.hbm.channelOf (128 * line))).combine.length && (s.hbm.buffered line).isEmpty then
      t.drain (s.hbm.channelOf (128 * line)) else t) := by
    split
    · exact h.drain _
    · exact h
  exact h1.setHbm (by rw [h1.hbm])

theorem Off.owe (h : Off b s t) (c : Nat) (l : NSet) (n : Int) : Off b (s.owe c l n) (t.owe c l n) := by
  refine Off.foldl (fun s t m h => ?_) h l
  exact h.modWarp ..

theorem Off.toHost (h : Off b s t) (l : NSet) : Off b (s.toHost l) (t.toHost l) := h.setHbm (by rw [h.hbm])

theorem Off.tellWriters (h : Off b s t) (line : Nat) : Off b (s.tellWriters line) (t.tellWriters line) := by
  simp only [State.tellWriters, h.dir?]
  split
  · exact (Off.foldl (fun _ _ w h => h.owe w.1 [w.2] (-1)) h _).modDir ..
  · exact h

theorem Off.evictLine (h : Off b s t) (line : Nat) : Off b (s.evictLine line) (t.evictLine line) := by
  simp only [State.evictLine, h.dir?, h.anchor]
  split
  · exact h
  · rename_i d hd
    have h2 : Off b (if d.dirty.isEmpty then s.notify line else if hostLine line then (s.notify line).toHost d.dirty else (s.notify line).toHbm line d.dirty)
        (if d.dirty.isEmpty then t.notify line else if hostLine line then (t.notify line).toHost d.dirty else (t.notify line).toHbm line d.dirty) := by
      split
      · exact h.notify line
      · split
        · exact (h.notify line).toHost _
        · exact (h.notify line).toHbm ..
    have h3 := h2.tellWriters line
    revert h3
    generalize (State.tellWriters _ line) = s3
    generalize (State.tellWriters _ line) = t3
    intro h3
    simp only [h3.standIn]
    have h5 := (Off.foldl (fun _ _ g h => h.modBank g (fun b => { b with lru := b.lru.filter (· ≠ line) })) h3
      (d.hold :: d.replicas.map (fun e => s3.standIn line e.1))).modBank (s.anchor line)
      (fun b => { b with tags := b.tags.filter (· ≠ line), floor := maxPos b.floor (maxPos d.rpos d.wpos) })
    exact (h5.withCaldera (fun m => { m with
      lines := SMap.del line m.lines
      hostHeld := if !hostLine line && d.hostHeld then SMap.put line (d.h0, d.h1) m.hostHeld else m.hostHeld })).of_agenda rfl rfl

theorem Off.dropReplica (h : Off b s t) (line ret : Nat) : Off b (s.dropReplica line ret) (t.dropReplica line ret) := by
  simp only [State.dropReplica, h.standIn]
  exact ((h.modDir ..).modBank ..).push _

theorem Off.evictFrom (h : Off b s t) (g line : Nat) : Off b (s.evictFrom g line) (t.evictFrom g line) := by
  simp only [State.evictFrom, h.dir?]
  split
  · split
    · exact h.evictLine _
    · exact h.dropReplica ..
  · exact h.modBank ..

theorem Off.abortRegion (h : Off b s t) (r reason : Nat) : Off b (s.abortRegion r reason) (t.abortRegion r reason) := by
  by_cases hb : b
  · have hr : t.regionWarp? r = s.regionWarp? r := by simp only [State.regionWarp?, State.warp?, State.core?, h.cores hb]
    simp only [State.abortRegion, hr, State.abortLater]
    split
    · exact (h.modWarp ..).pushOnce _
    · exact h
  · have hc : ∀ u : State, u.abortRegion r reason = { u with cores := (u.abortRegion r reason).cores, pending := (u.abortRegion r reason).pending } := by
      intro u
      simp only [State.abortRegion, State.abortLater]
      split
      · rw [State.pushOnce_eq]; rfl
      · rfl
    exact ⟨by rw [hc t, hc s, h.rest], fun hb' => absurd hb' hb⟩

theorem Off.loseLine (h : Off b s t) (line : Nat) : Off b (s.loseLine line) (t.loseLine line) := by
  simp only [State.loseLine, h.lostSector]
  split
  · exact h
  · refine ⟨?_, h.cores⟩; rw [h.rest]

theorem Off.install (h : Off b s t) (line hint : Nat) : Off b (s.install line hint) (t.install line hint) := by
  refine ⟨?_, h.cores⟩
  simp only [State.install, State.modBank, h.anchor, State.bank]; rw [h.rest]

/-- Two results of making room that differ in the agenda alone. -/
inductive RoomOff (b : Prop) : Room → Room → Prop
  | free {s t : State} : Off b s t → RoomOff b (.free s) (.free t)
  | waits : RoomOff b .waits .waits
  | named : RoomOff b .named .named

theorem Off.makeTagRoom (h : Off b s t) (line : Nat) : RoomOff b (s.makeTagRoom line) (t.makeTagRoom line) := by
  simp only [State.makeTagRoom, h.anchor, h.bank, h.victim, h.trackedLine]
  split
  · exact .free h
  split
  · exact .free h
  split
  · exact .free (h.evictLine _)
  · split
    · exact .waits
    · exact .named

theorem Off.makeRoom (h : Off b s t) (g line : Nat) : RoomOff b (s.makeRoom g line) (t.makeRoom g line) := by
  simp only [State.makeRoom, h.waysKept, h.bank, h.victim, h.trackedLine]
  split
  · exact .free h
  split
  · exact .free (h.evictFrom ..)
  · split
    · exact .waits
    · exact .named

theorem Off.give (h : Off b s t) (l : List Nat) :
    Off b (match s.lastNamed l with | some r => s.abortRegion r abTable | none => s)
      (match t.lastNamed l with | some r => t.abortRegion r abTable | none => t) := by
  rw [h.lastNamed]
  split
  · exact h.abortRegion ..
  · exact h

theorem Off.takeIn (h : Off b s t) (line hint : Nat) :
    Off b (s.takeIn line hint).1 (t.takeIn line hint).1 ∧ (t.takeIn line hint).2 = (s.takeIn line hint).2 := by
  simp only [State.takeIn, h.dir?, h.anchor, h.bank]
  split
  · exact ⟨h, rfl⟩
  · have h1 := h.makeTagRoom line
    revert h1
    generalize s.makeTagRoom line = r
    generalize t.makeTagRoom line = r'
    rintro (⟨h1⟩ | _ | _)
    · rename_i s1 t1
      have h2 := h1.makeRoom (s.anchor line) line
      revert h2
      dsimp only
      generalize s1.makeRoom (s.anchor line) line = q
      generalize t1.makeRoom (s.anchor line) line = q'
      rintro (⟨h2⟩ | _ | _)
      · exact ⟨(h2.loseLine line).install line hint, rfl⟩
      · exact ⟨h1, rfl⟩
      · refine ⟨?_, rfl⟩
        dsimp only
        rw [h1.bank]
        exact h1.give _
    · exact ⟨h, rfl⟩
    · exact ⟨h.give _, rfl⟩

theorem Off.readRow (h : Off b s t) (line : Nat) :
    (s.readRow line = none ∧ t.readRow line = none) ∨ ∃ s1 t1, s.readRow line = some s1 ∧ t.readRow line = some t1 ∧ Off b s1 t1 := by
  simp only [State.readRow, h.hbm, h.atLimit]
  split
  · exact .inr ⟨_, _, rfl, rfl, h⟩
  split
  · exact .inl ⟨rfl, rfl⟩
  · exact .inr ⟨_, _, rfl, rfl, (h.useRemap _).modChannel ..⟩

/-- Bringing a line comes to the same, whatever stands on the agenda. -/
theorem Off.bring (h : Off b s t) (tenant line hint : Nat) :
    Off b (s.bring tenant line hint).1 (t.bring tenant line hint).1 ∧ (t.bring tenant line hint).2 = (s.bring tenant line hint).2 := by
  have hfill : Off b
      (({ s with caldera := { s.caldera with
          fills := SMap.put line [] s.caldera.fills, bringing := SMap.put line tenant s.caldera.bringing } } : State).push (.calderaFill line))
      (({ t with caldera := { t.caldera with
          fills := SMap.put line [] t.caldera.fills, bringing := SMap.put line tenant t.caldera.bringing } } : State).push (.calderaFill line)) :=
    (h.withCaldera (fun m => { m with fills := SMap.put line [] m.fills, bringing := SMap.put line tenant m.bringing })).push _
  simp only [State.bring, h.dir?, h.rowsStopped]
  split
  · exact ⟨h, rfl⟩
  · have hf : (SMap.get? line t.caldera.fills).isSome = (SMap.get? line s.caldera.fills).isSome := by rw [h.caldera]
    rw [hf]
    split
    · exact ⟨h, rfl⟩
    · split
      · rename_i hr
        split at hr
        · cases hr
        · rename_i hstop
          rcases h.readRow line with ⟨hs, -⟩ | ⟨s1, t1, hs, ht, h1⟩
          · rw [hs] at hr; cases hr
          · rw [if_neg hstop, ht]
            obtain rfl := Option.some.inj (hs.symm.trans hr)
            exact h1.takeIn line hint
      · rename_i hr
        have ht : (if s.rowsStopped tenant line = true then none else t.readRow line) = none := by
          split at hr
          · rename_i hstop; rw [if_pos hstop]
          · rename_i hstop
            rcases h.readRow line with ⟨-, ht⟩ | ⟨s1, t1, hs, -, -⟩
            · rw [if_neg hstop, ht]
            · rw [hs] at hr; cases hr
        rw [ht]
        exact ⟨hfill, rfl⟩

/-- Whether a line holds an access back does not depend on the agenda, nor on the cores. -/
theorem Off.lineStops (h : Off b s t) (line : Nat) (w : Bool) (l : List Nat) (tenant : Nat) :
    t.lineStops line w l tenant = s.lineStops line w l tenant := by
  simp only [State.lineStops, h.dir?, h.grantedTo, (h.bring tenant line 0).2]

theorem Off.spanStops (h : Off b s t) (pa n : Nat) (w : Bool) (tenant : Nat) : t.spanStops pa n w tenant = s.spanStops pa n w tenant := by
  simp only [State.spanStops, h.lineStops]

end

end Sys2Proof.Machine

/-! # The launch unit: what a look for the next block changes, and what it takes from a queue (R33, R36, R40, R346, R350) -/

namespace Sys2Proof.Machine

/-! ## The dispatchers (R36, R40) -/

/-- A change of a launch that gives reticles to its waiting instances. -/
def GivesReticles (g : Launch → Launch) : Prop :=
  ∀ l, g l = { l with waiting := (g l).waiting } ∧ (g l).waiting.map Prod.fst = l.waiting.map Prod.fst

/-- `t` is `s` after a look for the next block: reticles are given to what waits, and a start comes due. -/
structure Dealt (s t : State) : Prop where
  state  : t = { s with launches := t.launches, pending := t.pending }
  unit   : t.launches = { s.launches with
    launches := t.launches.launches, saved := t.launches.saved, reticleRound := t.launches.reticleRound }
  launch : ∀ id, ∃ g, GivesReticles g ∧ t.launch? id = (s.launch? id).map g
  saved  : ∀ x ∈ t.launches.saved, ∃ y ∈ s.launches.saved, y.tenant = x.tenant ∧ y.slot = x.slot
  due    : ∀ e ∈ s.pending, e ∈ t.pending

section
variable {s t u : State}

theorem GivesReticles.id : GivesReticles id := fun _ => ⟨rfl, rfl⟩

theorem GivesReticles.comp {f g : Launch → Launch} (hf : GivesReticles f) (hg : GivesReticles g) : GivesReticles (f ∘ g) := fun l => by
  obtain ⟨h1, h2⟩ := hg l
  obtain ⟨h3, h4⟩ := hf (g l)
  exact ⟨by rw [Function.comp, h3, h1], h4.trans h2⟩

theorem Dealt.refl (s : State) : Dealt s s :=
  ⟨rfl, rfl, fun _ => ⟨_, .id, Option.map_id'.symm⟩, fun x h => ⟨x, h, rfl, rfl⟩, fun _ h => h⟩

theorem Dealt.trans (h : Dealt s t) (h' : Dealt t u) : Dealt s u := by
  refine ⟨by rw [h'.state, h.state], by rw [h'.unit, h.unit], fun id => ?_, fun x hx => ?_, fun e he => h'.due e (h.due e he)⟩
  · obtain ⟨f, hf, hs⟩ := h.launch id
    obtain ⟨g, hg, ht⟩ := h'.launch id
    exact ⟨_, hg.comp hf, by rw [ht, hs, Option.map_map]⟩
  · obtain ⟨y, hy, h1, h2⟩ := h'.saved x hx
    obtain ⟨z, hz, h3, h4⟩ := h.saved y hy
    exact ⟨z, hz, h3.trans h1, h4.trans h2⟩

theorem Dealt.foldl {α : Type} {f : State → α → State} (hf : ∀ s a, Dealt s (f s a)) (l : List α) (s : State) : Dealt s (l.foldl f s) := by
  induction l generalizing s with
  | nil => exact .refl s
  | cons a r ih => exact (hf s a).trans (ih _)

theorem Dealt.modLaunch (s : State) (id : Nat) {f : Launch → Launch} (hf : GivesReticles f) : Dealt s (s.modLaunch id f) := by
  refine ⟨rfl, rfl, fun j => ?_, fun x h => ⟨x, h, rfl, rfl⟩, fun _ h => h⟩
  by_cases hj : j = id
  · exact ⟨f, hf, (SMap.get?_modify ..).trans (if_pos hj)⟩
  · exact ⟨_, .id, (SMap.get?_modify ..).trans ((if_neg hj).trans Option.map_id'.symm)⟩

theorem Dealt.round (s : State) (n : Nat) : Dealt s { s with launches := { s.launches with reticleRound := n } } :=
  ⟨rfl, rfl, fun _ => ⟨_, .id, Option.map_id'.symm⟩, fun x h => ⟨x, h, rfl, rfl⟩, fun _ h => h⟩

/-- A saved block is given a reticle. -/
theorem Dealt.modSaved (s : State) (n : Nat) {f : SavedBlock → SavedBlock} (hf : ∀ v, (f v).tenant = v.tenant ∧ (f v).slot = v.slot) :
    Dealt s { s with launches := { s.launches with saved := s.launches.saved.map f, reticleRound := n } } := by
  refine ⟨rfl, rfl, fun _ => ⟨_, .id, Option.map_id'.symm⟩, fun y hy => ?_, fun _ h => h⟩
  obtain ⟨z, hz, rfl⟩ := List.mem_map.1 hy
  exact ⟨z, hz, (hf z).1.symm, (hf z).2.symm⟩

theorem Dealt.dealReticles (s : State) : Dealt s s.dealReticles := by
  simp only [State.dealReticles]
  refine Dealt.trans (Dealt.foldl (fun s e => ?_) _ s) (Dealt.foldl (fun s v => ?_) _ _)
  · split
    · exact .refl s
    split
    · exact .refl s
    split
    · exact .refl s
    · refine (Dealt.round s _).trans (Dealt.modLaunch _ _ fun l => ⟨rfl, ?_⟩)
      dsimp only
      rw [List.map_map]
      refine List.map_congr_left fun b _ => ?_
      simp only [Function.comp]; split <;> rfl
  · split
    · exact .refl s
    split
    · exact .refl s
    · refine Dealt.modSaved s _ fun w => ?_
      split <;> exact ⟨rfl, rfl⟩

theorem Dealt.push (s : State) (e : Instr) : Dealt s (s.push e) :=
  ⟨rfl, rfl, fun _ => ⟨_, .id, Option.map_id'.symm⟩, fun x h => ⟨x, h, rfl, rfl⟩, fun _ h => List.mem_append_left _ h⟩

/-- The dispatchers look for the next block. -/
theorem Dealt.dispatch (s : State) : Dealt s s.dispatch := by
  simp only [State.dispatch]
  split
  · exact .refl s
  · split
    · exact (Dealt.dealReticles s).trans (Dealt.push ..)
    · exact Dealt.dealReticles s

theorem Dealt.mem (h : Dealt s t) : t.mem = s.mem := by rw [h.state]
theorem Dealt.tenants (h : Dealt s t) : t.tenants = s.tenants := by rw [h.state]
theorem Dealt.core? (h : Dealt s t) (c : Nat) : t.core? c = s.core? c := by rw [h.state]; rfl
theorem Dealt.warp? (h : Dealt s t) (c p : Nat) : t.warp? c p = s.warp? c p := by rw [h.state]; rfl
theorem Dealt.block? (h : Dealt s t) (c p : Nat) : t.block? c p = s.block? c p := by rw [h.state]; rfl
theorem Dealt.sel (h : Dealt s t) : t.sel = s.sel := by rw [h.state]
theorem Dealt.tenant (h : Dealt s t) (n : Nat) : t.tenant n = s.tenant n := by rw [h.state]; rfl

/-- A launch is still there, and differs in the reticles of its waiting instances alone. -/
theorem Dealt.launch_some (h : Dealt s t) {id : Nat} {l : Launch} (hl : s.launch? id = some l) :
    ∃ l', t.launch? id = some l' ∧ l' = { l with waiting := l'.waiting } ∧ l'.waiting.map Prod.fst = l.waiting.map Prod.fst := by
  obtain ⟨g, hg, ht⟩ := h.launch id
  exact ⟨g l, by rw [ht, hl]; rfl, hg l⟩

theorem Dealt.launch_none (h : Dealt s t) {id : Nat} (hl : s.launch? id = none) : t.launch? id = none := by
  obtain ⟨g, -, ht⟩ := h.launch id
  rw [ht, hl]; rfl

end

end Sys2Proof.Machine

/-! # Taking a launch record (R33, R346, R349, R350) -/

namespace Sys2Proof.Machine

/-! ## What is found does not depend on the agenda -/

section
variable {b : Prop} {s t : State}

theorem Off.tlb (h : Off True s t) (c : Nat) : t.tlb c = s.tlb c := by simp only [State.tlb, h.cores trivial]

theorem Off.lookup (h : Off b s t) {c : Nat} (htlb : t.tlb c = s.tlb c) (tenant va : Nat) : t.lookup c tenant va = s.lookup c tenant va := by
  simp only [State.tlb] at htlb
  simp only [State.lookup, htlb]
  rw [h.rest]; rfl

theorem Off.walkWaits (h : Off b s t) (tenant line : Nat) : t.walkWaits tenant line = s.walkWaits tenant line := by
  simp only [State.walkWaits, State.conflictsOn, h.caldera, h.rowsStopped, h.hbm, h.atLimit]

theorem Off.tenant (h : Off b s t) (n : Nat) : t.tenant n = s.tenant n := by rw [h.rest]; rfl

theorem Off.translate (h : Off b s t) {c : Nat} (htlb : t.tlb c = s.tlb c) (tenant va : Nat) (p : Perm) (priv : Bool) :
    t.translate c tenant va p priv = s.translate c tenant va p priv := by
  have htn : t.tenants = s.tenants := by rw [h.rest]
  simp only [State.translate, h.lookup htlb, h.walkWaits, htn]

theorem Off.poisoned (h : Off b s t) (pa n : Nat) : t.poisoned pa n = s.poisoned pa n := by rw [h.rest]; rfl

theorem Off.mem (h : Off b s t) : t.mem = s.mem := by rw [h.rest]

theorem Off.lookHeader (h : Off b s t) {c : Nat} (htlb : t.tlb c = s.tlb c) (tenant va : Nat) (priv : Bool) (wide : Option Bool) :
    t.lookHeader c tenant va priv wide = s.lookHeader c tenant va priv wide := by
  simp only [State.lookHeader, h.tenant, h.translate htlb, h.poisoned, h.lineStops, h.mem, State.ringAt, h.lookup htlb]

theorem Off.of_taken (s : State) (e : Instr) : Off True s (s.taken e) := ⟨rfl, fun _ => rfl⟩

end

/-- The block that an instance of a launch has on its core. -/
def Launch.blockOf (l : Launch) (id block : Nat) (g : Grant) : Block :=
  { launch := id, tenant := l.tenant, index := block, slots := g.slots, spad := (demandOf l.num l.table).spad,
    barriers := (demandOf l.num l.table).barriers, banks := g.banks, granules := (demandOf l.num l.table).granules,
    coords := recCoords l.num (block * recWarps l.num) }

section
variable {s t : State} (h : Off True s t)
include h

theorem Off.primaryStops (tenant va n : Nat) : t.primaryStops tenant va n = s.primaryStops tenant va n := by
  simp only [State.primaryStops, h.translate (h.tlb 0), h.spanStops]

theorem Off.primaryBytes (tenant va n : Nat) : t.primaryBytes tenant va n = s.primaryBytes tenant va n := by
  induction n generalizing va with
  | zero => rfl
  | succ n ih => simp only [State.primaryBytes, h.translate (h.tlb 0), ih, h.mem]

theorem Off.primaryPoison (tenant va n : Nat) : t.primaryPoison tenant va n = s.primaryPoison tenant va n := by
  simp only [State.primaryPoison, h.translate (h.tlb 0), h.poisoned]

theorem Off.headersOf (tenant table : Nat) : t.headersOf tenant table = s.headersOf tenant table := by
  simp only [State.headersOf, h.lookHeader (h.tlb 0), h.lineStops]

/-! ## Whether a launch could start (R33, R39) -/

theorem Off.touchBanks (line hint : Nat) (near : Bool) (d : DirLine) : Off True (s.touchBanks line hint near d) (t.touchBanks line hint near d) := by
  have hcount : ∀ {s t : State} (g : Nat), Off True s t → Off True (s.countBank g) (t.countBank g) := fun {s t} g h => by
    have h1 := h.modBank g (fun b => { b with count := ((s.bank g).count + 1) % 2 ^ 13 })
    simp only [State.countBank, h.bank, h1.caldera, h1.anchor]
    exact Off.foldl (fun _ _ e h => h.pushOnce (.anchorUnpin e.1)) h1 _
  have hpromote : ∀ {s t : State} (g : Nat), Off True s t → Off True (s.promote g line) (t.promote g line) := fun {s t} g h => by
    have hst : t.streamed line = s.streamed line := by simp only [State.streamed, h.dir?]
    simp only [State.promote, hst]
    split
    · exact h
    · exact h.modBank ..
  have htag : ∀ {s t : State}, Off True s t → Off True (s.promoteTag line) (t.promoteTag line) := fun {s t} h => by
    have hst : t.streamed line = s.streamed line := by simp only [State.streamed, h.dir?]
    simp only [State.promoteTag, hst, h.anchor]
    split
    · exact h
    · exact h.modBank ..
  have h1 : Off True (if decide (d.hold = s.anchor line) || near then s.countBank d.hold else (s.countBank (s.anchor line)).countBank d.hold)
      (if decide (d.hold = s.anchor line) || near then t.countBank d.hold else (t.countBank (s.anchor line)).countBank d.hold) := by
    split
    · exact hcount _ h
    · exact hcount _ (hcount _ h)
  simp only [State.touchBanks, h.anchor]
  split
  · exact h1
  · exact htag (hpromote _ h1)

theorem Off.fetchHalf (line sector : Nat) : Off True (s.fetchHalf line sector) (t.fetchHalf line sector) := by
  simp only [State.fetchHalf]
  split
  · exact h.modDir ..
  · exact h

theorem Off.readFor (tenant line : Nat) (l : List Nat) : Off True (s.readFor tenant line l).1 (t.readFor tenant line l).1 := by
  obtain ⟨h1, h2⟩ := h.bring tenant line 0
  simp only [State.readFor]
  generalize s.bring tenant line 0 = r at h1 h2
  generalize t.bring tenant line 0 = r' at h1 h2
  obtain ⟨s1, b⟩ := r
  obtain ⟨t1, b'⟩ := r'
  dsimp only at h1 h2
  subst h2
  cases b' with
  | false => exact h1
  | true =>
    dsimp only
    refine Off.foldl (fun _ _ a h => h.fetchHalf line (2 * a)) ?_ l
    rw [h1.dir?]
    split
    · exact h1.touchBanks ..
    · exact h1

theorem Off.cacheLookup (c tenant va : Nat) : Off True (s.cacheLookup c tenant va) (t.cacheLookup c tenant va) := by
  have hcs : t.cores = s.cores := h.cores trivial
  have hca : t.caches = s.caches := by rw [h.rest]
  simp only [State.cacheLookup, hcs, h.lookup (h.tlb c), hca]
  split
  · refine ⟨?_, fun _ => rfl⟩; rw [h.rest]
  · split
    · exact h
    · refine ⟨?_, fun _ => rfl⟩; rw [h.rest]

theorem Off.usePage (c tenant va : Nat) : Off True (s.usePage c tenant va) (t.usePage c tenant va) := by
  simp only [State.usePage, h.lookup (h.tlb c)]
  exact (Off.foldl (fun _ _ a h => h.readFor tenant (a / 128) [a / 64 % 2]) h _).cacheLookup ..

theorem Off.keepWord (c tenant pa : Nat) (x : Word) : Off True (s.keepWord c tenant pa x) (t.keepWord c tenant pa x) := by
  have hw : t.wordHeld c pa = s.wordHeld c pa := by simp only [State.wordHeld, State.core?, h.cores trivial]
  simp only [State.keepWord, hw]
  split
  · exact h
  · refine Off.modCore ?_ ..
    split
    · exact h.readFor ..
    · exact h

theorem Off.prefetchTable (c tenant a : Nat) : Off True (s.prefetchTable c tenant a) (t.prefetchTable c tenant a) := by
  have hword : ∀ {s t : State} (va : Nat), Off True s t → Off True (s.prefetchWord c tenant va) (t.prefetchWord c tenant va) := fun {s t} va h => by
    simp only [State.prefetchWord, h.translate (h.tlb c), h.mem]
    split
    · exact (h.usePage ..).keepWord ..
    · exact h
  simp only [State.prefetchTable, h.translate (h.tlb c), h.mem]
  split
  · exact h
  · split
    · exact Off.foldl (fun _ _ i h => hword (a + 4 * i) h) h _
    · exact h

theorem Off.acquire (c tenant d : Nat) : Off True (s.acquire c tenant d) (t.acquire c tenant d) := by
  have hd : t.lineDomain = s.lineDomain := by rw [h.rest]; rfl
  simp only [State.acquire, hd]
  split
  · exact h
  · exact h.modCore ..

theorem Off.withLaunches (f : LaunchUnit → LaunchUnit) : Off True { s with launches := f s.launches } { t with launches := f t.launches } := by
  refine ⟨?_, h.cores⟩; rw [h.rest]

theorem Off.modLaunch (id : Nat) (f : Launch → Launch) : Off True (s.modLaunch id f) (t.modLaunch id f) :=
  h.withLaunches (fun u => { u with launches := SMap.modify id f u.launches })

theorem Off.modPipeline (id : Nat) (f : Pipeline → Pipeline) : Off True (s.modPipeline id f) (t.modPipeline id f) :=
  h.withLaunches (fun u => { u with pipelines := SMap.modify id f u.pipelines })

theorem Off.enterSlot (c p : Nat) (f : Nat → Nat → Warp) : Off True (s.enterSlot c p f) (t.enterSlot c p f) := by
  simp only [State.enterSlot, State.core?, State.cyc, h.cores trivial]
  exact (h.modCore ..).modCore ..

theorem Off.startStage (pipe p stage : Nat) : Off True (s.startStage pipe p stage) (t.startStage pipe p stage) := by
  have hl : t.launches = s.launches := by rw [h.rest]
  simp only [State.startStage, State.launch?, hl]
  split
  · exact h
  · split
    · exact h
    · exact ((h.enterSlot ..).modPipeline ..).modLaunch ..

theorem Off.startBlock (id block c : Nat) (g : Grant) : Off True (s.startBlock id block c g) (t.startBlock id block c g) := by
  have hl : t.launch? id = s.launch? id := by rw [h.rest]; rfl
  have hk : t.core? c = s.core? c := by simp only [State.core?, h.cores trivial]
  simp only [State.startBlock, hl, hk]
  split
  · rename_i l k _ _
    have h2 := (((h.acquire c l.tenant domHost).prefetchTable c l.tenant (recTable l.num)).modCore c (fun j =>
      { j with
        nextBlock := k.nextBlock + 1, blocks := SMap.put k.nextBlock (l.blockOf id block g) j.blocks, spads := zeroBanks g.banks j.spads })).modLaunch id
      (fun l => { l with waiting := l.waiting.filter (fun e => decide (e.1 ≠ block)), started := true, cores := NSet.add c l.cores })
    split
    · exact Off.foldl (fun _ _ e h => (h.enterSlot c e.1 _).modLaunch id _) h2 _
    · exact Off.foldl (fun _ _ e h => h.startStage _ e.1 e.2) (h2.withLaunches (fun u => { u with pipelines := SMap.put _ _ u.pipelines })) _
  · exact h

theorem Off.eq : t = { s with sel := t.sel, pending := t.pending, later := t.later, turn := t.turn } := by
  conv_lhs => rw [h.rest, h.cores trivial]

theorem Off.placeIn (l : Launch) (bank : Option Nat) (ret : Nat) : t.placeIn l bank ret = s.placeIn l bank ret := by rw [h.eq]; rfl

theorem Off.keyBank (r tenant block : Nat) : t.keyBank r tenant block = s.keyBank r tenant block := by
  simp only [State.keyBank, h.lookup (h.tlb 0), h.anchor]

end

/-- Two attempts at a start that differ in the agenda alone. -/
inductive OptOff : Option State → Option State → Prop
  | none : OptOff none none
  | some {s t : State} : Off True s t → OptOff (some s) (some t)

theorem OptOff.isSome {o o' : Option State} (h : OptOff o o') : o'.isSome = o.isSome := by cases h <;> rfl

theorem OptOff.map {o o' : Option State} {f : State → State} (h : OptOff o o') (hf : ∀ s t, Off True s t → Off True (f s) (f t)) :
    OptOff (o.map f) (o'.map f) := by
  cases h with
  | none => exact .none
  | some h => exact .some (hf _ _ h)

theorem OptOff.bind {o o' : Option State} {f : State → Option State} (h : OptOff o o') (hf : ∀ s t, Off True s t → OptOff (f s) (f t)) :
    OptOff (o.bind f) (o'.bind f) := by
  cases h with
  | none => exact .none
  | some h => exact hf _ _ h

section
variable {s t : State} (h : Off True s t)
include h

theorem Off.startIn (id : Nat) (l : Launch) (ret : Nat) (blocks : List Nat) : OptOff (s.startIn id l ret blocks) (t.startIn id l ret blocks) := by
  induction blocks generalizing s t with
  | nil => exact .some h
  | cons a r ih =>
    simp only [State.startIn, h.placeIn, h.keyBank]
    split
    · exact .none
    · exact ih (h.startBlock ..)

theorem Off.startGroup (id : Nat) (l : Launch) (rets blocks : List Nat) : OptOff (s.startGroup id l rets blocks) (t.startGroup id l rets blocks) := by
  simp only [State.startGroup]
  induction rets with
  | nil => exact .none
  | cons x r ih =>
    have h1 := (h.startIn id l x blocks).map (f := fun s1 => s1.modLaunch id (fun l =>
      { l with waiting := l.waiting.map (fun e =>
          if (reticleLevel l.num).isSome ∧ blocks.any (fun b => groupFirst l.num b = groupFirst l.num e.1) then (e.1, some x) else e) }))
      fun s t h => h.modLaunch ..
    simp only [List.findSome?_cons]
    revert h1
    generalize (s.startIn id l x blocks).map _ = o
    generalize (t.startIn id l x blocks).map _ = o'
    rintro (_ | ⟨h1⟩)
    · exact ih
    · exact .some h1

theorem Off.startGroups (id : Nat) (l : Launch) (rets : Nat → List Nat) (groups : List (List Nat)) :
    OptOff (s.startGroups id l rets groups) (t.startGroups id l rets groups) := by
  simp only [State.startGroups]
  have hfold : ∀ (groups : List (List Nat)) (o o' : Option State), OptOff o o' →
      OptOff (groups.foldl (fun (o : Option State) g => o.bind (fun s => s.startGroup id l (rets (g.headD 0)) g)) o)
        (groups.foldl (fun (o : Option State) g => o.bind (fun s => s.startGroup id l (rets (g.headD 0)) g)) o') := by
    intro groups
    induction groups with
    | nil => exact fun _ _ h => h
    | cons g r ih => exact fun _ _ h => ih _ _ (h.bind fun _ _ h => h.startGroup ..)
  exact hfold groups _ _ (.some h)

theorem Off.couldStart (l : Launch) : t.couldStart l = s.couldStart l := by
  have he : Off True s.emptied t.emptied := by
    refine ⟨?_, fun _ => ?_⟩
    · simp only [State.emptied]; rw [h.rest]
    · simp only [State.emptied, h.cores trivial]
  simp only [State.couldStart]
  exact ((he.withLaunches (fun u => { u with launches := SMap.put 0 l [] })).startGroups ..).isSome

theorem Off.grantable (tenant r : Nat) (bytes table : List Byte) (pipe : Option Nat) :
    t.grantable tenant r bytes table pipe = s.grantable tenant r bytes table pipe := h.couldStart _

theorem Off.checkRecord (tenant : Nat) (bytes : List Byte) : t.checkRecord tenant bytes = s.checkRecord tenant bytes := by
  simp only [State.checkRecord, h.grantable, h.primaryStops, h.primaryBytes, h.primaryPoison, h.headersOf]

/-- What the launch unit makes of a queue's head record does not depend on the agenda. -/
theorem Off.lookRecord (tenant : Nat) (q : LaunchQueue) : t.lookRecord tenant q = s.lookRecord tenant q := by
  simp only [State.lookRecord, h.primaryStops, h.primaryBytes, h.primaryPoison, h.checkRecord]

theorem Off.nextQueue : t.nextQueue = s.nextQueue := by
  have hm : t.mayTake = s.mayTake := by funext n q; simp only [State.mayTake, h.lookRecord, h.tenant]
  have htn : t.tenants = s.tenants := by rw [h.rest]
  have hl : t.launches = s.launches := by rw [h.rest]
  have htake : t.takeable = s.takeable := by simp only [State.takeable, hm, htn]
  unfold State.nextQueue
  rw [htake, hl]

end

end Sys2Proof.Machine

/-! # The life of a launch: its record is taken (R33, R346) -/

namespace Sys2Proof.Machine

/-! ## Reading at primary copies leaves what is outside Caldera and the cores as it is -/

@[simp] theorem outside_cacheLookup (s : State) (c tenant va : Nat) : (s.cacheLookup c tenant va).outside = s.outside := by
  obtain ⟨f, cs, hf⟩ := s.cacheLookup_eq c tenant va
  rw [hf]; rfl

@[simp] theorem outside_usePage (s : State) (c tenant va : Nat) : (s.usePage c tenant va).outside = s.outside := by
  rw [State.usePage, outside_cacheLookup]
  exact outside_foldl (fun s a => outside_readFor ..) _ s

@[simp] theorem outside_readPrimary (s : State) (tenant va n : Nat) : (s.readPrimary tenant va n).outside = s.outside := by
  refine outside_foldl (fun s i => ?_) _ s
  split
  · split
    · rw [outside_readFor, outside_usePage]
    · exact outside_usePage ..
  · rfl

@[simp] theorem outside_readRecord (s : State) (tenant : Nat) (q : LaunchQueue) (bytes : List Byte) :
    (s.readRecord tenant q bytes).outside = s.outside := by
  simp only [State.readRecord]
  split <;> simp only [outside_readPrimary]

@[simp] theorem outside_askRecords (s : State) : s.askRecords.outside = s.outside :=
  outside_foldl (fun _ _ => outside_askLine ..) _ s

/-! ## Tenants and their queues -/

theorem State.tenant_modTenant (s : State) (t n : Nat) (f : Tenant → Tenant) :
    (s.modTenant t f).tenant n = if n = t then f (s.tenant t) else s.tenant n := by
  simp only [State.tenant, State.modTenant, SMap.get, SMap.get?_put]
  split <;> rfl

theorem State.queue_modQueue (s : State) (t q : Nat) (f : LaunchQueue → LaunchQueue) :
    ((s.modQueue t q f).tenant t).queue q = f ((s.tenant t).queue q) := by
  rw [State.modQueue, State.tenant_modTenant, if_pos rfl]
  simp only [Tenant.queue, SMap.get, SMap.get?_put, if_true, Option.getD_some]

theorem State.tenant_modQueue (s : State) (t q : Nat) (f : LaunchQueue → LaunchQueue) :
    ∃ qs, (s.modQueue t q f).tenant t = { s.tenant t with queues := qs } := by
  rw [State.modQueue, State.tenant_modTenant, if_pos rfl]; exact ⟨_, rfl⟩

theorem State.queue_advanceQueue (s : State) (t q : Nat) :
    ((s.advanceQueue t q).tenant t).queue q = { (s.tenant t).queue q with head := ((s.tenant t).queue q).head + 1 } :=
  s.queue_modQueue t q (fun k => { k with head := k.head + 1 })

theorem bitsOf_low_sixteen (x : Nat) : bitsOf x 15 0 = x % 65536 := by simp [bitsOf]

/-- The count of a queue's rejected records stops at its greatest value. -/
theorem rejected_count (x : Word) :
    bitsOf (if bitsOf x.toNat 15 0 = 0xFFFF then x else x + 1).toNat 15 0 = min (bitsOf x.toNat 15 0 + 1) 0xFFFF := by
  have hx := x.isLt
  simp only [bitsOf_low_sixteen]
  split
  · omega
  · rw [BitVec.toNat_add, show (1 : Word).toNat = 1 from rfl]; omega

/-! ## LAUNCH_RECORD_TAKE -/

section
variable {s : State} {t q : Nat} (hb : s.modul.booted = true) (hq : s.nextQueue = some (t, q))
include hb hq

/-- A rejected record leaves its queue, after reads at primary copies. -/
theorem exec_launchRecordTake_reject {cause : Nat} {l : List Byte} (hl : s.lookRecord t ((s.tenant t).queue q) = (.reject cause, l)) :
    ∃ s1 : State, s1.outside = s.outside ∧ exec .launchRecordTake s = .next (s1.rejectRecord t q cause) := by
  have h0 := Off.of_taken s .launchRecordTake
  have hbt : (s.taken .launchRecordTake).modul.booted = true := hb
  refine ⟨((s.taken .launchRecordTake).askRecords.readRecord t ((s.tenant t).queue q) l),
    by rw [outside_readRecord, outside_askRecords, outside_taken], ?_⟩
  show execLaunchRecordTake s = _
  simp only [execLaunchRecordTake, hbt, h0.nextQueue, hq, h0.tenant, h0.lookRecord, hl]
  rfl

/-- The record of a launch without a pipeline leaves its queue and becomes a launch. -/
theorem exec_launchRecordTake_good {l : List Byte} (hl : s.lookRecord t ((s.tenant t).queue q) = (.good [] [], l))
    (hp : recPipe (numOf l) = false) :
    ∃ s1 : State, s1.outside = s.outside ∧ exec .launchRecordTake s = .next (s1.acceptRecord t q l [] [] none) := by
  have h0 := Off.of_taken s .launchRecordTake
  have hbt : (s.taken .launchRecordTake).modul.booted = true := hb
  refine ⟨((s.taken .launchRecordTake).askRecords.readRecord t ((s.tenant t).queue q) l),
    by rw [outside_readRecord, outside_askRecords, outside_taken], ?_⟩
  show execLaunchRecordTake s = _
  simp only [execLaunchRecordTake, hbt, h0.nextQueue, hq, h0.tenant, h0.lookRecord, hl, hp]
  rfl

theorem becomes_launchRecordTake_reject {cause : Nat} {l : List Byte} (hl : s.lookRecord t ((s.tenant t).queue q) = (.reject cause, l))
    (hf : (s.tenant t).fqOn = false) :
    Becomes .launchRecordTake s fun s' =>
      s'.launches.launches = s.launches.launches ∧ s'.mem = s.mem ∧ ((s'.tenant t).queue q).head = ((s.tenant t).queue q).head + 1 ∧
        ((s'.tenant t).queue q).tail = ((s.tenant t).queue q).tail ∧
        bitsOf ((s'.tenant t).queue q).stat.toNat 15 0 = min (bitsOf ((s.tenant t).queue q).stat.toNat 15 0 + 1) 0xFFFF ∧
        (s'.tenant t).fqLost = satInc (s.tenant t).fqLost := by
  obtain ⟨s1, ho, hex⟩ := exec_launchRecordTake_reject hb hq hl
  obtain ⟨s2, hs2⟩ : ∃ s2, s2 = (s1.advanceQueue t q).modQueue t q (fun k =>
    { k with stat := if bitsOf k.stat.toNat 15 0 = 0xFFFF then k.stat else k.stat + 1 }) := ⟨_, rfl⟩
  obtain ⟨qs, hqs⟩ : ∃ qs, s2.tenant t = { s.tenant t with queues := qs } := by
    obtain ⟨qs, h1⟩ := State.tenant_modQueue s1 t q (fun k => { k with head := k.head + 1 })
    obtain ⟨qs', h2⟩ := State.tenant_modQueue (s1.advanceQueue t q) t q
      (fun k => { k with stat := if bitsOf k.stat.toNat 15 0 = 0xFFFF then k.stat else k.stat + 1 })
    have h1' : (s1.advanceQueue t q).tenant t = { s1.tenant t with queues := qs } := h1
    exact ⟨qs', by rw [hs2, h2, h1', tenant_of_outside ho]⟩
  have hqueue : (s2.tenant t).queue q = { (s.tenant t).queue q with
      head := ((s.tenant t).queue q).head + 1
      stat := if bitsOf ((s.tenant t).queue q).stat.toNat 15 0 = 0xFFFF then ((s.tenant t).queue q).stat else ((s.tenant t).queue q).stat + 1 } := by
    rw [hs2, State.queue_modQueue, State.queue_advanceQueue, tenant_of_outside ho]
  have hfq : (s2.tenant t).fqOn = false := by rw [hqs]; exact hf
  have hrej : s1.rejectRecord t q cause = s2.modTenant t (fun tn => { tn with fqLost := satInc tn.fqLost }) := by
    simp only [State.rejectRecord, ← hs2, State.post, hfq]; rfl
  rw [hrej] at hex
  refine ⟨_, hex, ?_, ?_, ?_⟩
  · show s2.launches.launches = _
    rw [hs2, ← launches_of_outside ho]; rfl
  · show s2.mem = _
    rw [hs2, ← mem_of_outside ho]; rfl
  · rw [State.tenant_modTenant, if_pos rfl]
    have hq' : Tenant.queue { s2.tenant t with fqLost := satInc (s2.tenant t).fqLost } q = (s2.tenant t).queue q := rfl
    rw [hq', hqueue]
    exact ⟨rfl, rfl, rejected_count _, by rw [hqs]⟩

theorem becomes_launchRecordTake_good {l : List Byte} (hl : s.lookRecord t ((s.tenant t).queue q) = (.good [] [], l))
    (hp : recPipe (numOf l) = false) :
    Becomes .launchRecordTake s fun s' =>
      s'.mem = s.mem ∧ ((s'.tenant t).queue q) = { (s.tenant t).queue q with head := ((s.tenant t).queue q).head + 1 } ∧
        ∃ x, SMap.get? s.launches.nextLaunch s'.launches.launches = some x ∧
        x.tenant = t ∧ x.queue = q ∧ x.va = ((s.tenant t).queue q).headAt ∧ x.record = l ∧ x.started = false ∧ x.failed = false ∧
        x.waiting.map Prod.fst = List.range (recBlocks (numOf l)) := by
  obtain ⟨s1, ho, hex⟩ := exec_launchRecordTake_good hb hq hl hp
  have hnext : s1.launches.nextLaunch = s.launches.nextLaunch := by rw [launches_of_outside ho]
  obtain ⟨x, hx⟩ : ∃ x : Launch, x =
    { tenant := t, queue := q, va := ((s.tenant t).queue q).headAt, record := l, table := [], pipeline := none,
      waiting := (List.range (recBlocks (numOf l))).map (fun b => (b, none)) } := ⟨_, rfl⟩
  obtain ⟨s2, hs2⟩ : ∃ s2 : State, s2 = { s1.advanceQueue t q with
    launches := { (s1.advanceQueue t q).launches with
      launches := SMap.put s.launches.nextLaunch x (s1.advanceQueue t q).launches.launches, nextLaunch := s.launches.nextLaunch + 1 } } := ⟨_, rfl⟩
  have hacc : s1.acceptRecord t q l [] [] none = s2.dispatch := by
    have hn : (s1.advanceQueue t q).launches.nextLaunch = s.launches.nextLaunch := hnext
    simp only [State.acceptRecord, tenant_of_outside ho, hn]
    rw [hs2, hx]
  rw [hacc] at hex
  have hd := Dealt.dispatch s2
  have hlaunch : s2.launch? s.launches.nextLaunch = some x := by
    rw [hs2]; exact (SMap.get?_put ..).trans (if_pos rfl)
  obtain ⟨x', hx', heq, hwait⟩ := hd.launch_some hlaunch
  refine ⟨_, hex, hd.mem.trans ?_, ?_, x', hx', ?_⟩
  · have hmem : s2.mem = s1.mem := by rw [hs2]; rfl
    exact hmem.trans (mem_of_outside ho)
  · have htenant : s2.tenant t = (s1.advanceQueue t q).tenant t := by rw [hs2]; rfl
    rw [hd.tenant, htenant, State.queue_advanceQueue, tenant_of_outside ho]
  · have hfst : x.waiting.map Prod.fst = List.range (recBlocks (numOf l)) := by rw [hx]; simp [Function.comp_def]
    rw [hwait, hfst, heq, hx]
    exact ⟨rfl, rfl, rfl, rfl, rfl, rfl, rfl⟩

end

end Sys2Proof.Machine

/-! # The life of a launch: a block starts (R22, R37, R120) -/

namespace Sys2Proof.Machine

/-! ## A warp enters a slot -/

/-- The core after a warp has entered one of its slots. -/
def Core.entered (k : Core) (p : Nat) (w : Warp) : Core :=
  ({ k with warps := SMap.put p w k.warps } : Core).modQuad (quadOf p) (fun q => { q with starts := q.starts + 1 })

theorem State.core?_enterSlot {s : State} {c : Nat} {k : Core} (hk : s.core? c = some k) (p : Nat) (f : Nat → Nat → Warp) :
    (s.enterSlot c p f).core? c = some (k.entered p (f (k.quad (quadOf p)).starts k.cyc)) := by
  simp only [State.enterSlot, State.modQuad, State.setWarp, State.core?_modCore, if_true, hk, State.cyc_eq hk]
  rfl

theorem State.warp?_enterSlot {s : State} {c : Nat} {k : Core} (hk : s.core? c = some k) (p : Nat) (f : Nat → Nat → Warp) (d q : Nat) :
    (s.enterSlot c p f).warp? d q = if d = c ∧ q = p then some (f (k.quad (quadOf p)).starts k.cyc) else s.warp? d q := by
  simp only [State.enterSlot, State.warp?_modQuad, State.warp?_setWarp, hk, Option.isSome_some, and_true, State.cyc_eq hk]
  rfl

/-- The first warps of a block, one after the other, each counted by its launch. -/
def State.enterAll (s : State) (c id : Nat) (f : Nat → WarpSeed) (l : List (Nat × Nat)) : State :=
  l.foldl (fun s e => (s.enterSlot c e.1 (f e.2).warp).modLaunch id (fun l => { l with liveWarps := l.liveWarps + 1 })) s

theorem State.launch?_modLaunch {s : State} {id : Nat} {l : Launch} (hl : s.launch? id = some l) (f : Launch → Launch) :
    (s.modLaunch id f).launch? id = some (f l) := by
  have hl' : SMap.get? id s.launches.launches = some l := hl
  exact (SMap.get?_modify ..).trans (by rw [if_pos rfl, hl']; rfl)

section
variable {c id : Nat} {f : Nat → WarpSeed} {s : State} {k : Core} {l : Launch}

theorem State.mem_enterAll (L : List (Nat × Nat)) (s : State) : (s.enterAll c id f L).mem = s.mem := by
  induction L generalizing s with
  | nil => rfl
  | cons e r ih => exact (ih _).trans rfl

theorem State.launch?_enterAll (hl : s.launch? id = some l) (L : List (Nat × Nat)) :
    (s.enterAll c id f L).launch? id = some { l with liveWarps := l.liveWarps + L.length } := by
  induction L generalizing s l with
  | nil => exact hl
  | cons e r ih =>
    refine (ih (State.launch?_modLaunch (l := l) (by exact hl) _)).trans ?_
    rw [List.length_cons]
    simp only [Nat.add_assoc, Nat.add_comm 1]

theorem State.core?_enterAll (hk : s.core? c = some k) (L : List (Nat × Nat)) :
    ∃ k', (s.enterAll c id f L).core? c = some k' ∧ k'.blocks = k.blocks := by
  induction L generalizing s k with
  | nil => exact ⟨k, hk, rfl⟩
  | cons e r ih =>
    obtain ⟨k', hk', hb⟩ := ih (s := (s.enterSlot c e.1 (f e.2).warp).modLaunch id _) (State.core?_enterSlot hk ..)
    exact ⟨k', hk', hb⟩

theorem State.warp?_enterAll_other (hk : s.core? c = some k) {L : List (Nat × Nat)} {d q : Nat} (h : d ≠ c ∨ q ∉ L.map Prod.fst) :
    (s.enterAll c id f L).warp? d q = s.warp? d q := by
  induction L generalizing s k with
  | nil => rfl
  | cons e r ih =>
    rw [List.map_cons, List.mem_cons, not_or] at h
    refine (ih (s := (s.enterSlot c e.1 (f e.2).warp).modLaunch id _) (State.core?_enterSlot hk ..) (h.imp_right And.right)).trans
      ((State.warp?_enterSlot hk ..).trans (if_neg ?_))
    omega

/-- Each warp starts in its own slot. -/
theorem State.warp?_enterAll (hk : s.core? c = some k) {L : List (Nat × Nat)} (hn : (L.map Prod.fst).Nodup) {e : Nat × Nat} (he : e ∈ L) :
    ∃ age cyc, (s.enterAll c id f L).warp? c e.1 = some ((f e.2).warp age cyc) := by
  induction L generalizing s k with
  | nil => cases he
  | cons a r ih =>
    rw [List.map_cons, List.nodup_cons] at hn
    have hk1 := State.core?_enterSlot hk a.1 (f a.2).warp
    rcases List.mem_cons.1 he with rfl | he
    · exact ⟨_, _, (State.warp?_enterAll_other (s := (s.enterSlot c e.1 (f e.2).warp).modLaunch id _) hk1 (.inr hn.1)).trans
        ((State.warp?_enterSlot hk ..).trans (if_pos ⟨rfl, rfl⟩))⟩
    · exact ih (s := (s.enterSlot c a.1 (f a.2).warp).modLaunch id _) hk1 hn.2 he

end

/-! ## What a warp starts with (R22, R120) -/

theorem WarpSeed.regWord_warp (d : WarpSeed) (age cyc : Nat) :
    (d.warp age cyc).regWord 192 scalarLane = BitVec.ofNat 32 d.param ∧
      (d.warp age cyc).regWord 193 scalarLane = BitVec.ofNat 32 (d.param / 2 ^ 32) := by
  simp only [Warp.regWord, WarpSeed.warp]
  constructor <;> simp [SMap.get_set]

theorem WarpSeed.slice_warp (d : WarpSeed) (age cyc : Nat) {j : Nat} (hj : j < 8) :
    (d.warp age cyc).slice j = { pc := BitVec.ofNat 48 d.entry, fmt := 0 } := by
  have h : (d.warp age cyc).slices = List.replicate 8 { pc := BitVec.ofNat 48 d.entry } := rfl
  rw [Warp.slice, h, List.getD_eq_getElem?_getD, List.getElem?_replicate, if_pos hj]; rfl

theorem WarpSeed.lane_warp (d : WarpSeed) (age cyc : Nat) {j : Nat} (hj : j < 32) :
    (d.warp age cyc).lane j = { lid := BitVec.ofNat 5 j, exited := decide (d.lanes ≤ j) } := by
  simp [Warp.lane, WarpSeed.warp, List.getD_eq_getElem?_getD, hj]

/-! ## BLOCK_START (R37) -/

@[simp] theorem outside_acquire (s : State) (c tenant d : Nat) : (s.acquire c tenant d).outside = s.outside := by
  simp only [State.acquire]; split <;> rfl

/-- An acquire changes lines of its core's L1 alone. -/
theorem State.core?_acquire {s : State} {c : Nat} {k : Core} (hk : s.core? c = some k) (tenant d : Nat) :
    ∃ l1, (s.acquire c tenant d).core? c = some { k with l1 := l1 } := by
  simp only [State.acquire]
  split
  · exact ⟨k.l1, hk⟩
  · exact ⟨_, by rw [State.modL1, State.core?_modCore, if_pos rfl, hk]; rfl⟩

theorem togetherWith_none {r : Nat} (h : togetherLevel r = none) (block : Nat) : togetherWith r block = [block] := by
  simp only [togetherWith, h]

theorem byGroup_single (r block : Nat) : byGroup r [block] = [[block]] := by
  simp only [byGroup, List.map_cons, List.map_nil, (List.nodup_singleton (groupFirst r block)).dedup]
  simp

/-- The block of an instance that starts, and its warps. -/
def State.started (s : State) (id block c : Nat) (l : Launch) (k : Core) (g : Grant) : State :=
  (((s.acquire c l.tenant domHost).modCore c (fun j =>
    { j with nextBlock := k.nextBlock + 1, blocks := SMap.put k.nextBlock (l.blockOf id block g) j.blocks, spads := zeroBanks g.banks j.spads })).modLaunch id
      (fun l => { l with waiting := l.waiting.filter (fun e => decide (e.1 ≠ block)), started := true, cores := NSet.add c l.cores })).enterAll
        c id (l.seed id k.nextBlock block) g.slots.zipIdx

theorem State.startBlock_eq {s : State} {id block c : Nat} {l : Launch} {k : Core} (hl : s.launch? id = some l) (hk : s.core? c = some k)
    (hp : l.pipeline = none) (ht : recTable l.num = 0) (g : Grant) : s.startBlock id block c g = s.started id block c l k g := by
  have hpre : ∀ s : State, s.prefetchTable c l.tenant 0 = s := fun s => by simp [State.prefetchTable]
  simp only [State.startBlock, hl, hk, ht, hpre, hp]
  rfl

/-- An instance with a reticle, whose level starts nothing together, starts where its reticle grants it. -/
theorem State.tryStart_eq {s : State} {id block c ret : Nat} {l : Launch} {k : Core} {g : Grant} (hl : s.launch? id = some l)
    (hk : s.core? c = some k) (hw : l.waiting.find? (fun e => decide (e.1 = block)) = some (block, some ret)) (hp : l.pipeline = none)
    (htog : togetherLevel l.num = none) (ht : recTable l.num = 0)
    (hplace : s.placeIn l (s.keyBank l.num l.tenant block) ret = some (c, g)) :
    ∃ f, GivesReticles f ∧ s.tryStart id l block = some ((s.started id block c l k g).modLaunch id f) := by
  have hret : l.reticleFor block = some ret := by simp only [Launch.reticleFor, hw]; rfl
  have hstart := State.startBlock_eq (block := block) hl hk hp ht g
  refine ⟨fun l' => { l' with waiting := l'.waiting.map (fun e =>
    if (reticleLevel l'.num).isSome ∧ [block].any (fun b => groupFirst l'.num b = groupFirst l'.num e.1) then (e.1, some ret) else e) },
    fun l' => ⟨rfl, ?_⟩, ?_⟩
  · dsimp only
    rw [List.map_map]
    refine List.map_congr_left fun e _ => ?_
    simp only [Function.comp]; split <;> rfl
  · simp only [State.tryStart, togetherWith_none htog, List.head?_cons, hret, byGroup_single, State.startGroups, List.foldl_cons,
      List.foldl_nil, Option.bind_some, State.startGroup, State.reticlesFor, List.headD_cons, List.findSome?_cons, State.startIn, hplace,
      Option.map_some, hstart]
    simp

/-- What stands where a block has started. -/
theorem State.started_spec {s : State} {id block c : Nat} {l : Launch} {k : Core} {g : Grant} (hl : s.launch? id = some l)
    (hk : s.core? c = some k) (hn : g.slots.Nodup) :
    (s.started id block c l k g).mem = s.mem ∧
      (∃ k', (s.started id block c l k g).core? c = some k' ∧ SMap.get? k.nextBlock k'.blocks = some (l.blockOf id block g)) ∧
      (s.started id block c l k g).launch? id = some { l with
        waiting := l.waiting.filter (fun e => decide (e.1 ≠ block)), started := true, cores := NSet.add c l.cores,
        liveWarps := l.liveWarps + g.slots.length } ∧
      ∀ i p, g.slots[i]? = some p → ∃ age cyc, (s.started id block c l k g).warp? c p = some ((l.seed id k.nextBlock block i).warp age cyc) := by
  obtain ⟨l1, hacq⟩ := State.core?_acquire hk l.tenant domHost
  obtain ⟨k0, hk0⟩ : ∃ k0, k0 = { k with
    l1 := l1, nextBlock := k.nextBlock + 1, blocks := SMap.put k.nextBlock (l.blockOf id block g) k.blocks,
    spads := zeroBanks g.banks k.spads } := ⟨_, rfl⟩
  obtain ⟨s0, hs0⟩ : ∃ s0, s0 = (s.acquire c l.tenant domHost).modCore c (fun j =>
    { j with nextBlock := k.nextBlock + 1, blocks := SMap.put k.nextBlock (l.blockOf id block g) j.blocks, spads := zeroBanks g.banks j.spads }) := ⟨_, rfl⟩
  have hcore0 : s0.core? c = some k0 := by rw [hs0, State.core?_modCore, if_pos rfl, hacq, hk0]; rfl
  have hout0 : s0.outside = s.outside := by rw [hs0, outside_modCore, outside_acquire]
  have hlaunch0 : s0.launch? id = some l := by rw [State.launch?, launches_of_outside hout0]; exact hl
  have hlaunch1 := State.launch?_modLaunch hlaunch0
    (fun l => { l with waiting := l.waiting.filter (fun e => decide (e.1 ≠ block)), started := true, cores := NSet.add c l.cores })
  have heq : s.started id block c l k g = (s0.modLaunch id
      (fun l => { l with waiting := l.waiting.filter (fun e => decide (e.1 ≠ block)), started := true, cores := NSet.add c l.cores })).enterAll
        c id (l.seed id k.nextBlock block) g.slots.zipIdx := by rw [hs0]; rfl
  have hfst : g.slots.zipIdx.map Prod.fst = g.slots := List.zipIdx_map_fst ..
  rw [heq]
  refine ⟨(State.mem_enterAll ..).trans (Eq.trans (b := s0.mem) rfl (mem_of_outside hout0)), ?_, ?_, fun i p hp => ?_⟩
  · obtain ⟨k', hk', hb⟩ := State.core?_enterAll (id := id) (f := l.seed id k.nextBlock block)
      (s := s0.modLaunch id _) hcore0 g.slots.zipIdx
    exact ⟨k', hk', by rw [hb, hk0]; exact SMap.get?_put_same ..⟩
  · rw [State.launch?_enterAll hlaunch1, List.length_zipIdx]
  · exact State.warp?_enterAll (s := s0.modLaunch id _) hcore0 (by rw [hfst]; exact hn) (e := (p, i))
      (List.mk_mem_zipIdx_iff_getElem?.2 hp)

/-- An instance starts where its reticle grants it (R37). -/
theorem becomes_blockStart {s : State} {id block c ret : Nat} {l : Launch} {k : Core} {g : Grant} (hl : s.launch? id = some l)
    (hk : s.core? c = some k) (hw : l.waiting.find? (fun e => decide (e.1 = block)) = some (block, some ret)) (hp : l.pipeline = none)
    (htog : togetherLevel l.num = none) (ht : recTable l.num = 0)
    (hplace : s.placeIn l (s.keyBank l.num l.tenant block) ret = some (c, g)) (hn : g.slots.Nodup) :
    Becomes (.blockStart id block c) s fun t => t.mem = s.mem ∧
      (∃ k' b, t.core? c = some k' ∧ SMap.get? k.nextBlock k'.blocks = some b ∧ b.launch = id ∧ b.tenant = l.tenant ∧ b.index = block ∧
        b.slots = g.slots ∧ b.banks = g.banks ∧ b.window = [] ∧ b.empty = [] ∧ b.poison = []) ∧
      (∃ l', t.launch? id = some l' ∧ l'.started = true ∧ (∀ e ∈ l'.waiting, e.1 ≠ block) ∧ l'.liveWarps = l.liveWarps + g.slots.length) ∧
      ∀ i p, g.slots[i]? = some p → ∃ w, t.warp? c p = some w ∧ w.tenant = l.tenant ∧ w.launch = id ∧ w.block = k.nextBlock ∧ w.index = i ∧
        w.lease.st = .waiting ∧ w.lease.decl = recLease l.num ∧ w.special.priv = false ∧
        w.regWord 192 scalarLane = BitVec.ofNat 32 (recParam l.num) ∧ w.regWord 193 scalarLane = BitVec.ofNat 32 (recParam l.num / 2 ^ 32) ∧
        (∀ j, j < 8 → w.slice j = { pc := BitVec.ofNat 48 (recEntry l.num), fmt := 0 }) ∧
        ∀ j, j < 32 → w.lane j = { lid := BitVec.ofNat 5 j, exited := decide (levelExtent (recLevel l.num 0) ≤ j) } := by
  obtain ⟨s1, hs1⟩ : ∃ s1, s1 = s.taken (.blockStart id block c) := ⟨_, rfl⟩
  have h1 : Off True s s1 := by rw [hs1]; exact .of_taken ..
  have hl1 : s1.launch? id = some l := by rw [hs1]; exact hl
  have hk1 : s1.core? c = some k := by rw [hs1]; exact hk
  obtain ⟨f, hf, htry⟩ := State.tryStart_eq hl1 hk1 hw hp htog ht (by rw [h1.placeIn, h1.keyBank]; exact hplace)
  obtain ⟨hmem, ⟨k', hk', hb⟩, hlaunch, hwarps⟩ := State.started_spec (block := block) hl1 hk1 hn
  generalize s1.started id block c l k g = s2 at htry hmem hk' hlaunch hwarps
  have hany : l.waiting.any (fun e => decide (e.1 = block)) = true := by
    rw [List.any_eq_true]; exact ⟨_, List.mem_of_find?_eq_some hw, by simp⟩
  have hstands : ((s2.modLaunch id f).core? c).any (fun k => k.blocks.any (fun b => decide (b.2.launch = id ∧ b.2.index = block))) = true := by
    have hk2 : (s2.modLaunch id f).core? c = some k' := hk'
    rw [hk2, Option.any_some, List.any_eq_true]
    exact ⟨_, SMap.mem_of_get? hb, by simp [Launch.blockOf]⟩
  have hex : exec (.blockStart id block c) s = .next (s2.modLaunch id f).dispatch := by
    show execBlockStart id block c s = _
    simp only [execBlockStart, ← hs1, hl1, hany, htry, hstands]
    rfl
  have hd := Dealt.dispatch (s2.modLaunch id f)
  obtain ⟨l', hl', heq', hwait'⟩ := hd.launch_some (State.launch?_modLaunch hlaunch f)
  obtain ⟨hfeq, hfwait⟩ := hf { l with
    waiting := l.waiting.filter (fun e => decide (e.1 ≠ block)), started := true, cores := NSet.add c l.cores,
    liveWarps := l.liveWarps + g.slots.length }
  refine ⟨_, hex, ?_, ⟨k', _, (hd.core? c).trans hk', hb, rfl, rfl, rfl, rfl, rfl, rfl, rfl, rfl⟩, ⟨l', hl', ?_, fun e he => ?_, ?_⟩,
    fun i p hp => ?_⟩
  · exact hd.mem.trans (hmem.trans (by rw [hs1]; rfl))
  · rw [heq', hfeq]
  · have hm : e.1 ∈ l'.waiting.map Prod.fst := List.mem_map_of_mem he
    rw [hwait', hfwait] at hm
    obtain ⟨e', he', hee⟩ := List.mem_map.1 hm
    rw [← hee]
    simpa using (List.mem_filter.1 he').2
  · rw [heq', hfeq]
  · obtain ⟨age, cyc, hwarp⟩ := hwarps i p hp
    refine ⟨_, (hd.warp? c p).trans hwarp, rfl, rfl, rfl, rfl, rfl, rfl, rfl, (WarpSeed.regWord_warp ..).1, (WarpSeed.regWord_warp ..).2,
      fun j hj => WarpSeed.slice_warp _ _ _ hj, fun j hj => WarpSeed.lane_warp _ _ _ hj⟩

end Sys2Proof.Machine

/-! # The life of a launch: a warp ends, and the launch completes (R142, R350) -/

namespace Sys2Proof.Machine

theorem SMap.mem_of_mem_del {α : Type} {k : Nat} {m : SMap α} {e : Nat × α} (h : e ∈ SMap.del k m) : e ∈ m ∧ e.1 ≠ k := by
  induction m with
  | nil => cases h
  | cons a t ih =>
    simp only [SMap.del] at h
    split at h
    · exact ⟨List.mem_cons_of_mem _ (ih h).1, (ih h).2⟩
    · rename_i hk
      rcases List.mem_cons.1 h with rfl | h
      · exact ⟨List.mem_cons_self .., fun h => hk h.symm⟩
      · exact ⟨List.mem_cons_of_mem _ (ih h).1, (ih h).2⟩

/-- A fold over what no member of a list is changes nothing. -/
theorem foldl_filter_none {α β : Type} {q : α → Bool} {l : List α} (h : ∀ e ∈ l, q e = false) (f : β → α → β) (b : β) :
    (l.filter q).foldl f b = b := by
  rw [List.filter_eq_nil_iff.2 fun e he => by rw [h e he]; exact Bool.false_ne_true]; rfl

/-! ## A warp leaves its slot -/

section
variable {s : State} {c p : Nat} {k : Core} {w : Warp} (hk : s.core? c = some k) (hw : SMap.get? p k.warps = some w)
  (hlatch : ∀ e ∈ k.warps, e.2.latch = none)

include hk hlatch in
theorem State.partnerGone_alone (p : Nat) : s.partnerGone c p = s := by
  simp only [State.partnerGone, hk, Option.map_some, Option.getD_some]
  refine foldl_filter_none (fun e he => ?_) _ s
  rw [hlatch e he]

include hk hlatch in
theorem State.gangGone_alone (p : Nat) (but : Option Nat) : s.gangGone c p but = s := by
  have hnone : ((((s.core? c).map (·.warps)).getD []).filter (fun e => quadOf e.1 = quadOf p)).filterMap (fun e =>
      e.2.latch.bind (·.ganging)) = [] := by
    rw [hk]
    refine List.filterMap_eq_nil_iff.2 fun e he => ?_
    rw [hlatch e (List.mem_filter.1 he).1]; rfl
  simp only [State.gangGone, hnone]
  rfl

/-- No warp of the core waits for it, and it is in no gang. -/
theorem State.dissolve_alone {s : State} {c p : Nat} {w : Warp} (hw : s.warp? c p = some w) (hg : w.gang = 0) : s.dissolve c p = s := by
  simp only [State.dissolve, hw, hg]
  rfl

include hk hw hlatch in
theorem State.leaveOthers_alone (hg : w.gang = 0) : s.leaveOthers c p = s := by
  have hw' : s.warp? c p = some w := by rw [State.warp?, hk]; exact hw
  rw [State.leaveOthers, State.partnerGone_alone hk hlatch, State.gangGone_alone hk hlatch, State.dissolve_alone hw' hg]

theorem State.core?_modQuad_some {s : State} {c q : Nat} {k : Core} {f : Quad → Quad} (hk : s.core? c = some k) :
    ∃ k', (s.modQuad c q f).core? c = some k' ∧ k'.warps = k.warps ∧ k'.blocks = k.blocks :=
  ⟨k.modQuad q f, (State.core?_modQuad ..).trans ((if_pos rfl).trans (by rw [hk]; rfl)), rfl, rfl⟩

include hk hw hlatch in
/-- What stands where the warp has left. -/
theorem State.vacate_spec (hg : w.gang = 0) :
    s.vacate c p = { s with cores := (s.vacate c p).cores, sel := s.sel.filter (fun g => !(decide (g.core = c ∧ g.slot = p))) } ∧
      (∃ k', (s.vacate c p).core? c = some k' ∧ k'.warps = SMap.del p k.warps ∧ k'.blocks = k.blocks) ∧
      ∀ d, d ≠ c → (s.vacate c p).core? d = s.core? d := by
  simp only [State.vacate, State.leaveOthers_alone hk hw hlatch hg]
  refine ⟨rfl, ?_, fun d hd => ?_⟩
  · obtain ⟨k1, hk1, hw1, hb1⟩ := State.core?_modQuad_some (q := quadOf p) (f := fun q => _) (s := s.modCore c _)
      ((State.core?_modCore ..).trans ((if_pos rfl).trans (by rw [hk]; rfl)))
    exact ⟨k1, hk1, hw1, hb1⟩
  · exact (State.core?_modQuad ..).trans ((if_neg hd).trans ((State.core?_modCore ..).trans (if_neg hd)))

end

/-! ## A block without a warp frees what it holds (R37) -/

theorem State.warp?_leaveWindow (s : State) (c : Nat) (b : Block) (d q : Nat) : (s.leaveWindow c b).warp? d q = s.warp? d q := by
  rw [State.leaveWindow]; exact State.warp?_modCore _ _ _ _ fun _ => rfl

/-- The end of a block changes its core and its tenant alone, no warp, and no other tenant's registers but the save slots in use. -/
theorem State.endBlock_spec (s : State) (c id : Nat) :
    s.endBlock c id = { s with cores := (s.endBlock c id).cores, tenants := (s.endBlock c id).tenants } ∧
      (∀ d q, (s.endBlock c id).warp? d q = s.warp? d q) ∧
      (∀ n, ((s.endBlock c id).tenant n).resetting = (s.tenant n).resetting) ∧
      (s.blockWarps c id = [] → (s.endBlock c id).block? c id = none) := by
  simp only [State.endBlock]
  split
  · rename_i hb
    exact ⟨rfl, fun _ _ => rfl, fun _ => rfl, fun _ => hb⟩
  · rename_i b hb
    split
    · rename_i hne
      exact ⟨rfl, fun _ _ => rfl, fun _ => rfl, fun h => by rw [h] at hne; cases hne⟩
    · have hwarp : ∀ d q, ((s.leaveWindow c b).modCore c (fun k => { k with blocks := SMap.del id k.blocks })).warp? d q = s.warp? d q :=
        fun d q => (State.warp?_modCore _ c d q (f := fun k => { k with blocks := SMap.del id k.blocks }) fun _ => rfl).trans
          (State.warp?_leaveWindow s c b d q)
      have hblock : ((s.leaveWindow c b).modCore c (fun k => { k with blocks := SMap.del id k.blocks })).block? c id = none := by
        rw [State.block?, State.core?_modCore, if_pos rfl]
        cases (s.leaveWindow c b).core? c with
        | none => rfl
        | some k => exact (SMap.get?_del ..).trans (if_pos rfl)
      split
      · refine ⟨rfl, hwarp, fun n => ?_, fun _ => hblock⟩
        rw [State.tenant_modTenant]
        split
        · rename_i h; rw [h]; rfl
        · rfl
      · exact ⟨rfl, hwarp, fun _ => rfl, fun _ => hblock⟩

/-! ## WARP_END (R142) -/

theorem State.finishReset_not {s : State} {t : Nat} (h : (s.tenant t).resetting = false) : s.finishReset t = s := by
  simp only [State.finishReset, h]; rfl

/-- A warp that is at its end leaves its slot; the last warp of a block frees the block, the last one of a launch completes it. -/
theorem becomes_warpEnd {s : State} {c p : Nat} {k : Core} {w : Warp} {l : Launch} (hk : s.core? c = some k)
    (hw : SMap.get? p k.warps = some w) (hlatch : ∀ e ∈ k.warps, e.2.latch = none) (hg : w.gang = 0) (hl : s.launch? w.launch = some l)
    (hp : l.pipeline = none) (he : w.atEnd = true) (hr : (s.tenant w.tenant).resetting = false) :
    Becomes (.warpEnd c p) s fun t =>
      t.mem = s.mem ∧ t.warp? c p = none ∧ (∀ d r, d ≠ c ∨ r ≠ p → t.warp? d r = s.warp? d r) ∧ (∀ g ∈ t.sel, ¬(g.core = c ∧ g.slot = p)) ∧
      (∃ l', t.launch? w.launch = some l' ∧ l'.liveWarps = l.liveWarps - 1) ∧
      ((∀ e ∈ k.warps, e.1 ≠ p → e.2.block ≠ w.block) → t.block? c w.block = none) ∧
      (l.started = true → l.waiting = [] → l.liveWarps = 1 → .launchCompletion w.launch ∈ t.pending) := by
  have hw1 : (s.taken (.warpEnd c p)).warp? c p = some w := by rw [State.warp?_taken, State.warp?, hk]; exact hw
  obtain ⟨heq, ⟨k2, hk2, hwarps, hblocks⟩, hcores⟩ := State.vacate_spec (s := s.taken (.warpEnd c p)) hk hw hlatch hg
  obtain ⟨s2, hs2⟩ : ∃ s2, s2 = (s.taken (.warpEnd c p)).vacate c p := ⟨_, rfl⟩
  obtain ⟨l1, hl1⟩ : ∃ l1, l1 = { l with liveWarps := l.liveWarps - 1 } := ⟨_, rfl⟩
  have hlaunch : (s2.modLaunch w.launch (fun l => { l with liveWarps := l.liveWarps - 1 })).launch? w.launch = some l1 := by
    rw [State.launch?_modLaunch (l := l) (by rw [hs2, heq]; exact hl), hl1]
  obtain ⟨s3, hs3⟩ : ∃ s3, s3 = s2.modLaunch w.launch (fun l => { l with liveWarps := l.liveWarps - 1 }) := ⟨_, rfl⟩
  rw [← hs3] at hlaunch
  obtain ⟨heq4, hwarp4, htenant4, hblock4⟩ := s3.endBlock_spec c w.block
  obtain ⟨s4, hs4⟩ : ∃ s4, s4 = s3.endBlock c w.block := ⟨_, rfl⟩
  rw [← hs4] at heq4 hwarp4 htenant4 hblock4
  have hlaunch4 : s4.launch? w.launch = some l1 := by rw [heq4]; exact hlaunch
  obtain ⟨s5, hs5⟩ : ∃ s5, s5 = if l1.over then s4.pushOnce (.launchCompletion w.launch) else s4 := ⟨_, rfl⟩
  have heq5 : s5 = { s4 with pending := s5.pending } := by
    rw [hs5]; split
    · rw [State.pushOnce_eq]
    · rfl
  have hreset : s5.finishReset w.tenant = s5 := State.finishReset_not (by
    have h : s5.tenant w.tenant = s4.tenant w.tenant := by rw [heq5]; rfl
    rw [h, htenant4, hs3]
    have h : (s2.modLaunch w.launch (fun l => { l with liveWarps := l.liveWarps - 1 })).tenant w.tenant = s2.tenant w.tenant := rfl
    rw [h, hs2, heq]; exact hr)
  have hex : exec (.warpEnd c p) s = .next s5.dispatch := by
    show execWarpEnd c p s = _
    have hpipe : l1.pipeline = none := by rw [hl1]; exact hp
    simp only [execWarpEnd, hw1, he, ← hs2, ← hs3, hlaunch, Option.bind_some, hpipe, ← hs4, hlaunch4, Option.map_some, Option.getD_some,
      ← hs5, hreset]
    rfl
  have hd := Dealt.dispatch s5
  have hwarp5 : ∀ d q, s5.warp? d q = s2.warp? d q := fun d q => by
    have h : s5.warp? d q = s4.warp? d q := by rw [heq5]; rfl
    rw [h, hwarp4, hs3]; rfl
  rw [← hs2] at hk2 hcores
  refine ⟨_, hex, ?_, ?_, fun d r hdr => ?_, fun g hg' => ?_, ?_, fun hne => ?_, fun hst hwt hlv => ?_⟩
  · rw [hd.mem, heq5, heq4, hs3]
    show s2.mem = _
    rw [hs2, heq]; rfl
  · rw [hd.warp?, hwarp5, State.warp?, hk2, Option.bind_some, hwarps, SMap.get?_del, if_pos rfl]
  · rw [hd.warp?, hwarp5]
    by_cases hdc : d = c
    · rw [hdc, State.warp?, State.warp?, hk2, hk, Option.bind_some, Option.bind_some, hwarps, SMap.get?_del, if_neg (by omega)]
    · rw [State.warp?, hcores d hdc]; rfl
  · have hsel : s5.sel = s.sel.filter (fun g => !(decide (g.core = c ∧ g.slot = p))) := by
      rw [heq5, heq4, hs3]
      show s2.sel = _
      rw [hs2, heq]; rfl
    rw [hd.sel, hsel] at hg'
    simpa [imp_iff_not_or] using (List.mem_filter.1 hg').2
  · have hlaunch5 : s5.launch? w.launch = some l1 := by rw [heq5]; exact hlaunch4
    obtain ⟨l', hl', heq', -⟩ := hd.launch_some hlaunch5
    exact ⟨l', hl', by rw [heq', hl1]⟩
  · have hblock : s5.block? c w.block = s4.block? c w.block := by rw [heq5]; rfl
    rw [hd.block?, hblock]
    refine hblock4 ?_
    have hk3 : s3.core? c = some k2 := by rw [hs3]; exact hk2
    rw [State.blockWarps, hk3, Option.map_some, Option.getD_some, Core.warpsOfBlock, hwarps]
    refine List.filter_eq_nil_iff.2 fun e he' => ?_
    simpa using hne e (SMap.mem_of_mem_del he').1 (SMap.mem_of_mem_del he').2
  · refine hd.due _ ?_
    have hover : l1.over = true := by simp [hl1, Launch.over, hst, hwt, hlv]
    rw [hs5, hover]
    exact State.mem_pushOnce ..

/-! ## Fence counters (R350) -/

/-- A fence counter changes, and warps that wait for it go on; memory and launches stay. -/
theorem State.setFence_spec (s : State) (t k : Nat) (v : DWord) : (s.setFence t k v).mem = s.mem ∧ (s.setFence t k v).launches = s.launches ∧
    ∀ n, ((s.setFence t k v).tenant t).fence n = if n = k then v else (s.tenant t).fence n := by
  obtain ⟨s1, hs1⟩ : ∃ s1, s1 = s.modTenant t (fun tn => { tn with fences := SMap.set 0 k v tn.fences }) := ⟨_, rfl⟩
  have hout : ((s1.fenceChanged t k).outside) = s1.outside := by
    rw [State.fenceChanged, outside_pushOnce]
    exact outside_foldl (fun s e => outside_modWarp ..) _ s1
  have hset : s.setFence t k v = s1.fenceChanged t k := by rw [hs1]; rfl
  rw [hset]
  refine ⟨?_, ?_, fun n => ?_⟩
  · rw [mem_of_outside hout, hs1]; rfl
  · rw [launches_of_outside hout, hs1]; rfl
  · rw [tenant_of_outside hout, hs1, State.tenant_modTenant, if_pos rfl]
    exact SMap.get_set ..

/-- The increments that a record asks for, of a list of their numbers. -/
def State.raiseFences (s : State) (t r : Nat) (is : List Nat) : State :=
  is.foldl (fun s i => if (recInc r i).1 then s.setFence t (recInc r i).2 ((s.tenant t).fence (recInc r i).2 + 1) else s) s

theorem State.raiseFences_spec (s : State) (t r : Nat) (is : List Nat) :
    (s.raiseFences t r is).mem = s.mem ∧ (s.raiseFences t r is).launches = s.launches ∧ ∀ n, ((s.raiseFences t r is).tenant t).fence n =
      (s.tenant t).fence n + BitVec.ofNat 64 (is.filter (fun i => decide (recInc r i = (true, n)))).length := by
  induction is generalizing s with
  | nil => exact ⟨rfl, rfl, fun n => by simp [State.raiseFences]⟩
  | cons i is ih =>
    obtain ⟨hm, hl, hf⟩ := ih (if (recInc r i).1 then s.setFence t (recInc r i).2 ((s.tenant t).fence (recInc r i).2 + 1) else s)
    obtain ⟨hm1, hl1, hf1⟩ := s.setFence_spec t (recInc r i).2 ((s.tenant t).fence (recInc r i).2 + 1)
    have hcons : s.raiseFences t r (i :: is) =
      (if (recInc r i).1 then s.setFence t (recInc r i).2 ((s.tenant t).fence (recInc r i).2 + 1) else s).raiseFences t r is := rfl
    rw [hcons]
    refine ⟨hm.trans ?_, hl.trans ?_, fun n => (hf n).trans ?_⟩
    · split
      · exact hm1
      · rfl
    · split
      · exact hl1
      · rfl
    · rw [List.filter_cons]
      clear hf hcons hm hl hm1 hl1
      revert hf1
      generalize recInc r i = e
      obtain ⟨b, m⟩ := e
      dsimp only
      intro hf1
      cases b with
      | false => simp
      | true =>
        rw [if_pos rfl, hf1]
        by_cases hn : n = m
        · subst hn
          rw [if_pos rfl, if_pos (by simp), List.length_cons, BitVec.add_assoc, BitVec.ofNat_add, BitVec.add_comm (1 : BitVec 64)]
          rfl
        · rw [if_neg hn, if_neg (by simpa using fun h => hn h.symm)]

theorem State.increments_eq (s : State) (l : Launch) : s.increments l = if l.failed then s else s.raiseFences l.tenant l.num [0, 1] := rfl

/-! ## LAUNCH_COMPLETION (R350) -/

section
variable {s : State} {id : Nat} {l : Launch} (hl : s.launch? id = some l) (ho : l.over = true)
include hl ho

theorem becomes_launchCompletion_flush (hf : l.flushed = false) (hc : l.cores = []) : Becomes (.launchCompletion id) s fun t =>
    t.mem = s.mem ∧ t.tenants = s.tenants ∧ ∃ l', t.launch? id = some l' ∧ l'.flushed = true := by
  have hl1 : (s.taken (.launchCompletion id)).launch? id = some l := hl
  obtain ⟨seen, hex⟩ : ∃ seen, exec (.launchCompletion id) s =
      .next ((s.taken (.launchCompletion id)).modLaunch id (fun l => { l with flushed := true, acks := seen })) := by
    refine ⟨s.caldera.observing.foldl (fun m e => e.2.foldl (fun m w => NSet.add w.1 m) m) [], ?_⟩
    show execLaunchCompletion id s = _
    simp only [execLaunchCompletion, hl1, ho, hf, hc, List.foldl_nil]
    rfl
  exact ⟨_, hex, rfl, rfl, _, State.launch?_modLaunch hl1 _, rfl⟩

theorem becomes_launchCompletion_gone (hf : l.flushed = true) (hs : s.settled l.acks = true) (hc : s.launchCollapsed l = true) :
    Becomes (.launchCompletion id) s fun t => t.mem = s.mem ∧ t.launch? id = none ∧ ∀ n, (t.tenant l.tenant).fence n =
      (s.tenant l.tenant).fence n +
        BitVec.ofNat 64 (if l.failed then 0 else (([0, 1] : List Nat).filter (fun i => decide (recInc l.num i = (true, n)))).length) := by
  have hl1 : (s.taken (.launchCompletion id)).launch? id = some l := hl
  obtain ⟨s2, hs2⟩ : ∃ s2 : State, s2 = { s.taken (.launchCompletion id) with
    launches := { s.launches with
      launches := SMap.del id s.launches.launches,
      pipelines := s.launches.pipelines.filter (fun e => decide (e.2.launch ≠ id)) } } := ⟨_, rfl⟩
  have hex : exec (.launchCompletion id) s = .next (s2.increments l).dispatch := by
    show execLaunchCompletion id s = _
    have hs1 : (s.taken (.launchCompletion id)).settled l.acks = true := hs
    have hc1 : (s.taken (.launchCompletion id)).launchCollapsed l = true := hc
    simp only [execLaunchCompletion, hl1, ho, hf, hs1, hc1, hs2]
    rfl
  have hd := Dealt.dispatch (s2.increments l)
  obtain ⟨hmem, hlaunches, hfence⟩ := s2.raiseFences_spec l.tenant l.num [0, 1]
  have hm2 : s2.mem = s.mem := by rw [hs2]; rfl
  have hl2 : s2.launch? id = none := by rw [hs2]; exact (SMap.get?_del ..).trans (if_pos rfl)
  have ht2 : s2.tenant l.tenant = s.tenant l.tenant := by rw [hs2]; rfl
  refine ⟨_, hex, hd.mem.trans ?_, hd.launch_none ?_, fun n => ?_⟩
  · rw [State.increments_eq]; split
    · exact hm2
    · exact hmem.trans hm2
  · rw [State.increments_eq]; split
    · exact hl2
    · rw [State.launch?, hlaunches]; exact hl2
  · rw [hd.tenant, State.increments_eq]; split
    · rw [ht2]; simp
    · rw [hfence, ht2]

end

end Sys2Proof.Machine

/-! # Pre-emption: a warp and a block are told to stop, and stop (R59, R60, R426, R428) -/

namespace Sys2Proof.Machine

/-! ## A change that changes nothing -/

theorem SMap.modify_fixed {α : Type} {f : α → α} {k : Nat} {v : α} {m : SMap α} (h : SMap.get? k m = some v) (hf : f v = v) :
    SMap.modify k f m = m := by
  induction m with
  | nil => rfl
  | cons e t ih =>
    obtain ⟨j, x⟩ := e
    simp only [SMap.get?] at h
    simp only [SMap.modify]
    split at h
    · rename_i hk; cases h; rw [if_pos hk, hf]
    · rename_i hk; rw [if_neg hk, ih h]

theorem State.modWarp_fixed {s : State} {c p : Nat} {w : Warp} {f : Warp → Warp} (hw : s.warp? c p = some w) (hf : f w = w) :
    s.modWarp c p f = s := by
  obtain ⟨k, hk, hw⟩ := State.core?_of_warp? hw
  have h : s.modWarp c p f = { s with cores := SMap.modify c (fun k => { k with warps := SMap.modify p f k.warps }) s.cores } := rfl
  rw [h, SMap.modify_fixed (v := k) hk (by rw [SMap.modify_fixed hw hf])]

theorem NSet.mem_add_self (k : Nat) (m : NSet) : k ∈ NSet.add k m := by
  induction m with
  | nil => exact List.mem_singleton.2 rfl
  | cons a t ih =>
    simp only [NSet.add]
    split
    · exact List.mem_cons_self ..
    · split
      · rename_i h; rw [h]; exact List.mem_cons_self ..
      · exact List.mem_cons_of_mem _ ih

/-! ## What does not depend on the agenda -/

theorem Off.fetchWord {s t : State} (h : Off True s t) (c pa n : Nat) (ht : t.tick = s.tick) : t.fetchWord c pa n = s.fetchWord c pa n := by
  simp only [State.fetchWord, h.mem, State.core?, h.cores trivial, ht]

theorem Off.recipeEntry {s t : State} (h : Off True s t) (c : Nat) (w : Warp) : t.recipeEntry c w = s.recipeEntry c w := by
  have hl : t.launch? w.launch = s.launch? w.launch := by rw [h.rest]; rfl
  have hf : ∀ va, t.fetchedWord c w.tenant va = s.fetchedWord c w.tenant va := fun va => by
    simp only [State.fetchedWord, h.translate (h.tlb c), h.fetchWord c _ _ (by rw [h.rest])]
  simp only [State.recipeEntry, hl, hf]

/-! ## The only warp of its core, which nothing waits for -/

/-- A warp that is alone on its core and runs, outside a handler and a wait. -/
structure Alone (s : State) (c p : Nat) (w : Warp) : Prop where
  core : ∃ k, s.core? c = some k ∧ k.warps = [(p, w)]
  latch : w.latch = none
  gang : w.gang = 0
  trap : w.trap = none
  priv : w.special.priv = false
  park : w.park = .none
  behind : w.behind = []
  running : w.over = false
  saved : w.saved = none

section
variable {s : State} {c p : Nat} {w : Warp} (h : Alone s c p w)
include h

theorem Alone.warp? : s.warp? c p = some w := by
  obtain ⟨k, hk, hw⟩ := h.core
  rw [State.warp?, hk, Option.bind_some, hw]; exact if_pos rfl

theorem Alone.blockWarps : s.blockWarps c w.block = [(p, w)] := by
  obtain ⟨k, hk, hw⟩ := h.core
  rw [State.blockWarps, hk, Option.map_some, Option.getD_some, Core.warpsOfBlock, hw]
  simp

theorem Alone.causes : w.causes = [] := by rw [Warp.causes, h.park, if_pos rfl]

theorem Alone.leavePark : s.leavePark c p = s := by
  simp only [State.leavePark, h.warp?, h.causes, List.foldl_nil]

theorem Alone.withdraw : s.withdraw c p = s := by
  obtain ⟨k, hk, hw⟩ := h.core
  have hun : w.unlatch = w := by simp only [Warp.unlatch, h.latch]
  have hl : ∀ e ∈ k.warps, e.2.latch = none := by rw [hw]; intro e he; rw [List.mem_singleton.1 he]; exact h.latch
  rw [State.withdraw, State.modWarp_fixed h.warp? hun, State.gangGone_alone hk hl, State.dissolve_alone h.warp? h.gang]

/-- Where the block of the only warp has nothing to save it in yet, or the warp has not stopped, a step of its pre-emption ends. -/
theorem Alone.saveStep_running {b : Block} (hb : s.block? c w.block = some b) (hp : s.pointWithoutRecipe c w = false)
    (hd : s.stopDue c p w = none) : s.saveStep c w.block = s := by
  have hstop : s.blockStopped c w.block = false := by
    rw [State.blockStopped, h.blockWarps]; simp [h.saved]
  simp only [State.saveStep, h.blockWarps, List.foldl_cons, List.foldl_nil, hp, Bool.false_eq_true, if_false, h.warp?, Option.bind_some, hd, hb,
    hstop]
  cases b.saving <;> rfl

end

/-! ## PREEMPT_REQUEST (R426) -/

section
variable {s : State} {c p q : Nat} {k : Core} {w : Warp} {b : Block} (hk : s.core? c = some k) (hkw : k.warps = [(p, w)])
  (hkb : k.blocks = [(w.block, b)]) (hsv : b.saving = none)
include hk hkw hkb

/-- The blocks that have a warp in a quadrant, of a core with one warp. -/
theorem exec_preemptRequest_one : exec (.preemptRequest c q) s =
    .next (if p / 16 = q then (s.preemptBlock c w.block false).1 else s) := by
  show execPreemptRequest c q s = _
  have hids : (k.blocks.filter (fun e => (k.warpsOfBlock e.1).any (fun w => decide (quadOf w.1 = q)))).map Prod.fst =
      if p / 16 = q then [w.block] else [] := by
    rw [hkb]
    by_cases hq : p / 16 = q <;> simp [Core.warpsOfBlock, hkw, quadOf, hq]
  simp only [execPreemptRequest, hk, Option.map_some, Option.getD_some, hids]
  split <;> rfl

include hsv

theorem becomes_preemptRequest_refused (h : (s.tenant b.tenant).freeSlot = none ∨ p / 16 ≠ q) :
    Becomes (.preemptRequest c q) s fun t => t = s := by
  refine ⟨_, exec_preemptRequest_one hk hkw hkb, ?_⟩
  split
  · rename_i hq
    have hb : s.block? c w.block = some b := by rw [State.block?, hk, Option.bind_some, hkb]; exact if_pos rfl
    rcases h with h | h
    · simp only [State.preemptBlock, hb, hsv, Option.isSome_none, Bool.false_eq_true, if_false, h]
    · exact absurd hq h
  · rfl

theorem becomes_preemptRequest (ha : Alone s c p w) {n : Nat} (hq : p / 16 = q) (hr : w.region.depth = 0) (hf : w.flash.valid = false)
    (hn : (s.tenant b.tenant).freeSlot = some n) :
    Becomes (.preemptRequest c q) s fun t => t.mem = s.mem ∧ n ∈ (t.tenant b.tenant).slotsUsed ∧
      t.block? c w.block = some { b with saving := some n, whole := false } ∧ Rewrites c p s t { w with preempt := some 0, drain := false } := by
  have hb : s.block? c w.block = some b := by rw [State.block?, hk, Option.bind_some, hkb]; exact if_pos rfl
  obtain ⟨s1, hs1⟩ : ∃ s1, s1 = (s.modTenant b.tenant (fun t => { t with slotsUsed := NSet.add n t.slotsUsed })).modBlock c w.block (fun b =>
    { b with saving := some n, whole := false }) := ⟨_, rfl⟩
  have hk1 : s1.core? c = some { k with blocks := SMap.modify w.block (fun b => { b with saving := some n, whole := false }) k.blocks } := by
    rw [hs1, State.modBlock, State.core?_modCore, if_pos rfl]
    have h : (s.modTenant b.tenant (fun t => { t with slotsUsed := NSet.add n t.slotsUsed })).core? c = some k := hk
    rw [h]; rfl
  have hw1 : s1.warp? c p = some w := by rw [State.warp?, hk1, Option.bind_some]; rw [hkw]; exact if_pos rfl
  obtain ⟨w2, hw2⟩ : ∃ w2, w2 = { w with preempt := some 0, drain := false } := ⟨_, rfl⟩
  obtain ⟨s2, hs2⟩ : ∃ s2, s2 = s1.modWarp c p (fun w => { w with preempt := some 0, drain := false || w.special.priv || w.trap.isSome }) := ⟨_, rfl⟩
  have hrw : Rewrites c p s1 s2 w2 := by
    rw [hs2, hw2]
    have h := Rewrites.modWarp hw1 (fun w => { w with preempt := some 0, drain := false || w.special.priv || w.trap.isSome })
    simpa only [ha.priv, ha.trap, Option.isSome_none, Bool.or_false] using h
  have hask : s1.askToStop c p false = s2 := by
    have hab : s1.abortNow c p abPreempt 0 = s1 := by
      simp only [State.abortNow, hw1, Region.active, hr]; rfl
    rw [hs2]
    simp only [State.askToStop, hw1, Option.map_some, ha.trap, Option.isSome_none, Option.getD_some, Bool.false_eq_true, if_false, hab]
  have hk2 : ∃ k2, s2.core? c = some k2 ∧ k2.warps = [(p, w2)] := by
    refine ⟨_, by rw [hs2, State.core?_modWarp, if_pos rfl, hk1]; rfl, ?_⟩
    rw [hw2]; simp [hkw, SMap.modify, ha.priv, ha.trap]
  have ha2 : Alone s2 c p w2 := by
    refine ⟨hk2, ?_, ?_, ?_, ?_, ?_, ?_, ?_, ?_⟩ <;> rw [hw2]
    · exact ha.latch
    · exact ha.gang
    · exact ha.trap
    · exact ha.priv
    · exact ha.park
    · exact ha.behind
    · exact ha.running
    · exact ha.saved
  have hblock : w2.block = w.block := by rw [hw2]
  have hb2 : s2.block? c w.block = some { b with saving := some n, whole := false } := by
    have h : s2.block? c w.block = s1.block? c w.block := by
      rw [State.block?, State.block?, hs2, State.core?_modWarp, if_pos rfl, hk1]; rfl
    rw [h, State.block?, hk1, Option.bind_some]
    show SMap.get? w.block (SMap.modify w.block _ k.blocks) = _
    rw [SMap.get?_modify, if_pos rfl, hkb]
    simp [SMap.get?]
  have hsave : s2.saveStep c w.block = s2 := by
    have hpoint : s2.pointWithoutRecipe c w2 = false := by
      rw [hw2]; simp [State.pointWithoutRecipe, hf]
    have hdue : s2.stopDue c p w2 = none := by
      rw [State.stopDue]
      split
      · rfl
      · rw [hw2]
        simp [hf, ha.trap, ha.park, ha.latch]
    have h := ha2.saveStep_running (b := { b with saving := some n, whole := false }) (by rw [hblock]; exact hb2) hpoint hdue
    rwa [hblock] at h
  refine ⟨s2, ?_, ?_, ?_, hb2, ?_⟩
  · rw [exec_preemptRequest_one hk hkw hkb, if_pos hq]
    simp only [State.preemptBlock, hb, hsv, Option.isSome_none, Bool.false_eq_true, if_false, hn, ha.blockWarps, List.foldl_cons, List.foldl_nil,
      ← hs1, hask, hsave]
  · rw [hs2, hs1]; rfl
  · have h : s2.tenant b.tenant = (s.modTenant b.tenant (fun t => { t with slotsUsed := NSet.add n t.slotsUsed })).tenant b.tenant := by
      rw [hs2, hs1]; rfl
    rw [h, State.tenant_modTenant, if_pos rfl]
    exact NSet.mem_add_self ..
  · rw [← hw2]
    refine hrw.before fun d r => ?_
    rw [hs1, State.modBlock]
    exact State.warp?_modCore _ _ _ _ fun _ => rfl

end

/-! ## FLASHBACK_SAVE (R59, R428) -/

theorem Warp.cancelHeld_of_sent {w : Warp} (h : ∀ a ∈ w.accesses, a.unsent = false) : w.cancelHeld [] = w :=
  foldl_filter_none (fun a ha => by rw [h a ha, Bool.false_and]) _ w

/-- The warp that stands where one has stopped to go back to its flashback point. -/
def Warp.stoppedAt (w : Warp) (entry cyc : Nat) : Warp :=
  { w with
    park := .none, behind := [], faulted := none, drain := false, preempt := none, saved := some (some entry),
    groups := w.groups.map (fun g => { g with hold := .none, prog := {} }),
    accesses := w.accesses.map (fun a => { a with refused := true }),
    lease := { w.lease with st := .parked, leftAt := cyc } }

section
variable {s : State} {c p : Nat} {w : Warp} {b : Block} (ha : Alone s c p w)
include ha

theorem exec_flashbackSave : exec (.flashbackSave c p) s = .next ((s.taken (.flashbackSave c p)).saveStep c w.block) := by
  show execFlashbackSave c p s = _
  simp only [execFlashbackSave, State.warp?_taken, ha.warp?]

theorem Alone.taken (e : Instr) : Alone (s.taken e) c p w :=
  ⟨ha.core, ha.latch, ha.gang, ha.trap, ha.priv, ha.park, ha.behind, ha.running, ha.saved⟩

theorem Alone.stopWarp (entry : Nat) (hu : ∀ a ∈ w.accesses, a.unsent = false) :
    ∃ s2, s.stopWarp c p (some entry) = s2 ∧ s2 = { s with
      cores := s2.cores, sel := s.sel.filter (fun g => !(decide (g.core = c ∧ g.slot = p))) } ∧
      Rewrites c p s s2 (w.stoppedAt entry (s.cyc c)) ∧ (∀ id, s2.block? c id = s.block? c id) ∧
      ∃ k2, s2.core? c = some k2 ∧ k2.warps = [(p, w.stoppedAt entry (s.cyc c))] := by
  obtain ⟨k, hk, hkw⟩ := ha.core
  obtain ⟨f, hf, hfw⟩ : ∃ f : Warp → Warp, s.stopWarp c p (some entry) = (s.unselect c p).modWarp c p f ∧ f w = w.stoppedAt entry (s.cyc c) := by
    refine ⟨_, by simp only [State.stopWarp, ha.leavePark, ha.withdraw]; rfl, ?_⟩
    simp only [Warp.cancelHeld_of_sent hu]
    rfl
  have hk1 : (s.unselect c p).core? c = some k := hk
  have hw1 : (s.unselect c p).warp? c p = some w := ha.warp?
  refine ⟨_, hf, rfl, ?_, fun id => ?_, { k with warps := SMap.modify p f k.warps }, ?_, ?_⟩
  · rw [← hfw]
    exact (Rewrites.modWarp hw1 f).before fun _ _ => rfl
  · rw [State.block?, State.block?, State.core?_modWarp, if_pos rfl, hk1, hk]; rfl
  · rw [State.core?_modWarp, if_pos rfl, hk1]; rfl
  · show SMap.modify p f k.warps = _
    rw [hkw, ← hfw]
    exact if_pos rfl

variable (hb : s.block? c w.block = some b)
include hb

/-- A queue instruction that is half served completes before its warp stops. -/
theorem becomes_flashbackSave_halfServed (hh : s.halfServed c p w = true) :
    Becomes (.flashbackSave c p) s fun t => t.mem = s.mem ∧ ∃ w', t.warp? c p = some w' ∧ w'.saved = none := by
  obtain ⟨s1, hs1⟩ : ∃ s1, s1 = s.taken (.flashbackSave c p) := ⟨_, rfl⟩
  have ha1 : Alone s1 c p w := by rw [hs1]; exact ha.taken _
  have hb1 : s1.block? c w.block = some b := by rw [hs1]; exact hb
  have hh1 : s1.halfServed c p w = true := by rw [hs1]; exact hh
  have hdue : ∀ (u : State) (d : Bool), u.launches = s1.launches → u.stopDue c p { w with drain := d } = none := fun u d hu => by
    have : u.halfServed c p { w with drain := d } = true := by rw [State.halfServed, hu]; exact hh1
    simp only [State.stopDue, this, Bool.or_true, if_true]
  have hm1 : s1.mem = s.mem := by rw [hs1]; rfl
  by_cases hp : s1.pointWithoutRecipe c w = true
  · obtain ⟨s2, hs2⟩ : ∃ s2, s2 = s1.modWarp c p (fun w => { w with drain := true }) := ⟨_, rfl⟩
    have hw2 : s2.warp? c p = some { w with drain := true } := by
      rw [hs2]; exact (Rewrites.modWarp ha1.warp? (fun w => { w with drain := true })).1
    obtain ⟨k, hk, hkw⟩ := ha1.core
    have hk2 : s2.core? c = some { k with warps := [(p, { w with drain := true })] } := by
      rw [hs2, State.core?_modWarp, if_pos rfl, hk, Option.map_some, hkw]
      simp [SMap.modify]
    have hws2 : s2.blockWarps c w.block = [(p, { w with drain := true })] := by
      rw [State.blockWarps, hk2]; simp [Core.warpsOfBlock]
    have hb2 : s2.block? c w.block = some b := by
      rw [State.block?, hk2]; rw [State.block?, hk] at hb1; exact hb1
    have hsave : s1.saveStep c w.block = s2 := by
      have hstop : s2.blockStopped c w.block = false := by rw [State.blockStopped, hws2]; simp [ha.saved]
      have hd := hdue s2 true (by rw [hs2]; rfl)
      simp only [State.saveStep, ha1.blockWarps, List.foldl_cons, List.foldl_nil, hp, if_true, ← hs2, hws2, hw2, Option.bind_some, hd, hb2, hstop]
      cases b.saving <;> rfl
    refine ⟨s2, by rw [exec_flashbackSave ha, ← hs1, hsave], ?_, _, hw2, ha.saved⟩
    rw [hs2]; exact hm1
  · have hd : s1.stopDue c p w = none := hdue s1 w.drain rfl
    refine ⟨s1, by rw [exec_flashbackSave ha, ← hs1, ha1.saveStep_running hb1 (by simpa using hp) hd], hm1, w, ha1.warp?, ha.saved⟩

/-- A warp of a block under pre-emption stops where its flashback point has a recipe. -/
theorem becomes_flashbackSave {n entry : Nat} (hs : b.saving = some n) (hwh : b.whole = false) (hp : w.preempt.isSome = true)
    (hv : w.flash.valid = true) (hr : s.recipeEntry c w = some entry) (hh : s.halfServed c p w = false) (hz : w.paths.allZero = false)
    (hu : ∀ a ∈ w.accesses, a.unsent = false) :
    Becomes (.flashbackSave c p) s fun t => t.mem = s.mem ∧
      (∀ g ∈ t.sel, ¬(g.core = c ∧ g.slot = p)) ∧ ∃ w', Rewrites c p s t w' ∧ w'.saved = some (some entry) ∧ w'.preempt = none ∧
        w'.lease.st = .parked ∧ w'.lanes = w.lanes ∧ w'.s = w.s ∧ w'.flash = w.flash ∧ ∀ a ∈ w'.accesses, a.refused = true := by
  obtain ⟨s1, hs1⟩ : ∃ s1, s1 = s.taken (.flashbackSave c p) := ⟨_, rfl⟩
  have ha1 : Alone s1 c p w := by rw [hs1]; exact ha.taken _
  have hb1 : s1.block? c w.block = some b := by rw [hs1]; exact hb
  have hr1 : s1.recipeEntry c w = some entry := by rw [hs1, (Off.of_taken s _).recipeEntry]; exact hr
  have hh1 : s1.halfServed c p w = false := by rw [hs1]; exact hh
  obtain ⟨s2, hstop, heq, hrw, hblock, k2, hk2, hkw2⟩ := ha1.stopWarp entry hu
  have hpoint : s1.pointWithoutRecipe c w = false := by simp [State.pointWithoutRecipe, hr1]
  have hdue : s1.stopDue c p w = some (some entry) := by
    have hpn : w.preempt.isNone = false := by rw [← Option.not_isSome, hp]; rfl
    simp only [State.stopDue, ha.saved, hpn, ha.running, hh1, hb1, hv, ha.priv, ha.trap, hr1, Option.map_some, Option.getD_some, hwh]
    rfl
  have hrun : s2.blockStopped c w.block = false := by
    have hws : s2.blockWarps c w.block = [(p, w.stoppedAt entry (s1.cyc c))] := by
      rw [State.blockWarps, hk2]; simp [Core.warpsOfBlock, hkw2, Warp.stoppedAt]
    have hz' : (w.stoppedAt entry (s1.cyc c)).paths.allZero = false := hz
    rw [State.blockStopped, hws]; simp [State.quiet, hz']
  have hsave : s1.saveStep c w.block = s2 := by
    simp only [State.saveStep, ha1.blockWarps, List.foldl_cons, List.foldl_nil, hpoint, Bool.false_eq_true, if_false, ha1.warp?,
      Option.bind_some, hdue, hstop, hblock, hb1, hs, hrun]
    rfl
  refine ⟨s2, by rw [exec_flashbackSave ha, ← hs1, hsave], ?_, fun g hg => ?_, w.stoppedAt entry (s1.cyc c), ?_, rfl, rfl, rfl, rfl, rfl, rfl,
    fun a h => ?_⟩
  · rw [heq, hs1]; rfl
  · rw [heq] at hg
    simpa [imp_iff_not_or] using (List.mem_filter.1 hg).2
  · exact hrw.before fun d r => by rw [hs1]; rfl
  · obtain ⟨a', -, rfl⟩ := List.mem_map.1 h
    rfl

end

end Sys2Proof.Machine

/-! # Pre-emption: a saved block returns (R429) -/

namespace Sys2Proof.Machine

/-! ## What does not depend on the agenda -/

section
variable {s t : State} (h : Off True s t)
include h

theorem Off.seenBytes (c tenant pa n : Nat) : t.seenBytes c tenant pa n = s.seenBytes c tenant pa n := by rw [h.eq]; rfl

theorem Off.getVirtual (c tenant va k n : Nat) : t.getVirtual c tenant va k n = s.getVirtual c tenant va k n := by
  induction n generalizing va k with
  | zero => rfl
  | succ n ih => simp only [State.getVirtual, h.translate (h.tlb c), h.poisoned, h.seenBytes, ih]

theorem Off.areaStops (c tenant va n : Nat) (p : Perm) : t.areaStops c tenant va n p = s.areaStops c tenant va n p := by
  simp only [State.areaStops, h.translate (h.tlb c), h.caldera, h.lineStops]

theorem Off.saveFits (v : SavedBlock) (c : Nat) : t.saveFits v c = s.saveFits v c := by rw [h.eq]; rfl

end

/-! ## What a warp keeps in its context slot -/

/-- A warp that goes on waits for an admission, under no pre-emption. -/
theorem Warp.goesOn_spec (w : Warp) (cyc : Nat) :
    (w.goesOn cyc).saved = none ∧ (w.goesOn cyc).lease.st = .waiting ∧ (w.goesOn cyc).tenant = w.tenant := by
  simp only [Warp.goesOn]
  split <;> exact ⟨rfl, rfl, rfl⟩

theorem Warp.resumed_spec (w : Warp) (m : Image) (age cyc : Nat) :
    (w.resumed m age cyc).saved = none ∧ (w.resumed m age cyc).lease.st = .waiting ∧ (w.resumed m age cyc).tenant = w.tenant := by
  obtain ⟨h1, h2, h3⟩ := Warp.goesOn_spec { w.load m cyc with
    age := age, collapses := 0, lease := { (w.load m cyc).lease with prio := bitsOf (m.word 0x6208).toNat 27 26, passed := 0 } } cyc
  exact ⟨h1, h2, h3⟩

/-- The window of a block, from bytes. -/
def windowOf (l : List Byte) : SMap Byte := l.zipIdx.foldl (fun m e => SMap.set 0 e.2 e.1 m) []

theorem get_foldl_zipIdx (l : List Byte) (n : Nat) (m : SMap Byte) {i : Nat} (hi : n ≤ i) (hlt : i < n + l.length) :
    SMap.get 0 i ((l.zipIdx n).foldl (fun m e => SMap.set 0 e.2 e.1 m) m) = l.getD (i - n) 0 := by
  have hbefore : ∀ (l : List Byte) (n : Nat) (m : SMap Byte), i < n →
      SMap.get 0 i ((l.zipIdx n).foldl (fun m e => SMap.set 0 e.2 e.1 m) m) = SMap.get 0 i m := by
    intro l
    induction l with
    | nil => intro n m _; rfl
    | cons b r ih =>
      intro n m h
      rw [List.zipIdx_cons, List.foldl_cons, ih _ _ (by omega), SMap.get_set, if_neg (by omega)]
  induction l generalizing n m with
  | nil => simp at hlt; omega
  | cons b r ih =>
    rw [List.zipIdx_cons, List.foldl_cons]
    by_cases h : i = n
    · rw [hbefore _ _ _ (by omega), SMap.get_set, if_pos h, h, Nat.sub_self]; rfl
    · rw [ih (n + 1) _ (by omega) (by rw [List.length_cons] at hlt; omega), show i - n = i - (n + 1) + 1 by omega]; rfl

theorem get_windowOf {l : List Byte} {i : Nat} (hi : i < l.length) : SMap.get 0 i (windowOf l) = l.getD i 0 :=
  get_foldl_zipIdx l 0 [] (Nat.zero_le i) (by omega)

/-! ## BLOCK_RESUME (R429) -/

/-- A saved block of one warp is placed: its window and its warp are restored, and its context slot is freed. -/
theorem becomes_blockResume {s : State} {c p tenant n : Nat} {k : Core} {v : SavedBlock} {w : Warp} {image win bits : List Byte}
    (hk : s.core? c = some k) (hv : s.launches.saved.find? (fun v => decide (v.tenant = tenant ∧ v.slot = n)) = some v)
    (hvw : v.warps = [(p, w)]) (hfit : s.saveFits v c = true) (hpipe : s.launches.pipelines = [])
    (hstop : s.areaStops c tenant ((s.tenant tenant).slotAt n) (2 ^ 22) .read = none)
    (himage : s.getVirtual c tenant ((s.tenant tenant).slotAt n + 0x8000 * w.index) 0x8000 64 = some image)
    (hwin : s.getVirtual c tenant ((s.tenant tenant).slotAt n + 0x200000) v.block.length 64 = some win)
    (hbits : s.getVirtual c tenant ((s.tenant tenant).slotAt n + 0x280000) ((v.block.length + 31) / 32) 64 = some bits) :
    Becomes (.blockResume tenant n c) s fun t => t.mem = s.mem ∧ n ∉ (t.tenant tenant).slotsUsed ∧
      (∀ x ∈ t.launches.saved, ¬(x.tenant = tenant ∧ x.slot = n)) ∧
      (∃ b, t.block? c k.nextBlock = some b ∧ (∀ i, i < win.length → SMap.get 0 i b.window = win.getD i 0) ∧
        ∀ i, i ∈ b.empty ↔ i < (v.block.length + 3) / 4 ∧ (numOf bits).testBit i = false) ∧
      ∃ w' age, t.warp? c p = some w' ∧ w' = { w.resumed (wordsOfBytes image) age k.cyc with block := k.nextBlock } ∧ w'.saved = none ∧
        w'.lease.st = .waiting ∧ w'.tenant = w.tenant := by
  obtain ⟨s1, hs1⟩ : ∃ s1, s1 = s.taken (.blockResume tenant n c) := ⟨_, rfl⟩
  have h1 : Off True s s1 := by rw [hs1]; exact .of_taken ..
  have hk1 : s1.core? c = some k := by rw [hs1]; exact hk
  have ht1 : s1.tenant tenant = s.tenant tenant := h1.tenant _
  have hl1 : s1.launches = s.launches := by rw [hs1]; rfl
  obtain ⟨b, hb⟩ : ∃ b : Block, b = { v.block with
    banks := (k.freeBanks tenant).take v.block.banks.length, window := windowOf win,
    empty := (List.range ((v.block.length + 3) / 4)).filter (fun i => !(numOf bits).testBit i) } := ⟨_, rfl⟩
  obtain ⟨s2, hs2⟩ : ∃ s2, s2 = (s1.acquire c tenant domDevice).modCore c (fun j =>
    { j with nextBlock := k.nextBlock + 1, blocks := SMap.put k.nextBlock b j.blocks, spads := zeroBanks ((k.freeBanks tenant).take v.block.banks.length) j.spads }) := ⟨_, rfl⟩
  obtain ⟨l1, hacq⟩ := State.core?_acquire hk1 tenant domDevice
  have hk2 : s2.core? c = some { k with
      l1 := l1, nextBlock := k.nextBlock + 1, blocks := SMap.put k.nextBlock b k.blocks,
      spads := zeroBanks ((k.freeBanks tenant).take v.block.banks.length) k.spads } := by
    rw [hs2, State.core?_modCore, if_pos rfl, hacq]; rfl
  have hout2 : s2.outside = s1.outside := by rw [hs2, outside_modCore, outside_acquire]
  obtain ⟨s3, hs3⟩ : ∃ s3, s3 = s2.enterSlot c p (fun age cyc => { w.resumed (wordsOfBytes image) age cyc with block := k.nextBlock }) := ⟨_, rfl⟩
  have hout3 : s3.outside = s1.outside := by rw [hs3, State.enterSlot, ← hout2]; rfl
  obtain ⟨s5, hs5⟩ : ∃ s5, s5 = ((({ s3 with
    launches := { s3.launches with
      saved := s3.launches.saved.filter (fun w => !(decide (w.tenant = tenant ∧ w.slot = n))),
      pipelines := s3.launches.pipelines.map (fun e =>
        if e.2.launch = v.launch then (e.1, { e.2 with core := c, block := k.nextBlock }) else e) } } : State).modTenant tenant (fun t =>
          { t with slotsUsed := NSet.drop n t.slotsUsed })).modLaunch v.launch (fun l => { l with cores := NSet.add c l.cores })) := ⟨_, rfl⟩
  have hpf : s5.passFree v.launch = s5 := by
    have : s5.launches.pipelines = [] := by
      rw [hs5]
      show s3.launches.pipelines.map _ = []
      rw [launches_of_outside hout3, hl1, hpipe]; rfl
    rw [State.passFree, this]; rfl
  have hex : exec (.blockResume tenant n c) s = .next s5.dispatch := by
    show execBlockResume tenant n c s = _
    simp only [execBlockResume, ← hs1, hl1, hv, hk1, ht1, h1.getVirtual, hwin, hbits, hvw, List.map_cons, List.map_nil, himage, Option.map_some,
      h1.saveFits, hfit, List.any_cons, List.any_nil, Option.isNone_some, h1.areaStops, hstop]
    rw [show (List.foldl (fun m (e : Byte × Nat) => SMap.set 0 e.2 e.1 m) [] win.zipIdx) = windowOf win from rfl, ← hb, ← hs2]
    simp only [List.zip_cons_cons, List.zip_nil_right, List.foldl_cons, List.foldl_nil, Option.getD_some, ← hs3, ← hs5, hpf]
    rfl
  have hd := Dealt.dispatch s5
  have hsaved : s5.launches.saved = s.launches.saved.filter (fun w => !(decide (w.tenant = tenant ∧ w.slot = n))) := by
    rw [hs5]
    show s3.launches.saved.filter _ = _
    rw [launches_of_outside hout3, hl1]
  have hcore5 : ∀ d, s5.core? d = s3.core? d := fun d => by rw [hs5]; rfl
  have hwarp : s5.warp? c p = some { w.resumed (wordsOfBytes image) ((k.quad (quadOf p)).starts) k.cyc with block := k.nextBlock } := by
    rw [State.warp?, hcore5, hs3, ← State.warp?, State.warp?_enterSlot hk2, if_pos ⟨rfl, rfl⟩]; rfl
  obtain ⟨hr1, hr2, hr3⟩ := Warp.resumed_spec w (wordsOfBytes image) ((k.quad (quadOf p)).starts) k.cyc
  refine ⟨_, hex, hd.mem.trans ?_, ?_, fun x hx => ?_, ⟨b, ?_, fun i hi => ?_, fun i => ?_⟩, _, _, (hd.warp? c p).trans hwarp, rfl, hr1, hr2, hr3⟩
  · rw [hs5]
    show s3.mem = _
    rw [mem_of_outside hout3, hs1]; rfl
  · have h : s5.tenant tenant = (s3.modTenant tenant (fun t => { t with slotsUsed := NSet.drop n t.slotsUsed })).tenant tenant := by rw [hs5]; rfl
    rw [hd.tenant, h, State.tenant_modTenant, if_pos rfl]
    simp [NSet.drop]
  · obtain ⟨y, hy, hyt, hys⟩ := hd.saved x hx
    rw [hsaved, List.mem_filter] at hy
    rw [← hyt, ← hys]
    simpa [imp_iff_not_or] using hy.2
  · rw [hd.block?, State.block?, hcore5, hs3, State.core?_enterSlot hk2]
    exact SMap.get?_put_same ..
  · rw [hb]; exact get_windowOf hi
  · rw [hb]; simp

end Sys2Proof.Machine

/-! # Bytes and numbers, and what a response of the Nyrus Link brings (R282, R362) -/

namespace Sys2Proof

/-! ## The bytes of a number, and of a line -/

theorem numOf_byte (l : List Byte) (i : Nat) : numOf l / 256 ^ i % 256 = (l.getD i 0).toNat := by
  induction l generalizing i with
  | nil => simp [numOf]
  | cons b t ih =>
    have hb := b.isLt
    cases i with
    | zero =>
      simp only [numOf, List.getD_cons_zero]
      omega
    | succ i =>
      rw [List.getD_cons_succ, ← ih i, numOf, Nat.pow_succ, Nat.mul_comm (256 ^ i), ← Nat.div_div_eq_div_mul,
        show (b.toNat + 256 * numOf t) / 256 = numOf t by omega]

theorem numOf_lt (l : List Byte) : numOf l < 256 ^ l.length := by
  induction l with
  | nil => decide
  | cons b t ih =>
    have hb := b.isLt
    rw [numOf, List.length_cons, Nat.pow_succ]
    omega

/-- A byte of a vector that is given by its bytes. -/
theorem extract_numOf {n : Nat} {l : List Byte} (hl : l.length = n) (i : Nat) :
    (BitVec.ofNat (8 * n) (numOf l)).extractLsb' (8 * i) 8 = l.getD i 0 := by
  refine BitVec.eq_of_toNat_eq ?_
  have hlt : numOf l < 2 ^ (8 * n) := by
    rw [Nat.pow_mul, ← hl]; exact numOf_lt l
  rw [BitVec.extractLsb'_toNat, BitVec.toNat_ofNat, Nat.mod_eq_of_lt hlt, ← numOf_byte, Nat.shiftRight_eq_div_pow, Nat.pow_mul]

namespace Machine

theorem Memory.length_readBytes (m : Memory) (a n : Nat) : (Memory.readBytes m a n).length = n := by
  induction n generalizing a with
  | zero => rfl
  | succ n ih => rw [Memory.readBytes, List.length_cons, ih]

theorem Memory.getElem?_readBytes (m : Memory) (a : Nat) {i n : Nat} (h : i < n) : (Memory.readBytes m a n)[i]? = some (m.read (a + i)) := by
  induction n generalizing a i with
  | zero => omega
  | succ n ih =>
    rw [Memory.readBytes]
    cases i with
    | zero => rfl
    | succ i => rw [List.getElem?_cons_succ, ih _ (by omega), show a + 1 + i = a + (i + 1) by omega]

theorem get?_foldl_put {α : Type} (f : Nat → α) (l : List Nat) (m : SMap α) (b : Nat) :
    SMap.get? b (l.foldl (fun m b => SMap.put b (f b) m) m) = if b ∈ l then some (f b) else SMap.get? b m := by
  induction l generalizing m with
  | nil => rfl
  | cons a t ih =>
    rw [List.foldl_cons, ih, SMap.get?_put]
    simp only [List.mem_cons]
    by_cases hb : b = a
    · subst hb; by_cases h : b ∈ t <;> simp [h]
    · simp [hb]

/-! ## What an access takes from a line -/

section
variable {a : Access} {r : NyrusRequest}

/-- A part of an access covers a byte. -/
def Access.asks (a : Access) (b : Nat) : Prop := ∃ p ∈ a.parts, p.2.1 ≤ b ∧ b < p.2.1 + p.2.2

theorem Access.get?_take (a : Access) (line k : Nat) (d : LineData) {i : Nat} (ha : a.asks (128 * line + i)) :
    SMap.get? (128 * line + i) (a.take line k d).bytes =
      if i / 32 = k ∧ SMap.get? (128 * line + i) a.bytes = none then some (d.extractLsb' (8 * i) 8)
      else SMap.get? (128 * line + i) a.bytes := by
  have hpart : a.parts.any (fun p => decide (p.2.1 ≤ 128 * line + i ∧ 128 * line + i < p.2.1 + p.2.2)) = true := by
    obtain ⟨p, hp, h⟩ := ha
    exact List.any_eq_true.2 ⟨p, hp, by simpa using h⟩
  have hrange : 128 * line + i ∈ (List.range 32).map (fun i => 128 * line + 32 * k + i) ↔ i / 32 = k := by
    rw [List.mem_map]
    constructor
    · rintro ⟨j, hj, h⟩
      rw [List.mem_range] at hj; omega
    · intro h
      exact ⟨i % 32, List.mem_range.2 (by omega), by omega⟩
  simp only [Access.take]
  rw [get?_foldl_put (fun b => d.extractLsb' (8 * (b - 128 * line)) 8)]
  simp only [List.mem_filter, hrange, hpart, Bool.true_and, Option.isNone_iff_eq_none, Nat.add_sub_cancel_left]

/-- The accesses that a list of a line's sectors leads to. -/
def Access.takeAll (a : Access) (line : Nat) (d : LineData) (ks : List Nat) : Access := ks.foldl (fun a k => a.take line k d) a

theorem Access.takeAll_eq (a : Access) (line : Nat) (d : LineData) (ks : List Nat) :
    a.takeAll line d ks = { a with bytes := (a.takeAll line d ks).bytes } := by
  induction ks generalizing a with
  | nil => rfl
  | cons k t ih =>
    have h := ih (a.take line k d)
    rw [Access.takeAll, List.foldl_cons, ← Access.takeAll, h]; rfl

theorem Access.get?_takeAll (a : Access) (line : Nat) (d : LineData) (ks : List Nat) {i : Nat} (ha : a.asks (128 * line + i)) :
    SMap.get? (128 * line + i) (a.takeAll line d ks).bytes =
      if i / 32 ∈ ks ∧ SMap.get? (128 * line + i) a.bytes = none then some (d.extractLsb' (8 * i) 8)
      else SMap.get? (128 * line + i) a.bytes := by
  induction ks generalizing a with
  | nil => simp [Access.takeAll]
  | cons k t ih =>
    rw [Access.takeAll, List.foldl_cons, ← Access.takeAll, ih (a.take line k d) ha, Access.get?_take a line k d ha]
    simp only [List.mem_cons]
    by_cases hn : SMap.get? (128 * line + i) a.bytes = none
    · by_cases hk : i / 32 = k
      · simp [hk, hn]
      · simp [hk, hn]
    · simp [hn]

theorem NyrusRequest.give_read (h : r.op = 0) (data : List Byte) (a : Access) :
    r.give data a = a.takeAll r.line (BitVec.ofNat 1024 (numOf data)) (List.range 4) := by
  simp only [NyrusRequest.give, h, if_true]; rfl

/-- What a response gives an access is bytes, or values of its lanes. -/
theorem NyrusRequest.give_eq (r : NyrusRequest) (data : List Byte) (a : Access) :
    r.give data a = { a with bytes := (r.give data a).bytes, values := (r.give data a).values } := by
  by_cases h : r.op = 0
  · rw [NyrusRequest.give_read h, Access.takeAll_eq]
  · simp only [NyrusRequest.give, h, if_false]
    split <;> rfl

/-- The bytes of a read's response: those that the access asks for and has not got. -/
theorem NyrusRequest.get?_give (h : r.op = 0) {data : List Byte} (hd : data.length = 128) {i : Nat} (hi : i < 128)
    (ha : a.asks (128 * r.line + i)) (hn : SMap.get? (128 * r.line + i) a.bytes = none) :
    SMap.get? (128 * r.line + i) (r.give data a).bytes = data[i]? := by
  rw [NyrusRequest.give_read h, Access.get?_takeAll a r.line _ _ ha, if_pos ⟨List.mem_range.2 (by omega), hn⟩, extract_numOf hd,
    List.getD_eq_getElem?_getD, List.getElem?_eq_getElem (by omega)]
  rfl

end

end Machine

end Sys2Proof

/-! # The Nyrus Link: requests leave, and are answered or time out (R362, R364, R452) -/

namespace Sys2Proof.Machine

/-! ## A response arrives -/

theorem Warp.access?_modAccess {w : Warp} {id : Nat} {a a' : Access} (h : w.access? id = some a) (hid : a'.id = a.id) :
    (w.modAccess id (fun _ => a')).access? id = some a' := by
  have hai : a.id = id := by simpa using List.find?_some h
  have hpred : (fun b : Access => decide (b.id = id)) ∘ (fun b => if b.id = id then a' else b) = fun b => decide (b.id = id) := by
    funext b
    simp only [Function.comp]
    by_cases hb : b.id = id
    · simp [hb, hid, hai]
    · simp [hb]
  have hfind : w.accesses.find? (fun b => decide (b.id = id)) = some a := h
  rw [Warp.access?, Warp.modAccess, List.find?_map, hpred, hfind, Option.map_some, if_pos hai]

theorem State.warp?_dropNyrus (s : State) (c id d q : Nat) : (s.dropNyrus c id).warp? d q = s.warp? d q := by
  rw [State.dropNyrus]; exact State.warp?_modCore _ _ _ _ fun _ => rfl

/-- A request of a warp's access that waits for nothing else. -/
structure Asked (s : State) (c : Nat) (r : NyrusRequest) (k : Core) (w : Warp) (a : Access) : Prop where
  core : s.core? c = some k
  warp : s.warp? c r.slot = some w
  access : w.access? r.access = some a
  needs : a.needs = [needNyrus r.id]
  warps : r.engine = false

/-- What stands where a response has come: the request is done with, and its access returns. -/
structure Answered (s t : State) (c : Nat) (r : NyrusRequest) (k : Core) (w : Warp) (a : Access) (data : List Byte) : Prop where
  state : t = { s with cores := t.cores, pending := t.pending }
  due : .accessReturn c r.slot r.access ∈ t.pending
  core : ∃ k', t.core? c = some k' ∧ k'.nyrus = k.nyrus.filter (fun x => decide (x.id ≠ r.id))
  warp : t.warp? c r.slot = some (w.modAccess r.access (fun _ => r.give data { a with needs := [] }))

section
variable {s : State} {c : Nat} {r : NyrusRequest} {k : Core} {w : Warp} {a : Access} (h : Asked s c r k w a)
include h

theorem Asked.answered (data : List Byte) : Answered s (s.nyrusAnswer c r data) c r k w a data := by
  obtain ⟨s1, hs1⟩ : ∃ s1, s1 = s.dropNyrus c r.id := ⟨_, rfl⟩
  have hk1 : s1.core? c = some { k with nyrus := k.nyrus.filter (fun x => decide (x.id ≠ r.id)) } := by
    rw [hs1, State.dropNyrus, State.core?_modCore, if_pos rfl, h.core]; rfl
  have hw1 : s1.warp? c r.slot = some w := by
    rw [hs1, State.warp?_dropNyrus]; exact h.warp
  obtain ⟨a1, ha1⟩ : ∃ a1, a1 = r.give data { a with needs := [] } := ⟨_, rfl⟩
  have hneeds : a1.needs = [] := by rw [ha1, NyrusRequest.give_eq]
  have hdrop : NSet.drop (needNyrus r.id) a.needs = [] := by rw [h.needs]; simp [NSet.drop]
  have hout : a.outstanding = true := by rw [Access.outstanding, h.needs]; rfl
  have heq : s.nyrusAnswer c r data = (s1.modWarp c r.slot (fun w => w.modAccess r.access (fun _ => a1))).pushOnce
      (.accessReturn c r.slot r.access) := by
    simp only [State.nyrusAnswer, h.warps, ← hs1, State.answer, hw1, Option.bind_some, h.access, hdrop, ← ha1, hneeds, hout]
    rfl
  have hrw := Rewrites.modWarp hw1 (fun w => w.modAccess r.access (fun _ => a1))
  rw [heq]
  refine ⟨?_, State.mem_pushOnce .., ⟨{ k with
    nyrus := k.nyrus.filter (fun x => decide (x.id ≠ r.id)), warps := SMap.modify r.slot (fun w => w.modAccess r.access (fun _ => a1)) k.warps },
    ?_, rfl⟩, ?_⟩
  · rw [State.pushOnce_eq, hs1]; rfl
  · rw [State.core?_pushOnce, State.core?_modWarp, if_pos rfl, hk1]; rfl
  · rw [State.warp?_pushOnce, hrw.1, ha1]

/-- A request fails: its lanes take Peer Timeout, and the access returns. -/
theorem Asked.nyrusFails :
    (∃ w', (s.nyrusFails c r).warp? c r.slot = some w' ∧ w'.deferred = w.deferred ++
        [{ path := .peer, source := 3, cause := 0x0D, addr := r.va, lid := a.firstLid, access := r.access,
           bits := if r.op = 0 then 1 else if r.op = 1 then 2 else 8 }]) ∧
      (∃ k', (s.nyrusFails c r).core? c = some k' ∧ k'.nyrus = k.nyrus.filter (fun x => decide (x.id ≠ r.id))) ∧
      .accessReturn c r.slot r.access ∈ (s.nyrusFails c r).pending := by
  obtain ⟨d, hd⟩ : ∃ d : Deferred, d =
    { path := .peer, source := 3, cause := 0x0D, addr := r.va, lid := a.firstLid, access := r.access,
      bits := if r.op = 0 then 1 else if r.op = 1 then 2 else 8 } := ⟨_, rfl⟩
  have hw1 := (Rewrites.modWarp h.warp (fun w => { w with deferred := w.deferred ++ [d] })).1
  have hk1 : (s.modWarp c r.slot (fun w => { w with deferred := w.deferred ++ [d] })).core? c =
      some { k with warps := SMap.modify r.slot (fun w => { w with deferred := w.deferred ++ [d] }) k.warps } := by
    rw [State.core?_modWarp, if_pos rfl, h.core]; rfl
  obtain ⟨-, hdue, ⟨k', hk', hn⟩, hw'⟩ := (Asked.mk hk1 hw1 h.access h.needs h.warps).answered (s.freeBytes 256)
  have hd' : d =
      { path := .peer, source := 3, cause := causePeerTimeout, addr := r.va, lid := a.firstLid, access := r.access,
        bits := 0 + (if r.op = 0 then accRead else if r.op = 1 then accWrite else accAtomic) } := by
    rw [hd, Nat.zero_add]; rfl
  have heq : s.nyrusFails c r = { (s.modWarp c r.slot (fun w => { w with deferred := w.deferred ++ [d] })).nyrusAnswer c r (s.freeBytes 256) with
      tick := s.tick + 1 } := by
    simp only [State.nyrusFails, h.warp, Option.bind_some, h.access, h.warps, hd', Option.map_some, Option.getD_some, Bool.false_eq_true, if_false]
  rw [heq, ← hd]
  exact ⟨⟨_, hw', rfl⟩, ⟨k', hk', hn⟩, hdue⟩

/-- A read's response: its bytes are in the access that asked for them. -/
theorem Asked.bytes {t : State} {data : List Byte} (ht : Answered s t c r k w a data) (hop : r.op = 0) (hd : data.length = 128) :
    ∃ w' a', t.warp? c r.slot = some w' ∧ w'.access? r.access = some a' ∧ ∀ i, i < 128 → SMap.get? (128 * r.line + i) a.bytes = none →
      (∃ p ∈ a.parts, p.2.1 ≤ 128 * r.line + i ∧ 128 * r.line + i < p.2.1 + p.2.2) → SMap.get? (128 * r.line + i) a'.bytes = data[i]? := by
  refine ⟨_, _, ht.warp, Warp.access?_modAccess h.access (by rw [NyrusRequest.give_eq]), fun i hi hn hp => ?_⟩
  exact NyrusRequest.get?_give (a := { a with needs := [] }) hop hd hi hp hn

theorem Asked.taken (e : Instr) : Asked (s.taken e) c r k w a := ⟨h.core, h.warp, h.access, h.needs, h.warps⟩

end

/-! ## NYRUS_REQUEST_LEAVE (R362, R452, R453) -/

theorem State.egress_taken (s : State) (e : Instr) (n g : Nat) : (s.taken e).egress n g = s.egress n g := by
  induction n generalizing g with
  | zero => rfl
  | succ n ih =>
    simp only [State.egress, ih]
    rfl

theorem State.leaving_taken (s : State) (e : Instr) (k : Core) : (s.taken e).leaving k = s.leaving k := by
  simp only [State.leaving, State.egress_taken]
  rfl

/-- A use of a line's anchor changes Caldera and what comes due alone. -/
theorem State.touchBanks_eq (s : State) (line hint : Nat) (near : Bool) (d : DirLine) : s.touchBanks line hint near d =
    { s with caldera := (s.touchBanks line hint near d).caldera, pending := (s.touchBanks line hint near d).pending } := by
  have hfold : ∀ (l : List (Nat × DirLine)) (s : State), ∃ p, l.foldl (fun s e => s.pushOnce (.anchorUnpin e.1)) s = { s with pending := p } := by
    intro l
    induction l with
    | nil => exact fun s => ⟨_, rfl⟩
    | cons e t ih =>
      intro s
      obtain ⟨p, hp⟩ := ih (s.pushOnce (.anchorUnpin e.1))
      exact ⟨p, by rw [List.foldl_cons, hp, State.pushOnce_eq]⟩
  have hcount : ∀ (s : State) (g : Nat), ∃ m p, s.countBank g = { s with caldera := m, pending := p } := fun s g => by
    obtain ⟨p, hp⟩ := hfold _ (s.modBank g (fun b => { b with count := ((s.bank g).count + 1) % 2 ^ 13 }))
    exact ⟨_, p, by simp only [State.countBank]; rw [hp]; rfl⟩
  have hpromote : ∀ (s : State) (g : Nat), ∃ m, s.promote g line = { s with caldera := m } := fun s g => by
    simp only [State.promote]; split <;> exact ⟨_, rfl⟩
  have htag : ∀ s : State, ∃ m, s.promoteTag line = { s with caldera := m } := fun s => by
    simp only [State.promoteTag]; split <;> exact ⟨_, rfl⟩
  obtain ⟨m, p, h⟩ : ∃ m p, s.touchBanks line hint near d = { s with caldera := m, pending := p } := by
    obtain ⟨m1, p1, h1⟩ := hcount s d.hold
    obtain ⟨m2, p2, h2⟩ := hcount s (s.anchor line)
    obtain ⟨m3, p3, h3⟩ := hcount (s.countBank (s.anchor line)) d.hold
    have hs1 : ∃ m p, (if decide (d.hold = s.anchor line) || near then s.countBank d.hold else (s.countBank (s.anchor line)).countBank d.hold) =
        { s with caldera := m, pending := p } := by
      split
      · exact ⟨m1, p1, h1⟩
      · exact ⟨m3, p3, by rw [h3, h2]⟩
    obtain ⟨m4, p4, h4⟩ := hs1
    simp only [State.touchBanks, h4]
    split
    · exact ⟨m4, p4, rfl⟩
    · obtain ⟨m5, h5⟩ := hpromote { s with caldera := m4, pending := p4 } d.hold
      obtain ⟨m6, h6⟩ := htag (({ s with caldera := m4, pending := p4 } : State).promote d.hold line)
      exact ⟨m6, p4, by rw [h6, h5]⟩
  rw [h]

/-- A read at the anchor of a line that is there brings its bytes, and changes Caldera and what comes due alone. -/
theorem State.serveOwn_read {s : State} {line : Nat} (hd : (s.dir? line).isSome = true) (hs : s.lineStops line false = false)
    (aop aty : Nat) (bytes : SMap Byte) (lanes : List (Nat × Nat × Nat × Nat)) :
    ∃ m p, s.serveOwn line 0 aop aty bytes lanes = ({ s with caldera := m, pending := p }, some (Memory.readBytes s.mem (128 * line) 128)) := by
  obtain ⟨d, hd'⟩ := Option.isSome_iff_exists.1 hd
  have hb : s.bring 16 line 0 = (s, true) := by simp only [State.bring, hd, if_true]
  have ht : s.touchFor none line = s.touchBanks line 0 false d := by simp only [State.touchFor, hd']
  have hs' : s.lineStops line (decide ((0 : Nat) ≠ 0)) (ownHalves 0 bytes lanes) = false := hs
  refine ⟨(s.touchBanks line 0 false d).caldera, (s.touchBanks line 0 false d).pending, ?_⟩
  rw [← State.touchBanks_eq]
  have hm : (s.touchBanks line 0 false d).mem = s.mem := by rw [State.touchBanks_eq]
  simp only [State.serveOwn, hs', hb, ht, hm]
  rfl

section
variable {s : State} {c : Nat} {r : NyrusRequest} {k : Core} {w : Warp} {a : Access} (h : Asked s c r k w a)

section
variable {lanes : Nat} (hl : s.leaving k = some (r, lanes)) (hb : (k.nyrus.filter (fun r => r.sent.isSome)).length < 8)
include h hl hb

/-- A request for another module leaves on its lane group. -/
theorem becomes_nyrusRequestLeave_sent (hm : peerModule (128 * r.line) < 9216) (ha : peerAddress (128 * r.line) < 0x2E400000000)
    (hr : peerModule (128 * r.line) ∉ s.modul.noRoute) (ho : s.ownPeer (128 * r.line) = none) :
    Becomes (.nyrusRequestLeave c r.id) s fun t => t = { s with cores := t.cores, pending := t.pending } ∧ (∀ d, d ≠ c → t.core? d = s.core? d) ∧
      t.core? c = some { k with nyrus := k.nyrus.map (fun x => if x.id = r.id then { x with sent := some k.cyc, group := lanes } else x) } := by
  have hway : s.noWay (128 * r.line) = false := by
    have hr' : s.modul.noRoute.contains (peerModule (128 * r.line)) = false := by simpa using hr
    have hend : peerAddress (128 * r.line) < hbmEnd := ha
    simp only [State.noWay, hr', Bool.false_and, Bool.or_false, decide_eq_false_iff_not]
    omega
  refine ⟨(s.taken (.nyrusRequestLeave c r.id)).modCore c (fun j =>
    { j with nyrus := j.nyrus.map (fun x => if x.id = r.id then { x with sent := some j.cyc, group := lanes } else x) }), ?_, rfl,
    fun d hd => (State.core?_modCore ..).trans (if_neg hd), ?_⟩
  · show execNyrusRequestLeave c r.id s = _
    have hway1 : (s.taken (.nyrusRequestLeave c r.id)).noWay (128 * r.line) = false := hway
    have ho1 : (s.taken (.nyrusRequestLeave c r.id)).ownPeer (128 * r.line) = none := ho
    have hid : ¬(r.id ≠ r.id ∨ 8 ≤ (k.nyrus.filter (fun r => r.sent.isSome)).length) := by omega
    simp only [execNyrusRequestLeave, State.core?_taken, h.core, State.leaving_taken, hl, if_neg hid, hway1, ho1]
    rfl
  · rw [State.core?_modCore, if_pos rfl, State.core?_taken, h.core]; rfl

/-- One that names no module, no route, or no HBM is answered with an error. -/
theorem becomes_nyrusRequestLeave_fails (hn : 9216 ≤ peerModule (128 * r.line) ∨ 0x2E400000000 ≤ peerAddress (128 * r.line) ∨
      (peerModule (128 * r.line) ∈ s.modul.noRoute ∧ peerModule (128 * r.line) ≠ s.modul.modid.toNat)) :
    exec (.nyrusRequestLeave c r.id) s = .next ((s.taken (.nyrusRequestLeave c r.id)).nyrusFails c r) := by
  have hway : (s.taken (.nyrusRequestLeave c r.id)).noWay (128 * r.line) = true := by
    have hend : hbmEnd = 0x2E400000000 := rfl
    simp only [State.noWay, Bool.or_eq_true, decide_eq_true_eq, hend, Bool.and_eq_true]
    rcases hn with hn | hn | ⟨hc, hne⟩
    · exact .inl (.inl hn)
    · exact .inl (.inr hn)
    · refine .inr ⟨by simpa using hc, ?_⟩
      have : (s.taken (.nyrusRequestLeave c r.id)).ownPeer (128 * r.line) = none := if_neg fun hh => hne hh.1
      rw [this]; rfl
  show execNyrusRequestLeave c r.id s = _
  have hid : ¬(r.id ≠ r.id ∨ 8 ≤ (k.nyrus.filter (fun r => r.sent.isSome)).length) := by omega
  simp only [execNyrusRequestLeave, State.core?_taken, h.core, State.leaving_taken, hl, if_neg hid, hway, if_true]

/-- A read of the module itself is served at its anchor, with no lane of the link. -/
theorem becomes_nyrusRequestLeave_own {own : Nat} (hm : peerModule (128 * r.line) < 9216) (ha : peerAddress (128 * r.line) < 0x2E400000000)
    (ho : s.ownPeer (128 * r.line) = some own) (hop : r.op = 0) (hd : (s.dir? (lineOf own)).isSome = true)
    (hs : s.lineStops (lineOf own) false = false) : Becomes (.nyrusRequestLeave c r.id) s fun t =>
      t.mem = s.mem ∧ .accessReturn c r.slot r.access ∈ t.pending ∧
        (∃ k', t.core? c = some k' ∧ k'.nyrus = k.nyrus.filter (fun x => decide (x.id ≠ r.id))) ∧
        ∃ w' a', t.warp? c r.slot = some w' ∧ w'.access? r.access = some a' ∧ ∀ i, i < 128 → SMap.get? (128 * r.line + i) a.bytes = none →
          (∃ p ∈ a.parts, p.2.1 ≤ 128 * r.line + i ∧ 128 * r.line + i < p.2.1 + p.2.2) →
          SMap.get? (128 * r.line + i) a'.bytes = some (Memory.read s.mem (128 * lineOf own + i)) := by
  obtain ⟨s1, hs1⟩ : ∃ s1, s1 = s.taken (.nyrusRequestLeave c r.id) := ⟨_, rfl⟩
  have hway : s1.noWay (128 * r.line) = false := by
    have ho1 : s1.ownPeer (128 * r.line) = some own := by rw [hs1]; exact ho
    have hend : peerAddress (128 * r.line) < hbmEnd := ha
    simp only [State.noWay, ho1, Option.isNone_some, Bool.and_false, Bool.or_false, decide_eq_false_iff_not]
    omega
  have h1 : Asked s1 c r k w a := by rw [hs1]; exact h.taken _
  have hstop : s1.lineStops (lineOf own) false = false := by rw [hs1, (Off.of_taken s _).lineStops]; exact hs
  obtain ⟨m, p, hserve⟩ := State.serveOwn_read (s := s1) (by rw [hs1]; exact hd) hstop r.aop r.aty
    (r.bytes.map (fun e => (own + (e.1 - 128 * r.line), e.2))) (r.lanes.map (fun l => (l.1, own + (l.2.1 - 128 * r.line), l.2.2.1, l.2.2.2)))
  obtain ⟨s2, hs2⟩ : ∃ s2 : State, s2 = { s1 with caldera := m, pending := p } := ⟨_, rfl⟩
  have h2 : Asked s2 c r k w a := by rw [hs2]; exact ⟨h1.core, h1.warp, h1.access, h1.needs, h1.warps⟩
  have hmem : s1.mem = s.mem := by rw [hs1]; rfl
  have hans := h2.answered (Memory.readBytes s1.mem (128 * lineOf own) 128)
  refine ⟨_, ?_, ?_, hans.due, hans.core, ?_⟩
  · show execNyrusRequestLeave c r.id s = .next (s2.nyrusAnswer c r (Memory.readBytes s1.mem (128 * lineOf own) 128))
    have hid : ¬(r.id ≠ r.id ∨ 8 ≤ (k.nyrus.filter (fun r => r.sent.isSome)).length) := by omega
    have ho1 : s1.ownPeer (128 * r.line) = some own := by rw [hs1]; exact ho
    have hl1 : s1.leaving k = some (r, lanes) := by rw [hs1, State.leaving_taken]; exact hl
    simp only [execNyrusRequestLeave, ← hs1, h1.core, hl1, if_neg hid, hway, ho1, hop, hserve, ← hs2]
    rfl
  · rw [hans.state, hs2]; exact hmem
  · obtain ⟨w', a', hw', ha', hbytes⟩ := h2.bytes hans hop (Memory.length_readBytes ..)
    refine ⟨w', a', hw', ha', fun i hi hn hp => ?_⟩
    rw [hbytes i hi hn hp, Memory.getElem?_readBytes _ _ hi, hmem]

end

/-- Where no request can leave, nothing happens. -/
theorem becomes_nyrusRequestLeave_waits (hk : s.core? c = some k) (hl : s.leaving k = none) (id : Nat) :
    Becomes (.nyrusRequestLeave c id) s fun t => t = { s with pending := t.pending } := by
  refine ⟨s.taken (.nyrusRequestLeave c id), ?_, rfl⟩
  show execNyrusRequestLeave c id s = _
  simp only [execNyrusRequestLeave, State.core?_taken, hk, State.leaving_taken, hl]

/-! ## Time-outs and responses (R364) -/

include h in
theorem exec_peerTimeout {at_ : Nat} (hn : k.nyrusOf r.id = some r) (hs : r.sent = some at_) (hle : at_ + s.modul.peerTimeout ≤ k.cyc) :
    exec (.peerTimeout c r.id) s = .next ((s.taken (.peerTimeout c r.id)).nyrusFails c r) := by
  have hn1 : (s.taken (.peerTimeout c r.id)).nyrus? c r.id = some r := by
    rw [State.nyrus?, State.core?_taken, h.core]; exact hn
  have hle1 : at_ + (s.taken (.peerTimeout c r.id)).modul.peerTimeout ≤ (s.taken (.peerTimeout c r.id)).cyc c := by
    rw [State.cyc_taken, State.cyc_eq h.core]; exact hle
  show execPeerTimeout c r.id s = _
  simp only [execPeerTimeout, hn1, hs, if_pos hle1]

include h in
theorem becomes_nyrusResponse {at_ : Nat} (hn : k.nyrusOf r.id = some r) (hs : r.sent = some at_) {data : List Byte} (hd : data.length = 128)
    (hop : r.op = 0) : Becomes (.nyrusResponse c r.id data) s fun t => t.mem = s.mem ∧ .accessReturn c r.slot r.access ∈ t.pending ∧
        (∃ k', t.core? c = some k' ∧ k'.nyrus = k.nyrus.filter (fun x => decide (x.id ≠ r.id))) ∧
        ∃ w' a', t.warp? c r.slot = some w' ∧ w'.access? r.access = some a' ∧ ∀ i, i < 128 → SMap.get? (128 * r.line + i) a.bytes = none →
          (∃ p ∈ a.parts, p.2.1 ≤ 128 * r.line + i ∧ 128 * r.line + i < p.2.1 + p.2.2) → SMap.get? (128 * r.line + i) a'.bytes = data[i]? := by
  have hans := h.answered data
  refine ⟨s.nyrusAnswer c r data, ?_, by rw [hans.state], hans.due, hans.core, h.bytes hans hop hd⟩
  show execNyrusResponse c r.id data s = _
  have hn1 : s.nyrus? c r.id = some r := by rw [State.nyrus?, h.core]; exact hn
  simp only [execNyrusResponse, hn1, hs, Option.isSome_some, if_true]

end

end Sys2Proof.Machine

/-! # Writes at primary copies, and requests of other modules (R261, R262, R453) -/

namespace Sys2Proof.Machine

/-! ## Listed bytes in memory -/

theorem Memory.read_writeCells (m : Memory) {l : SMap Byte} (hn : (l.map Prod.fst).Nodup) (b : Nat) :
    Memory.read (m.writeCells l) b = (SMap.get? b l).getD (m.read b) := by
  induction l generalizing m with
  | nil => rfl
  | cons e t ih =>
    obtain ⟨a, x⟩ := e
    rw [List.map_cons, List.nodup_cons] at hn
    simp only [Memory.writeCells, SMap.get?]
    split
    · rename_i h
      subst h
      rw [Memory.read_writeCells_other _ _ _ fun e he h => hn.1 (List.mem_map.2 ⟨e, he, h⟩), Memory.read_write, if_pos rfl]; rfl
    · rename_i h
      rw [ih _ hn.2, Memory.read_write, if_neg h]

/-- Bytes listed from an address on. -/
def cellsFrom (a : Nat) (l : List Byte) : SMap Byte := l.mapIdx (fun i b => (a + i, b))

theorem cellsFrom_cons (a : Nat) (b : Byte) (l : List Byte) : cellsFrom a (b :: l) = (a, b) :: cellsFrom (a + 1) l := by
  simp only [cellsFrom, List.mapIdx_cons, Nat.add_zero]
  congr 2
  funext i b
  rw [Nat.add_right_comm, Nat.add_assoc]

theorem mem_cellsFrom {a : Nat} {l : List Byte} {e : Nat × Byte} (h : e ∈ cellsFrom a l) : a ≤ e.1 ∧ e.1 < a + l.length := by
  obtain ⟨i, hi, rfl⟩ := List.mem_mapIdx.1 h
  exact ⟨Nat.le_add_right .., by omega⟩

theorem nodup_cellsFrom (a : Nat) (l : List Byte) : ((cellsFrom a l).map Prod.fst).Nodup := by
  induction l generalizing a with
  | nil => exact .nil
  | cons b t ih =>
    rw [cellsFrom_cons, List.map_cons, List.nodup_cons]
    refine ⟨fun h => ?_, ih _⟩
    obtain ⟨e, he, hea⟩ := List.mem_map.1 h
    have := (mem_cellsFrom he).1
    omega

theorem get?_cellsFrom (a : Nat) (l : List Byte) (b : Nat) : SMap.get? b (cellsFrom a l) = if a ≤ b then l[b - a]? else none := by
  induction l generalizing a with
  | nil => simp [cellsFrom, SMap.get?]
  | cons x t ih =>
    rw [cellsFrom_cons]
    simp only [SMap.get?, ih]
    by_cases hb : b = a
    · simp [hb]
    · rw [if_neg hb]
      by_cases hle : a ≤ b
      · rw [if_pos hle, if_pos (by omega), show b - a = b - (a + 1) + 1 by omega, List.getElem?_cons_succ]
      · rw [if_neg hle, if_neg (by omega)]

theorem get?_filter_line (l : SMap Byte) (line b : Nat) :
    SMap.get? b (l.filter (fun e => lineOf e.1 = line)) = if lineOf b = line then SMap.get? b l else none := by
  induction l with
  | nil => simp [SMap.get?]
  | cons e t ih =>
    rw [List.filter_cons]
    by_cases he : lineOf e.1 = line
    · rw [if_pos (by simpa using he)]
      simp only [SMap.get?, ih]
      by_cases hb : b = e.1
      · rw [if_pos hb, if_pos hb, if_pos (by rw [hb]; exact he)]
      · rw [if_neg hb, if_neg hb]
    · rw [if_neg (by simpa using he), ih]
      simp only [SMap.get?]
      by_cases hb : b = e.1
      · rw [if_neg (by rw [hb]; exact he), if_neg (by rw [hb]; exact he)]
      · rw [if_neg hb]

/-! ## What leaves all but memory as Caldera's operations do -/

/-- `t` is `s` with other bytes in memory, but for what Caldera's operations change. -/
def Stores (s t : State) : Prop := t.outside = ({ s with mem := t.mem } : State).outside

theorem outside_congr_mem {s t : State} (h : t.outside = s.outside) (m : Memory) :
    ({ t with mem := m } : State).outside = ({ s with mem := m } : State).outside := by
  have h1 : ({ t with mem := m } : State).outside = { t.outside with mem := m } := rfl
  rw [h1, h]; rfl

section
variable {s t u : State}

theorem Stores.of_outside (h : t.outside = s.outside) : Stores s t := by rw [Stores, mem_of_outside h]; exact h

theorem Stores.trans (h : Stores s t) (h' : Stores t u) : Stores s u := by
  rw [Stores] at h h' ⊢
  rw [h']
  exact outside_congr_mem h u.mem

theorem Stores.launches (h : Stores s t) : t.launches = s.launches := (launches_of_outside h).trans rfl
theorem Stores.answers (h : Stores s t) : t.modul.answers = s.modul.answers := (answers_of_outside h).trans rfl
theorem Stores.ports (h : Stores s t) : t.modul.ports = s.modul.ports := (ports_of_outside h).trans rfl

end

@[simp] theorem outside_keepUnder (s : State) (b : Bool) (k : Nat) : (s.keepUnder b k).outside = s.outside := by
  simp only [State.keepUnder]; split <;> rfl

@[simp] theorem outside_keepBelow (s : State) (line : Nat) (l : List Nat) : (s.keepBelow line l).outside = s.outside := by
  simp only [State.keepBelow]
  split
  · rfl
  · exact outside_foldl (fun _ _ => outside_keepUnder ..) _ s

@[simp] theorem outside_askCollapse (s : State) (line c : Nat) (l : NSet) : (s.askCollapse line c l).outside = s.outside := by
  simp only [State.askCollapse]
  split
  · split <;> simp only [outside_pushOnce, outside_owe, outside_modDir]
  · simp only [outside_owe, outside_modDir]

@[simp] theorem outside_touchFor_none (s : State) (line : Nat) : (s.touchFor none line).outside = s.outside := by
  cases hd : s.dir? line with
  | none => simp only [State.touchFor, hd]
  | some d => simp only [State.touchFor, hd, outside_touchBanks]

/-! ## A write of a line that no warp makes -/

theorem State.mem_performWrite (s : State) (line : Nat) (l : SMap Byte) : (s.performWrite line l).mem = Memory.writeCells s.mem l := by
  have hm : (s.keepBelow line ((l.map (fun e => e.1 / 32)).dedup)).mem = s.mem := mem_of_outside (outside_keepBelow ..)
  simp only [State.performWrite, mem_of_outside (outside_notify ..)]
  rw [← hm]; rfl

theorem Stores.performWrite (s : State) (line : Nat) (l : SMap Byte) : Stores s (s.performWrite line l) := by
  have ho := outside_congr_mem (outside_keepBelow s line ((l.map (fun e => e.1 / 32)).dedup)) (s.performWrite line l).mem
  rw [Stores, ← ho]
  have hm : (s.performWrite line l).mem = Memory.writeCells (s.keepBelow line ((l.map (fun e => e.1 / 32)).dedup)).mem l := by
    simp only [State.performWrite, mem_of_outside (outside_notify ..)]
    rfl
  rw [hm]
  simp only [State.performWrite, outside_notify, outside_modDir]
  rfl

section
variable (s : State) (tenant line : Nat) (l : SMap Byte)

/-- Beside its bytes, the write changes what Caldera's operations change. -/
theorem State.writeLine_outside : ∃ s1 : State, s1.outside = s.outside ∧
    (s.writeLine none tenant line l).1.outside = (s1.performWrite line l).outside := by
  obtain ⟨s1, hs1⟩ : ∃ s1, s1 = (s.bring tenant line 0).1.extern line (fun _ => false) := ⟨_, rfl⟩
  refine ⟨s1, by rw [hs1, outside_extern, outside_bring], ?_⟩
  have h4 : ∀ b : Bool, (if b then (s1.performWrite line l).askCollapse line 0 [] else s1.performWrite line l).outside =
      (s1.performWrite line l).outside := fun b => by
    split
    · exact outside_askCollapse ..
    · rfl
  rw [← h4 (((s1.dir? line).map (fun d => !d.rmask.isEmpty)).getD false)]
  simp only [State.writeLine, ← hs1]
  split <;> rfl

theorem Stores.writeLine : Stores s (s.writeLine none tenant line l).1 := by
  obtain ⟨s1, ho, hw⟩ := s.writeLine_outside tenant line l
  exact ((Stores.of_outside ho).trans (Stores.performWrite s1 line l)).trans (.of_outside hw)

theorem State.mem_writeLine : (s.writeLine none tenant line l).1.mem = Memory.writeCells s.mem l := by
  obtain ⟨s1, ho, hw⟩ := s.writeLine_outside tenant line l
  rw [mem_of_outside hw, State.mem_performWrite, mem_of_outside ho]

end

/-- Bytes that are written line by line. -/
theorem State.writeDirect_spec (s : State) (tenant : Nat) {l : SMap Byte} (hn : (l.map Prod.fst).Nodup) :
    Stores s (s.writeDirect none tenant l).1 ∧
      ∀ b, Memory.read (s.writeDirect none tenant l).1.mem b = (SMap.get? b l).getD (Memory.read s.mem b) := by
  obtain ⟨f, hf⟩ : ∃ f : State × NSet → Nat → State × NSet, f = fun r line =>
    ((((r.1.bring tenant line 0).1.touchFor none line).writeLine none tenant line (l.filter (fun e => lineOf e.1 = line))).1,
      (((r.1.bring tenant line 0).1.touchFor none line).writeLine none tenant line (l.filter (fun e => lineOf e.1 = line))).2.foldl
        (fun m k => NSet.add k m) r.2) := ⟨_, rfl⟩
  have hstep : ∀ (r : State × NSet) (line : Nat), Stores r.1 (f r line).1 ∧ ∀ b, Memory.read (f r line).1.mem b =
      if lineOf b = line then (SMap.get? b l).getD (Memory.read r.1.mem b) else Memory.read r.1.mem b := fun r line => by
    have ho : ((r.1.bring tenant line 0).1.touchFor none line).outside = r.1.outside := by rw [outside_touchFor_none, outside_bring]
    rw [hf]
    refine ⟨(Stores.of_outside ho).trans (Stores.writeLine ..), fun b => ?_⟩
    dsimp only
    have hnf : ((l.filter (fun e => lineOf e.1 = line)).map Prod.fst).Nodup := hn.sublist (List.filter_sublist.map _)
    rw [State.mem_writeLine, Memory.read_writeCells _ hnf, get?_filter_line, mem_of_outside ho]
    split <;> rfl
  have hfold : ∀ (L : List Nat) (r : State × NSet), Stores r.1 (L.foldl f r).1 ∧ ∀ b, Memory.read (L.foldl f r).1.mem b =
      if lineOf b ∈ L then (SMap.get? b l).getD (Memory.read r.1.mem b) else Memory.read r.1.mem b := by
    intro L
    induction L with
    | nil => exact fun r => ⟨rfl, fun b => rfl⟩
    | cons a L ih =>
      intro r
      obtain ⟨h1, h2⟩ := hstep r a
      obtain ⟨h3, h4⟩ := ih (f r a)
      refine ⟨h1.trans h3, fun b => ?_⟩
      rw [List.foldl_cons, h4, h2]
      simp only [List.mem_cons]
      by_cases ha : lineOf b = a
      · cases SMap.get? b l <;> simp [ha]
      · simp [ha]
  have heq : s.writeDirect none tenant l = ((l.map (fun e => lineOf e.1)).dedup).foldl f (s, []) := by rw [hf]; rfl
  obtain ⟨h1, h2⟩ := hfold ((l.map (fun e => lineOf e.1)).dedup) (s, [])
  rw [heq]
  refine ⟨h1, fun b => ?_⟩
  rw [h2]
  split
  · rfl
  · rename_i hb
    cases hg : SMap.get? b l with
    | none => rfl
    | some x =>
      exact absurd (List.mem_dedup.2 (List.mem_map.2 ⟨_, SMap.mem_of_get? hg, rfl⟩)) hb

/-! ## Requests of other modules (R453) -/

theorem Memory.readBytes_drop_take (m : Memory) (a : Nat) {j n k : Nat} (h : j + n ≤ k) :
    ((Memory.readBytes m a k).drop j).take n = Memory.readBytes m (a + j) n := by
  refine List.ext_getElem? fun i => ?_
  rw [List.getElem?_take]
  split
  · rename_i hi
    rw [List.getElem?_drop, Memory.getElem?_readBytes _ _ (by omega), Memory.getElem?_readBytes _ _ hi, Nat.add_assoc]
  · rw [List.getElem?_eq_none (by rw [Memory.length_readBytes]; omega)]

/-- A line that no half of which is held back is not held back for some of its halves. -/
theorem State.lineStops_halves {s : State} {line tenant : Nat} {w : Bool} {d : DirLine} (hd : s.dir? line = some d)
    (h : s.lineStops line w [0, 1] tenant = false) {l : List Nat} (hl : ∀ a ∈ l, a < 2) : s.lineStops line w l tenant = false := by
  simp only [State.lineStops, hd, Bool.or_eq_false_iff] at h ⊢
  obtain ⟨⟨hm, hh⟩, hg⟩ := h
  refine ⟨⟨hm, ?_⟩, hg⟩
  simp only [DirLine.hostStops, Bool.and_eq_false_iff] at hh ⊢
  refine hh.imp_right fun hh => List.any_eq_false.2 fun a ha => List.any_eq_false.1 hh a ?_
  have := hl a ha
  simp only [List.mem_cons, List.not_mem_nil, or_false]
  omega

theorem ownHalves_lt (op : Nat) (bytes : SMap Byte) (lanes : List (Nat × Nat × Nat × Nat)) : ∀ a ∈ ownHalves op bytes lanes, a < 2 := by
  intro a ha
  simp only [ownHalves] at ha
  split at ha
  · simp only [List.mem_cons, List.not_mem_nil, or_false] at ha; omega
  · split at ha <;>
      (obtain ⟨e, -, rfl⟩ := List.mem_map.1 (List.mem_dedup.1 ha); exact Nat.mod_lt _ (by decide))

theorem becomes_peerRequestServe_down {s : State} (hb : s.modul.booted = false) (req : PeerRequest) :
    Becomes (.peerRequestServe req) s fun t => t = s := by
  refine ⟨s, ?_, rfl⟩
  show execPeerRequestServe req s = _
  simp only [execPeerRequestServe, hb]
  rfl

section
variable {s : State} {addr : Nat} (hb : s.modul.booted = true)
include hb

theorem becomes_peerRequestServe_outside (ha : 0x2E400000000 ≤ addr) (n : Nat) : Becomes (.peerRequestServe (.read addr n)) s fun t =>
    t.mem = s.mem ∧ t.modul.answers = s.modul.answers ++ [[]] := by
  have ha' : hbmEnd ≤ addr := ha
  refine ⟨{ s with modul := { s.modul with answers := s.modul.answers ++ [[]] } }, ?_, rfl, rfl⟩
  show execPeerRequestServe (.read addr n) s = _
  simp only [execPeerRequestServe, PeerRequest.parts, hb, if_pos ha']
  rfl

variable (ha : addr < 0x2E400000000)
include ha

theorem becomes_peerRequestServe_read (hd : (s.dir? (lineOf addr)).isSome = true) (hs : s.lineStops (lineOf addr) false = false) {n : Nat}
    (hn : addr % 128 + n ≤ 128) : Becomes (.peerRequestServe (.read addr n)) s fun t =>
      t.mem = s.mem ∧ t.modul.answers = s.modul.answers ++ [if s.poisoned addr n then [] else Memory.readBytes s.mem addr n] := by
  have ha' : ¬hbmEnd ≤ addr := Nat.not_le.2 ha
  obtain ⟨m, p, hserve⟩ := State.serveOwn_read hd hs 0 0 [] []
  have hread : ((Memory.readBytes s.mem (128 * lineOf addr) 128).drop (addr % 128)).take n = Memory.readBytes s.mem addr n := by
    rw [Memory.readBytes_drop_take _ _ hn, show 128 * lineOf addr + addr % 128 = addr by rw [lineOf]; omega]
  refine ⟨{ s with
    caldera := m, pending := p,
    modul := { s.modul with answers := s.modul.answers ++ [if s.poisoned addr n then [] else Memory.readBytes s.mem addr n] } }, ?_, rfl, rfl⟩
  show execPeerRequestServe (.read addr n) s = _
  simp only [execPeerRequestServe, PeerRequest.parts, PeerRequest.atomicOp, hb, if_neg ha', hserve, PeerRequest.answer, hread]
  rfl

theorem becomes_peerRequestServe_write (hs : s.lineStops (lineOf addr) true = false) {d : DirLine} (hd : s.dir? (lineOf addr) = some d)
    (hr : d.rmask = []) (data : List Byte) : Becomes (.peerRequestServe (.write addr data)) s fun t =>
      t.modul.answers = s.modul.answers ++ [[]] ∧
        ∀ b, Memory.read t.mem b = if addr ≤ b ∧ b < addr + data.length then data.getD (b - addr) 0 else Memory.read s.mem b := by
  have ha' : ¬hbmEnd ≤ addr := Nat.not_le.2 ha
  obtain ⟨cells, hcells⟩ : ∃ cells, cells = cellsFrom addr data := ⟨_, rfl⟩
  have hstop : s.lineStops (lineOf addr) (decide ((1 : Nat) ≠ 0)) (ownHalves 1 cells []) = false :=
    State.lineStops_halves hd hs (ownHalves_lt 1 cells [])
  have hclear : s.clearsReplicas (lineOf addr) = true := by
    simp only [State.clearsReplicas, State.uncollapsed, hd, Option.map_some, hr]; rfl
  have hbring : s.bring 16 (lineOf addr) 0 = (s, true) := by simp only [State.bring, hd, Option.isSome_some, if_true]
  have ht : (s.touchFor none (lineOf addr)).outside = s.outside := outside_touchFor_none ..
  have hserve : s.serveOwn (lineOf addr) 1 0 0 cells [] =
      (((s.touchFor none (lineOf addr)).writeLine none 16 (lineOf addr) cells).1, some []) := by
    simp only [State.serveOwn, hstop, hclear, hbring]
    rfl
  obtain ⟨s1, hs1⟩ : ∃ s1, s1 = ((s.touchFor none (lineOf addr)).writeLine none 16 (lineOf addr) cells).1 := ⟨_, rfl⟩
  have hw : Stores s s1 := by rw [hs1]; exact (Stores.of_outside ht).trans (Stores.writeLine ..)
  refine ⟨{ s1 with modul := { s1.modul with answers := s1.modul.answers ++ [[]] } }, ?_, ?_, fun b => ?_⟩
  · show execPeerRequestServe (.write addr data) s = _
    simp only [execPeerRequestServe, PeerRequest.parts, PeerRequest.atomicOp, hb, if_neg ha', PeerRequest.answer]
    rw [show (data.mapIdx (fun i b => (addr + i, b))) = cells from hcells.symm, hserve, ← hs1]
    rfl
  · show s1.modul.answers ++ [[]] = _
    rw [hw.answers]
  · show Memory.read s1.mem b = _
    rw [hs1, State.mem_writeLine, hcells, Memory.read_writeCells _ (nodup_cellsFrom ..), mem_of_outside ht, get?_cellsFrom]
    by_cases hle : addr ≤ b
    · by_cases hlt : b < addr + data.length
      · rw [if_pos hle, if_pos ⟨hle, hlt⟩, List.getD_eq_getElem?_getD, List.getElem?_eq_getElem (by omega)]
        rfl
      · rw [if_pos hle, if_neg (by omega), List.getElem?_eq_none (by omega)]
        rfl
    · rw [if_neg hle, if_neg (by omega)]
      rfl

end

/-! ## A lane of the link retires (R454) -/

theorem becomes_nyrusLaneRetire (s : State) {lane : Nat} (h : lane < 72) : Becomes (.nyrusLaneRetire lane) s fun t =>
    t = { s with modul := t.modul } ∧ lane ∈ t.modul.lanesRetired ∧
    (SMap.get 0 (0x11300008 + 0x20 * lane) t.modul.errors).toNat = min ((SMap.get 0 (0x11300008 + 0x20 * lane) s.modul.errors).toNat + 1) (2 ^ 32 - 1) := by
  refine ⟨s.retireLane lane, rfl, ?_⟩
  have hn : ¬72 ≤ lane := by omega
  simp only [State.retireLane, if_neg hn]
  refine ⟨?_, ?_, ?_⟩
  · rfl
  · exact NSet.mem_add_self ..
  · have hle : min ((SMap.get 0 (0x11300008 + 0x20 * lane) s.modul.errors).toNat + 1) (2 ^ 32 - 1) < 2 ^ 32 := by omega
    simp only [State.record, State.countError, SMap.get_set, if_true, BitVec.toNat_ofNat]
    exact Nat.mod_eq_of_lt hle

end Sys2Proof.Machine

/-! # Queue headers in memory: their fields, and what a change of them writes (R354, R355) -/

namespace Sys2Proof

/-! ## Bit fields of a number -/

theorem testBit_bitsOf (x hi lo i : Nat) : (bitsOf x hi lo).testBit i = (decide (i < hi + 1 - lo) && x.testBit (lo + i)) := by
  rw [bitsOf, Nat.testBit_mod_two_pow, Nat.testBit_shiftRight]

namespace Machine

theorem testBit_putBits (x v : Nat) {hi lo : Nat} (h : lo ≤ hi) (i : Nat) :
    (putBits x hi lo v).testBit i = if lo ≤ i ∧ i ≤ hi then v.testBit (i - lo) else x.testBit i := by
  obtain ⟨w, hw⟩ : ∃ w, w = hi + 1 - lo := ⟨_, rfl⟩
  obtain ⟨q, hq⟩ : ∃ q, q = x / 2 ^ lo / 2 ^ w := ⟨_, rfl⟩
  have hlow : x % 2 ^ lo < 2 ^ lo := Nat.mod_lt _ (Nat.two_pow_pos lo)
  have hv : v % 2 ^ w < 2 ^ w := Nat.mod_lt _ (Nat.two_pow_pos w)
  have hf : x / 2 ^ lo % 2 ^ w < 2 ^ w := Nat.mod_lt _ (Nat.two_pow_pos w)
  have hx : x = 2 ^ lo * (2 ^ w * q + x / 2 ^ lo % 2 ^ w) + x % 2 ^ lo := by
    rw [hq, Nat.div_add_mod, Nat.div_add_mod]
  have hb : bitsOf x hi lo = x / 2 ^ lo % 2 ^ w := by rw [bitsOf, Nat.shiftRight_eq_div_pow, hw]
  have hy : putBits x hi lo v = 2 ^ lo * (2 ^ w * q + v % 2 ^ w) + x % 2 ^ lo := by
    rw [putBits, ← hw, hb]
    generalize x / 2 ^ lo % 2 ^ w = f at hx
    generalize x % 2 ^ lo = l at hx
    subst hx
    rw [Nat.mul_add, Nat.mul_add, Nat.mul_comm f, Nat.mul_comm (v % 2 ^ w)]
    omega
  rw [hy, Nat.testBit_two_pow_mul_add _ hlow]
  conv_rhs => rw [hx, Nat.testBit_two_pow_mul_add _ hlow]
  by_cases h1 : i < lo
  · rw [if_pos h1, if_neg (by omega), if_pos h1]
  · rw [if_neg h1, if_neg h1, Nat.testBit_two_pow_mul_add _ hv, Nat.testBit_two_pow_mul_add _ hf]
    by_cases h2 : i - lo < w
    · rw [if_pos h2, if_pos (by omega), Nat.testBit_mod_two_pow, decide_eq_true h2, Bool.true_and]
    · rw [if_neg h2, if_neg (by omega), if_neg h2]

/-- A field that has been put. -/
theorem bitsOf_putBits_same (x v : Nat) {hi lo : Nat} (h : lo ≤ hi) : bitsOf (putBits x hi lo v) hi lo = v % 2 ^ (hi + 1 - lo) := by
  refine Nat.eq_of_testBit_eq fun i => ?_
  rw [testBit_bitsOf, testBit_putBits x v h, Nat.testBit_mod_two_pow]
  by_cases hi' : i < hi + 1 - lo
  · rw [if_pos (by omega), Nat.add_sub_cancel_left]
  · simp [hi']

/-- A field beside the one that has been put. -/
theorem bitsOf_putBits_other (x v : Nat) {hi lo : Nat} (h : lo ≤ hi) {hi' lo' : Nat} (hd : hi' < lo ∨ hi < lo') :
    bitsOf (putBits x hi lo v) hi' lo' = bitsOf x hi' lo' := by
  refine Nat.eq_of_testBit_eq fun i => ?_
  rw [testBit_bitsOf, testBit_bitsOf, testBit_putBits x v h]
  by_cases hi' : i < hi' + 1 - lo'
  · rw [if_neg (by omega)]
  · simp [hi']

theorem putBits_lt {x : Nat} (v : Nat) {hi lo n : Nat} (h : lo ≤ hi) (hn : hi < n) (hx : x < 2 ^ n) : putBits x hi lo v < 2 ^ n := by
  refine Nat.lt_pow_two_of_testBit _ fun i hi' => ?_
  rw [testBit_putBits x v h, if_neg (by omega)]
  exact Nat.testBit_lt_two_pow (Nat.lt_of_lt_of_le hx (Nat.pow_le_pow_right (by decide) hi'))

end Machine

/-! ## A number and its bytes -/

theorem two_pow_bytes (n : Nat) : 2 ^ (8 * n) = 256 ^ n := Nat.pow_mul ..

theorem length_bytesOf (x n : Nat) : (bytesOf x n).length = n := by
  induction n generalizing x with
  | zero => rfl
  | succ n ih => rw [bytesOf, List.length_cons, ih]

theorem numOf_bytesOf (x n : Nat) : numOf (bytesOf x n) = x % 256 ^ n := by
  induction n generalizing x with
  | zero => simp [bytesOf, numOf, Nat.mod_one]
  | succ n ih =>
    have h : x % 256 ^ (n + 1) = x % 256 + 256 * (x / 256 % 256 ^ n) := by rw [Nat.pow_succ', Nat.mod_mul]
    rw [bytesOf, numOf, ih, BitVec.toNat_ofNat, Nat.shiftRight_eq_div_pow, h]

theorem bytesOf_numOf (l : List Byte) : bytesOf (numOf l) l.length = l := by
  induction l with
  | nil => rfl
  | cons b t ih =>
    have hb := b.isLt
    rw [numOf, List.length_cons, bytesOf, Nat.shiftRight_eq_div_pow, show (b.toNat + 256 * numOf t) / 2 ^ 8 = numOf t by omega, ih]
    congr 1
    refine BitVec.eq_of_toNat_eq ?_
    rw [BitVec.toNat_ofNat]
    omega

namespace Machine

theorem Memory.readNum_of_read {m : Memory} {a n x : Nat} (h : ∀ i, i < n → m.read (a + i) = (bytesOf x n).getD i 0) :
    Memory.readNum m a n = x % 256 ^ n := by
  rw [← numOf_bytesOf, Memory.readNum]
  congr 1
  refine List.ext_getElem? fun i => ?_
  by_cases hi : i < n
  · rw [Memory.getElem?_readBytes _ _ hi, h i hi, List.getD_eq_getElem?_getD, List.getElem?_eq_getElem (by rw [length_bytesOf]; exact hi)]
    rfl
  · rw [List.getElem?_eq_none (by rw [Memory.length_readBytes]; omega), List.getElem?_eq_none (by rw [length_bytesOf]; omega)]

theorem Memory.read_of_readNum (m : Memory) (a : Nat) {n i : Nat} (hi : i < n) :
    m.read (a + i) = (bytesOf (Memory.readNum m a n) n).getD i 0 := by
  have h := bytesOf_numOf (Memory.readBytes m a n)
  rw [Memory.length_readBytes] at h
  rw [Memory.readNum, h, List.getD_eq_getElem?_getD, Memory.getElem?_readBytes _ _ hi]; rfl

theorem Memory.readNum_lt (m : Memory) (a : Nat) : Memory.readNum m a 128 < 2 ^ (8 * 128) := by
  have h := numOf_lt (Memory.readBytes m a 128)
  rw [Memory.length_readBytes] at h
  rwa [two_pow_bytes]

/-! ## What a header's change writes -/

/-- The bytes that change, of two lists of one length. -/
def changedCells (a : Nat) (old new : List Byte) : SMap Byte :=
  ((cellsFrom a old).zip (cellsFrom a new)).filterMap (fun e => if e.1.2 = e.2.2 then none else some e.2)

theorem changedCells_cons (a : Nat) (x y : Byte) (old new : List Byte) :
    changedCells a (x :: old) (y :: new) = if x = y then changedCells (a + 1) old new else (a, y) :: changedCells (a + 1) old new := by
  simp only [changedCells, cellsFrom_cons, List.zip_cons_cons, List.filterMap_cons]
  split
  · rename_i h; rw [if_pos (by by_contra hne; rw [if_neg hne] at h; cases h)]
  · rename_i h
    by_cases hxy : x = y
    · rw [if_pos hxy] at h; cases h
    · rw [if_neg hxy] at h ⊢; cases h; rfl

theorem changedCells_le {a : Nat} {old new : List Byte} {e : Nat × Byte} (h : e ∈ changedCells a old new) : a ≤ e.1 := by
  obtain ⟨p, hp, he⟩ := List.mem_filterMap.1 h
  split at he
  · cases he
  · cases he; exact (mem_cellsFrom (List.of_mem_zip hp).2).1

theorem nodup_changedCells (a : Nat) (old new : List Byte) : ((changedCells a old new).map Prod.fst).Nodup := by
  induction old generalizing a new with
  | nil => exact .nil
  | cons x old ih =>
    cases new with
    | nil => simp [changedCells, cellsFrom]
    | cons y new =>
      rw [changedCells_cons]
      split
      · exact ih ..
      · rw [List.map_cons, List.nodup_cons]
        refine ⟨fun h => ?_, ih ..⟩
        obtain ⟨e, he, hea⟩ := List.mem_map.1 h
        have := changedCells_le he
        omega

/-- Over the old bytes, they make the new ones. -/
theorem get?_changedCells {a b : Nat} {old new : List Byte} (hl : old.length = new.length) {x : Byte}
    (hx : a ≤ b → b < a + old.length → x = old.getD (b - a) 0) :
    (SMap.get? b (changedCells a old new)).getD x = if a ≤ b ∧ b < a + new.length then new.getD (b - a) 0 else x := by
  induction old generalizing a new with
  | nil =>
    cases new with
    | nil => rw [if_neg (by simp)]; rfl
    | cons y new => cases hl
  | cons o old ih =>
    cases new with
    | nil => cases hl
    | cons y new =>
      have hl' : old.length = new.length := by simpa using hl
      simp only [List.length_cons] at hx ⊢
      have hrest := ih (a := a + 1) (new := new) hl' (fun h1 h2 => by
        rw [hx (by omega) (by omega), show b - a = b - (a + 1) + 1 by omega, List.getD_cons_succ])
      rw [changedCells_cons]
      by_cases hb : b = a
      · subst hb
        have hin : b ≤ b ∧ b < b + (new.length + 1) := by omega
        rw [if_neg (by omega)] at hrest
        rw [if_pos hin, Nat.sub_self, List.getD_cons_zero]
        have hx' : x = o := by rw [hx (by omega) (by omega), Nat.sub_self]; rfl
        split
        · rename_i hoy; rw [hrest, hx', hoy]
        · simp [SMap.get?]
      · have hget : (SMap.get? b (if o = y then changedCells (a + 1) old new else (a, y) :: changedCells (a + 1) old new)) =
            SMap.get? b (changedCells (a + 1) old new) := by
          split
          · rfl
          · simp only [SMap.get?, if_neg hb]
        rw [hget, hrest]
        by_cases hr : a ≤ b ∧ b < a + (new.length + 1)
        · rw [if_pos (by omega), if_pos hr, show b - a = b - (a + 1) + 1 by omega, List.getD_cons_succ]
        · rw [if_neg (by omega), if_neg hr]

theorem State.putHeader_eq (s : State) (pa old new : Nat) : s.putHeader pa old new =
    if (changedCells pa (bytesOf old 128) (bytesOf new 128)).isEmpty then s
    else (s.writeDirect none 16 (changedCells pa (bytesOf old 128) (bytesOf new 128))).1 := rfl

theorem Stores.putHeader (s : State) (pa old new : Nat) : Stores s (s.putHeader pa old new) := by
  rw [State.putHeader_eq]
  split
  · exact .of_outside rfl
  · exact (State.writeDirect_spec s 16 (nodup_changedCells ..)).1

theorem State.read_putHeader (s : State) (pa old new b : Nat) : Memory.read (s.putHeader pa old new).mem b =
    (SMap.get? b (changedCells pa (bytesOf old 128) (bytesOf new 128))).getD (Memory.read s.mem b) := by
  rw [State.putHeader_eq]
  split
  · rename_i he
    rw [List.isEmpty_iff.1 he]; rfl
  · exact (State.writeDirect_spec s 16 (nodup_changedCells ..)).2 b

/-- A header changes in memory: it holds its new bits, and no other byte changes. -/
theorem State.putHeader_spec {s : State} {pa old new : Nat} (ho : Memory.readNum s.mem pa 128 = old) (hn : new < 2 ^ (8 * 128)) :
    Memory.readNum (s.putHeader pa old new).mem pa 128 = new ∧
      ∀ b, ¬(pa ≤ b ∧ b < pa + 128) → Memory.read (s.putHeader pa old new).mem b = Memory.read s.mem b := by
  have hbytes : ∀ b, Memory.read (s.putHeader pa old new).mem b =
      if pa ≤ b ∧ b < pa + 128 then (bytesOf new 128).getD (b - pa) 0 else Memory.read s.mem b := fun b => by
    rw [State.read_putHeader, get?_changedCells (by rw [length_bytesOf, length_bytesOf]), length_bytesOf]
    intro h1 h2
    rw [length_bytesOf] at h2
    rw [← ho, ← Memory.read_of_readNum _ _ (by omega), Nat.add_sub_cancel' h1]
  refine ⟨?_, fun b hb => by rw [hbytes, if_neg hb]⟩
  rw [Memory.readNum_of_read (x := new) fun i hi => by rw [hbytes, if_pos (by omega), Nat.add_sub_cancel_left]]
  rw [two_pow_bytes] at hn
  exact Nat.mod_eq_of_lt hn

end Machine

end Sys2Proof

/-! # The Ethernet ports (R455) -/

namespace Sys2Proof.Machine

/-! ## Memory beside a header -/

theorem Memory.readNum_congr {m m' : Memory} {a n : Nat} (h : ∀ i, i < n → m.read (a + i) = m'.read (a + i)) :
    Memory.readNum m a n = Memory.readNum m' a n := by
  rw [Memory.readNum, Memory.readNum]
  congr 1
  refine List.ext_getElem? fun i => ?_
  by_cases hi : i < n
  · rw [Memory.getElem?_readBytes _ _ hi, Memory.getElem?_readBytes _ _ hi, h i hi]
  · rw [List.getElem?_eq_none (by rw [Memory.length_readBytes]; omega), List.getElem?_eq_none (by rw [Memory.length_readBytes]; omega)]

/-- A number of 128 bytes that is written at an address: it is there, and no other byte changes. -/
theorem State.writeCells_spec (s : State) (tenant a : Nat) {x : Nat} (hx : x < 2 ^ (8 * 128)) :
    Stores s (s.writeDirect none tenant (cellsOf a 128 x)).1 ∧ Memory.readNum (s.writeDirect none tenant (cellsOf a 128 x)).1.mem a 128 = x ∧
      ∀ b, ¬(a ≤ b ∧ b < a + 128) → Memory.read (s.writeDirect none tenant (cellsOf a 128 x)).1.mem b = Memory.read s.mem b := by
  have hc : cellsOf a 128 x = cellsFrom a (bytesOf x 128) := rfl
  rw [hc]
  obtain ⟨hst, hread⟩ := s.writeDirect_spec tenant (nodup_cellsFrom a (bytesOf x 128))
  refine ⟨hst, ?_, fun b hb => ?_⟩
  · rw [Memory.readNum_of_read (x := x) fun i hi => ?_]
    · rw [two_pow_bytes] at hx; exact Nat.mod_eq_of_lt hx
    · rw [hread, get?_cellsFrom, if_pos (by omega), Nat.add_sub_cancel_left, List.getD_eq_getElem?_getD,
        List.getElem?_eq_getElem (by rw [length_bytesOf]; exact hi)]
      rfl
  · rw [hread, get?_cellsFrom]
    split
    · rw [List.getElem?_eq_none (by rw [length_bytesOf]; omega)]; rfl
    · rfl

/-! ## Records and headers -/

theorem lt_two_pow_of_le {x a b : Nat} (h : x < 2 ^ a) (hab : a ≤ b) : x < 2 ^ b :=
  Nat.lt_of_lt_of_le h (Nat.pow_le_pow_right Nat.two_pos hab)

theorem ethRecord_lt {buf len stat : Nat} (hb : buf < 2 ^ 64) (hs : stat < 4) : ethRecord buf len stat < 2 ^ (8 * 128) := by
  have h : ethRecord buf len stat < 2 ^ 98 := by
    have := Nat.mod_lt len (show 0 < 2 ^ 16 by decide)
    rw [ethRecord]; omega
  exact lt_two_pow_of_le h (by decide)

theorem ethBuf_eq (r : Nat) : ethBuf r = r % 2 ^ 64 := by simp [ethBuf, bitsOf]

/-- The slot after one, as the header's field holds it. -/
theorem hdrNext_mod (h slot : Nat) : hdrNext h slot % 2 ^ 16 = if slot = hdrLast h then 0 else (slot + 1) % 2 ^ 16 := by
  rw [hdrNext]; split <;> rfl

/-- A field beside two that have been put. -/
theorem bitsOf_putBits_two (x : Nat) {v v' hi lo hi' lo' a b : Nat} (h : lo ≤ hi) (h' : lo' ≤ hi') (hd : a < lo ∨ hi < b)
    (hd' : a < lo' ∨ hi' < b) : bitsOf (putBits (putBits x hi lo v) hi' lo' v') a b = bitsOf x a b := by
  rw [bitsOf_putBits_other _ _ h' hd', bitsOf_putBits_other _ _ h hd]

/-- A header after a record has been popped. -/
def hdrPopped (h : Nat) : Nat := putBits (putBits h 191 160 (hdrHead h + 1)) 271 256 (hdrNext h (hdrHslot h))

theorem hdrPopped_fields (h : Nat) : hdrHead (hdrPopped h) = (hdrHead h + 1) % 2 ^ 32 ∧
    hdrHslot (hdrPopped h) = (if hdrHslot h = hdrLast h then 0 else (hdrHslot h + 1) % 2 ^ 16) ∧ hdrTail (hdrPopped h) = hdrTail h := by
  refine ⟨?_, ?_, bitsOf_putBits_two h (by decide) (by decide) (by decide) (by decide)⟩
  · rw [hdrHead, hdrPopped, bitsOf_putBits_other _ _ (by decide) (by decide), bitsOf_putBits_same _ _ (by decide)]
  · rw [hdrHslot, hdrPopped, bitsOf_putBits_same _ _ (by decide)]
    exact hdrNext_mod ..

/-- A header after a place has been reserved for a record. -/
def hdrReserved (h : Nat) : Nat := putBits (putBits h 223 192 (hdrTail h + 1)) 287 272 (hdrNext h (hdrTslot h))

/-- A header after a record has been published. -/
def hdrPublished (h : Nat) : Nat := putBits (putBits h 255 224 (hdrReady h + 1)) 303 288 (hdrNext h (hdrRslot h))

theorem hdrReserved_fields (h : Nat) : hdrTail (hdrReserved h) = (hdrTail h + 1) % 2 ^ 32 ∧
    hdrTslot (hdrReserved h) = (if hdrTslot h = hdrLast h then 0 else (hdrTslot h + 1) % 2 ^ 16) ∧ hdrHead (hdrReserved h) = hdrHead h ∧
    hdrReady (hdrReserved h) = hdrReady h ∧ hdrRslot (hdrReserved h) = hdrRslot h ∧ hdrLast (hdrReserved h) = hdrLast h := by
  refine ⟨?_, ?_, bitsOf_putBits_two h (by decide) (by decide) (by decide) (by decide),
    bitsOf_putBits_two h (by decide) (by decide) (by decide) (by decide), bitsOf_putBits_two h (by decide) (by decide) (by decide) (by decide),
    bitsOf_putBits_two h (by decide) (by decide) (by decide) (by decide)⟩
  · rw [hdrTail, hdrReserved, bitsOf_putBits_other _ _ (by decide) (by decide), bitsOf_putBits_same _ _ (by decide)]
  · rw [hdrTslot, hdrReserved, bitsOf_putBits_same _ _ (by decide)]
    exact hdrNext_mod ..

theorem hdrPublished_fields (h : Nat) : hdrReady (hdrPublished h) = (hdrReady h + 1) % 2 ^ 32 ∧
    hdrRslot (hdrPublished h) = (if hdrRslot h = hdrLast h then 0 else (hdrRslot h + 1) % 2 ^ 16) ∧ hdrHead (hdrPublished h) = hdrHead h ∧
    hdrTail (hdrPublished h) = hdrTail h ∧ hdrTslot (hdrPublished h) = hdrTslot h := by
  refine ⟨?_, ?_, bitsOf_putBits_two h (by decide) (by decide) (by decide) (by decide),
    bitsOf_putBits_two h (by decide) (by decide) (by decide) (by decide), bitsOf_putBits_two h (by decide) (by decide) (by decide) (by decide)⟩
  · rw [hdrReady, hdrPublished, bitsOf_putBits_other _ _ (by decide) (by decide), bitsOf_putBits_same _ _ (by decide)]
  · rw [hdrRslot, hdrPublished, bitsOf_putBits_same _ _ (by decide)]
    exact hdrNext_mod ..

theorem hdrPopped_lt {h : Nat} (hh : h < 2 ^ (8 * 128)) : hdrPopped h < 2 ^ (8 * 128) :=
  putBits_lt _ (by decide) (by decide) (putBits_lt _ (by decide) (by decide) hh)

theorem hdrReserved_lt {h : Nat} (hh : h < 2 ^ (8 * 128)) : hdrReserved h < 2 ^ (8 * 128) :=
  putBits_lt _ (by decide) (by decide) (putBits_lt _ (by decide) (by decide) hh)

theorem hdrPublished_lt {h : Nat} (hh : h < 2 ^ (8 * 128)) : hdrPublished h < 2 ^ (8 * 128) :=
  putBits_lt _ (by decide) (by decide) (putBits_lt _ (by decide) (by decide) hh)

/-! ## ETH_TRANSMIT -/

section
variable {s t : State} (h : Off True s t)
include h

theorem Off.bufferAt (tenant va n : Nat) (p : Perm) : t.bufferAt tenant va n p = s.bufferAt tenant va n p := by
  simp only [State.bufferAt, h.translate (h.tlb 0), h.lineStops]

theorem Off.sendFrame (tenant r : Nat) : t.sendFrame tenant r = s.sendFrame tenant r := by
  simp only [State.sendFrame, h.bufferAt, State.bufferBytes, h.poisoned, h.mem]

end

theorem sendFrame_stat_lt {s : State} {tenant r stat : Nat} {frame : Option (List Byte × List (Nat × Nat))}
    (h : s.sendFrame tenant r = .ok (stat, frame)) : stat < 4 := by
  simp only [State.sendFrame] at h
  split at h
  · cases h; decide
  · split at h
    · cases h; decide
    · cases h
    · split at h <;> (cases h; decide)

@[simp] theorem outside_readBuffer (s : State) (tenant : Nat) (l : List (Nat × Nat)) : (s.readBuffer tenant l).outside = s.outside :=
  outside_foldl (fun _ _ => outside_readFor ..) l s

@[simp] theorem outside_kick (s : State) (header op : Nat) : (s.kick header op).outside = s.outside := by
  simp only [State.kick]; split <;> simp only [outside_pushOnce]

theorem State.crossed_no_pipe (s : State) {h : Nat} (hp : hdrPipe h = 0) (a b : Nat) : s.crossed h a b = s := by
  simp only [State.crossed, hp, if_true]

theorem State.port_modPort (s : State) (n : Nat) (f : EthPort → EthPort) : (s.modPort n f).port n = f (s.port n) := by
  simp only [State.port, State.modPort, State.modModule, SMap.get, SMap.get?_put, if_true, Option.getD_some]

/-- The frame that a port has sent, if there is one, is the newest of those it sent. -/
def State.sends (s : State) (n : Nat) (frame : Option (List Byte × List (Nat × Nat))) : State :=
  frame.elim s (fun f => s.modPort n (fun p => { p with sent := f.1 :: p.sent }))

theorem State.mem_sends (s : State) (n : Nat) (frame : Option (List Byte × List (Nat × Nat))) : (s.sends n frame).mem = s.mem := by
  cases frame <;> rfl

theorem State.sent_sends (s : State) (n : Nat) (frame : Option (List Byte × List (Nat × Nat))) :
    ((s.sends n frame).port n).sent = (frame.map (·.1)).toList ++ (s.port n).sent := by
  cases frame with
  | none => rfl
  | some f => exact congrArg EthPort.sent (State.port_modPort s n (fun p => { p with sent := f.1 :: p.sent }))

section
variable {s : State} {n tenant pa h ring : Nat} (hh : Memory.readNum s.mem pa 128 = h) (hpipe : hdrPipe h = 0)
  (hstop : s.lineStops (lineOf pa) true [0, 1] tenant = false)
include hh hpipe hstop

/-- The port pops a record, sends its frame, and writes the record's status. -/
theorem State.transmit_spec {stat : Nat} {frame : Option (List Byte × List (Nat × Nat))} (hthere : hdrThere h ≠ 0)
    (hsep : ring + 128 * hdrHslot h + 128 ≤ pa ∨ pa + 128 ≤ ring + 128 * hdrHslot h)
    (hstop' : s.lineStops (lineOf (ring + 128 * hdrHslot h)) true [0, 1] tenant = false)
    (hsend : s.sendFrame tenant (Memory.readNum s.mem (ring + 128 * hdrHslot h) 128) = .ok (stat, frame)) :
    Memory.readNum (s.transmit n tenant pa h ring).mem pa 128 = hdrPopped h ∧
      Memory.readNum (s.transmit n tenant pa h ring).mem (ring + 128 * hdrHslot h) 128 =
        ethRecord (ethBuf (Memory.readNum s.mem (ring + 128 * hdrHslot h) 128)) (ethLen (Memory.readNum s.mem (ring + 128 * hdrHslot h) 128)) stat ∧
      ((s.transmit n tenant pa h ring).port n).sent = (frame.map (·.1)).toList ++ (s.port n).sent ∧
      ∀ b, ¬(pa ≤ b ∧ b < pa + 128) → ¬(ring + 128 * hdrHslot h ≤ b ∧ b < ring + 128 * hdrHslot h + 128) →
        Memory.read (s.transmit n tenant pa h ring).mem b = Memory.read s.mem b := by
  obtain ⟨slot, hslot⟩ : ∃ slot, slot = ring + 128 * hdrHslot h := ⟨_, rfl⟩
  rw [← hslot] at hsep hstop' hsend ⊢
  obtain ⟨r, hr⟩ : ∃ r, r = Memory.readNum s.mem slot 128 := ⟨_, rfl⟩
  rw [← hr] at hsend ⊢
  obtain ⟨s1, hs1⟩ : ∃ s1, s1 = frame.elim s (fun f => s.readBuffer tenant f.2) := ⟨_, rfl⟩
  have ho1 : s1.outside = s.outside := by rw [hs1]; cases frame <;> simp
  have hlt : h < 2 ^ (8 * 128) := by rw [← hh]; exact Memory.readNum_lt ..
  have hst2 := Stores.putHeader s1 pa h (hdrPopped h)
  obtain ⟨hpa2, hread2⟩ := State.putHeader_spec (s := s1) (pa := pa) (old := h) (by rw [mem_of_outside ho1]; exact hh) (hdrPopped_lt hlt)
  obtain ⟨s2, hs2⟩ : ∃ s2, s2 = s1.putHeader pa h (hdrPopped h) := ⟨_, rfl⟩
  rw [← hs2] at hst2 hpa2 hread2
  have hbuf : ethBuf r < 2 ^ 64 := by rw [ethBuf_eq]; exact Nat.mod_lt _ (by decide)
  obtain ⟨hst3, hslot3, hread3⟩ := s2.writeCells_spec tenant slot (ethRecord_lt (len := ethLen r) hbuf (sendFrame_stat_lt hsend))
  obtain ⟨s3, hs3⟩ : ∃ s3, s3 = (s2.writeDirect none tenant (cellsOf slot 128 (ethRecord (ethBuf r) (ethLen r) stat))).1 := ⟨_, rfl⟩
  rw [← hs3] at hst3 hslot3 hread3
  have heq : s.transmit n tenant pa h ring = (s3.sends n frame).kick pa 0 := by
    have hfind : [lineOf pa, lineOf slot].find? (fun l => s.lineStops l true [0, 1] tenant) = none := by
      simp [hstop, hstop']
    simp only [State.transmit, if_neg hthere, ← hslot, hfind, ← hr, hsend, State.crossed_no_pipe _ hpipe]
    rw [hs3, hs2, hs1]
    cases frame with
    | none => simp only [Option.elim_none, State.sends, hdrPopped]
    | some f => simp only [Option.elim_some, State.sends, hdrPopped]
  have hmem : (s.transmit n tenant pa h ring).mem = s3.mem := by
    rw [heq, mem_of_outside (outside_kick ..), State.mem_sends]
  rw [hmem]
  refine ⟨?_, hslot3, ?_, fun b hb hb' => ?_⟩
  · rw [← hpa2]
    exact Memory.readNum_congr fun i hi => hread3 _ (by omega)
  · have hport : (s.transmit n tenant pa h ring).port n = (s3.sends n frame).port n := by
      rw [heq, State.port, ports_of_outside (outside_kick ..)]; rfl
    have hport3 : s3.port n = s.port n := by
      rw [State.port, (((Stores.of_outside ho1).trans hst2).trans hst3).ports]; rfl
    rw [hport, State.sent_sends, hport3]
  · rw [hread3 b hb', hread2 b hb, mem_of_outside ho1]

end

/-- The port sends the record at the head of its queue. -/
theorem becomes_ethTransmit {s : State} {n tenant pa h ring stat : Nat} {frame : Option (List Byte × List (Nat × Nat))}
    (hb : s.modul.booted = true) (howner : (s.port n).owner = some tenant) (hh : Memory.readNum s.mem pa 128 = h) (hpipe : hdrPipe h = 0)
    (hstop : s.lineStops (lineOf pa) true [0, 1] tenant = false) (hq : s.portQueue tenant (s.port n).txHeader = .ok pa h ring)
    (hthere : hdrThere h ≠ 0) (hsep : ring + 128 * hdrHslot h + 128 ≤ pa ∨ pa + 128 ≤ ring + 128 * hdrHslot h)
    (hstop' : s.lineStops (lineOf (ring + 128 * hdrHslot h)) true [0, 1] tenant = false)
    (hsend : s.sendFrame tenant (Memory.readNum s.mem (ring + 128 * hdrHslot h) 128) = .ok (stat, frame)) :
    Becomes (.ethTransmit n) s fun t => Memory.readNum t.mem pa 128 = hdrPopped h ∧
      Memory.readNum t.mem (ring + 128 * hdrHslot h) 128 =
        ethRecord (ethBuf (Memory.readNum s.mem (ring + 128 * hdrHslot h) 128)) (ethLen (Memory.readNum s.mem (ring + 128 * hdrHslot h) 128)) stat ∧
      (t.port n).sent = (frame.map (·.1)).toList ++ (s.port n).sent ∧
      ∀ b, ¬(pa ≤ b ∧ b < pa + 128) → ¬(ring + 128 * hdrHslot h ≤ b ∧ b < ring + 128 * hdrHslot h + 128) →
        Memory.read t.mem b = Memory.read s.mem b := by
  obtain ⟨s1, hs1⟩ : ∃ s1, s1 = s.taken (.ethTransmit n) := ⟨_, rfl⟩
  have h1 : Off True s s1 := by rw [hs1]; exact .of_taken ..
  have hport : s1.port n = s.port n := by rw [hs1]; rfl
  have hex : exec (.ethTransmit n) s = .next (s1.transmit n tenant pa h ring) := by
    show execEthTransmit n s = _
    have hb1 : s1.modul.booted = true := by rw [h1.modul]; exact hb
    have hq1 : s1.portQueue tenant (s.port n).txHeader = .ok pa h ring := by
      rw [State.portQueue, h1.lookHeader (h1.tlb 0)]; exact hq
    simp only [execEthTransmit, ← hs1, hport, howner, hb1, hq1]
    rfl
  have hspec := State.transmit_spec (s := s1) (n := n) (ring := ring) (by rw [h1.mem]; exact hh) hpipe (by rw [h1.lineStops]; exact hstop) hthere
    hsep (by rw [h1.lineStops]; exact hstop') (by rw [h1.sendFrame, h1.mem]; exact hsend)
  rw [hport, h1.mem] at hspec
  exact ⟨_, hex, hspec⟩

/-! ## ETH_FRAME_RECEIVE -/

theorem becomes_ethFrameReceive_down {s : State} (hb : s.modul.booted = false) (n : Nat) (frame : List Byte) (ok : Bool) :
    Becomes (.ethFrameReceive n frame ok) s fun t => t = s := by
  refine ⟨s, ?_, rfl⟩
  show execEthFrameReceive n frame ok s = _
  simp only [execEthFrameReceive, hb]
  cases (s.port n).owner <;> rfl

section
variable {s : State} {n tenant pa h ring : Nat} (hb : s.modul.booted = true) (howner : (s.port n).owner = some tenant)
  (hq : s.portQueue tenant (s.port n).rxHeader = .ok pa h ring) (frame : List Byte) (ok : Bool)
include hb howner hq

/-- A frame for which there is no record is dropped and counted. -/
theorem becomes_ethFrameReceive_drop (hfull : hdrClosed h = true ∨ hdrCap h ≤ hdrHeld h) : Becomes (.ethFrameReceive n frame ok) s fun t =>
    t = { s with modul := t.modul } ∧ (t.port n).drops = (s.port n).drops + 1 := by
  refine ⟨s.modPort n (fun p => { p with drops := p.drops + 1 }), ?_, rfl,
    congrArg EthPort.drops (State.port_modPort s n (fun p => { p with drops := p.drops + 1 }))⟩
  show execEthFrameReceive n frame ok s = _
  have hc : (hdrClosed h || decide (hdrCap h ≤ hdrHeld h)) = true := by simpa using hfull
  simp only [execEthFrameReceive, howner, hb, hq, hc]
  rfl

theorem exec_ethFrameReceive (hc : hdrClosed h = false) (hroom : hdrHeld h < hdrCap h) :
    exec (.ethFrameReceive n frame ok) s = .next (s.receive tenant pa h ring frame ok) := by
  show execEthFrameReceive n frame ok s = _
  have hc : (hdrClosed h || decide (hdrCap h ≤ hdrHeld h)) = false := by simp [hc, hroom]
  simp only [execEthFrameReceive, howner, hb, hq, hc]
  rfl

end

/-! ## Publishing a record -/

theorem SMap.find?_put {α : Type} {q : Nat × α → Bool} {k : Nat} {v : α} {m : SMap α} (hm : ∀ e ∈ m, q e = false) (hv : q (k, v) = true) :
    (SMap.put k v m).find? q = some (k, v) := by
  induction m with
  | nil => simp [SMap.put, hv]
  | cons e t ih =>
    have he := hm e (List.mem_cons_self ..)
    have ht := ih fun e h => hm e (List.mem_cons_of_mem _ h)
    simp only [SMap.put]
    split
    · rw [List.find?_cons, hv]
    · split
      · rw [List.find?_cons, hv]
      · rw [List.find?_cons, he, ht]

theorem SMap.put_ne_nil {α : Type} (k : Nat) (v : α) (m : SMap α) : SMap.put k v m ≠ [] := by
  cases m with
  | nil => simp [SMap.put]
  | cons e t => simp only [SMap.put]; split <;> (try split) <;> simp

/-- Where no message is of a queue, there is nothing to publish and nobody to kick. -/
theorem State.publish_none {s : State} {pa : Nat} (h : ∀ e ∈ s.launches.messages, e.2.header ≠ pa) (n : Nat) : s.publish pa n = s := by
  cases n with
  | zero => rfl
  | succ n =>
    have hf : s.launches.messages.find? (fun e => decide (e.2.header = pa ∧ e.2.op = 3 ∧
        e.2.place = hdrRslot (Memory.readNum s.mem pa 128))) = none :=
      List.find?_eq_none.2 fun e he => by simp [h e he]
    simp only [State.publish, hf]

theorem State.kick_none {s : State} {pa : Nat} (h : ∀ e ∈ s.launches.messages, e.2.header ≠ pa) (op : Nat) : s.kick pa op = s := by
  have hf : s.launches.messages.find? (fun e => decide (e.2.header = pa ∧ e.2.op = op)) = none :=
    List.find?_eq_none.2 fun e he => by simp [h e he]
  simp only [State.kick, hf]

@[simp] theorem outside_wakeQueue (s : State) (header : Nat) : (s.wakeQueue header).outside = s.outside := by
  simp only [State.wakeQueue]
  exact outside_foldl (fun s e => outside_modWarp ..) _ s

/-- A record that is alone on its way to a queue is published at once where it has the next slot. -/
theorem State.publish_one {s : State} {pa h id : Nat} {m : StageMessage} (hh : Memory.readNum s.mem pa 128 = h) (hm : m.header = pa) (hop : m.op = 3)
    (hplace : m.place = hdrRslot h) (hothers : ∀ e ∈ s.launches.messages, e.2.header ≠ pa) (s1 : State)
    (hs1 : s1 = { s with launches := { s.launches with messages := SMap.put id m s.launches.messages, nextMessage := id + 1 } }) :
    ∃ s2 : State, s1.publish pa s1.launches.messages.length = s2.putHeader pa h (hdrPublished h) ∧ s2.mem = s.mem ∧
      s2.launches.messages = SMap.del id (SMap.put id m s.launches.messages) := by
  have hms : s1.launches.messages = SMap.put id m s.launches.messages := by rw [hs1]
  obtain ⟨n, hn⟩ : ∃ n, s1.launches.messages.length = n + 1 :=
    Nat.exists_eq_succ_of_ne_zero fun h0 => SMap.put_ne_nil id m s.launches.messages (by rw [← hms]; exact List.length_eq_zero_iff.1 h0)
  have hmem : s1.mem = s.mem := by rw [hs1]
  have hfind : s1.launches.messages.find? (fun e => decide (e.2.header = pa ∧ e.2.op = 3 ∧ e.2.place = hdrRslot h)) = some (id, m) := by
    rw [hms]
    exact SMap.find?_put (fun e he => by simp [hothers e he]) (by simp [hm, hop, hplace])
  obtain ⟨s2, hs2⟩ : ∃ s2, s2 = s1.dropMessage id := ⟨_, rfl⟩
  have hms2 : s2.launches.messages = SMap.del id (SMap.put id m s.launches.messages) := by rw [hs2, ← hms]; rfl
  have hnone : ∀ e ∈ (s2.putHeader pa h (hdrPublished h)).launches.messages, e.2.header ≠ pa := by
    rw [(Stores.putHeader ..).launches, hms2]
    intro e he
    obtain ⟨he', hne⟩ := SMap.mem_of_mem_del he
    rcases SMap.mem_put he' with rfl | he'
    · exact absurd rfl hne
    · exact hothers e he'
  refine ⟨s2, ?_, by rw [hs2]; exact hmem, hms2⟩
  rw [hn]
  simp only [State.publish, hmem, hh, hfind]
  rw [← hs2]
  exact State.publish_none hnone n

/-- A frame that is too short: its record is published with status 2. -/
theorem becomes_ethFrameReceive_short {s : State} {n tenant pa h ring : Nat} {frame : List Byte} (ok : Bool) (hb : s.modul.booted = true)
    (howner : (s.port n).owner = some tenant) (hh : Memory.readNum s.mem pa 128 = h) (hpipe : hdrPipe h = 0)
    (hstop : s.lineStops (lineOf pa) true [0, 1] tenant = false) (hq : s.portQueue tenant (s.port n).rxHeader = .ok pa h ring)
    (hc : hdrClosed h = false) (hroom : hdrHeld h < hdrCap h) (hshort : frame.length < 64) (hslots : hdrRslot h = hdrTslot h)
    (hothers : ∀ e ∈ s.launches.messages, e.2.header ≠ pa)
    (hsep : ring + 128 * hdrTslot h + 128 ≤ pa ∨ pa + 128 ≤ ring + 128 * hdrTslot h)
    (hstop' : s.lineStops (lineOf (ring + 128 * hdrTslot h)) true [0, 1] tenant = false)
    (hun : s.uncollapsed (lineOf (ring + 128 * hdrTslot h)) = true) :
    Becomes (.ethFrameReceive n frame ok) s fun t => Memory.readNum t.mem pa 128 = hdrPublished (hdrReserved h) ∧
      Memory.readNum t.mem (ring + 128 * hdrTslot h) 128 =
        ethRecord (ethBuf (Memory.readNum s.mem (ring + 128 * hdrTslot h) 128)) frame.length 2 ∧
      ∀ b, ¬(pa ≤ b ∧ b < pa + 128) → ¬(ring + 128 * hdrTslot h ≤ b ∧ b < ring + 128 * hdrTslot h + 128) →
        Memory.read t.mem b = Memory.read s.mem b := by
  obtain ⟨slot, hslot⟩ : ∃ slot, slot = ring + 128 * hdrTslot h := ⟨_, rfl⟩
  rw [← hslot] at hsep hstop' hun ⊢
  obtain ⟨r, hr⟩ : ∃ r, r = Memory.readNum s.mem slot 128 := ⟨_, rfl⟩
  rw [← hr]
  have hlt : h < 2 ^ (8 * 128) := by rw [← hh]; exact Memory.readNum_lt ..
  have hbuf : ethBuf r < 2 ^ 64 := by rw [ethBuf_eq]; exact Nat.mod_lt _ (by decide)
  obtain ⟨hst1, hslot1, hread1⟩ := s.writeCells_spec tenant slot (ethRecord_lt (len := frame.length) (stat := 2) hbuf (by decide))
  obtain ⟨s1, hs1⟩ : ∃ s1, s1 = (s.writeDirect none tenant (cellsOf slot 128 (ethRecord (ethBuf r) frame.length 2))).1 := ⟨_, rfl⟩
  rw [← hs1] at hst1 hslot1 hread1
  have hpa1 : Memory.readNum s1.mem pa 128 = h := by
    rw [← hh]; exact Memory.readNum_congr fun i hi => hread1 _ (by omega)
  have hst2 := Stores.putHeader s1 pa h (hdrReserved h)
  obtain ⟨hpa2, hread2⟩ := State.putHeader_spec hpa1 (hdrReserved_lt hlt)
  obtain ⟨s2, hs2⟩ : ∃ s2, s2 = s1.putHeader pa h (hdrReserved h) := ⟨_, rfl⟩
  rw [← hs2] at hst2 hpa2 hread2
  have hmsg : s2.launches.messages = s.launches.messages := by rw [(hst1.trans hst2).launches]
  obtain ⟨m, hm⟩ : ∃ m : StageMessage, m =
    { core := 0xFFFF, slot := 64, access := 0, header := pa, ring := ring, op := 3, tenant := tenant, lanes := [], place := hdrTslot h } := ⟨_, rfl⟩
  have hplace : m.place = hdrRslot (hdrReserved h) := by
    obtain ⟨-, -, -, -, hrs, -⟩ := hdrReserved_fields h
    rw [hrs, hslots, hm]
  obtain ⟨s4, hpub, hmem4, hms4⟩ := State.publish_one hpa2 (id := s2.launches.nextMessage) (m := m) (by rw [hm]) (by rw [hm]) hplace
    (by rw [hmsg]; exact hothers) _ rfl
  obtain ⟨hpa5, hread5⟩ := State.putHeader_spec (s := s4) (pa := pa) (old := hdrReserved h) (by rw [hmem4]; exact hpa2) (hdrPublished_lt (hdrReserved_lt hlt))
  have hst5 := Stores.putHeader s4 pa (hdrReserved h) (hdrPublished (hdrReserved h))
  obtain ⟨s5, hs5⟩ : ∃ s5, s5 = s4.putHeader pa (hdrReserved h) (hdrPublished (hdrReserved h)) := ⟨_, rfl⟩
  rw [← hs5] at hpub hpa5 hread5 hst5
  have hms5 : s5.launches.messages = SMap.del s2.launches.nextMessage (SMap.put s2.launches.nextMessage m s2.launches.messages) := by
    rw [hst5.launches, hms4]
  have hgone : (s5.message? s2.launches.nextMessage).isNone = true := by
    rw [State.message?, hms5, SMap.get?_del, if_pos rfl]; rfl
  have hnone : ∀ e ∈ (s5.wakeQueue pa).launches.messages, e.2.header ≠ pa := by
    rw [launches_of_outside (outside_wakeQueue ..), hms5, hmsg]
    intro e he
    obtain ⟨he', hne⟩ := SMap.mem_of_mem_del he
    rcases SMap.mem_put he' with rfl | he'
    · exact absurd rfl hne
    · exact hothers e he'
  have heq : s.receive tenant pa h ring frame ok = s5.wakeQueue pa := by
    have hfind : [lineOf pa, lineOf slot].find? (fun l => s.lineStops l true [0, 1] tenant) = none := by
      simp [hstop, hstop']
    have hstat : s.receiveStatus tenant (ethBuf r) frame ok = .ok (2, []) := by
      have hf : frameOk frame.length = false := by simp only [frameOk, decide_eq_false_iff_not]; omega
      simp only [State.receiveStatus, hf]; rfl
    have hany : ((lineOf slot :: ([] : List (Nat × Nat)).map (fun e => lineOf e.1)).dedup).any (fun x => !s.uncollapsed x) = false := by
      simp [hun]
    have hfirst : (s.writeDirect none tenant (bufferCells [] frame)).1 = s := rfl
    simp only [State.receive, ← hslot, hfind, ← hr, hstat, hany, hfirst, ← hs1, State.addMessage]
    rw [show putBits (putBits h 223 192 (hdrTail h + 1)) 287 272 (hdrNext h (hdrTslot h)) = hdrReserved h from rfl, ← hs2, ← hm, hpub,
      State.crossed_no_pipe _ hpipe, hgone, if_pos rfl, State.kick_none hnone]
    rfl
  have hmem : (s.receive tenant pa h ring frame ok).mem = s5.mem := by rw [heq, mem_of_outside (outside_wakeQueue ..)]
  refine ⟨_, exec_ethFrameReceive hb howner hq frame ok hc hroom, ?_, ?_, fun b hb hb' => ?_⟩
  · rw [hmem]; exact hpa5
  · rw [hmem, ← hslot1]
    exact Memory.readNum_congr fun i hi => by rw [hread5 _ (by omega), hmem4, hread2 _ (by omega)]
  · rw [hmem, hread5 b hb, hmem4, hread2 b hb, hread1 b hb']

end Sys2Proof.Machine

/-! # Launches, pre-emption, the Nyrus Link and the Ethernet ports (R33, R37, R59, R60, R142, R346, R350, R362, R364, R426, R453, R455) -/

namespace Sys2Proof.Machine

/-- Settles O59: the steps of a launch, of pre-emption, of the Nyrus Link and of the Ethernet ports, one after the other. -/
theorem launchAndLinkSteps : Obligations.LaunchAndLinkSteps := by
  unfold Obligations.LaunchAndLinkSteps
  refine ⟨?_, ?_, ?_, ?_, ?_, ?_, ?_, ?_, ?_, ?_, ?_⟩
  · intro s t q hb hq
    exact ⟨fun cause l hl hf => becomes_launchRecordTake_reject hb hq hl hf, fun l hl hp => becomes_launchRecordTake_good hb hq hl hp⟩
  · intro s id block c ret l k g hl hk hw hp htog ht hplace hn
    exact becomes_blockStart hl hk hw hp htog ht hplace hn
  · intro s c p k w l hk hw hlatch hg hl hp he hr
    exact becomes_warpEnd hk hw hlatch hg hl hp he hr
  · intro s id l hl ho
    exact ⟨fun hf hc => becomes_launchCompletion_flush hl ho hf hc, fun hf hs hc => becomes_launchCompletion_gone hl ho hf hs hc⟩
  · intro s c p k w b hk hkw hb hlatch hg htrap hpriv hpark hbehind hrun hsaved
    have ha : Alone s c p w := ⟨⟨k, hk, hkw⟩, hlatch, hg, htrap, hpriv, hpark, hbehind, hrun, hsaved⟩
    have hblock : s.block? c w.block = some b := by rw [State.block?, hk]; exact hb
    exact ⟨fun n entry hs hwh hp hv hr hh hz hu => becomes_flashbackSave ha hblock hs hwh hp hv hr hh hz hu,
      fun hh => becomes_flashbackSave_halfServed ha hblock hh,
      fun q n hkb hq hs hr hf hn => becomes_preemptRequest hk hkw hkb hs ha hq hr hf hn,
      fun q hkb hs h => becomes_preemptRequest_refused hk hkw hkb hs h⟩
  · intro s c p tenant n k v w image win bits hk hv hvw hfit hpipe hstop hget
    obtain ⟨himage, hwin, hbits⟩ := hget
    exact becomes_blockResume hk hv hvw hfit hpipe hstop himage hwin hbits
  · intro s c id k r w a hk hid hw ha hneeds heng
    subst hid
    have h : Asked s c r k w a := ⟨hk, hw, ha, hneeds, heng⟩
    refine ⟨fun lanes hl hb => ⟨fun hm hx hr ho => becomes_nyrusRequestLeave_sent h hl hb hm hx hr ho,
        fun hn => ⟨_, becomes_nyrusRequestLeave_fails h hl hb hn, (h.taken _).nyrusFails⟩,
        fun own hm hx ho hop hd hs => becomes_nyrusRequestLeave_own h hl hb hm hx ho hop hd hs⟩,
      fun hl => becomes_nyrusRequestLeave_waits hk hl r.id,
      fun hn at_ hs => ⟨fun hle => ⟨_, exec_peerTimeout h hn hs hle, (h.taken _).nyrusFails⟩,
        fun data hd hop => becomes_nyrusResponse h hn hs hd hop⟩⟩
  · intro s addr
    exact ⟨becomes_peerRequestServe_down, fun hb => ⟨fun ha n => becomes_peerRequestServe_outside hb ha n,
      fun ha hd hs n hn => becomes_peerRequestServe_read hb ha hd hs hn,
      fun ha hs d hd hr data => becomes_peerRequestServe_write hb ha hs hd hr data⟩⟩
  · exact fun s lane h => becomes_nyrusLaneRetire s h
  · exact fun s n frame ok hb => becomes_ethFrameReceive_down hb n frame ok
  · intro s n tenant pa h ring hb howner hpipe hh hstop
    dsimp only
    refine ⟨fun stat frame hq hthere hsep hstop' hsend => ?_, fun frame ok hq => ⟨fun hfull => becomes_ethFrameReceive_drop hb howner hq frame ok hfull,
      fun hc hroom hshort hslots hothers hsep hstop' hun => ?_⟩⟩
    · obtain ⟨t, hex, hpa, hslot, hsent, hread⟩ := becomes_ethTransmit hb howner hh hpipe hstop hq hthere hsep hstop' hsend
      obtain ⟨hhead, hhslot, htail⟩ := hdrPopped_fields h
      refine ⟨t, hex, ?_, ?_, ?_, ?_, hsent, hread⟩
      · rw [hpa]; exact hhead
      · rw [hpa]; exact hhslot
      · rw [hpa]; exact htail
      · rw [hslot, ethBuf_eq]; rfl
    · obtain ⟨t, hex, hpa, hslot, hread⟩ :=
        becomes_ethFrameReceive_short ok hb howner hh hpipe hstop hq hc hroom hshort hslots hothers hsep hstop' hun
      obtain ⟨htail, htslot, hhead, hready, hrslot, hlast⟩ := hdrReserved_fields h
      obtain ⟨hready', hrslot', hhead', htail', htslot'⟩ := hdrPublished_fields (hdrReserved h)
      refine ⟨t, hex, ?_, ?_, ?_, ?_, ?_, ?_, hread⟩
      · rw [hpa, htail', htail]
      · rw [hpa, hready', hready]
      · rw [hpa, htslot', htslot]
      · rw [hpa, hrslot', hrslot, hlast, hslots]
      · rw [hpa, hhead', hhead]
      · rw [hslot, ethBuf_eq]; rfl

end Sys2Proof.Machine

/-! # The admission unit: one warp is admitted, a head marks another one, a lease decays (R43 to R45, R48, R60) -/

namespace Sys2Proof.Machine

/-! ## A quadrant, as the admission unit sees it -/

theorem get?_filter_quad (l : SMap Warp) {p q : Nat} (h : quadOf p = q) :
    SMap.get? p (l.filter (fun e => decide (quadOf e.1 = q))) = SMap.get? p l := by
  induction l with
  | nil => rfl
  | cons e t ih =>
    rw [List.filter_cons]
    by_cases he : quadOf e.1 = q
    · rw [if_pos (by simpa using he)]; simp only [SMap.get?, ih]
    · rw [if_neg (by simpa using he), ih]
      have hne : p ≠ e.1 := fun hp => he (by rw [← hp]; exact h)
      simp only [SMap.get?, if_neg hne]

theorem filter_modify_quad (f : Warp → Warp) (l : SMap Warp) {p q : Nat} (h : quadOf p = q) :
    (SMap.modify p f l).filter (fun e => decide (quadOf e.1 = q)) = SMap.modify p f (l.filter (fun e => decide (quadOf e.1 = q))) := by
  induction l with
  | nil => rfl
  | cons e t ih =>
    simp only [SMap.modify]
    split
    · rename_i hp
      have he : quadOf e.1 = q := by rw [← hp]; exact h
      rw [List.filter_cons, if_pos (by simpa using he), List.filter_cons, if_pos (by simpa using he)]
      simp only [SMap.modify, if_pos hp]
    · rename_i hp
      rw [List.filter_cons, List.filter_cons, ih]
      split
      · simp only [SMap.modify, if_neg hp]
      · rfl

/-- In `s`, which grew out of `s0`, a quadrant has these warps and these registers; elsewhere warps are as they were. -/
structure InQuad (s0 : State) (c q : Nat) (s : State) (L : List (Nat × Warp)) (x : Quad) (n : Nat) : Prop where
  core : ∃ k, s.core? c = some k ∧ k.warpsOf q = L ∧ k.quad q = x ∧ q < k.quads.length ∧ k.cyc = n
  others : ∀ d r, d ≠ c ∨ quadOf r ≠ q → s.warp? d r = s0.warp? d r
  fill : s.modul.fill = s0.modul.fill

section
variable {s0 s : State} {c q : Nat} {L : List (Nat × Warp)} {x : Quad} {n : Nat} (h : InQuad s0 c q s L x n)
include h

theorem InQuad.sight : s.sight c q = { warps := L, quad := x, budget := x.budget s0.modul.fill, now := n + 1 } := by
  obtain ⟨k, hk, hL, hx, -, hn⟩ := h.core
  simp only [State.sight, hk, Option.getD_some, hL, hx, hn, h.fill]

theorem InQuad.cyc : s.cyc c = n := by
  obtain ⟨k, hk, -, -, -, hn⟩ := h.core
  rw [State.cyc_eq hk, hn]

theorem InQuad.warp? {p : Nat} (hp : quadOf p = q) : s.warp? c p = SMap.get? p L := by
  obtain ⟨k, hk, hL, -⟩ := h.core
  rw [State.warp?, hk, Option.bind_some, ← hL, Core.warpsOf, get?_filter_quad _ hp]

theorem InQuad.taken (e : Instr) : InQuad s0 c q (s.taken e) L x n := ⟨h.core, h.others, h.fill⟩

theorem InQuad.modQuad (f : Quad → Quad) : InQuad s0 c q (s.modQuad c q f) L (f x) n := by
  obtain ⟨k, hk, hL, hx, hq, hn⟩ := h.core
  refine ⟨⟨k.modQuad q f, by rw [State.core?_modQuad, if_pos rfl, hk]; rfl, hL, ?_, ?_, hn⟩, fun d r hdr => ?_, h.fill⟩
  · rw [Core.quad_modQuad, if_pos ⟨rfl, hq⟩, hx]
  · simpa [Core.modQuad] using hq
  · rw [State.warp?_modQuad]; exact h.others d r hdr

theorem InQuad.modWarp {p : Nat} (hp : quadOf p = q) (f : Warp → Warp) : InQuad s0 c q (s.modWarp c p f) (SMap.modify p f L) x n := by
  obtain ⟨k, hk, hL, hx, hq, hn⟩ := h.core
  refine ⟨⟨{ k with warps := SMap.modify p f k.warps }, by rw [State.core?_modWarp, if_pos rfl, hk]; rfl, ?_, hx, hq, hn⟩,
    fun d r hdr => ?_, h.fill⟩
  · rw [← hL]; exact filter_modify_quad f k.warps hp
  · rw [State.warp?_modWarp, if_neg (by rintro ⟨rfl, rfl⟩; exact hdr.elim (· rfl) (· hp))]
    exact h.others d r hdr

theorem InQuad.modWarpsOf (f : Nat → Warp → Warp) : InQuad s0 c q (s.modWarpsOf c q f) (L.map (fun e => (e.1, f e.1 e.2))) x n := by
  obtain ⟨k, hk, hL, hx, hq, hn⟩ := h.core
  have hget : ∀ (l : SMap Warp) (r : Nat), quadOf r ≠ q →
      SMap.get? r (l.map (fun e => if quadOf e.1 = q then (e.1, f e.1 e.2) else e)) = SMap.get? r l := fun l r hr => by
    induction l with
    | nil => rfl
    | cons e t ih =>
      rw [List.map_cons]
      by_cases he : quadOf e.1 = q
      · have hne : r ≠ e.1 := fun hre => hr (by rw [hre]; exact he)
        simp only [if_pos he, SMap.get?, if_neg hne, ih]
      · simp only [if_neg he, SMap.get?, ih]
  refine ⟨⟨{ k with warps := k.warps.map (fun e => if quadOf e.1 = q then (e.1, f e.1 e.2) else e) }, ?_, ?_, hx, hq, hn⟩,
    fun d r hdr => ?_, h.fill⟩
  · rw [State.modWarpsOf, State.core?_modCore, if_pos rfl, hk]; rfl
  · rw [← hL, Core.warpsOf, Core.warpsOf]
    dsimp only
    induction k.warps with
    | nil => rfl
    | cons e t ih =>
      rw [List.map_cons, List.filter_cons, List.filter_cons]
      by_cases he : quadOf e.1 = q
      · simp only [decide_true, if_true, he, List.map_cons, ih]
      · simp only [he, decide_false, Bool.false_eq_true, if_false, ih]
  · rw [← h.others d r hdr, State.warp?, State.warp?, State.modWarpsOf, State.core?_modCore]
    by_cases hd : d = c
    · rw [if_pos hd, hd, hk, Option.map_some, Option.bind_some, Option.bind_some, hget _ _ (hdr.resolve_left (· hd))]
    · rw [if_neg hd]

theorem InQuad.recount : InQuad s0 c q (s.recount c q) L { x with
    admitted := ((L.filter (fun e => e.2.lease.counted)).map (fun e => e.2.lease.effective)).sum } n := by
  have hs : (s.sight c q).sum = ((L.filter (fun e => e.2.lease.counted)).map (fun e => e.2.lease.effective)).sum := by
    rw [h.sight]; rfl
  rw [State.recount, hs]
  exact h.modQuad (fun x => { x with admitted := _ })

theorem InQuad.admitSlot {p : Nat} (hp : quadOf p = q) : ∃ a, InQuad s0 c q (s.admitSlot c p)
    (SMap.modify p (fun w => { w with lease := { w.lease with st := .admitted, counted := true, passed := 0 } }) L) { x with admitted := a } n ∧
    a = (((SMap.modify p (fun w => { w with lease := { w.lease with st := .admitted, counted := true, passed := 0 } }) L).filter
      (fun e => e.2.lease.counted)).map (fun e => e.2.lease.effective)).sum := by
  refine ⟨_, ?_, rfl⟩
  rw [State.admitSlot, hp]
  exact (h.modWarp hp _).recount

theorem InQuad.markReturning {p : Nat} (hp : quadOf p = q) : InQuad s0 c q (s.markReturning c p)
    (SMap.modify p (fun w => { w with lease := { w.lease with st := .returning } }) L) { x with marked := p :: x.marked } n := by
  rw [State.markReturning, hp]
  exact (h.modWarp hp (fun w => { w with lease := { w.lease with st := .returning } })).modQuad (fun x => { x with marked := p :: x.marked })

end

/-! ## A lone warp is admitted (R43, R44) -/

theorem lone_slot {k : Core} {q p : Nat} {w : Warp} (hw : k.warpsOf q = [(p, w)]) : quadOf p = q := by
  have h : (p, w) ∈ k.warpsOf q := by rw [hw]; exact List.mem_singleton.2 rfl
  simpa using (List.mem_filter.1 h).2

section
variable {s : State} {c q p : Nat} {k : Core} {w : Warp} (hk : s.core? c = some k) (hlen : q < k.quads.length)
include hk hlen

theorem InQuad.start : InQuad s c q s (k.warpsOf q) (k.quad q) k.cyc := ⟨⟨k, hk, rfl, rfl, hlen, rfl⟩, fun _ _ _ => rfl, rfl⟩

theorem becomes_admissionCycle (hw : k.warpsOf q = [(p, w)]) (hh : (k.quad q).head = none) (hst : w.lease.st = .waiting) (ho : w.over = false)
    (hwait : k.cyc + 1 < w.lease.waitFrom + 16384) : Becomes (.admissionCycle c q) s fun t => ∃ w' k', Rewrites c p s t w' ∧ t.core? c = some k' ∧
        w' = { w with lease := { w.lease with st := .admitted, counted := true, passed := 0 } } ∧
        (k'.quad q).admitted = (if w.lease.decl = 0 then w.lease.meas
          else if w.lease.fixed then 16 * w.lease.decl else max (16 * w.lease.decl) w.lease.meas) := by
  have hp := lone_slot hw
  have h0 := (InQuad.start hk hlen).taken (.admissionCycle c q)
  rw [hw] at h0
  obtain ⟨w1, hw1⟩ : ∃ w1, w1 = { w with lease := { w.lease with counted := false } } := ⟨_, rfl⟩
  have hc1 : w1.lease.counted = false := by rw [hw1]
  have hst1 : w1.lease.st = .waiting := by rw [hw1]; exact hst
  have ho1 : w1.over = false := by rw [hw1]; exact ho
  have hwait1 : ¬(w1.lease.waitFrom + 16384 ≤ k.cyc + 1) := by rw [hw1]; dsimp only; omega
  have hleave : ∀ n, w.lease.leave n = { w.lease with counted := false } := fun n => by
    simp only [Lease.leave, hst]; rfl
  -- steps 1 and 2: nothing is counted, and there is no excess
  obtain ⟨s1, hs1⟩ : ∃ s1, s1 = (s.taken (.admissionCycle c q)).leaveSum c q := ⟨_, rfl⟩
  have h1 : InQuad s c q s1 [(p, w1)] { k.quad q with admitted := 0 } k.cyc := by
    have h := (h0.modWarpsOf (fun _ w => { w with lease := w.lease.leave ((s.taken (.admissionCycle c q)).cyc c + 1) })).recount
    rw [← State.leaveSum, ← hs1] at h
    simpa only [List.map_cons, List.map_nil, hleave, ← hw1, List.filter_cons, hc1, List.filter_nil, Bool.false_eq_true, if_false, List.sum_nil] using h
  obtain ⟨s2, hs2⟩ : ∃ s2, s2 = s1.applyExcess c q := ⟨_, rfl⟩
  have h2 : InQuad s c q s2 [(p, w1)] { k.quad q with admitted := 0 } k.cyc := by
    have h := h1.recount
    have hex : ((s1.recount c q).sight c q).excess = none := by
      rw [h.sight]
      simp [Sight.excess, Sight.sum, hc1]
    rw [hs2, State.applyExcess]
    simp only [hex]
    simpa only [List.filter_cons, hc1, List.filter_nil, Bool.false_eq_true, if_false, List.map_nil, List.sum_nil] using h
  have hwaiters : (s2.sight c q).waiters = [(p, w1)] := by
    rw [h2.sight]
    simp [Sight.waiters, hst1, ho1]
  have hqual : (s2.sight c q).qualifier = none := by
    rw [Sight.qualifier, hwaiters, h2.sight]
    simp only [List.filter_cons, decide_eq_false hwait1, Bool.false_eq_true, if_false, List.filter_nil]
    rfl
  have hhead : (s2.sight c q).quad.head = none := by rw [h2.sight]; exact hh
  have hwidens : s2.widens c q = false := by simp only [State.widens, hhead]
  -- step 4: the warp fits beside nothing
  obtain ⟨w2, hw2⟩ : ∃ w2, w2 = { w with lease := { w.lease with st := .admitted, counted := true, passed := 0 } } := ⟨_, rfl⟩
  obtain ⟨a, h3, ha⟩ := h2.admitSlot hp
  have hmod : SMap.modify p (fun w => { w with lease := { w.lease with st := .admitted, counted := true, passed := 0 } }) [(p, w1)] = [(p, w2)] := by
    simp [SMap.modify, hw1, hw2]
  rw [hmod] at h3 ha
  have hfin : s2.finishAdmission c q = s2.admitSlot c p := by
    have hget : s2.warp? c p = some w1 := by rw [h2.warp? hp]; exact if_pos rfl
    have hfits : (s2.sight c q).fits (s2.sight c q).sum w1.lease.effective = true := by
      rw [h2.sight]
      simp [Sight.fits, Sight.sum, hc1]
      omega
    have hadmit : s2.admitFitting c q p = s2.admitSlot c p := by
      simp only [State.admitFitting, hget, hfits, if_true]
    have hone : (s2.sight c q).waiting = [p] := by
      simp only [Sight.waiting, hwaiters, List.mergeSort_singleton]; rfl
    simp only [State.finishAdmission, hhead, State.admitAll, Option.isSome_none, Bool.false_eq_true, if_false, hone, List.foldl_cons,
      List.foldl_nil, hadmit]
  have hex : exec (.admissionCycle c q) s = .next (s2.admitSlot c p) := by
    show execAdmissionCycle c q s = _
    simp only [execAdmissionCycle, ← hs1, ← hs2, hhead, hqual, hwidens, hfin]
    rfl
  obtain ⟨k', hk', -, hx', -⟩ := h3.core
  refine ⟨_, hex, w2, k', ⟨?_, fun d r hdr => ?_⟩, hk', hw2, ?_⟩
  · rw [h3.warp? hp]; exact if_pos rfl
  · by_cases hq : d ≠ c ∨ quadOf r ≠ q
    · exact h3.others d r hq
    · have hd : d = c := by omega
      have hr : quadOf r = q := by omega
      have hrp : r ≠ p := by omega
      have h0' := (InQuad.start hk hlen).warp? hr
      rw [hw] at h0'
      rw [hd, h3.warp? hr, h0']
      simp only [SMap.get?, if_neg hrp]
  · rw [hx', ha, hw2]
    simp [Lease.effective]

end

/-! ## A head marks an admitted warp (R45) -/

/-- Two warps, in either order. -/
def pairOf (b : Bool) (a e : Nat × Warp) : List (Nat × Warp) := if b then [a, e] else [e, a]

theorem get?_pairOf {p r : Nat} (hne : p ≠ r) (b : Bool) (w v : Warp) :
    SMap.get? p (pairOf b (p, w) (r, v)) = some w ∧ SMap.get? r (pairOf b (p, w) (r, v)) = some v := by
  cases b <;> simp [pairOf, SMap.get?, hne, hne.symm]

theorem modify_pairOf {p r : Nat} (hne : p ≠ r) (b : Bool) (w v : Warp) (f : Warp → Warp) :
    SMap.modify p f (pairOf b (p, w) (r, v)) = pairOf b (p, f w) (r, v) ∧
      SMap.modify r f (pairOf b (p, w) (r, v)) = pairOf b (p, w) (r, f v) := by
  cases b <;> simp [pairOf, SMap.modify, hne, hne.symm]

/-- A filter that keeps the second of two warps, or neither. -/
theorem filter_pairOf {p r : Nat} (b : Bool) (w v : Warp) {f : Nat × Warp → Bool} (hp : f (p, w) = false) :
    (pairOf b (p, w) (r, v)).filter f = if f (r, v) then [(r, v)] else [] := by
  cases b <;> (simp only [pairOf, Bool.false_eq_true, if_false, if_true, List.filter_cons, List.filter_nil, hp])

/-- A head that does not fit beside an admitted warp marks it, where it may choose it, and stays head. -/
theorem InQuad.finishAdmission_head {s0 s : State} {c q p r n : Nat} {b : Bool} {w v : Warp} {x : Quad}
    (h : InQuad s0 c q s (pairOf b (p, w) (r, v)) x n) (hp : quadOf p = q) (hr : quadOf r = q) (hne : p ≠ r) (hhead : x.head = some p)
    (hws : w.lease.st = .head) (hwc : w.lease.counted = false) (hvs : v.lease.st = .admitted) (hvc : v.lease.counted = true)
    (hpos : 0 < v.lease.effective) (hbig : x.budget s0.modul.fill < v.lease.effective + w.lease.effective)
    (hchoice : x.widened = true ∨ x.widened = false ∧ v.lease.prio ≤ w.lease.prio ∧ v.lease.effective ≤ x.budget s0.modul.fill) :
    ∃ x', InQuad s0 c q (s.finishAdmission c q) (pairOf b (p, w) (r, { v with lease := { v.lease with st := .returning } })) x' n ∧
      x'.head = some p ∧ x'.widened = x.widened := by
  obtain ⟨v', hv'⟩ : ∃ v', v' = { v with lease := { v.lease with st := .returning } } := ⟨_, rfl⟩
  have hvs' : v'.lease.st = .returning := by rw [hv']
  have hvc' : v'.lease.counted = true := by rw [hv']; exact hvc
  have hve' : v'.lease.effective = v.lease.effective := by rw [hv']; rfl
  rw [← hv']
  -- the admitted warp is marked
  have hadm : (s.sight c q).admitted = [(r, v)] := by
    rw [h.sight, Sight.admitted, filter_pairOf b w v (by simp [hws])]
    simp [hvs]
  have hnofit : (s.sight c q).fits (s.sight c q).staying w.lease.effective = false := by
    rw [Sight.staying, hadm, h.sight]
    simp only [Sight.fits, List.map_cons, List.map_nil, List.sum_cons, List.sum_nil, Nat.add_zero, Bool.or_eq_false_iff, Bool.and_eq_false_iff,
      decide_eq_false_iff_not]
    omega
  have hvictim : (s.sight c q).victim w.lease.prio = some r := by
    rw [Sight.victim, hadm, h.sight]
    rcases hchoice with hx | ⟨hx, hprio, hle⟩
    · simp only [hx]; rfl
    · have hal : ¬(x.budget s0.modul.fill < v.lease.effective) := by omega
      simp only [hx, decide_eq_false hal, List.filter_cons, decide_eq_true hprio, List.filter_nil]
      rfl
  have hw : s.warp? c p = some w := by rw [h.warp? hp]; exact (get?_pairOf hne b w v).1
  obtain ⟨s1, hs1⟩ : ∃ s1, s1 = s.markReturning c r := ⟨_, rfl⟩
  have h1 : InQuad s0 c q s1 (pairOf b (p, w) (r, v')) { x with marked := r :: x.marked } n := by
    have h := h.markReturning hr
    rwa [(modify_pairOf hne b w v _).2, ← hs1, ← hv'] at h
  -- then nothing is admitted, and the head fits once the marked warp has left
  have hw1 : s1.warp? c p = some w := by rw [h1.warp? hp]; exact (get?_pairOf hne b w v').1
  have hfit : (s1.sight c q).fits (s1.sight c q).staying w.lease.effective = true := by
    have hnone : (s1.sight c q).admitted = [] := by
      rw [h1.sight, Sight.admitted, filter_pairOf b w v' (by simp [hws])]
      simp [hvs']
    rw [Sight.staying, hnone]
    simp only [Sight.fits, List.map_nil, List.sum_nil, Nat.zero_add, decide_true, Bool.and_true, Bool.or_eq_true, decide_eq_true_eq]
    omega
  have hsum : (s1.sight c q).sum = v.lease.effective := by
    rw [h1.sight, Sight.sum, filter_pairOf b w v' (by simp [hwc])]
    simp [hvc', hve']
  have hnofit1 : (s1.sight c q).fits (s1.sight c q).sum w.lease.effective = false := by
    have hb : (s1.sight c q).budget = x.budget s0.modul.fill := by rw [h1.sight]; rfl
    simp only [Sight.fits, hsum, hb, Bool.or_eq_false_iff, Bool.and_eq_false_iff, decide_eq_false_iff_not]
    omega
  have hhead0 : (s.sight c q).quad.head = some p := by rw [h.sight]; exact hhead
  have hhead1 : (s1.sight c q).quad.head = some p := by rw [h1.sight]; exact hhead
  have hmarks : s.headMarks c q p 17 = s1 := by
    rw [State.headMarks]
    simp only [hw, hnofit, hvictim, ← hs1]
    rw [State.headMarks]
    simp only [hw1, hfit]
    rfl
  have hadmit : s1.admitAll c q = s1 := by
    have hkeep : s1.admitFitting c q p = s1 := by simp only [State.admitFitting, hw1, hnofit1, Bool.false_eq_true, if_false]
    simp only [State.admitAll, hhead1, hkeep, hw1, Option.map_some, hws, decide_true, Option.getD_some, if_true, Option.isSome_some]
  have hfin : s.finishAdmission c q = s1 := by simp only [State.finishAdmission, hhead0, hmarks, hadmit]
  rw [hfin]
  exact ⟨_, h1, hhead, rfl⟩

section
variable {s : State} {c q p r : Nat} {k : Core} {w v : Warp} (hk : s.core? c = some k) (hlen : q < k.quads.length)
  (htwo : k.holdsTwo q p r w v) (hwc : w.lease.counted = false) (hvs : v.lease.st = .admitted) (hvc : v.lease.counted = true)
  (hpos : 0 < v.lease.effective) (hbig : (k.quad q).budget s.modul.fill < v.lease.effective + w.lease.effective)
include hk hlen htwo hwc hvs hvc hpos hbig

omit hk hlen hwc hvs hvc hpos hbig in
theorem holdsTwo_pairOf : p ≠ r ∧ quadOf p = q ∧ quadOf r = q ∧ ∃ b, k.warpsOf q = pairOf b (p, w) (r, v) := by
  obtain ⟨hne, hL⟩ := htwo
  have hL' : ∃ b, k.warpsOf q = pairOf b (p, w) (r, v) := hL.elim (fun h => ⟨true, h⟩) (fun h => ⟨false, h⟩)
  obtain ⟨b, hb⟩ := hL'
  have hmem : ∀ e ∈ pairOf b (p, w) (r, v), quadOf e.1 = q := fun e he => by
    rw [← hb] at he
    simpa using (List.mem_filter.1 he).2
  exact ⟨hne, hmem (p, w) (by cases b <;> simp [pairOf]), hmem (r, v) (by cases b <;> simp [pairOf]), b, hb⟩

/-- A warp that has waited for 16,384 cycles becomes head, and marks the admitted one. -/
theorem becomes_headQualify (hh : (k.quad q).head = none) (hws : w.lease.st = .waiting) (ho : w.over = false)
    (hwait : w.lease.waitFrom + 16384 ≤ k.cyc + 1) (hprio : v.lease.prio ≤ w.lease.prio)
    (hle : v.lease.effective ≤ (k.quad q).budget s.modul.fill) :
    Becomes (.headQualify c q) s fun t => ∃ k', t.core? c = some k' ∧ (k'.quad q).head = some p ∧ (k'.quad q).widened = false ∧
      t.warp? c p = some { w with lease := { w.lease with st := .head, headFrom := k.cyc + 1 } } ∧
      t.warp? c r = some { v with lease := { v.lease with st := .returning } } := by
  obtain ⟨hne, hp, hr, b, hL⟩ := holdsTwo_pairOf htwo
  have h0 := (InQuad.start hk hlen).taken (.headQualify c q)
  rw [hL] at h0
  obtain ⟨w1, hw1⟩ : ∃ w1, w1 = { w with lease := { w.lease with st := .head, headFrom := k.cyc + 1 } } := ⟨_, rfl⟩
  have hqual : ((s.taken (.headQualify c q)).sight c q).qualifier = some p := by
    have hwt : ((s.taken (.headQualify c q)).sight c q).waiters = [(p, w)] := by
      rw [h0.sight, Sight.waiters]
      cases b <;> simp [pairOf, hws, hvs, ho]
    rw [Sight.qualifier, hwt, h0.sight]
    simp only [List.filter_cons, decide_eq_true hwait, List.filter_nil]
    rfl
  have hhead : ((s.taken (.headQualify c q)).sight c q).quad.head = none := by rw [h0.sight]; exact hh
  have hnow : ((s.taken (.headQualify c q)).sight c q).now = k.cyc + 1 := by rw [h0.sight]
  have h1 := (h0.modWarp hp (fun w => { w with lease := { w.lease with st := .head, headFrom := k.cyc + 1 } })).modQuad
    (fun x => { x with head := some p, widened := false })
  rw [(modify_pairOf hne b w v _).1, ← hw1] at h1
  obtain ⟨x', h2, hh', hwd'⟩ := h1.finishAdmission_head hp hr hne rfl (by rw [hw1]) (by rw [hw1]; exact hwc) hvs hvc hpos
    (by rw [hw1]; exact hbig) (.inr ⟨rfl, by rw [hw1]; exact hprio, hle⟩)
  obtain ⟨k', hk', -, hx', -⟩ := h2.core
  refine ⟨_, ?_, k', hk', by rw [hx']; exact hh', by rw [hx']; exact hwd', ?_, ?_⟩
  · show execHeadQualify c q s = _
    simp only [execHeadQualify, hhead, hqual, hnow]
  · rw [h2.warp? hp, ← hw1]; exact (get?_pairOf hne b _ _).1
  · rw [h2.warp? hr]; exact (get?_pairOf hne b _ _).2

/-- After a further 16,384 cycles a head widens its choice, and marks one of any priority. -/
theorem becomes_headWiden (hh : (k.quad q).head = some p) (hwd : (k.quad q).widened = false) (hws : w.lease.st = .head)
    (hfrom : w.lease.headFrom + 16384 ≤ k.cyc + 1) :
    Becomes (.headWiden c q) s fun t => ∃ k', t.core? c = some k' ∧ (k'.quad q).head = some p ∧ (k'.quad q).widened = true ∧
      t.warp? c p = some w ∧ t.warp? c r = some { v with lease := { v.lease with st := .returning } } := by
  obtain ⟨hne, hp, hr, b, hL⟩ := holdsTwo_pairOf htwo
  have h0 := (InQuad.start hk hlen).taken (.headWiden c q)
  rw [hL] at h0
  have hwid : (s.taken (.headWiden c q)).widens c q = true := by
    have hhead : ((s.taken (.headWiden c q)).sight c q).quad.head = some p := by rw [h0.sight]; exact hh
    have hw : (s.taken (.headWiden c q)).warp? c p = some w := by rw [h0.warp? hp]; exact (get?_pairOf hne b w v).1
    simp only [State.widens, hhead, hw, Option.map_some, Option.getD_some]
    rw [h0.sight]
    simp [hwd, hfrom]
  obtain ⟨x', h2, hh', hwd'⟩ := (h0.modQuad (fun x => { x with widened := true })).finishAdmission_head hp hr hne hh hws hwc hvs hvc hpos hbig
    (.inl rfl)
  obtain ⟨k', hk', -, hx', -⟩ := h2.core
  refine ⟨_, ?_, k', hk', by rw [hx']; exact hh', by rw [hx']; exact hwd', ?_, ?_⟩
  · show execHeadWiden c q s = _
    simp only [execHeadWiden, hwid, if_true]
  · rw [h2.warp? hp]; exact (get?_pairOf hne b _ _).1
  · rw [h2.warp? hr]; exact (get?_pairOf hne b _ _).2

end

/-! ## A lease decays, and a run-on ends (R48, R60) -/

theorem becomes_leaseDecay {s : State} {c p : Nat} {w : Warp} (hw : s.warp? c p = some w) : Becomes (.leaseDecay c p) s fun t =>
    t = { s with cores := t.cores, pending := t.pending } ∧
      Rewrites c p s t { w with lease := { w.lease with meas := max (w.lease.meas - 16) 16 } } :=
  ⟨_, rfl, rfl, (Rewrites.modWarp (s := s.taken (.leaseDecay c p)) hw (fun w =>
    { w with lease := { w.lease with meas := max (w.lease.meas - 16) 16 } })).before fun _ _ => rfl⟩

theorem becomes_runonLimit {s : State} {c p n : Nat} {w : Warp} (hw : s.warp? c p = some w) (hs : w.saved = none) (hp : w.preempt = some n)
    (hn : 4096 ≤ n) : Becomes (.runonLimit c p) s fun t =>
      t = { s with cores := t.cores, pending := t.pending } ∧ Rewrites c p s t { w with drain := true } := by
  have h := (Rewrites.modWarp (s := s.taken (.runonLimit c p)) hw (fun w =>
    if w.saved.isNone && decide (4096 ≤ w.preempt.getD 0) then { w with drain := true } else w)).before (s := s) fun _ _ => rfl
  have hc : (w.saved.isNone && decide (4096 ≤ w.preempt.getD 0)) = true := by simp [hs, hp, hn]
  rw [if_pos hc] at h
  exact ⟨_, rfl, rfl, h⟩

end Sys2Proof.Machine

/-! # Results of the class-Q units and of the matrix unit (R188, R227, R231, R240, R242) -/

namespace Sys2Proof.Machine

/-! ## A fact about a quadrant, and what keeps it -/

/-- The quadrant `q` of the core `c` is there, and `P` holds of its registers. -/
def State.QuadHas (s : State) (c q : Nat) (P : Quad → Prop) : Prop := ∃ k, s.core? c = some k ∧ q < k.quads.length ∧ P (k.quad q)

section
variable {s : State} {c q : Nat} {P : Quad → Prop} (h : s.QuadHas c q P)
include h

theorem State.QuadHas.of_cores {t : State} (ht : t.core? c = s.core? c) : t.QuadHas c q P := by
  obtain ⟨k, hk, hq, hP⟩ := h
  exact ⟨k, ht.trans hk, hq, hP⟩

theorem State.QuadHas.modWarp (p : Nat) (f : Warp → Warp) : (s.modWarp c p f).QuadHas c q P := by
  obtain ⟨k, hk, hq, hP⟩ := h
  exact ⟨{ k with warps := SMap.modify p f k.warps }, by rw [State.core?_modWarp, if_pos rfl, hk]; rfl, hq, hP⟩

theorem State.QuadHas.modQuad {R : Quad → Prop} {f : Quad → Quad} (hf : ∀ x, P x → R (f x)) : (s.modQuad c q f).QuadHas c q R := by
  obtain ⟨k, hk, hq, hP⟩ := h
  refine ⟨k.modQuad q f, by rw [State.core?_modQuad, if_pos rfl, hk]; rfl, by simpa [Core.modQuad] using hq, ?_⟩
  rw [Core.quad_modQuad, if_pos ⟨rfl, hq⟩]
  exact hf _ hP

/-- A change of any quadrant of the core that keeps the fact. -/
theorem State.QuadHas.modQuad_keeps {f : Quad → Quad} (r : Nat) (hf : ∀ x, P x → P (f x)) : (s.modQuad c r f).QuadHas c q P := by
  obtain ⟨k, hk, hq, hP⟩ := h
  refine ⟨k.modQuad r f, by rw [State.core?_modQuad, if_pos rfl, hk]; rfl, by simpa [Core.modQuad] using hq, ?_⟩
  rw [Core.quad_modQuad]
  split
  · exact hf _ hP
  · exact hP

theorem State.QuadHas.registersWritten (hP : ∀ x l, P x → P { x with latches := l }) (p code n : Nat) :
    (s.registersWritten c p code n).QuadHas c q P := h.modQuad_keeps _ fun x hx => hP x _ hx

theorem State.QuadHas.pathsFell (p : Nat) : (s.pathsFell c p).QuadHas c q P := by
  have hend : (s.checkEnd c p).core? c = s.core? c := by
    cases hw : s.warp? c p with
    | none => simp only [State.checkEnd, hw]
    | some w => rw [State.checkEnd_eq hw]; split <;> simp only [State.core?_pushOnce]
  refine h.of_cores ?_
  simp only [State.pathsFell]
  split
  · rfl
  · split
    · rfl
    · split
      · exact hend
      · split
        · rw [State.core?_pushOnce, hend]
        · split
          · exact hend
          · rw [State.core?_pushOnce, hend]
        · exact hend

end

/-! ## The class-Q units (R188) -/

theorem becomes_classQResult {s : State} {c q : Nat} {k : Core} {d : Bool} {r : QResult} {rest : List QResult} {w : Warp}
    (hk : s.core? c = some k) (hlen : q < k.quads.length) (hunit : (if d then (k.quad q).divider else (k.quad q).sfu) = r :: rest)
    (hdue : r.due ≤ k.cyc + 1) (hw : s.warp? c r.slot = some w) (hn : (r.values.map Prod.fst).Nodup)
    (hregs : (r.code + r.regs ≤ 192 ∧ ∀ e ∈ r.values, e.1 < w.lanes.length) ∨ (192 ≤ r.code ∧ r.code + r.regs ≤ 252 ∧ r.values.length = 1)) :
    Becomes (.classQResult c q d) s fun t => ∃ w' k', Rewrites c r.slot s t w' ∧ t.core? c = some k' ∧
        (if d then (k'.quad q).divider else (k'.quad q).sfu) = rest ∧ HoldsRun w' r.code r.regs r.values ∧
        w' = { w with lanes := w'.lanes, s := w'.s, special := { w.special with fflags := w.special.fflags ||| r.flags } } ∧
        ∀ code l, (code < r.code ∨ r.code + r.regs ≤ code) → w'.regWord code l = w.regWord code l := by
  obtain ⟨s1, hs1⟩ : ∃ s1, s1 = (s.taken (.classQResult c q d)).modQuad c q
      (fun q => if d then { q with divider := rest } else { q with sfu := rest }) := ⟨_, rfl⟩
  have hw1 : s1.warp? c r.slot = some w := by rw [hs1, State.warp?_modQuad, State.warp?_taken, hw]
  have hq1 : s1.QuadHas c q (fun x => (if d then x.divider else x.sfu) = rest) := by
    rw [hs1]
    refine State.QuadHas.modQuad (s := s.taken (.classQResult c q d)) (P := fun _ => True) ⟨k, hk, hlen, trivial⟩ fun x _ => ?_
    cases d <;> rfl
  obtain ⟨t, ht⟩ : ∃ t, t = (s1.modWarp c r.slot (·.writeResult r)).registersWritten c r.slot r.code (if r.code < 192 then r.regs else 0) := ⟨_, rfl⟩
  have hrw : Rewrites c r.slot s t (w.writeResult r) := by
    rw [ht]
    refine ((Rewrites.modWarp hw1 (·.writeResult r)).after fun e p => ?_).before fun e p => ?_
    · rw [State.warp?_registersWritten]
    · rw [hs1, State.warp?_modQuad, State.warp?_taken]
  have hq : t.QuadHas c q (fun x => (if d then x.divider else x.sfu) = rest) := by
    rw [ht]
    exact (hq1.modWarp r.slot _).registersWritten (fun x l hx => hx) ..
  have hex : ∃ l, exec (.classQResult c q d) s = .next { t with pending := l } := by
    have hnow : ¬(s.cyc c + 1 < r.due) := by rw [State.cyc_eq hk]; omega
    show ∃ l, execClassQResult c q d s = _
    simp only [execClassQResult, State.core?_taken, State.cyc_taken, hk, Option.map_some, Option.getD_some, hunit, if_neg hnow, ← hs1, ← ht]
    split
    · split
      · exact ⟨_, rfl⟩
      · exact ⟨t.pending, rfl⟩
    · exact ⟨t.pending, rfl⟩
  obtain ⟨l, hex⟩ := hex
  obtain ⟨k', hk', -, hu'⟩ := hq
  have heq : w.writeResult r = { w.setRuns r.code r.regs r.values with
      special := { w.special with fflags := w.special.fflags ||| r.flags } } := by
    have hruns : r.values.foldl (fun w v => w.setRun r.code v.1 v.2 r.regs) w = w.setRuns r.code r.regs r.values := rfl
    have hspecial : (w.setRuns r.code r.regs r.values).special = w.special := by rw [Warp.setRuns_eq]
    simp only [Warp.writeResult, hruns, hspecial]
  refine ⟨_, hex, w.writeResult r, k', hrw, hk', hu', ?_, ?_, fun code l hcode => ?_⟩
  · rw [heq]
    exact HoldsRun.setRuns w hn (hregs.imp id fun h => ⟨h.1, h.2.1, le_of_eq h.2.2⟩)
  · rw [heq, Warp.setRuns_eq]
  · rw [heq]
    exact Warp.regWord_setRuns_other w fun e _ => by omega

/-! ## The instructions of a matrix unit -/

/-- The matrix instruction of a number, and what rewrites or removes it. -/
def Quad.matrixAt (x : Quad) (id : Nat) : Option MatrixOp := x.matrix.find? (fun y => decide (y.id = id))

theorem find?_map_id {f : MatrixOp → MatrixOp} (hf : ∀ o, (f o).id = o.id) (id : Nat) (l : List MatrixOp) :
    (l.map (fun o => if o.id = id then f o else o)).find? (fun y => decide (y.id = id)) =
      (l.find? (fun y => decide (y.id = id))).map f := by
  induction l with
  | nil => rfl
  | cons a t ih =>
    rw [List.map_cons, List.find?_cons, List.find?_cons, ih]
    by_cases ha : a.id = id
    · simp [ha, hf]
    · simp [ha]

section
variable {s : State} {c q id : Nat} {o : MatrixOp}

theorem State.QuadHas.matrixOp? (h : s.QuadHas c q (fun x => x.matrixAt id = some o)) : s.matrixOp? c q id = some o := by
  obtain ⟨k, hk, -, ho⟩ := h
  simp only [State.matrixOp?, hk, Option.map_some, Option.bind_some]
  exact ho

theorem State.QuadHas.modMatrix (h : s.QuadHas c q (fun x => x.matrixAt id = some o)) {f : MatrixOp → MatrixOp} (hf : ∀ o, (f o).id = o.id) :
    (s.modMatrix c q id f).QuadHas c q (fun x => x.matrixAt id = some (f o)) :=
  h.modQuad fun x hx => by
    simp only [Quad.matrixAt] at hx ⊢
    rw [find?_map_id hf, hx]; rfl

theorem State.QuadHas.dropMatrix {P : Quad → Prop} (h : s.QuadHas c q P) :
    (s.dropMatrix c q id).QuadHas c q (fun x => ∀ y ∈ x.matrix, y.id ≠ id) :=
  h.modQuad fun x _ y hy => by simpa using (List.mem_filter.1 hy).2

@[simp] theorem State.warp?_modMatrix (s : State) (c q id d p : Nat) (f : MatrixOp → MatrixOp) :
    (s.modMatrix c q id f).warp? d p = s.warp? d p := State.warp?_modQuad ..

@[simp] theorem State.warp?_dropMatrix (s : State) (c q id d p : Nat) : (s.dropMatrix c q id).warp? d p = s.warp? d p := State.warp?_modQuad ..

end

/-- What a fetch that returns keeps: facts about a quadrant that do not speak of its latches. -/
theorem State.QuadHas.fetchReturns {s : State} {c q : Nat} {P : Quad → Prop} (h : s.QuadHas c q P)
    (hP : ∀ x l, P x → P { x with latches := l }) (p id : Nat) (values : SMap Nat) : (s.fetchReturns c p id values).QuadHas c q P := by
  have h1 := h.modWarp p (fun w => w.modAccess id (fun a => { a with needs := [], values := values }))
  simp only [State.fetchReturns]
  split
  · exact ((h1.modWarp p _).registersWritten hP ..).pathsFell p
  · exact h1

/-! ## Operands that have been fetched (R227, R240, R242) -/

/-- What a member of a cancelled fetch takes: the poison is at `addr`, the run not written is `run`. -/
def Deferred.poisonedFetch (m : MatrixMember) (addr : Nat) (run : Nat × Nat) : Deferred :=
  { path := .mmx, source := 1, cause := causePoison, addr := addr, lid := m.lid, code := run.1, regs := run.2, access := m.access.getD 0,
    bits := accRead }

section
variable {s : State} {c q n : Nat} {k : Core} {o : MatrixOp} (hk : s.core? c = some k) (hlen : q < k.quads.length)
  (ho : (k.quad q).matrix.find? (fun y => decide (y.id = o.id)) = some o)
include hk hlen ho

theorem State.quadHas_taken (e : Instr) : (s.taken e).QuadHas c q (fun x => x.matrixAt o.id = some o) := ⟨k, hk, hlen, ho⟩

variable (hf : o.fetch = some n) (hn : n ≤ k.cyc + 1)
include hf hn

/-- The port has read the last byte of a multiply's operands: it may start. -/
theorem becomes_matrixOperandFetched_multiply (hkind : o.kind ≠ 3) (hbad : o.bad = none) :
    Becomes (.matrixOperandFetched c q o.id) s fun t => ∃ k', t.core? c = some k' ∧
      (k'.quad q).matrix.find? (fun y => decide (y.id = o.id)) = some { o with fetch := none } := by
  have h0 := State.quadHas_taken hk hlen ho (.matrixOperandFetched c q o.id)
  have h1 := h0.modMatrix (f := fun o => { o with fetch := none }) fun _ => rfl
  obtain ⟨P, hP⟩ : ∃ P : Quad → Prop, P = fun x => x.matrixAt o.id = some { o with fetch := none } := ⟨_, rfl⟩
  have hlatches : ∀ x l, P x → P { x with latches := l } := by rw [hP]; exact fun _ _ hx => hx
  rw [← hP] at h1
  have hnow : ¬(s.cyc c + 1 < n) := by rw [State.cyc_eq hk]; omega
  obtain ⟨t, hex, k', hk', -, ho'⟩ : ∃ t, exec (.matrixOperandFetched c q o.id) s = .next t ∧
      t.QuadHas c q P := by
    show ∃ t, execMatrixOperandFetched c q o.id s = .next t ∧ _
    simp only [execMatrixOperandFetched, h0.matrixOp?, hf, State.cyc_taken, if_neg hnow, hbad, if_neg hkind]
    refine ⟨_, rfl, List.foldlRecOn (motive := fun t : State => t.QuadHas c q P) _ _ h1 fun t ht m _ => ?_⟩
    split
    · exact ht.fetchReturns hlatches ..
    · exact ht
  rw [hP] at ho'
  exact ⟨t, hex, k', hk', ho'⟩

/-- A poisoned byte cancels it: its one member, which waits for no access, takes a deferred Poison. -/
theorem becomes_matrixOperandFetched_poison {m : MatrixMember} {w : Warp} {addr : Nat} (hm : o.members = [m]) (hacc : m.access = none)
    (hw : s.warp? c m.slot = some w) (hbad : o.bad = some addr) :
    Becomes (.matrixOperandFetched c q o.id) s fun t => (∃ k', t.core? c = some k' ∧ ∀ y ∈ (k'.quad q).matrix, y.id ≠ o.id) ∧
      ∃ w' d, Rewrites c m.slot s t w' ∧ w' = { w with deferred := w.deferred ++ [d] } ∧
          d.cause = 0x0B ∧ d.addr = addr ∧ d.lid = m.lid ∧ d.path = .mmx ∧
          (m.acc < 192 → d.code = m.acc ∧ d.regs = if o.kind = 3 then o.tile.2.2 / 8 else 8 * m.tiles.length) := by
  have h0 := State.quadHas_taken hk hlen ho (.matrixOperandFetched c q o.id)
  obtain ⟨s1, hs1⟩ : ∃ s1, s1 = (s.taken (.matrixOperandFetched c q o.id)).dropMatrix c q o.id := ⟨_, rfl⟩
  have hw1 : s1.warp? c m.slot = some w := by rw [hs1, State.warp?_dropMatrix, State.warp?_taken, hw]
  obtain ⟨run, hrun⟩ : ∃ run, run = if m.acc < 192 then (m.acc, if o.kind = 3 then o.tile.2.2 / 8 else 8 * m.tiles.length) else (0, 0) := ⟨_, rfl⟩
  obtain ⟨d, hd⟩ : ∃ d, d = Deferred.poisonedFetch m addr run := ⟨_, rfl⟩
  have hdrop : s1.QuadHas c q (fun x => ∀ y ∈ x.matrix, y.id ≠ o.id) := by rw [hs1]; exact h0.dropMatrix
  obtain ⟨k', hk', -, hgone⟩ := hdrop.modWarp m.slot (fun w => { w with deferred := w.deferred ++ [d] })
  refine ⟨s1.modWarp c m.slot (fun w => { w with deferred := w.deferred ++ [d] }), ?_, ⟨k', hk', hgone⟩, _, d,
    (Rewrites.modWarp hw1 (fun w => { w with deferred := w.deferred ++ [d] })).before fun e p => ?_, rfl, ?_⟩
  · have hnow : ¬(s.cyc c + 1 < n) := by rw [State.cyc_eq hk]; omega
    show execMatrixOperandFetched c q o.id s = _
    simp only [execMatrixOperandFetched, h0.matrixOp?, hf, State.cyc_taken, if_neg hnow, hbad, State.cancelMatrix, hm, List.foldl_cons,
      List.foldl_nil, ← hs1, ← hrun]
    rw [hd, hacc]; simp only [Deferred.poisonedFetch, hacc]
  · rw [hs1, State.warp?_dropMatrix, State.warp?_taken]
  · rw [hd]
    refine ⟨rfl, rfl, rfl, rfl, fun hlt => ?_⟩
    rw [hrun, if_pos hlt]; exact ⟨rfl, rfl⟩

end

/-! ## The lanes by their LIDs, and rows in the registers of two lanes (R222) -/

theorem Warp.byLid_perm (w : Warp) : w.byLid.Perm (List.range 32) := by
  refine (List.perm_ext_iff_of_nodup (Warp.lanesByLid_nodup _ _) List.nodup_range).2 fun i => ?_
  have hmask : ∀ j < 8, inMask 0xFF j = true := by decide
  rw [Warp.mem_lanesByLid, List.mem_range]
  exact ⟨fun h => h.1, fun h => ⟨h, hmask _ (by omega)⟩⟩

theorem Warp.length_byLid (w : Warp) : w.byLid.length = 32 := by rw [w.byLid_perm.length_eq, List.length_range]

theorem Warp.byLid_getD (w : Warp) {i : Nat} (hi : i < 32) : w.byLid.getD i 0 = w.byLid[i]'(by rw [w.length_byLid]; exact hi) := by
  rw [List.getD_eq_getElem?_getD, List.getElem?_eq_getElem (by rw [w.length_byLid]; exact hi), Option.getD_some]

theorem Warp.byLid_lt (w : Warp) {i : Nat} (hi : i < 32) : w.byLid.getD i 0 < 32 := by
  rw [w.byLid_getD hi]
  exact List.mem_range.1 (w.byLid_perm.mem_iff.1 (List.getElem_mem _))

theorem Warp.byLid_inj (w : Warp) {i j : Nat} (hi : i < 32) (hj : j < 32) (h : w.byLid.getD i 0 = w.byLid.getD j 0) : i = j := by
  rw [w.byLid_getD hi, w.byLid_getD hj] at h
  exact (List.Nodup.getElem_inj_iff (Warp.lanesByLid_nodup _ _)).1 h

theorem SMap.keys_nodup_of_rising {α : Type} {m : SMap α} {lo : Nat} (h : SMap.risingFrom lo m = true) :
    (m.map Prod.fst).Nodup ∧ ∀ e ∈ m, lo ≤ e.1 := by
  induction m generalizing lo with
  | nil => exact ⟨List.nodup_nil, fun e he => by cases he⟩
  | cons a t ih =>
    simp only [SMap.risingFrom, Bool.and_eq_true, decide_eq_true_eq] at h
    obtain ⟨hn, hge⟩ := ih h.2
    refine ⟨List.nodup_cons.2 ⟨fun ha => ?_, hn⟩, fun e he => ?_⟩
    · obtain ⟨e, he, hea⟩ := List.mem_map.1 ha
      have := hge e he
      omega
    · rcases List.mem_cons.1 he with rfl | he
      · exact h.1
      · have := hge e he; omega

/-- Values put at different keys, in a map that stays in order. -/
theorem SMap.get?_foldl_put_key {α : Type} (key : Nat → Nat) (f : Nat → α) (l : List Nat) (hn : (l.map key).Nodup) (m : SMap α)
    (hm : SMap.risingFrom 0 m = true) :
    SMap.risingFrom 0 (l.foldl (fun m i => SMap.put (key i) (f i) m) m) = true ∧
      (∀ i ∈ l, SMap.get? (key i) (l.foldl (fun m i => SMap.put (key i) (f i) m) m) = some (f i)) ∧
      ∀ e ∈ l.foldl (fun m i => SMap.put (key i) (f i) m) m, e ∈ m ∨ ∃ i ∈ l, e.1 = key i := by
  induction l generalizing m with
  | nil => exact ⟨hm, fun i hi => (by cases hi), fun e he => .inl he⟩
  | cons a t ih =>
    rw [List.map_cons, List.nodup_cons] at hn
    obtain ⟨h1, h2, h3⟩ := ih hn.2 _ (SMap.risingFrom_put 0 (key a) (f a) m (Nat.zero_le _) hm)
    have hother : ∀ (l : List Nat) (m : SMap α) (j : Nat), (∀ i ∈ l, key i ≠ j) →
        SMap.get? j (l.foldl (fun m i => SMap.put (key i) (f i) m) m) = SMap.get? j m := fun l => by
      induction l with
      | nil => exact fun m j _ => rfl
      | cons b u ihu =>
        intro m j hj
        rw [List.foldl_cons, ihu _ _ fun i hi => hj i (List.mem_cons_of_mem _ hi), SMap.get?_put,
          if_neg fun h => hj b (List.mem_cons_self ..) h.symm]
    refine ⟨h1, fun i hi => ?_, fun e he => ?_⟩
    · rcases List.mem_cons.1 hi with rfl | hi
      · rw [List.foldl_cons, hother _ _ _ fun j hj hij => hn.1 (List.mem_map.2 ⟨j, hj, hij⟩), SMap.get?_put, if_pos rfl]
      · exact h2 i hi
    · rcases h3 e he with he | ⟨i, hi, hei⟩
      · rcases SMap.mem_put he with rfl | he
        · exact .inr ⟨a, List.mem_cons_self .., rfl⟩
        · exact .inl he
      · exact .inr ⟨i, List.mem_cons_of_mem _ hi, hei⟩

/-- The rows of a tile, by lane: each lane once, with the bytes of its part of a row. -/
theorem rowLanes_spec (w : Warp) (regs : Nat) (rows : List Byte) :
    ((rowLanes w.byLid regs rows).map Prod.fst).Nodup ∧ (∀ e ∈ rowLanes w.byLid regs rows, e.1 < 32) ∧
      ∀ l < 32, (w.byLid.getD l 0, numOf ((rows.drop (4 * regs * l)).take (4 * regs))) ∈ rowLanes w.byLid regs rows := by
  have hn : ((List.range 32).map (fun l => w.byLid.getD l 0)).Nodup :=
    (List.nodup_map_iff_inj_on List.nodup_range).2 fun i hi j hj h => w.byLid_inj (List.mem_range.1 hi) (List.mem_range.1 hj) h
  obtain ⟨h1, h2, h3⟩ := SMap.get?_foldl_put_key (fun l => w.byLid.getD l 0) (fun l => numOf ((rows.drop (4 * regs * l)).take (4 * regs)))
    (List.range 32) hn [] rfl
  refine ⟨(SMap.keys_nodup_of_rising h1).1, fun e he => ?_, fun l hl => SMap.mem_of_get? (h2 l (List.mem_range.2 hl))⟩
  rcases h3 e he with he | ⟨i, hi, hei⟩
  · cases he
  · rw [hei]; exact w.byLid_lt (List.mem_range.1 hi)

/-- A word of a number that is given by its bytes. -/
theorem numOf_word (l : List Byte) (r : Nat) :
    numOf l / 2 ^ (32 * r) % 2 ^ 32 = numOf ((List.range 4).map (fun b => l.getD (4 * r + b) 0)) := by
  have hb : ∀ b, numOf l / 2 ^ (32 * r) / 256 ^ b % 256 = (l.getD (4 * r + b) 0).toNat := fun b => by
    rw [← numOf_byte, Nat.div_div_eq_div_mul, show 2 ^ (32 * r) * 256 ^ b = 256 ^ (4 * r + b) by
      rw [show 32 * r = 8 * (4 * r) by omega, Nat.pow_mul, ← Nat.pow_add]]
  have h0 := hb 0
  have h1 := hb 1
  have h2 := hb 2
  have h3 := hb 3
  simp only [List.range, List.range.loop, List.map_cons, List.map_nil, numOf]
  omega

theorem word_of_part (rows : List Byte) {n a r : Nat} (hr : r < n) :
    BitVec.ofNat 32 (numOf ((rows.drop a).take (4 * n)) / 2 ^ (32 * r)) =
      BitVec.ofNat 32 (numOf ((List.range 4).map (fun b => rows.getD (a + 4 * r + b) 0))) := by
  have hbytes : ((List.range 4).map (fun b => ((rows.drop a).take (4 * n)).getD (4 * r + b) 0)) =
      (List.range 4).map (fun b => rows.getD (a + 4 * r + b) 0) := List.map_congr_left fun b hb => by
    have hb4 := List.mem_range.1 hb
    rw [List.getD_eq_getElem?_getD, List.getD_eq_getElem?_getD, List.getElem?_take_of_lt (by omega), List.getElem?_drop, Nat.add_assoc]
  refine BitVec.eq_of_toNat_eq ?_
  rw [BitVec.toNat_ofNat, BitVec.toNat_ofNat, ← hbytes, ← numOf_word, Nat.mod_mod]

/-! ## The tile of an MLDT (R240) -/

theorem Warp.setReg_accesses (w : Warp) (A : List Access) (c l : Nat) (x : Word) :
    ({ w with accesses := A } : Warp).setReg c l x = { w.setReg c l x with accesses := A } := by
  simp only [Warp.setReg]; split
  · rfl
  · split <;> rfl

theorem Warp.setRun_accesses (w : Warp) (A : List Access) (c l x n : Nat) :
    ({ w with accesses := A } : Warp).setRun c l x n = { w.setRun c l x n with accesses := A } := by
  induction n generalizing w c x with
  | zero => rfl
  | succ n ih =>
    simp only [Warp.setRun]; split
    · rw [Warp.setReg_accesses, ih]
    · rfl

theorem Warp.setRuns_accesses (w : Warp) (A : List Access) (code n : Nat) (l : List (Nat × Nat)) :
    ({ w with accesses := A } : Warp).setRuns code n l = { w.setRuns code n l with accesses := A } := by
  induction l generalizing w with
  | nil => rfl
  | cons e t ih => simp only [Warp.setRuns, List.foldl_cons] at ih ⊢; rw [Warp.setRun_accesses, ih]

theorem find?_map_access {f : Access → Access} (hf : ∀ a, (f a).id = a.id) (id : Nat) (l : List Access) :
    (l.map (fun a => if a.id = id then f a else a)).find? (fun y => decide (y.id = id)) =
      (l.find? (fun y => decide (y.id = id))).map f := by
  induction l with
  | nil => rfl
  | cons a t ih =>
    rw [List.map_cons, List.find?_cons, List.find?_cons, ih]
    by_cases ha : a.id = id
    · simp [ha, hf]
    · simp [ha]

/-- Values delivered to an access that is no load: as it returns, they stand in its run. -/
theorem Warp.regWord_returnAccess {w : Warp} {a : Access} {x : Nat} {values : SMap Nat} (hfind : w.access? x = some a)
    (hr : a.returned = false) (href : a.refused = false) (hp : a.preds = []) (hkind : a.kind = .tile) (code l : Nat) :
    ((w.modAccess x (fun a => { a with needs := [], values := values })).returnAccess x).regWord code l =
      (w.setRuns a.dst a.regs values).regWord code l := by
  obtain ⟨a', ha'⟩ : ∃ a', a' = { a with needs := [], values := values } := ⟨_, rfl⟩
  have hfind' : (w.modAccess x (fun a => { a with needs := [], values := values })).access? x = some a' := by
    rw [ha']
    exact (find?_map_access (f := fun a => { a with needs := [], values := values }) (fun _ => rfl) x w.accesses).trans (by
      rw [show w.accesses.find? (fun y => decide (y.id = x)) = some a from hfind]; rfl)
  have hres : a'.results = values := by rw [ha']; simp only [Access.results, hkind]
  have hr' : a'.returned = false := by rw [ha']; exact hr
  have hdst : a'.dst = a.dst ∧ a'.regs = a.regs := by rw [ha']; exact ⟨rfl, rfl⟩
  obtain ⟨v, hv⟩ : ∃ v, v = w.modAccess x (fun a => { a with needs := [], values := values }) := ⟨_, rfl⟩
  have hwrite : v.returnAccess x = ((v.setRuns a.dst a.regs values).modAccess x (fun a => { a with returned := true })).settlePath a'.path := by
    rw [← hv] at hfind'
    simp only [Warp.returnAccess, hfind', hr', Warp.writeAccess_eq (a := a') (by rw [ha']; exact href) (by rw [ha']; exact hp), hres, hdst.1, hdst.2]
    rfl
  have hruns : v.setRuns a.dst a.regs values = { w.setRuns a.dst a.regs values with accesses := v.accesses } := by
    rw [hv]; exact Warp.setRuns_accesses w _ a.dst a.regs values
  rw [← hv, hwrite, hruns]
  rfl

/-- The tile goes to its run: row i to the lanes with the LIDs 2i and 2i + 1. -/
theorem becomes_matrixOperandFetched_tile {s : State} {c q n : Nat} {k : Core} {o : MatrixOp} (hk : s.core? c = some k)
    (hlen : q < k.quads.length) (ho : (k.quad q).matrix.find? (fun y => decide (y.id = o.id)) = some o) (hf : o.fetch = some n)
    (hn : n ≤ k.cyc + 1) {m : MatrixMember} {x : Nat} {a : Access} {w : Warp} {la : List Byte} (hkind : o.kind = 3) (hm : o.members = [m])
    (hacc : m.access = some x) (hw : s.warp? c m.slot = some w) (hfind : w.accesses.find? (fun y => decide (y.id = x)) = some a)
    (ha : a.kind = .tile) (hr : a.returned = false) (href : a.refused = false) (hp : a.preds = []) (hrow : 8 * a.regs = o.tile.2.2)
    (hdst : a.dst + a.regs ≤ 192) (hlanes : w.lanes.length = 32) (hbad : o.bad = none) (hla : o.a = .rows la) :
    Becomes (.matrixOperandFetched c q o.id) s fun t => (∃ k', t.core? c = some k' ∧ ∀ y ∈ (k'.quad q).matrix, y.id ≠ o.id) ∧
      ∃ w', t.warp? c m.slot = some w' ∧ ∀ i h r, i < 16 → h < 2 → r < a.regs →
        w'.regWord (a.dst + r) ((w.lanesByLid 0xFF).getD (2 * i + h) 0) =
          BitVec.ofNat 32 (numOf ((List.range 4).map (fun b => la.getD (i * o.tile.2.2 + 4 * (a.regs * h + r) + b) 0))) := by
  have h0 := State.quadHas_taken hk hlen ho (.matrixOperandFetched c q o.id)
  obtain ⟨s1, hs1⟩ : ∃ s1, s1 = (s.taken (.matrixOperandFetched c q o.id)).dropMatrix c q o.id := ⟨_, rfl⟩
  have hw1 : s1.warp? c m.slot = some w := by rw [hs1, State.warp?_dropMatrix, State.warp?_taken, hw]
  have hdrop : s1.QuadHas c q (fun x => ∀ y ∈ x.matrix, y.id ≠ o.id) := by rw [hs1]; exact h0.dropMatrix
  obtain ⟨V, hV⟩ : ∃ V, V = rowLanes w.byLid a.regs la := ⟨_, rfl⟩
  obtain ⟨k', hk', -, hgone⟩ := hdrop.fetchReturns (fun _ _ hx => hx) m.slot x V
  have hex : exec (.matrixOperandFetched c q o.id) s = .next (s1.fetchReturns c m.slot x V) := by
    have hnow : ¬(s.cyc c + 1 < n) := by rw [State.cyc_eq hk]; omega
    have hregs : o.tile.2.2 / 8 = a.regs := by omega
    show execMatrixOperandFetched c q o.id s = _
    simp only [execMatrixOperandFetched, h0.matrixOp?, hf, State.cyc_taken, if_neg hnow, hbad, if_pos hkind, hm, List.foldl_cons, List.foldl_nil,
      ← hs1, hacc, hw1, hregs, hla, MatrixSource.fetched, ← hV]
  obtain ⟨w1, hw1'⟩ : ∃ w1, w1 = w.modAccess x (fun a => { a with needs := [], values := V }) := ⟨_, rfl⟩
  have hreturn : (s1.fetchReturns c m.slot x V).warp? c m.slot = some (w1.returnAccess x) := by
    have h1 : (s1.modWarp c m.slot (fun w => w.modAccess x (fun a => { a with needs := [], values := V }))).warp? c m.slot = some w1 := by
      rw [State.warp?_modWarp, if_pos ⟨rfl, rfl⟩, hw1, hw1']; rfl
    have hfind1 : w1.access? x = some { a with needs := [], values := V } := by
      rw [hw1']
      exact (find?_map_access (f := fun a => { a with needs := [], values := V }) (fun _ => rfl) x w.accesses).trans (by rw [hfind]; rfl)
    have hid : a.id = x := by simpa using List.find?_some hfind
    simp only [State.fetchReturns, h1, Option.bind_some, hfind1, State.warp?_pathsFell, State.returnAccess, State.warp?_registersWritten,
      State.warp?_modWarp, and_self, if_true, Option.map_some, hid]
  refine ⟨_, hex, ⟨k', hk', hgone⟩, _, hreturn, fun i h r hi hh hrr => ?_⟩
  obtain ⟨hnodup, hlt, hmem⟩ := rowLanes_spec w a.regs la
  rw [← hV] at hnodup hlt hmem
  have hruns := HoldsRun.setRuns w (code := a.dst) (n := a.regs) hnodup (.inl ⟨hdst, fun e he => by rw [hlanes]; exact hlt e he⟩)
  rw [hw1', Warp.regWord_returnAccess hfind hr href hp ha, ← Warp.byLid, hruns _ (hmem (2 * i + h) (by omega)) r hrr, word_of_part la hrr, ← hrow]
  congr 3
  funext b
  congr 1
  rw [Nat.mul_add (4 * a.regs), ← Nat.mul_assoc, Nat.mul_add 4 (a.regs * h), Nat.mul_comm i]
  ring

/-! ## The results of a multiply (R231) -/

/-- Vector registers written one after another: at `e` the register `code e` of the lane `lane e`. -/
def Warp.setRegs (w : Warp) (code lane : Nat → Nat) (val : Nat → Word) (l : List Nat) : Warp :=
  l.foldl (fun w e => w.setReg (code e) (lane e) (val e)) w

section
variable {code lane : Nat → Nat} {val : Nat → Word}

theorem Warp.setRegs_eq (w : Warp) {l : List Nat} (hc : ∀ e ∈ l, code e < 192) :
    w.setRegs code lane val l = { w with lanes := (w.setRegs code lane val l).lanes } := by
  induction l generalizing w with
  | nil => rfl
  | cons a t ih =>
    rw [Warp.setRegs, List.foldl_cons, ← Warp.setRegs, ih _ fun e he => hc e (List.mem_cons_of_mem _ he)]
    simp only [Warp.setReg, if_pos (hc a (List.mem_cons_self ..))]
    rfl

theorem Warp.regWord_setRegs_other (w : Warp) {l : List Nat} {c' l' : Nat} (hc : ∀ e ∈ l, code e < 192) (h : ∀ e ∈ l, c' ≠ code e ∨ l' ≠ lane e) :
    (w.setRegs code lane val l).regWord c' l' = w.regWord c' l' := by
  induction l generalizing w with
  | nil => rfl
  | cons a t ih =>
    have ha := h a (List.mem_cons_self ..)
    have hlt := hc a (List.mem_cons_self ..)
    rw [Warp.setRegs, List.foldl_cons, ← Warp.setRegs, ih _ (fun e he => hc e (List.mem_cons_of_mem _ he)) fun e he => h e (List.mem_cons_of_mem _ he),
      Warp.regWord_setReg_other _ _ (by omega)]

theorem Warp.regWord_setRegs_same (w : Warp) {l : List Nat} (hn : l.Nodup) (hc : ∀ e ∈ l, code e < 192) (hl : ∀ e ∈ l, lane e < w.lanes.length)
    (hinj : ∀ e ∈ l, ∀ f ∈ l, code e = code f → lane e = lane f → e = f) {e : Nat} (he : e ∈ l) :
    (w.setRegs code lane val l).regWord (code e) (lane e) = val e := by
  induction l generalizing w with
  | nil => cases he
  | cons a t ih =>
    rw [List.nodup_cons] at hn
    rw [Warp.setRegs, List.foldl_cons, ← Warp.setRegs]
    rcases List.mem_cons.1 he with rfl | he
    · rw [Warp.regWord_setRegs_other _ (fun f hf => hc f (List.mem_cons_of_mem _ hf)), Warp.regWord_setReg _ _ _ _ _ _
        (by have := hc e (List.mem_cons_self ..); omega), if_pos ⟨rfl, .inr ⟨rfl, hl e (List.mem_cons_self ..)⟩⟩]
      intro f hf
      by_contra hcon
      push Not at hcon
      have := hinj e (List.mem_cons_self ..) f (List.mem_cons_of_mem _ hf) hcon.1 hcon.2
      exact hn.1 (this ▸ hf)
    · exact ih _ hn.2 (fun e he => hc e (List.mem_cons_of_mem _ he)) (fun e he => by rw [Warp.length_setReg]; exact hl e (List.mem_cons_of_mem _ he))
        (fun e he f hf => hinj e (List.mem_cons_of_mem _ he) f (List.mem_cons_of_mem _ hf)) he

end

/-- One sub-tile of results: element (i, j) stands in register j mod 8 of the lane with the LID 2i + j / 8. -/
theorem Warp.writeTiles_one (w : Warp) {acc : Nat} (hacc : acc + 8 ≤ 192) (hlanes : w.lanes.length = 32) (result : List Nat) :
    w.writeTiles acc [0] result = { w with lanes := (w.writeTiles acc [0] result).lanes } ∧
      (∀ i j, i < 16 → j < 16 →
        (w.writeTiles acc [0] result).regWord (acc + j % 8) (w.byLid.getD (2 * i + j / 8) 0) = BitVec.ofNat 32 (result.getD (16 * i + j) 0)) ∧
      ∀ code l, (code < acc ∨ acc + 8 ≤ code) → (w.writeTiles acc [0] result).regWord code l = w.regWord code l := by
  obtain ⟨code, hcode⟩ : ∃ code : Nat → Nat, code = fun e => acc + e % 16 % 8 := ⟨_, rfl⟩
  obtain ⟨lane, hlane⟩ : ∃ lane : Nat → Nat, lane = fun e => w.byLid.getD (2 * (e / 16) + e % 16 / 8) 0 := ⟨_, rfl⟩
  have heq : w.writeTiles acc [0] result = w.setRegs code lane (fun e => BitVec.ofNat 32 (result.getD e 0)) (List.range 256) := by
    have hplace : tilePlace [0] 0 = 0 := rfl
    simp only [Warp.writeTiles, List.foldl_cons, List.foldl_nil, hplace, Nat.mul_zero, Nat.add_zero, Nat.zero_add, hcode, hlane]
    rfl
  have hc : ∀ e ∈ List.range 256, code e < 192 := fun e _ => by rw [hcode]; dsimp only; omega
  have hl : ∀ e ∈ List.range 256, lane e < w.lanes.length := fun e he => by
    have := List.mem_range.1 he
    rw [hlane, hlanes]
    exact w.byLid_lt (by omega)
  have hinj : ∀ e ∈ List.range 256, ∀ f ∈ List.range 256, code e = code f → lane e = lane f → e = f := fun e he f hf h1 h2 => by
    have he := List.mem_range.1 he
    have hf := List.mem_range.1 hf
    rw [hlane] at h2
    have h2 := w.byLid_inj (by omega) (by omega) h2
    rw [hcode] at h1
    dsimp only at h1
    omega
  rw [heq]
  refine ⟨w.setRegs_eq hc, fun i j hi hj => ?_, fun c' l' hout => w.regWord_setRegs_other hc fun e _ => .inl ?_⟩
  · have h := w.regWord_setRegs_same (val := fun e => BitVec.ofNat 32 (result.getD e 0)) List.nodup_range hc hl hinj
      (List.mem_range.2 (show 16 * i + j < 256 by omega))
    have hi' : (16 * i + j) / 16 = i := by omega
    have hj' : (16 * i + j) % 16 = j := by omega
    simpa only [hcode, hlane, hi', hj'] using h
  · rw [hcode]; dsimp only; omega

theorem becomes_matrixWriteback {s : State} {c q : Nat} {k : Core} {o : MatrixOp} (hk : s.core? c = some k) (hlen : q < k.quads.length)
    (ho : (k.quad q).matrix.find? (fun y => decide (y.id = o.id)) = some o) {m : MatrixMember} {st : Nat} {w : Warp} (hst : o.start = some st)
    (hnow : st + 100 ≤ k.cyc + 1) (hm : o.members = [m]) (htiles : m.tiles = [0]) (hacc : m.acc + 8 ≤ 192) (hw : s.warp? c m.slot = some w)
    (hlanes : w.lanes.length = 32) :
    Becomes (.matrixWriteback c q o.id) s fun t => (∃ k', t.core? c = some k' ∧ ∀ y ∈ (k'.quad q).matrix, y.id ≠ o.id) ∧
      ∃ w', Rewrites c m.slot s t w' ∧ w' = { w with lanes := w'.lanes } ∧
          (∀ i j, i < 16 → j < 16 → w'.regWord (m.acc + j % 8) ((w.lanesByLid 0xFF).getD (2 * i + j / 8) 0) = BitVec.ofNat 32 (o.result.getD (16 * i + j) 0)) ∧
          ∀ code l, (code < m.acc ∨ m.acc + 8 ≤ code) → w'.regWord code l = w.regWord code l := by
  have h0 := State.quadHas_taken hk hlen ho (.matrixWriteback c q o.id)
  obtain ⟨s1, hs1⟩ : ∃ s1, s1 = (s.taken (.matrixWriteback c q o.id)).dropMatrix c q o.id := ⟨_, rfl⟩
  have hw1 : s1.warp? c m.slot = some w := by rw [hs1, State.warp?_dropMatrix, State.warp?_taken, hw]
  have hdrop : s1.QuadHas c q (fun x => ∀ y ∈ x.matrix, y.id ≠ o.id) := by rw [hs1]; exact h0.dropMatrix
  obtain ⟨k', hk', -, hgone⟩ := (hdrop.modWarp m.slot (fun w => w.writeTiles m.acc [0] o.result)).registersWritten (fun _ _ hx => hx)
    m.slot m.acc (8 * 1)
  refine ⟨_, ?_, ⟨k', hk', hgone⟩, w.writeTiles m.acc [0] o.result, ?_, w.writeTiles_one hacc hlanes o.result⟩
  · have hlate : ¬(s.cyc c + 1 < st + 100) := by rw [State.cyc_eq hk]; omega
    have hlt : m.acc < 192 := by omega
    show execMatrixWriteback c q o.id s = _
    simp only [execMatrixWriteback, h0.matrixOp?, hst, State.cyc_taken, if_neg hlate, hm, List.foldl_cons, List.foldl_nil, if_pos hlt, htiles,
      ← hs1, List.length_cons, List.length_nil, Nat.zero_add]
  · refine ((Rewrites.modWarp hw1 (fun w => w.writeTiles m.acc [0] o.result)).after fun e p => ?_).before fun e p => ?_
    · rw [State.warp?_registersWritten]
    · rw [hs1, State.warp?_dropMatrix, State.warp?_taken]

end Sys2Proof.Machine

/-! # The value of a group of products (R80, R81) -/

namespace Sys2Proof.Machine

/-! ## Exact sums, as rational numbers -/

/-- The number that the parts of a finite value stand for. -/
def partNum (p : Bool × Nat × Int) : ℚ := (if p.1 then -1 else 1) * p.2.1 * 2 ^ p.2.2

theorem shift_num (m : Nat) {e g : Int} (h : g ≤ e) : ((m <<< (e - g).toNat : Nat) : ℚ) * 2 ^ g = m * 2 ^ e := by
  rw [Nat.shiftLeft_eq, Nat.cast_mul, Nat.cast_pow, Nat.cast_ofNat, mul_assoc, ← zpow_natCast, Int.toNat_of_nonneg (by omega),
    ← zpow_add₀ (by norm_num), sub_add_cancel]

theorem addFin_num (n₁ : Bool) (m₁ : Nat) (e₁ : Int) (n₂ : Bool) (m₂ : Nat) (e₂ : Int) :
    ((addFin n₁ m₁ e₁ n₂ m₂ e₂).1 : ℚ) * 2 ^ (addFin n₁ m₁ e₁ n₂ m₂ e₂).2 = partNum (n₁, m₁, e₁) + partNum (n₂, m₂, e₂) := by
  have h1 := shift_num m₁ (min_le_left e₁ e₂)
  have h2 := shift_num m₂ (min_le_right e₁ e₂)
  have hsign : ∀ (n : Bool) (x : Nat), ((if n then -(x : Int) else x : Int) : ℚ) = (if n then -1 else 1) * (x : ℚ) := fun n x => by
    cases n <;> simp
  simp only [addFin, partNum, Int.cast_add, hsign]
  rw [add_mul, mul_assoc, mul_assoc, h1, h2, mul_assoc, mul_assoc]

theorem partNum_int (s e : Int) : partNum (decide (s < 0), s.natAbs, e) = (s : ℚ) * 2 ^ e := by
  simp only [partNum, decide_eq_true_eq]
  congr 1
  by_cases hs : s < 0
  · rw [if_pos hs, neg_one_mul, ← Int.cast_natCast, Int.ofNat_natAbs_of_nonpos (by omega), Int.cast_neg, neg_neg]
  · rw [if_neg hs, one_mul, ← Int.cast_natCast, Int.natAbs_of_nonneg (by omega)]

theorem sumExact_num (l : List (Bool × Nat × Int)) : ((sumExact l).1 : ℚ) * 2 ^ (sumExact l).2 = (l.map partNum).sum := by
  induction l with
  | nil => simp [sumExact]
  | cons a t ih =>
    obtain ⟨n, m, e⟩ := a
    rw [List.map_cons, List.sum_cons, ← ih, ← partNum_int (sumExact t).1]
    exact addFin_num ..

theorem partNum_eq_zero {p : Bool × Nat × Int} : partNum p = 0 ↔ p.2.1 = 0 := by
  have h2 : (2 : ℚ) ^ p.2.2 ≠ 0 := zpow_ne_zero _ (by norm_num)
  have hs : (if p.1 then (-1 : ℚ) else 1) ≠ 0 := by split <;> norm_num
  rw [partNum, mul_eq_zero, mul_eq_zero, or_iff_left h2, or_iff_right hs, Nat.cast_eq_zero]

theorem abs_partNum (p : Bool × Nat × Int) : |partNum p| = p.2.1 * 2 ^ p.2.2 := by
  have h2 : (0 : ℚ) < 2 ^ p.2.2 := zpow_pos (by norm_num) _
  have hs : |(if p.1 then (-1 : ℚ) else 1)| = 1 := by split <;> norm_num
  rw [partNum, abs_mul, abs_mul, hs, one_mul, abs_of_pos h2, Nat.abs_cast]

/-- The magnitude of a product is the logarithm of its number. -/
theorem log_partNum {p : Bool × Nat × Int} (hp : p.2.1 ≠ 0) : Int.log 2 |partNum p| = magnitude p.2.1 p.2.2 := by
  have hpos : (0 : ℚ) < p.2.1 * 2 ^ p.2.2 := mul_pos (by exact_mod_cast Nat.pos_of_ne_zero hp) (zpow_pos (by norm_num) _)
  have h2 : (0 : ℚ) < 2 ^ p.2.2 := zpow_pos (by norm_num) _
  rw [abs_partNum, magnitude]
  refine le_antisymm (Int.lt_add_one_iff.1 ?_) ?_
  · rw [← Int.lt_zpow_iff_log_lt (by norm_num) hpos]
    have h : (p.2.1 : ℚ) < 2 ^ (p.2.1.log2 + 1) := by exact_mod_cast Nat.lt_log2_self
    calc (p.2.1 : ℚ) * 2 ^ p.2.2 < 2 ^ (p.2.1.log2 + 1) * 2 ^ p.2.2 := mul_lt_mul_of_pos_right h h2
      _ = _ := by rw [← zpow_natCast, Nat.cast_ofNat, ← zpow_add₀ (by norm_num)]; congr 1; push_cast; ring
  · rw [← Int.zpow_le_iff_le_log (by norm_num) hpos]
    have h : (2 : ℚ) ^ p.2.1.log2 ≤ p.2.1 := by exact_mod_cast Nat.log2_self_le hp
    calc (((2 : Nat) : ℚ)) ^ ((p.2.1.log2 : Int) + p.2.2) = 2 ^ p.2.1.log2 * 2 ^ p.2.2 := by
          rw [Nat.cast_ofNat, zpow_add₀ (by norm_num), zpow_natCast]
      _ ≤ p.2.1 * 2 ^ p.2.2 := mul_le_mul_of_nonneg_right h h2.le

/-- The whole steps of a grid in a number. -/
theorem steps_floor (m : Nat) (e q : Int) : ⌊(m : ℚ) * 2 ^ e / 2 ^ q⌋ = ((steps m e q).1 : Int) := by
  have h2 : (2 : ℚ) ^ q ≠ 0 := zpow_ne_zero _ (by norm_num)
  rw [steps]
  split
  · rename_i h
    rw [← shift_num m h, mul_div_assoc, div_self h2, mul_one]
    exact Int.floor_natCast _
  · rename_i h
    have hk : (m : ℚ) * 2 ^ e / 2 ^ q = (m : ℚ) / ((2 ^ (q - e).toNat : Nat) : ℚ) := by
      rw [Nat.cast_pow, Nat.cast_ofNat, ← zpow_natCast, Int.toNat_of_nonneg (by omega), zpow_sub₀ (by norm_num)]
      field_simp
    rw [hk, Rat.floor_natCast_div_natCast]
    simp [Nat.shiftRight_eq_div_pow]

theorem partNum_truncTo (q : Int) (p : Bool × Nat × Int) : partNum (truncTo q p) = truncated q (partNum p) := by
  obtain ⟨n, m, e⟩ := p
  have h2 : (0 : ℚ) < 2 ^ e := zpow_pos (by norm_num) _
  have hnn : (0 : ℚ) ≤ m * 2 ^ e := mul_nonneg (Nat.cast_nonneg _) h2.le
  have hf := steps_floor m e q
  have hsteps : m = 0 → (steps m e q).1 = 0 := fun hz => by
    rw [hz, Nat.cast_zero, zero_mul, zero_div, Int.floor_zero] at hf
    rw [hz]; exact_mod_cast hf.symm
  cases n with
  | false =>
    have hneg : ¬((m : ℚ) * 2 ^ e < 0) := not_lt.2 hnn
    simp only [truncTo, partNum, truncated, Bool.false_eq_true, if_false, one_mul, hneg, hf, Int.cast_natCast]
  | true =>
    have hnum : ∀ (x : Nat) (g : Int), partNum (true, x, g) = -((x : ℚ) * 2 ^ g) := fun x g => by simp [partNum]
    rw [truncTo, truncated, hnum, hnum, neg_neg, hf, Int.cast_natCast]
    by_cases hz : m = 0
    · rw [hsteps hz, hz]; simp
    · rw [if_pos (neg_lt_zero.2 (mul_pos (by exact_mod_cast Nat.pos_of_ne_zero hz) h2)), neg_mul]

/-! ## Products (R80) -/

/-- A product that is no number, and one that is an infinity of a sign, as the unit finds them. -/
def productNan (p : FVal × Bool) : Bool := match p.1 with | .nan _ => true | _ => p.2
def productInf (n : Bool) (p : FVal × Bool) : Bool := match p.1 with | .inf s => s == n | _ => false

/-- What the product of two values can be. -/
theorem mulVal_cases (x y : FVal) :
    (badProduct x y ∧ productNan (mulVal x y) = true) ∨
    (¬badProduct x y ∧ (∃ n, infProduct n x y ∧ (mulVal x y) = (.inf n, false))) ∨
    (¬badProduct x y ∧ (∀ n, ¬infProduct n x y) ∧ ∃ p : Bool × Nat × Int, mulVal x y = (.fin p.1 p.2.1 p.2.2, false) ∧
      partNum p = x.num * y.num ∧ (p.2.1 = 0 ↔ x.isZero ∨ y.isZero) ∧ p.1 = (x.negative ^^ y.negative)) := by
  cases x with
  | nan s => exact .inl ⟨.inl ⟨s, rfl⟩, by cases y <;> rfl⟩
  | inf a =>
    cases y with
    | nan t => exact .inl ⟨.inr (.inl ⟨t, rfl⟩), rfl⟩
    | inf b =>
      refine .inr (.inl ⟨?_, a != b, ⟨?_, .inl ⟨a, rfl⟩, rfl⟩, rfl⟩) <;> simp [badProduct, FVal.isNan, FVal.isInf, FVal.isZero]
    | fin b m e =>
      by_cases hm : m = 0
      · exact .inl ⟨.inr (.inr (.inl ⟨⟨a, rfl⟩, b, e, by rw [hm]⟩)), by simp [mulVal, hm, productNan]⟩
      · refine .inr (.inl ⟨?_, a != b, ⟨?_, .inl ⟨a, rfl⟩, rfl⟩, by simp [mulVal, hm]⟩) <;>
          simp [badProduct, FVal.isNan, FVal.isInf, FVal.isZero, hm]
  | fin a m e =>
    cases y with
    | nan t => exact .inl ⟨.inr (.inl ⟨t, rfl⟩), rfl⟩
    | inf b =>
      by_cases hm : m = 0
      · exact .inl ⟨.inr (.inr (.inr ⟨⟨a, e, by rw [hm]⟩, b, rfl⟩)), by simp [mulVal, hm, productNan]⟩
      · refine .inr (.inl ⟨?_, a != b, ⟨?_, .inr ⟨b, rfl⟩, rfl⟩, by simp [mulVal, hm]⟩) <;>
          simp [badProduct, FVal.isNan, FVal.isInf, FVal.isZero, hm]
    | fin b n g =>
      refine .inr (.inr ⟨?_, ?_, (a != b, m * n, e + g), rfl, ?_, ?_, rfl⟩)
      · simp [badProduct, FVal.isNan, FVal.isInf]
      · simp [infProduct, FVal.isInf]
      · have hs : (if (a != b) = true then (-1 : ℚ) else 1) = (if a then -1 else 1) * (if b then -1 else 1) := by cases a <;> cases b <;> norm_num
        simp only [partNum, FVal.num, hs, Nat.cast_mul, zpow_add₀ (show (2 : ℚ) ≠ 0 by norm_num)]
        ring
      · simp [FVal.isZero]

/-- The parts of the finite products, and the terms that are added: of 16-bit formats each truncated to the grid of the largest. -/
def finiteParts (ps : List (FVal × Bool)) : List (Bool × Nat × Int) := ps.filterMap (fun p => p.1.parts)
def wideTerms (l : List (Bool × Nat × Int)) (es : List Int) : List (Bool × Nat × Int) :=
  match es with
  | [] => []
  | e :: t => l.map (truncTo (t.foldl max e - 48))
def groupTerms (wide : Bool) (l : List (Bool × Nat × Int)) : List (Bool × Nat × Int) :=
  if wide then wideTerms l (l.map (fun p => magnitude p.2.1 p.2.2)) else l

/-- The value of a group whose products are finite. -/
def finiteValue (wide : Bool) (k : Int) (fin : List (Bool × Nat × Int)) : Nat :=
  let nonzero := fin.filter (fun p => p.2.1 ≠ 0)
  let s := sumExact (groupTerms wide nonzero)
  if s.1 = 0 then Fmt.f32.signed (!fin.isEmpty && fin.all (fun p => p.1) && nonzero.isEmpty) 0
  else (roundFin .f32 0 false (s.1 < 0) s.1.natAbs (s.2 + k)).bits

theorem groupValue_eq (wide : Bool) (k : Int) (nan : Bool) (ps : List (FVal × Bool)) :
    groupValue wide k nan ps =
      if nan || ps.any productNan then 0x7FC00000
      else if ps.any (productInf false) && ps.any (productInf true) then 0x7FC00000
      else if ps.any (productInf false) then 0x7F800000
      else if ps.any (productInf true) then 0xFF800000
      else finiteValue wide k (finiteParts ps) := rfl

theorem sum_map_nonzero (f : Bool × Nat × Int → ℚ) (hf : ∀ p, p.2.1 = 0 → f p = 0) (l : List (Bool × Nat × Int)) :
    ((l.filter (fun p => p.2.1 ≠ 0)).map f).sum = (l.map f).sum := by
  induction l with
  | nil => rfl
  | cons a t ih =>
    rw [List.filter_cons, List.map_cons, List.sum_cons]
    by_cases ha : a.2.1 = 0
    · rw [if_neg (by simpa using ha), ih, hf a ha, zero_add]
    · rw [if_pos (by simpa using ha), List.map_cons, List.sum_cons, ih]

theorem foldl_max_spec {α : Type} [LinearOrder α] (l : List α) (e : α) : l.foldl max e ∈ e :: l ∧ ∀ x ∈ e :: l, x ≤ l.foldl max e := by
  induction l generalizing e with
  | nil => exact ⟨List.mem_cons_self .., fun x hx => by rw [List.mem_singleton] at hx; rw [hx]; exact le_rfl⟩
  | cons a t ih =>
    obtain ⟨hmem, hle⟩ := ih (max e a)
    rw [List.foldl_cons]
    have hmax := hle (max e a) (List.mem_cons_self ..)
    refine ⟨?_, fun x hx => ?_⟩
    · rcases List.mem_cons.1 hmem with h | h
      · rw [h]
        rcases max_choice e a with h | h <;> simp [h]
      · exact List.mem_cons_of_mem _ (List.mem_cons_of_mem _ h)
    · rcases List.mem_cons.1 hx with rfl | hx
      · exact le_trans (le_max_left ..) hmax
      rcases List.mem_cons.1 hx with rfl | hx
      · exact le_trans (le_max_right ..) hmax
      · exact hle x (List.mem_cons_of_mem _ hx)

/-- The terms of a group add up to its sum. -/
theorem groupSum_terms (wide : Bool) (fin : List (Bool × Nat × Int)) :
    GroupSum wide (fin.map partNum) ((groupTerms wide (fin.filter (fun p => p.2.1 ≠ 0))).map partNum).sum := by
  cases wide with
  | false => exact sum_map_nonzero partNum (fun p hp => partNum_eq_zero.2 hp) fin
  | true =>
    obtain ⟨l, hl⟩ : ∃ l, l = fin.filter (fun p => p.2.1 ≠ 0) := ⟨_, rfl⟩
    have hmem : ∀ p, p ∈ l ↔ p ∈ fin ∧ p.2.1 ≠ 0 := fun p => by rw [hl, List.mem_filter, decide_eq_true_eq]
    simp only [← hl, GroupSum, groupTerms, if_true]
    cases hm : l.map (fun p => magnitude p.2.1 p.2.2) with
    | nil =>
      refine .inl ⟨fun x hx => ?_, rfl⟩
      obtain ⟨p, hp, rfl⟩ := List.mem_map.1 hx
      by_contra hne
      have hpl : p ∈ l := (hmem p).2 ⟨hp, fun h => hne (partNum_eq_zero.2 h)⟩
      rw [List.map_eq_nil_iff.1 hm] at hpl
      cases hpl
    | cons e t =>
      obtain ⟨hE, hle⟩ := foldl_max_spec t e
      rw [← hm] at hE hle
      refine .inr ⟨t.foldl max e, ?_, fun x hx hne => ?_, ?_⟩
      · obtain ⟨p, hp, hpE⟩ := List.mem_map.1 hE
        obtain ⟨hpf, hp0⟩ := (hmem p).1 hp
        exact ⟨_, List.mem_map_of_mem hpf, fun h => hp0 (partNum_eq_zero.1 h), by rw [log_partNum hp0, hpE]⟩
      · obtain ⟨p, hp, rfl⟩ := List.mem_map.1 hx
        have hp0 : p.2.1 ≠ 0 := fun h => hne (partNum_eq_zero.2 h)
        rw [log_partNum hp0]
        exact hle _ (List.mem_map_of_mem ((hmem p).2 ⟨hp, hp0⟩))
      · have hz : ∀ p : Bool × Nat × Int, p.2.1 = 0 → truncated (t.foldl max e - 48) (partNum p) = 0 := fun p hp => by
          rw [partNum_eq_zero.2 hp]; simp [truncated]
        have hfun : partNum ∘ truncTo (t.foldl max e - 48) = fun p => truncated (t.foldl max e - 48) (partNum p) :=
          funext fun p => partNum_truncTo _ p
        rw [wideTerms, List.map_map, hfun, List.map_map, hl, sum_map_nonzero _ hz]
        rfl

/-- The value of a group of finite products: the sum is scaled and rounded once; a zero sum is negative where every product is -0. -/
theorem finiteValue_spec (wide : Bool) (k : Int) {fin : List (Bool × Nat × Int)} (hne : fin ≠ []) :
    ∃ S, GroupSum wide (fin.map partNum) S ∧
      (S = 0 → (finiteValue wide k fin = 2 ^ 31 ∧ ∀ p ∈ fin, p.2.1 = 0 ∧ p.1 = true) ∨
        (finiteValue wide k fin = 0 ∧ ∃ p ∈ fin, ¬(p.2.1 = 0 ∧ p.1 = true))) ∧
      (S ≠ 0 → ∃ (n : Bool) (y : Nat) (e : ℤ), (if n then -1 else 1) * (y : ℚ) * 2 ^ e = S * 2 ^ k ∧
        finiteValue wide k fin = (roundFin .f32 0 false n y e).bits) := by
  obtain ⟨s, hs⟩ : ∃ s, s = sumExact (groupTerms wide (fin.filter (fun p => p.2.1 ≠ 0))) := ⟨_, rfl⟩
  have h2 : (2 : ℚ) ^ s.2 ≠ 0 := zpow_ne_zero _ (by norm_num)
  refine ⟨_, groupSum_terms wide fin, fun hS => ?_, fun hS => ?_⟩
  · rw [← sumExact_num, ← hs, mul_eq_zero, or_iff_left h2, Int.cast_eq_zero] at hS
    simp only [finiteValue, ← hs, if_pos hS]
    by_cases hall : ∀ p ∈ fin, p.2.1 = 0 ∧ p.1 = true
    · refine .inl ⟨?_, hall⟩
      have h1 : fin.all (fun p => p.1) = true := List.all_eq_true.2 fun p hp => (hall p hp).2
      have h2 : fin.filter (fun p => p.2.1 ≠ 0) = [] := List.filter_eq_nil_iff.2 fun p hp => by simp [(hall p hp).1]
      rw [h1, h2, List.isEmpty_eq_false_iff.2 hne]; rfl
    · push Not at hall
      obtain ⟨p, hp, hpn⟩ := hall
      refine .inr ⟨?_, p, hp, fun h => hpn h.1 h.2⟩
      have hfalse : (fin.all (fun p => p.1) && (fin.filter (fun p => p.2.1 ≠ 0)).isEmpty) = false := by
        rw [Bool.and_eq_false_iff]
        by_cases hp0 : p.2.1 = 0
        · exact .inl (List.all_eq_false.2 ⟨p, hp, hpn hp0⟩)
        · exact .inr (List.isEmpty_eq_false_iff.2 fun h => by
            have := List.filter_eq_nil_iff.1 h p hp
            simp [hp0] at this)
      rw [Bool.and_assoc, hfalse, Bool.and_false]; rfl
  · have hs0 : s.1 ≠ 0 := fun h => hS (by rw [← sumExact_num, ← hs, h, Int.cast_zero, zero_mul])
    refine ⟨decide (s.1 < 0), s.1.natAbs, s.2 + k, ?_, by simp only [finiteValue, ← hs, if_neg hs0]⟩
    rw [← sumExact_num, ← hs, mul_assoc (s.1 : ℚ), ← zpow_add₀ (show (2 : ℚ) ≠ 0 by norm_num)]
    exact partNum_int s.1 (s.2 + k)

/-- The parts of a product of two values. -/
def productParts (p : FVal × FVal) : Bool × Nat × Int := ((mulVal p.1 p.2).1.parts).getD (false, 0, 0)

theorem any_productNan (ps : List (FVal × FVal)) :
    (ps.map (fun p => mulVal p.1 p.2)).any productNan = true ↔ ∃ p ∈ ps, badProduct p.1 p.2 := by
  rw [List.any_map, List.any_eq_true]
  refine exists_congr fun p => and_congr_right fun _ => ?_
  rcases mulVal_cases p.1 p.2 with ⟨hb, hn⟩ | ⟨hb, n, -, hm⟩ | ⟨hb, -, q, hm, -⟩
  · exact iff_of_true hn hb
  · exact iff_of_false (by simp [hm, productNan]) hb
  · exact iff_of_false (by simp [hm, productNan]) hb

theorem any_productInf (n : Bool) (ps : List (FVal × FVal)) (hbad : ¬∃ p ∈ ps, badProduct p.1 p.2) :
    (ps.map (fun p => mulVal p.1 p.2)).any (productInf n) = true ↔ ∃ p ∈ ps, infProduct n p.1 p.2 := by
  rw [List.any_map, List.any_eq_true]
  refine exists_congr fun p => and_congr_right fun hp => ?_
  rcases mulVal_cases p.1 p.2 with ⟨hb, -⟩ | ⟨hb, k, hk, hm⟩ | ⟨hb, hi, q, hm, -⟩
  · exact absurd ⟨p, hp, hb⟩ hbad
  · simp only [Function.comp, hm, productInf, beq_iff_eq]
    exact ⟨fun h => h ▸ hk, fun h => hk.2.2.symm.trans h.2.2⟩
  · exact iff_of_false (by simp [hm, productInf]) (hi n)

/-- What the model gives is the value of the group (R80, R81). -/
theorem groupValue_spec (wide : Bool) (ea eb : Nat) {ps : List (FVal × FVal)} (hne : ps ≠ []) :
    GroupValue wide ea eb ps
      (groupValue wide ((ea : Int) + eb - 254) (ea = 255 || eb = 255) (ps.map (fun p => mulVal p.1 p.2))) := by
  rw [groupValue_eq]
  have hnan : (decide (ea = 255) || decide (eb = 255) || (ps.map (fun p => mulVal p.1 p.2)).any productNan) = true ↔
      (ea = 255 ∨ eb = 255 ∨ ∃ p ∈ ps, badProduct p.1 p.2) := by
    simp only [Bool.or_eq_true, decide_eq_true_eq, any_productNan, or_assoc]
  by_cases hn : ea = 255 ∨ eb = 255 ∨ ∃ p ∈ ps, badProduct p.1 p.2
  · rw [if_pos (hnan.2 hn)]
    exact ⟨fun _ => rfl, fun h => absurd hn h, fun h => absurd hn h, fun h => absurd hn h⟩
  rw [if_neg (fun h => hn (hnan.1 h))]
  have hbad : ¬∃ p ∈ ps, badProduct p.1 p.2 := fun h => hn (.inr (.inr h))
  have hf := any_productInf false ps hbad
  have ht := any_productInf true ps hbad
  have hboth := Bool.and_eq_true_iff.trans (and_congr hf ht)
  by_cases h1 : ∃ p ∈ ps, infProduct false p.1 p.2
  · by_cases h2 : ∃ p ∈ ps, infProduct true p.1 p.2
    · rw [if_pos (hboth.2 ⟨h1, h2⟩)]
      exact ⟨fun _ => rfl, fun _ _ h => absurd h2 h, fun _ h => absurd h1 h, fun _ h => absurd h1 h⟩
    · rw [if_neg (fun h => h2 (hboth.1 h).2), if_pos (hf.2 h1)]
      exact ⟨fun h => h.elim (fun h => absurd h hn) (fun h => absurd h.2 h2), fun _ _ _ => rfl, fun _ h => absurd h1 h, fun _ h => absurd h1 h⟩
  rw [if_neg (fun h => h1 (hboth.1 h).1), if_neg (fun h => h1 (hf.1 h))]
  by_cases h2 : ∃ p ∈ ps, infProduct true p.1 p.2
  · rw [if_pos (ht.2 h2)]
    exact ⟨fun h => h.elim (fun h => absurd h hn) (fun h => absurd h.1 h1), fun _ h => absurd h h1, fun _ _ _ => rfl, fun _ _ h => absurd h2 h⟩
  rw [if_neg (fun h => h2 (ht.1 h))]
  refine ⟨fun h => h.elim (fun h => absurd h hn) (fun h => absurd h.1 h1), fun _ h => absurd h h1, fun _ _ h => absurd h h2, fun _ _ _ => ?_⟩
  -- every product is finite
  have hfin : ∀ p ∈ ps, (mulVal p.1 p.2).1.parts = some (productParts p) ∧ partNum (productParts p) = p.1.num * p.2.num ∧
      ((productParts p).2.1 = 0 ↔ p.1.isZero ∨ p.2.isZero) ∧ (productParts p).1 = (p.1.negative ^^ p.2.negative) := fun p hp => by
    rcases mulVal_cases p.1 p.2 with ⟨hb, -⟩ | ⟨-, n, hn, -⟩ | ⟨-, -, q, hm, hnum, hzero, hneg⟩
    · exact absurd ⟨p, hp, hb⟩ hbad
    · cases n
      · exact absurd ⟨p, hp, hn⟩ h1
      · exact absurd ⟨p, hp, hn⟩ h2
    · have hq : productParts p = q := by rw [productParts, hm]; rfl
      rw [hq, hm]
      exact ⟨rfl, hnum, hzero, hneg⟩
  have hparts : finiteParts (ps.map (fun p => mulVal p.1 p.2)) = ps.map productParts := by
    rw [finiteParts, List.filterMap_map, ← List.filterMap_eq_map]
    exact List.filterMap_congr fun p hp => (hfin p hp).1
  obtain ⟨S, hS, hzero, hround⟩ := finiteValue_spec wide ((ea : Int) + eb - 254) (fin := ps.map productParts) (by simpa using hne)
  have hnums : (ps.map productParts).map partNum = ps.map (fun p => p.1.num * p.2.num) := by
    rw [List.map_map]; exact List.map_congr_left fun p hp => (hfin p hp).2.1
  rw [hnums] at hS
  rw [hparts]
  have hiff : ∀ p ∈ ps, ((productParts p).2.1 = 0 ∧ (productParts p).1 = true) ↔ ((p.1.isZero ∨ p.2.isZero) ∧ (p.1.negative ^^ p.2.negative) = true) :=
    fun p hp => by rw [(hfin p hp).2.2.1, (hfin p hp).2.2.2]
  refine ⟨S, hS, fun h0 => (hzero h0).imp (fun h => ⟨h.1, fun p hp => (hiff p hp).1 (h.2 _ (List.mem_map_of_mem hp))⟩) fun h => ⟨h.1, ?_⟩, hround⟩
  obtain ⟨-, x, hx, hxn⟩ := h
  obtain ⟨p, hp, rfl⟩ := List.mem_map.1 hx
  exact ⟨p, hp, fun h => hxn ((hiff p hp).2 h)⟩

end Sys2Proof.Machine

/-! # The sums of a matrix instruction (R79, R82, R222, R226, R231) -/

namespace Sys2Proof.Machine

/-! ## Lists of a fixed shape -/

theorem getElem?_flatMap_range {α : Type} (f : Nat → Nat → α) (n m : Nat) {i j : Nat} (hi : i < n) (hj : j < m) :
    ((List.range n).flatMap (fun i => (List.range m).map (f i)))[m * i + j]? = some (f i j) := by
  induction n with
  | zero => omega
  | succ n ih =>
    have hlen : ((List.range n).flatMap (fun i => (List.range m).map (f i))).length = m * n := by
      simp [List.length_flatMap, Nat.mul_comm]
    rw [List.range_succ, List.flatMap_append]
    by_cases hin : i < n
    · have hle : m * (i + 1) ≤ m * n := Nat.mul_le_mul_left m hin
      rw [List.getElem?_append_left (by rw [hlen]; rw [Nat.mul_succ] at hle; omega), ih hin]
    · have hi' : i = n := by omega
      subst hi'
      rw [List.getElem?_append_right (by rw [hlen]; omega), hlen, Nat.add_sub_cancel_left, List.flatMap_singleton, List.getElem?_map,
        List.getElem?_range hj, Option.map_some]

/-- A part of a list that is given by its elements. -/
theorem drop_take_map_range {α : Type} (f : Nat → α) {n a m : Nat} (h : a + m ≤ n) :
    (((List.range n).map f).drop a).take m = (List.range m).map (fun k => f (a + k)) := by
  refine List.ext_getElem? fun k => ?_
  by_cases hk : k < m
  · rw [List.getElem?_take_of_lt hk, List.getElem?_drop, List.getElem?_map, List.getElem?_map, List.getElem?_range (by omega), List.getElem?_range hk]
    rfl
  · rw [List.getElem?_eq_none (by simp; omega), List.getElem?_eq_none (by simp; omega)]

theorem zipWith_map_range {α β γ : Type} (f : α → β → γ) (x : Nat → α) (y : Nat → β) (n : Nat) :
    List.zipWith f ((List.range n).map x) ((List.range n).map y) = (List.range n).map (fun k => f (x k) (y k)) := by
  rw [List.zipWith_map, List.zipWith_self]

/-! ## The codes of a row (R222) -/

theorem getD_rowOf (bytes : List Byte) (r : Nat) {k : Nat} (hk : k < 192) : (rowOf bytes r).getD k 0 = bytes.getD (192 * r + k) 0 := by
  rw [rowOf, List.getD_eq_getElem?_getD, List.getD_eq_getElem?_getD, List.getElem?_take_of_lt hk, List.getElem?_drop]

theorem length_rowOf {bytes : List Byte} {r : Nat} (h : 192 * (r + 1) ≤ bytes.length) : (rowOf bytes r).length = 192 := by
  simp only [rowOf, List.length_take, List.length_drop]
  omega

theorem list_eq_map_getD (l : List Byte) : l = (List.range l.length).map (fun k => l.getD k 0) := by
  refine List.ext_getElem? fun k => ?_
  by_cases hk : k < l.length
  · rw [List.getElem?_map, List.getElem?_range hk, Option.map_some, List.getD_eq_getElem?_getD, List.getElem?_eq_getElem hk, Option.getD_some]
  · rw [List.getElem?_eq_none (by omega), List.getElem?_eq_none (by simp; omega)]

theorem rowCodes_rowOf (c : Nat) {bytes : List Byte} {r : Nat} (h : 192 * (r + 1) ≤ bytes.length) :
    rowCodes c (rowOf bytes r) = (List.range (1536 / elemBits c)).map (elementCode c bytes (192 * r)) := by
  have hlen := length_rowOf h
  have hget := fun k hk => getD_rowOf bytes r (k := k) hk
  generalize rowOf bytes r = row at hlen hget
  have hbits : elemBits c = 16 ∨ elemBits c = 4 ∨ elemBits c = 8 := by simp only [elemBits]; split <;> [skip; split] <;> simp
  rcases hbits with hb | hb | hb
  · rw [rowCodes, if_pos hb, hb]
    refine List.map_congr_left fun k hk => ?_
    have hk := List.mem_range.1 hk
    simp only [elementCode, if_pos hb, hget (2 * k) (by omega), hget (2 * k + 1) (by omega)]
  · have hne : ¬(elemBits c = 16) := by omega
    have hrow : row.flatMap (fun b => [b.toNat % 16, b.toNat / 16]) =
        (List.range 192).flatMap (fun i => (List.range 2).map (fun j => (row.getD i 0).toNat / 16 ^ j % 16)) := by
      conv_lhs => rw [list_eq_map_getD row, hlen, List.flatMap_map]
      refine List.flatMap_congr fun i _ => ?_
      have hlt := (row.getD i 0).isLt
      simp only [List.range, List.range.loop, List.map_cons, List.map_nil, pow_zero, pow_one, Nat.div_one]
      congr 2
      omega
    rw [rowCodes, if_neg hne, if_pos hb, hb, hrow]
    refine List.ext_getElem? fun k => ?_
    by_cases hk : k < 384
    · have h2 := getElem?_flatMap_range (fun i j => (row.getD i 0).toNat / 16 ^ j % 16) 192 2 (i := k / 2) (j := k % 2) (by omega) (by omega)
      rw [Nat.div_add_mod] at h2
      rw [h2, List.getElem?_map, List.getElem?_range hk, Option.map_some]
      simp only [elementCode, if_neg hne, if_pos hb, hget (k / 2) (by omega)]
    · have hlen2 : ∀ n, ((List.range n).flatMap (fun i => (List.range 2).map (fun j => (row.getD i 0).toNat / 16 ^ j % 16))).length = n * 2 :=
        fun n => by simp [List.length_flatMap]
      rw [List.getElem?_eq_none (by rw [hlen2]; omega), List.getElem?_eq_none (by rw [List.length_map, List.length_range]; omega)]
  · have hne : ¬(elemBits c = 16) := by omega
    have hne4 : ¬(elemBits c = 4) := by omega
    rw [rowCodes, if_neg hne, if_neg hne4, hb]
    conv_lhs => rw [list_eq_map_getD row, hlen, List.map_map]
    refine List.map_congr_left fun k hk => ?_
    have hk := List.mem_range.1 hk
    simp only [Function.comp, elementCode, if_neg hne, if_neg hne4, hget k (by omega)]

/-! ## Groups of K (R79 to R81) -/

theorem products_eq (fa fb : Fmt) (a b : List Nat) : products fa fb a b = List.zipWith (fun x y => mulVal (fa.value x) (fb.value y)) a b := by
  induction a generalizing b with
  | nil => cases b <;> rfl
  | cons x a ih =>
    cases b with
    | nil => rfl
    | cons y b => rw [products, ih]; rfl

/-- The value of a group of two rows of codes. -/
def groupOf (wide : Bool) (size : Nat) (fa fb : Fmt) (sa sb : Nat → Nat) (a b : List Nat) (g : Nat) : Nat :=
  groupValue wide ((sa g : Int) + sb g - 254) (sa g = 255 || sb g = 255)
    (products fa fb ((a.drop (size * g)).take size) ((b.drop (size * g)).take size))

theorem sumGroups_eq (wide : Bool) (size : Nat) (fa fb : Fmt) (sa sb : Nat → Nat) (a b : List Nat) (n g acc : Nat) :
    sumGroups wide size fa fb sa sb n g acc (a.drop (size * g)) (b.drop (size * g)) =
      (List.range' g n).foldl (fun acc g => (fAdd .f32 0 (Fmt.f32.value acc) (Fmt.f32.value (groupOf wide size fa fb sa sb a b g))).bits) acc := by
  induction n generalizing g acc with
  | zero => rfl
  | succ n ih =>
    rw [sumGroups, List.range'_succ, List.foldl_cons, List.drop_drop, List.drop_drop, ← Nat.mul_succ]
    exact ih (g + 1) _

theorem foldl_congr_mem {α β : Type} {f g : β → α → β} (l : List α) (h : ∀ b, ∀ a ∈ l, f b a = g b a) (b : β) : l.foldl f b = l.foldl g b := by
  induction l generalizing b with
  | nil => rfl
  | cons a t ih =>
    rw [List.foldl_cons, List.foldl_cons, h b a (List.mem_cons_self ..), ih fun b a ha => h b a (List.mem_cons_of_mem _ ha)]

/-- A sum of groups of rows whose codes are given is a float element. -/
theorem floatElement_sumGroups {ca cb : Nat} {fa fb : Fmt} (hfa : elemFmt ca = some fa) (hfb : elemFmt cb = some fb) (row column : Nat → Nat)
    (sa sb : Nat → Nat) (c : Nat) {size n : Nat} (hsize : size = if elemBits ca = 16 then 8 else 32) (hn : n = 1536 / elemBits ca / size) :
    FloatElement ca cb row column sa sb c (sumGroups (decide (elemBits ca = 16)) size fa fb sa sb n 0 c
      ((List.range (1536 / elemBits ca)).map row) ((List.range (1536 / elemBits ca)).map column)) := by
  have hpos : 0 < size := by rw [hsize]; split <;> omega
  have hval : ∀ x, elemValue ca x = fa.value x := fun x => by simp only [elemValue, hfa]
  have hvalb : ∀ x, elemValue cb x = fb.value x := fun x => by simp only [elemValue, hfb]
  let pairs (g : Nat) : List (FVal × FVal) :=
    (List.range size).map (fun k => (elemValue ca (row (size * g + k)), elemValue cb (column (size * g + k))))
  refine ⟨fun g => groupValue (decide (elemBits ca = 16)) ((sa g : Int) + sb g - 254) (sa g = 255 || sb g = 255)
    ((pairs g).map (fun p => mulVal p.1 p.2)), fun g => ?_, ?_⟩
  · have hne : pairs g ≠ [] := fun h => by
      have := congrArg List.length h
      simp only [pairs, List.length_map, List.length_range, List.length_nil] at this
      omega
    rw [← hsize]
    exact groupValue_spec (decide (elemBits ca = 16)) (sa g) (sb g) hne
  · have h := sumGroups_eq (decide (elemBits ca = 16)) size fa fb sa sb ((List.range (1536 / elemBits ca)).map row)
      ((List.range (1536 / elemBits ca)).map column) n 0 c
    rw [Nat.mul_zero, List.drop_zero, List.drop_zero] at h
    rw [h, ← hsize, ← hn, ← List.range_eq_range']
    refine foldl_congr_mem _ (fun acc g hg => ?_) c
    have hin : size * g + size ≤ 1536 / elemBits ca := by
      have hg := List.mem_range.1 hg
      rw [hn] at hg
      calc size * g + size = size * (g + 1) := (Nat.mul_succ ..).symm
        _ ≤ size * (1536 / elemBits ca / size) := Nat.mul_le_mul_left _ hg
        _ ≤ _ := Nat.mul_div_le ..
    simp only [groupOf, drop_take_map_range _ hin, products_eq, zipWith_map_range, pairs, List.map_map, hval, hvalb]
    rfl

/-! ## One element (R79, R82) -/

theorem elemFmt_isSome {c : Nat} (h : c ≤ 6) : ∃ f, elemFmt c = some f := by
  have h : ∀ c < 7, (elemFmt c).isSome = true := by decide
  exact Option.isSome_iff_exists.1 (h c (by omega))

theorem elemBits_cases {c : Nat} (hc : elemBits c ≠ 16) (hc4 : elemBits c ≠ 4) : elemBits c = 8 := by
  simp only [elemBits] at hc hc4 ⊢
  by_cases h1 : c ≤ 1
  · simp [h1] at hc
  · by_cases h5 : c = 5
    · simp [h5] at hc4
    · simp [h1, h5]

theorem matrixElement_float {fmt : Nat} (hacc : fmtAcc fmt = 0) (ha : fmtA fmt ≤ 6) (hb : fmtB fmt ≤ 6)
    (hbits : elemBits (fmtA fmt) = elemBits (fmtB fmt)) (sa sb : Nat → Nat) (c : Nat) (row column : Nat → Nat) :
    FloatElement (fmtA fmt) (fmtB fmt) row column (fun g => if elemBits (fmtA fmt) = 16 then 127 else sa g)
      (fun g => if elemBits (fmtA fmt) = 16 then 127 else sb g) c
      (matrixElement fmt sa sb c ((List.range (1536 / elemBits (fmtA fmt))).map row) ((List.range (1536 / elemBits (fmtB fmt))).map column)) := by
  obtain ⟨fa, hfa⟩ := elemFmt_isSome ha
  obtain ⟨fb, hfb⟩ := elemFmt_isSome hb
  have hne : ¬(fmtAcc fmt = 1) := by omega
  simp only [matrixElement, if_neg hne, hfa, hfb, ← hbits]
  by_cases h16 : elemBits (fmtA fmt) = 16
  · have h := floatElement_sumGroups hfa hfb row column (fun _ => 127) (fun _ => 127) c (size := 8) (n := 12) (by rw [if_pos h16]) (by rw [h16])
    simp only [decide_eq_true h16] at h
    simpa only [if_pos h16] using h
  · have h := floatElement_sumGroups hfa hfb row column sa sb c (size := 32) (n := if elemBits (fmtA fmt) = 4 then 12 else 6)
      (by rw [if_neg h16]) (by
        by_cases h4 : elemBits (fmtA fmt) = 4
        · rw [if_pos h4, h4]
        · rw [if_neg h4, elemBits_cases h16 h4])
    simp only [decide_eq_false h16] at h
    simpa only [if_neg h16] using h

/-- The integer of a byte, as its element format reads it. -/
def intElement (code : Nat) (b : Byte) : Int := if code = 8 then b.toNat else b.toInt

theorem elemInt_byte (code : Nat) (b : Byte) : elemInt code b.toNat = intElement code b := by
  have hlt := b.isLt
  have hmod : b.toNat % 2 ^ 8 = b.toNat := Nat.mod_eq_of_lt hlt
  by_cases hc : code = 8
  · simp only [elemInt, intOf, intElement, hc, ne_eq, not_true, decide_false, Bool.false_and, Bool.false_eq_true, if_false, if_true, hmod]
  · have htest : b.toNat.testBit 7 = b.msb := by rw [BitVec.msb_eq_getLsbD_last]; rfl
    simp only [elemInt, intOf, intElement, hmod, hc, ne_eq, not_false_eq_true, decide_true, Bool.true_and, if_false, htest, BitVec.toInt_eq_msb_cond]

theorem matrixElement_int {fmt : Nat} (hacc : fmtAcc fmt = 1) (sa sb : Nat → Nat) (c : Nat) (x y : Nat → Byte) :
    ((matrixElement fmt sa sb c ((List.range 192).map (fun k => (x k).toNat)) ((List.range 192).map (fun k => (y k).toNat)) : Nat) : Int) =
      ((c : Int) + ((List.range 192).map (fun n => intElement (fmtA fmt) (x n) * intElement (fmtB fmt) (y n))).sum) % 2 ^ 32 := by
  simp only [matrixElement, if_pos hacc, zipWith_map_range, elemInt_byte, wrapInt, ← List.sum_eq_foldl]
  rw [Int.toNat_of_nonneg (Int.emod_nonneg _ (by norm_num))]
  norm_num

/-! ## The start of a multiply (R231) -/

/-- Element (i, j) of one sub-tile. -/
theorem getD_matrixResult {o : MatrixOp} (hshape : o.shape = 0) (a b : List Byte) (c : Nat → Nat) {i j : Nat} (hi : i < 16) (hj : j < 16) :
    (matrixResult o a b c).getD (16 * i + j) 0 =
      matrixElement o.fmt (scaleByte o.fmt o.scaleA 0 i) (scaleByte o.fmt o.scaleB 0 (16 + j)) (c (16 * i + j))
        (rowCodes (fmtA o.fmt) (rowOf a i)) (rowCodes (fmtB o.fmt) (rowOf b j)) := by
  have hrow : ∀ (f : Nat → List Nat) {i : Nat}, i < 16 → ((List.range 16).map f).getD i [] = f i := fun f i hi => by
    rw [List.getD_eq_getElem?_getD, List.getElem?_map, List.getElem?_range hi, Option.map_some, Option.getD_some]
  have hA : shapeRA 0 = 1 := rfl
  have hB : shapeCB 0 = 1 := rfl
  have hT : shapeTiles 0 = 1 := rfl
  have hr : rowBlock 0 0 = 0 := rfl
  have hc : colBlock 0 0 = 0 := rfl
  have hone : List.range 1 = [0] := rfl
  simp only [matrixResult, hshape, hA, hB, hT, hone, List.flatMap_cons, List.flatMap_nil, List.append_nil, hr, hc, Nat.mul_zero, Nat.zero_add,
    Nat.mul_one]
  rw [List.getD_eq_getElem?_getD, getElem?_flatMap_range _ 16 16 hi hj, Option.getD_some, hrow _ hi, hrow _ hj]

section
variable {s : State} {c q : Nat} {k : Core} {o : MatrixOp} (hk : s.core? c = some k) (hlen : q < k.quads.length)
  (ho : (k.quad q).matrix.find? (fun y => decide (y.id = o.id)) = some o)
  {m : MatrixMember} {w : Warp} {la lb : List Byte} (hkind : o.kind ≠ 3) (hst : o.start = none) (hf : o.fetch = none)
  (hent : o.entered + 2 ≤ k.cyc + 1) (hch : o.chained = false) (hshape : o.shape = 0) (hm : o.members = [m]) (htiles : m.tiles = [0])
  (hw : s.warp? c m.slot = some w) (ha : o.a = .rows la) (hb : o.b = .rows lb) (hla : la.length = 3072) (hlb : lb.length = 3072)
  (hahead : ∀ y ∈ (k.quad q).matrix, y.id < o.id → y.kind = 3)
include hk hlen ho hkind hst hf hent hch hshape hm htiles hw ha hb hahead

/-- A multiply with nothing ahead starts: its elements are formed from its operands and from its warp's run. -/
theorem becomes_matrixStart_elements :
    Becomes (.matrixStart c q o.id) s fun t => ∃ o', (∃ k', t.core? c = some k' ∧ (k'.quad q).matrix.find? (fun y => decide (y.id = o.id)) = some o') ∧
      o' = { o with start := some (k.cyc + 1), result := o'.result } ∧ ∀ i j, i < 16 → j < 16 →
        o'.result.getD (16 * i + j) 0 = matrixElement o.fmt (scaleByte o.fmt o.scaleA 0 i) (scaleByte o.fmt o.scaleB 0 (16 + j))
          (w.regWord (m.acc + j % 8) ((w.lanesByLid 0xFF).getD (2 * i + j / 8) 0)).toNat
          (rowCodes (fmtA o.fmt) (rowOf la i)) (rowCodes (fmtB o.fmt) (rowOf lb j)) := by
  have h0 := State.quadHas_taken hk hlen ho (.matrixStart c q o.id)
  obtain ⟨s1, hs1⟩ : ∃ s1, s1 = s.taken (.matrixStart c q o.id) := ⟨_, rfl⟩
  have hk1 : s1.core? c = some k := by rw [hs1, State.core?_taken, hk]
  have hw1 : s1.warp? c m.slot = some w := by rw [hs1, State.warp?_taken, hw]
  have hbefore : (k.quad q).before o = [] := by
    refine List.filter_eq_nil_iff.2 fun y hy => ?_
    rw [decide_eq_true_eq]
    exact fun h => h.2 (hahead y hy h.1)
  have hmay : (k.quad q).mayStart o (k.cyc + 1) = true := by
    simp only [Quad.mayStart, hbefore, hst, hf, hch, List.filter_nil, List.all_nil, List.isEmpty_nil, Option.isNone_none, Bool.or_true,
      Bool.and_true, Bool.true_and, decide_eq_true_eq]
    exact ⟨hkind, hent⟩
  have hacc : ∀ i j, i < 16 → j < 16 → s1.startAcc c q o (16 * i + j) =
      (w.regWord (m.acc + j % 8) ((w.lanesByLid 0xFF).getD (2 * i + j / 8) 0)).toNat := fun i j hi hj => by
    have h256 : (16 * i + j) / 256 = 0 := by omega
    have hi' : (16 * i + j) / 16 % 16 = i := by omega
    have hj' : (16 * i + j) % 16 = j := by omega
    have hplace : tilePlace [0] 0 = 0 := rfl
    have hin : ([0] : List Nat).contains 0 = true := rfl
    simp only [State.startAcc, hk1, hch, hm, htiles, h256, List.find?_cons, hin, hw1, Option.map_some, Option.getD_some, Bool.false_eq_true, if_false,
      Warp.accElement, hi', hj', hplace, Nat.mul_zero, Nat.add_zero, Warp.byLid]
  have hmod := h0.modMatrix (f := fun o => { o with
    start := some (k.cyc + 1), result := matrixResult o o.a.fetched o.b.fetched (s1.startAcc c q o) }) fun _ => rfl
  rw [← hs1] at h0 hmod
  obtain ⟨k', hk', -, ho'⟩ := hmod
  refine ⟨_, ?_, _, ⟨k', hk', ho'⟩, rfl, fun i j hi hj => ?_⟩
  · have hcyc : s1.cyc c = k.cyc := State.cyc_eq hk1
    show execMatrixStart c q o.id s = _
    simp only [execMatrixStart, ← hs1, h0.matrixOp?, hk1, Option.map_some, Option.getD_some, hcyc, hmay, if_true]
  · have hA : o.a.fetched = la := by rw [ha]; rfl
    have hB : o.b.fetched = lb := by rw [hb]; rfl
    rw [← hacc i j hi hj, ← hA, ← hB]
    exact getD_matrixResult hshape _ _ _ hi hj

include hla hlb

/-- Integer sums wrap (R82). -/
theorem becomes_matrixStart_int (hacc : o.fmt / 256 % 4 = 1) (hA : o.fmt % 16 = 7 ∨ o.fmt % 16 = 8) (hB : o.fmt / 16 % 16 = 7 ∨ o.fmt / 16 % 16 = 8) :
    Becomes (.matrixStart c q o.id) s fun t => ∃ o', (∃ k', t.core? c = some k' ∧ (k'.quad q).matrix.find? (fun y => decide (y.id = o.id)) = some o') ∧
      o' = { o with start := some (k.cyc + 1), result := o'.result } ∧ ∀ i j, i < 16 → j < 16 → ((o'.result.getD (16 * i + j) 0 : Nat) : Int) =
        (((w.regWord (m.acc + j % 8) ((w.lanesByLid 0xFF).getD (2 * i + j / 8) 0)).toNat : Int) +
          ((List.range 192).map (fun n => intElement (o.fmt % 16) (la.getD (192 * i + n) 0) * intElement (o.fmt / 16 % 16) (lb.getD (192 * j + n) 0))).sum)
            % 2 ^ 32 := by
  obtain ⟨t, hex, o', hat, heq, hval⟩ := becomes_matrixStart_elements hk hlen ho hkind hst hf hent hch hshape hm htiles hw ha hb hahead
  refine ⟨t, hex, o', hat, heq, fun i j hi hj => ?_⟩
  have hcodes : ∀ {code : Nat} {l : List Byte} {r : Nat}, code = 7 ∨ code = 8 → l.length = 3072 → r < 16 →
      rowCodes code (rowOf l r) = (List.range 192).map (fun n => (l.getD (192 * r + n) 0).toNat) := fun {code l r} hc hl hr => by
    have hbits : elemBits code = 8 := by rcases hc with rfl | rfl <;> rfl
    rw [rowCodes_rowOf code (by omega), hbits]
    refine List.map_congr_left fun n _ => ?_
    simp only [elementCode, hbits]
    rfl
  rw [hval i j hi hj, fmtA, fmtB, hcodes hA hla hi, hcodes hB hlb hj]
  exact matrixElement_int hacc _ _ _ (fun n => la.getD (192 * i + n) 0) (fun n => lb.getD (192 * j + n) 0)

/-- Float sums are added group by group in ascending k (R79 to R81). -/
theorem becomes_matrixStart_float (hacc : o.fmt / 256 % 4 = 0) (hA : o.fmt % 16 ≤ 6) (hB : o.fmt / 16 % 16 ≤ 6)
    (hbits : elemBits (o.fmt % 16) = elemBits (o.fmt / 16 % 16)) :
    let scale (l : List Byte) (lane g : Nat) : Nat := if o.fmt / 1024 % 4 = 0 ∨ elemBits (o.fmt % 16) = 16 then 127
      else (l.getD (16 * lane + if o.fmt / 1024 % 4 = 2 then 0 else g) 0).toNat
    Becomes (.matrixStart c q o.id) s fun t => ∃ o', (∃ k', t.core? c = some k' ∧ (k'.quad q).matrix.find? (fun y => decide (y.id = o.id)) = some o') ∧
      o' = { o with start := some (k.cyc + 1), result := o'.result } ∧ ∀ i j, i < 16 → j < 16 →
        FloatElement (o.fmt % 16) (o.fmt / 16 % 16) (elementCode (o.fmt % 16) la (192 * i)) (elementCode (o.fmt / 16 % 16) lb (192 * j))
          (scale o.scaleA i) (scale o.scaleB (16 + j))
          (w.regWord (m.acc + j % 8) ((w.lanesByLid 0xFF).getD (2 * i + j / 8) 0)).toNat (o'.result.getD (16 * i + j) 0) := by
  intro scale
  obtain ⟨t, hex, o', hat, heq, hval⟩ := becomes_matrixStart_elements hk hlen ho hkind hst hf hent hch hshape hm htiles hw ha hb hahead
  refine ⟨t, hex, o', hat, heq, fun i j hi hj => ?_⟩
  have hscale : ∀ (l : List Byte) (lane : Nat), scale l lane =
      fun g => if elemBits (fmtA o.fmt) = 16 then 127 else scaleByte o.fmt l 0 lane g := fun l lane => funext fun g => by
    simp only [scale, scaleByte, fmtA, fmtScale, Nat.mul_zero, Nat.zero_add, Nat.mul_comm lane 16]
    by_cases h16 : elemBits (o.fmt % 16) = 16
    · rw [if_pos (.inr h16), if_pos h16]
    · rw [if_neg h16]
      by_cases h0 : o.fmt / 1024 % 4 = 0
      · rw [if_pos (.inl h0), if_pos h0]
      · rw [if_neg (fun h => h.elim h0 h16), if_neg h0]; rfl
  rw [hval i j hi hj, hscale, hscale, rowCodes_rowOf _ (by omega), rowCodes_rowOf _ (by omega)]
  exact matrixElement_float hacc hA hB hbits _ _ _ _ _

end

end Sys2Proof.Machine

/-! # What keeps a group from issuing does not depend on counters and rotations (R50, R110, R121, R188, R231, R389) -/

namespace Sys2Proof.Machine

/-- A core without its warps and its quadrants. -/
def Core.kept (k : Core) : Core := { k with warps := [], quads := [] }

/-- What a group that asks whether it may issue sees of a quadrant, and of a warp other than its own. -/
def Quad.units (x : Quad) : List QResult × List QResult × List MatrixOp := (x.sfu, x.divider, x.matrix)
def Warp.seen (w : Warp) : Option Rendezvous × Region := (w.latch, w.region)

/-- `t` is `s` but for the agenda and for what the selector and the counters of the core `c` change. -/
structure Alike (c : Nat) (s t : State) : Prop where
  off   : Off False s t
  kept  : (t.core? c).map Core.kept = (s.core? c).map Core.kept
  units : ∀ q, (t.core? c).map (fun k => (k.quad q).units) = (s.core? c).map (fun k => (k.quad q).units)
  warps : ∀ p, (t.warp? c p).map Warp.seen = (s.warp? c p).map Warp.seen

section
variable {c : Nat} {s t u : State}

theorem Alike.refl (c : Nat) (s : State) : Alike c s s := ⟨Off.refl _ s, rfl, fun _ => rfl, fun _ => rfl⟩

theorem Alike.trans (h : Alike c s t) (h' : Alike c t u) : Alike c s u := by
  refine ⟨⟨?_, fun hf => hf.elim⟩, h'.kept.trans h.kept, fun q => (h'.units q).trans (h.units q), fun p => (h'.warps p).trans (h.warps p)⟩
  rw [h'.off.rest, h.off.rest]

theorem Alike.agenda (h : Alike c s t) (hu : u = { t with sel := u.sel, pending := u.pending, later := u.later, turn := u.turn }) : Alike c s u := by
  have hcores : u.cores = t.cores := by rw [hu]
  have hcore : u.core? c = t.core? c := by rw [State.core?, hcores]; rfl
  have hwarp : ∀ p, u.warp? c p = t.warp? c p := fun p => by rw [State.warp?, hcore]; rfl
  refine h.trans ⟨⟨?_, fun hf => hf.elim⟩, by rw [hcore], fun q => by rw [hcore], fun p => by rw [hwarp]⟩
  rw [hu]

theorem Alike.modQuad (h : Alike c s t) (q : Nat) {f : Quad → Quad} (hf : ∀ x, (f x).units = x.units) : Alike c s (t.modQuad c q f) := by
  refine h.trans ⟨⟨rfl, fun hf => hf.elim⟩, ?_, fun r => ?_, fun p => by rw [State.warp?_modQuad]⟩
  · rw [State.core?_modQuad, if_pos rfl]
    cases t.core? c <;> rfl
  · rw [State.core?_modQuad, if_pos rfl]
    cases t.core? c with
    | none => rfl
    | some k =>
      simp only [Option.map_some, Core.quad_modQuad]
      split
      · rw [hf]
      · rfl

theorem Alike.modWarp (h : Alike c s t) (p : Nat) {f : Warp → Warp} (hf : ∀ w, (f w).seen = w.seen) : Alike c s (t.modWarp c p f) := by
  refine h.trans ⟨⟨rfl, fun hf => hf.elim⟩, ?_, fun r => ?_, fun r => ?_⟩
  · rw [State.core?_modWarp, if_pos rfl]
    cases t.core? c <;> rfl
  · rw [State.core?_modWarp, if_pos rfl]
    cases t.core? c <;> rfl
  · rw [State.warp?_modWarp]
    split
    · rw [Option.map_map, show Warp.seen ∘ f = Warp.seen from funext hf]
    · rfl

end

/-! ## What is found in such a state -/

section
variable {c : Nat} {s t : State} (h : Alike c s t)
include h

theorem Alike.field {α : Type} (f : Core → α) (hf : ∀ k, f k.kept = f k) : (t.core? c).map f = (s.core? c).map f := by
  have hm : f = f ∘ Core.kept := (funext hf).symm
  rw [hm, ← Option.map_map, ← Option.map_map, h.kept]

theorem Alike.bind_field {α : Type} (f : Core → Option α) (hf : ∀ k, f k.kept = f k) : (t.core? c).bind f = (s.core? c).bind f := by
  have hm := h.field f hf
  cases ht : t.core? c <;> cases hs : s.core? c <;> simp_all

theorem Alike.cyc : t.cyc c = s.cyc c := by rw [State.cyc, State.cyc, h.field (·.cyc) fun _ => rfl]

theorem Alike.tlb : t.tlb c = s.tlb c := by
  have ht := h.field (·.tlb) fun _ => rfl
  exact congrArg (Option.getD · []) ht

theorem Alike.translate (tenant va : Nat) (p : Perm) (priv : Bool) : t.translate c tenant va p priv = s.translate c tenant va p priv :=
  h.off.translate h.tlb ..

theorem Alike.icache (pa : Nat) : (t.core? c).bind (fun k => SMap.get? pa k.icache) = (s.core? c).bind (fun k => SMap.get? pa k.icache) :=
  h.bind_field _ fun _ => rfl

theorem Alike.tick : t.tick = s.tick := by rw [h.off.rest]

theorem Alike.wordHeld (pa : Nat) : t.wordHeld c pa = s.wordHeld c pa := by simp only [State.wordHeld, h.icache]

theorem Alike.fetchWord (pa k : Nat) : t.fetchWord c pa k = s.fetchWord c pa k := by
  simp only [State.fetchWord, h.icache, h.off.mem, h.tick]

theorem Alike.fetchOne (tenant va k : Nat) (priv : Bool) : t.fetchOne c tenant va k priv = s.fetchOne c tenant va k priv := by
  simp only [State.fetchOne, h.translate, h.wordHeld, h.fetchWord, h.off.poisoned, h.off.lineStops]

theorem Alike.fetchWords (tenant pc : Nat) (priv : Bool) (k n : Nat) : t.fetchWords c tenant pc priv k n = s.fetchWords c tenant pc priv k n := by
  induction n generalizing k with
  | zero => rfl
  | succ n ih => simp only [State.fetchWords, h.fetchOne, ih]

theorem Alike.peek (w : Warp) (mask : BitVec 8) : t.peek c w mask = s.peek c w mask := by
  simp only [State.peek, h.fetchWords]

theorem Alike.peekCtx (p : Nat) (w : Warp) (mask : BitVec 8) : t.peekCtx c p w mask = s.peekCtx c p w mask := by
  simp only [State.peekCtx, h.peek, State.seenBy, h.cyc, h.tick]

theorem Alike.l1Find (tenant line : Nat) : t.l1Find c tenant line = s.l1Find c tenant line := h.bind_field _ fun _ => rfl

theorem Alike.remote (pa : Nat) : t.remote pa = s.remote pa := by simp only [State.remote, State.ownPeer, h.off.modul]

theorem Alike.peerByte (pa : Nat) : t.peerByte pa = s.peerByte pa := by
  simp only [State.peerByte, State.ownPeer, h.off.modul, h.off.mem, h.tick]

theorem Alike.seenBytes (tenant pa n : Nat) : t.seenBytes c tenant pa n = s.seenBytes c tenant pa n := by
  simp only [State.seenBytes, State.seenByte, h.peerByte, h.l1Find, h.off.caldera, h.off.dir?, h.off.mem]

theorem Alike.regionRead {x : Ctx} (hx : x.core = c) (line : Nat) : t.regionRead x line = s.regionRead x line := by
  have hreads : (t.warp? c x.slot).bind (fun w => SMap.get? line w.region.reads) = (s.warp? c x.slot).bind (fun w => SMap.get? line w.region.reads) := by
    have hw := h.warps x.slot
    cases ht : t.warp? c x.slot <;> cases hs : s.warp? c x.slot <;> simp_all [Warp.seen]
  simp only [State.regionRead, hx, hreads, h.l1Find]

theorem Alike.regionBytes {x : Ctx} (hx : x.core = c) (line : Nat) : t.regionBytes x line = s.regionBytes x line := by
  have hl : t.l1Locked c x.slot line = s.l1Locked c x.slot line := h.bind_field _ fun _ => rfl
  simp only [State.regionBytes, h.regionRead hx, hx, hl]

theorem Alike.consumesPoison (p tenant pa n : Nat) (fresh : Bool) : t.consumesPoison c p tenant pa n fresh = s.consumesPoison c p tenant pa n fresh := by
  have hbusy : ∀ line, t.lineBusy c tenant line = s.lineBusy c tenant line := fun line => by simp only [State.lineBusy, h.off.caldera]
  have hahead : ∀ line sector, t.readAhead c p line sector = s.readAhead c p line sector := fun line sector => by
    simp only [State.readAhead, h.off.caldera]
  have hgives : ∀ l need sector, t.l1Gives c p tenant l need sector = s.l1Gives c p tenant l need sector := fun l need sector => by
    simp only [State.l1Gives, hbusy, hahead]
  simp only [State.consumesPoison, State.inPlace, h.off.poisoned, h.l1Find, hgives]

theorem Alike.readsPoison (p tenant pa n : Nat) : t.readsPoison c p tenant pa n = s.readsPoison c p tenant pa n := by
  simp only [State.readsPoison, h.consumesPoison]

theorem Alike.lookDesc (op tenant va : Nat) (priv : Bool) : t.lookDesc op c tenant va priv = s.lookDesc op c tenant va priv := by
  simp only [State.lookDesc, h.translate, h.readsPoison, h.off.spanStops, h.remote, h.seenBytes]

section
variable {x : Ctx} (hx : x.core = c)
include hx

theorem Alike.meetsPoison (dom pa n : Nat) : x.meetsPoison t dom pa n = x.meetsPoison s dom pa n := by
  simp only [Ctx.meetsPoison, h.off.poisoned, h.regionBytes hx, hx, h.consumesPoison]

theorem Alike.gpart (p : Perm) (reads : Bool) (hint l va n : Nat) : x.gpart t p reads hint l va n = x.gpart s p reads hint l va n := by
  simp only [Ctx.gpart, hx, h.translate, h.off.tenant, h.meetsPoison hx]

theorem Alike.launchParts (l : List Nat) : x.launchParts t l = x.launchParts s l := by
  induction l with
  | nil => rfl
  | cons p l ih => simp only [Ctx.launchParts, h.gpart hx, ih]

omit hx in
theorem Alike.pathsOf (main : Path) : x.pathsOf t main = x.pathsOf s main := by
  have hdom : x.laneDomains t = x.laneDomains s := by simp only [Ctx.laneDomains, h.off.tenant]
  simp only [Ctx.pathsOf, hdom]

/-- The path counters that the instruction raises. -/
theorem Alike.pathsUsed : x.pathsUsed t = x.pathsUsed s := by
  have hheader : ∀ sized, x.header t sized = x.header s sized := fun sized => by
    simp only [Ctx.header, hx, h.off.lookHeader h.tlb]
  have hdesc : x.descriptor t = x.descriptor s := by simp only [Ctx.descriptor, hx, h.lookDesc]
  have hlaunch : (lateLaunch x t).paths = (lateLaunch x s).paths := by
    simp only [lateLaunch, h.launchParts hx, h.remote]
  have hengine : (lateEngine x t).paths = (lateEngine x s).paths := by simp only [lateEngine, hdesc]
  have hmatrix : (lateMatrix x t).paths = (lateMatrix x s).paths := rfl
  simp only [Ctx.pathsUsed, h.pathsOf, lateHeader, hlaunch, hengine, hmatrix, lateSld, lateSpad, lateBarrier, lateTile, lateMstt, lateFence]

omit hx in
/-- The queue entries, the unit queues and the matrix instructions of a quadrant. -/
theorem Alike.unit {α : Type} (f : Quad → α) (hf : ∀ a b, Quad.units a = Quad.units b → f a = f b) (q : Nat) :
    (t.core? c).map (fun k => f (k.quad q)) = (s.core? c).map (fun k => f (k.quad q)) := by
  have hu := h.units q
  cases ht : t.core? c with
  | none =>
    cases hs : s.core? c with
    | none => rfl
    | some k => rw [ht, hs] at hu; cases hu
  | some k' =>
    cases hs : s.core? c with
    | none => rw [ht, hs] at hu; cases hu
    | some k =>
      rw [ht, hs, Option.map_some, Option.map_some, Option.some.injEq] at hu
      rw [Option.map_some, Option.map_some, hf _ _ hu]

omit hx in
theorem Alike.pendingQ (p : Nat) : (t.core? c).map (fun k => k.pendingQ p) = (s.core? c).map (fun k => k.pendingQ p) :=
  h.unit (fun q => ((q.sfu ++ q.divider).filter (fun r => r.slot = p)).map (fun r => (r.code, r.regs)) ++
    q.matrix.flatMap (fun m => (m.members.filter (fun r => m.kind ≠ 3 ∧ r.slot = p ∧ r.acc < 192)).map (fun r => (r.acc, 8 * r.tiles.length))))
    (fun a b hab => by
      simp only [Quad.units, Prod.mk.injEq] at hab
      simp only [hab.1, hab.2.1, hab.2.2]) _

theorem Alike.chains : x.chains t = x.chains s := by
  have hahead : ((t.core? c).map (fun k => k.quad (quadOf x.slot))).bind (·.ahead (x.f.mb 1 0) (x.f.mb 3 2)) =
      ((s.core? c).map (fun k => k.quad (quadOf x.slot))).bind (·.ahead (x.f.mb 1 0) (x.f.mb 3 2)) := by
    have hu := h.unit (fun q => q.ahead (x.f.mb 1 0) (x.f.mb 3 2)) (fun a b hab => by
      simp only [Quad.units, Prod.mk.injEq] at hab
      simp only [Quad.ahead, Quad.onArray, hab.2.2]) (quadOf x.slot)
    cases ht : t.core? c <;> cases hs : s.core? c <;> simp_all
  simp only [Ctx.chains, hx, hahead]

theorem Alike.waits (l : Late) : x.waits t l = x.waits s l := by
  simp only [Ctx.waits, Ctx.lockedRuns, h.chains hx, hx, h.pendingQ]

theorem Alike.unitFull : x.unitFull t = x.unitFull s := by
  have hlatch : ∀ p, (t.warp? c p).bind (·.latch) = (s.warp? c p).bind (·.latch) := fun p => by
    have hw := h.warps p
    cases ht : t.warp? c p <;> cases hs : s.warp? c p <;> simp_all [Warp.seen]
  have hbusy : x.vectorBusy t = x.vectorBusy s := by simp only [Ctx.vectorBusy, hx, h.pendingQ]
  have hgang : x.gangIsHere t = x.gangIsHere s := by simp only [Ctx.gangIsHere, hx, hlatch]
  obtain ⟨a, ha⟩ : ∃ a, a = ((t.core? c).map (fun k => k.quad (quadOf x.slot))).getD {} := ⟨_, rfl⟩
  obtain ⟨b, hb⟩ : ∃ b, b = ((s.core? c).map (fun k => k.quad (quadOf x.slot))).getD {} := ⟨_, rfl⟩
  have hab : a.units = b.units := by
    have hu := h.units (quadOf x.slot)
    rw [ha, hb]
    cases ht : t.core? c <;> cases hs : s.core? c <;> simp_all
  simp only [Quad.units, Prod.mk.injEq] at hab
  obtain ⟨hsfu, hdiv, hmat⟩ := hab
  have honArray : ∀ n, a.onArray n = b.onArray n := fun n => by simp only [Quad.onArray, hmat]
  have hfull : ∀ shape sub now, a.full shape sub now = b.full shape sub now := fun _ _ _ => by simp only [Quad.full, honArray]
  simp only [Ctx.unitFull, hx, ← ha, ← hb, hsfu, hdiv, hfull, hgang, hbusy]

end

/-- What keeps a group from issuing is the same. -/
theorem Alike.blockedBy (p : Nat) (w : Warp) (mask : BitVec 8) : t.blockedBy c p w mask = s.blockedBy c p w mask := by
  simp only [State.blockedBy, h.peekCtx]
  cases hp : s.peekCtx c p w mask with
  | none => rfl
  | some x =>
    have hx : x.core = c := by
      obtain ⟨i, -, rfl⟩ := Option.map_eq_some_iff.1 hp
      rfl
    simp only [Option.bind_some, h.pathsUsed hx, h.waits hx, h.unitFull hx]

end

end Sys2Proof.Machine

/-! # The issue cycle (R50, R389) -/

namespace Sys2Proof.Machine

/-! ## Choosing -/

theorem lastBy_spec {α : Type} (later : α → α → Bool) {l : List α} (h : l ≠ []) : ∃ a ∈ l, lastBy later l = some a := by
  induction l with
  | nil => exact absurd rfl h
  | cons a t ih =>
    rw [lastBy]
    cases ht : lastBy later t with
    | none => exact ⟨a, List.mem_cons_self .., rfl⟩
    | some b =>
      have hb : b ∈ t := by
        have hne : t ≠ [] := fun hn => by rw [hn] at ht; cases ht
        obtain ⟨b', hb', he⟩ := ih hne
        rw [ht, Option.some.injEq] at he
        rw [he]; exact hb'
      dsimp only
      split
      · exact ⟨a, List.mem_cons_self .., rfl⟩
      · exact ⟨b, List.mem_cons_of_mem _ hb, rfl⟩

theorem mem_of_oldest {l : List Candidate} {a : Candidate} (h : oldest l = some a) : a ∈ l := by
  have hne : l ≠ [] := fun hn => by rw [hn] at h; cases h
  obtain ⟨b, hb, he⟩ := lastBy_spec (fun a b : Candidate => decide (b.age < a.age)) hne
  rw [oldest, he, Option.some.injEq] at h
  rw [← h]; exact hb

theorem choose_nil (last : SMap Nat) : choose last [] = none := by
  have hn : oldest [] = none := rfl
  simp only [choose, List.filter_nil, hn, List.map_nil, List.foldl_nil]
  cases SMap.get? 0 last <;> rfl

/-- The selector chooses a ready warp wherever there is one. -/
theorem choose_spec (last : SMap Nat) {l : List Candidate} (h : l ≠ []) : ∃ a ∈ l, choose last l = some a := by
  rw [choose]
  split
  · rename_i a ha
    exact ⟨a, List.mem_of_mem_filter (mem_of_oldest ha), rfl⟩
  · obtain ⟨top, htop⟩ : ∃ top, top = (l.map (·.prio)).foldl max 0 := ⟨_, rfl⟩
    have hmine : l.filter (fun a => decide (a.prio = top)) ≠ [] := by
      obtain ⟨h1, h2⟩ := foldl_max_spec (l.map (·.prio)) 0
      rw [← htop] at h1 h2
      obtain ⟨b, t, rfl⟩ := List.exists_cons_of_ne_nil h
      obtain ⟨d, hd, hdt⟩ : ∃ d ∈ b :: t, d.prio = top := by
        rcases List.mem_cons.1 h1 with h1 | h1
        · have hb := h2 b.prio (List.mem_cons_of_mem _ (List.mem_cons_self ..))
          exact ⟨b, List.mem_cons_self .., by omega⟩
        · obtain ⟨d, hd, hdt⟩ := List.mem_map.1 h1
          exact ⟨d, hd, hdt⟩
      exact List.ne_nil_of_mem (List.mem_filter.2 ⟨hd, by simpa using hdt⟩)
    simp only [← htop]
    split
    · rename_i a ha
      obtain ⟨n, -, hn⟩ := Option.bind_eq_some_iff.1 ha
      exact ⟨a, List.mem_of_mem_filter (List.mem_of_mem_filter (mem_of_oldest hn)), rfl⟩
    · obtain ⟨a, ha, he⟩ := lastBy_spec (fun a b : Candidate => decide (b.age < a.age)) hmine
      exact ⟨a, List.mem_of_mem_filter ha, he⟩

theorem Warp.mayIssue_iff (w : Warp) : w.mayIssue = true ↔ w.mayRun := by
  simp [Warp.mayIssue, Warp.mayRun, Warp.over, and_assoc]

theorem mem_candidates {s : State} {c q now : Nat} {k : Core} (hk : s.core? c = some k) {a : Candidate} :
    a ∈ s.candidates c q now ↔ ∃ e ∈ k.warpsOf q, e.2.mayRun ∧ (e.2.groups.filter (s.ready c e.1 e.2 now)).map (·.mask) ≠ [] ∧
      a = { slot := e.1, prio := e.2.lease.prio, age := e.2.age, passed := e.2.lease.passed,
            masks := (e.2.groups.filter (s.ready c e.1 e.2 now)).map (·.mask) } := by
  simp only [State.candidates, hk, Option.map_some, Option.getD_some, List.mem_filterMap]
  refine exists_congr fun e => and_congr_right fun _ => ?_
  rw [← Warp.mayIssue_iff]
  cases hm : e.2.mayIssue <;> cases hg : (e.2.groups.filter (s.ready c e.1 e.2 now)).map (·.mask) <;> simp [eq_comm]

/-- The groups of a chosen warp that issue are ready ones, and there is one. -/
theorem issuing_spec (s : State) (c : Nat) {a : Candidate} (h : a.masks ≠ []) : s.issuing c a ≠ [] ∧ ∀ m ∈ s.issuing c a, m ∈ a.masks := by
  have hone : ∀ (m n : BitVec 8) (t : List (BitVec 8)), [m] ≠ [] ∧ ∀ x ∈ [m], x ∈ m :: n :: t := fun m n t =>
    ⟨List.cons_ne_nil _ _, fun x hx => by rw [List.mem_singleton] at hx; rw [hx]; exact List.mem_cons_self ..⟩
  rw [State.issuing]
  split
  · rename_i m n t ht
    rw [ht]
    split
    · split
      · split
        · refine ⟨List.cons_ne_nil _ _, fun x hx => ?_⟩
          simp only [List.mem_cons, List.not_mem_nil, or_false] at hx ⊢
          exact hx.imp id .inl
        · exact hone ..
      · exact hone ..
    · exact hone ..
  · exact ⟨h, fun m hm => hm⟩

/-! ## What a cycle's counting and selecting change -/

/-- A group of a warp of the core that the selector may choose at a cycle. -/
def Core.Picks (k : Core) (c now : Nat) (g : Selected) : Prop :=
  g.core = c ∧ ∃ e ∈ k.warps, e.1 = g.slot ∧ e.2.mayRun ∧ ∃ y ∈ e.2.groups, y.mask = g.mask ∧ y.held = false ∧ y.readyAt ≤ now

/-- What the selector changes of a warp: the order of its groups, and how often it was passed over. -/
def Warp.Rotates (w w' : Warp) : Prop := w' = { w with groups := w'.groups, lease := { w.lease with passed := w'.lease.passed } }

theorem Warp.Rotates.seen {w w' : Warp} (h : w.Rotates w') : w'.seen = w.seen := by rw [Warp.Rotates] at h; rw [h]; rfl

theorem Warp.Rotates.trans {w v u : Warp} (h : w.Rotates v) (h' : v.Rotates u) : w.Rotates u := by
  rw [Warp.Rotates] at h h' ⊢
  rw [h', h]

/-- `s` is `s0`, whose core `c` is `k`, but for counters and for what the quadrants of `done` have selected. -/
structure Turned (c : Nat) (k : Core) (s0 s : State) (done : List Nat) : Prop where
  rest   : s = { s0 with cores := s.cores, sel := s.sel }
  others : ∀ d, d ≠ c → s.core? d = s0.core? d
  core   : ∃ k', s.core? c = some k' ∧ k' = { k with warps := k'.warps, quads := k'.quads } ∧ ∀ q, q ∉ done → k'.warpsOf q = k.warpsOf q
  alike  : Alike c s0 s
  warps  : ∀ p w, s0.warp? c p = some w → ∃ w', s.warp? c p = some w' ∧ w.Rotates w'
  picked : ∀ g ∈ s.sel, g ∈ s0.sel ∨ k.Picks c k.cyc g

section
variable {c : Nat} {k : Core} {s0 s : State} {done : List Nat}

theorem Turned.refl (hk : s0.core? c = some k) : Turned c k s0 s0 [] :=
  ⟨rfl, fun _ _ => rfl, ⟨k, hk, rfl, fun _ _ => rfl⟩, Alike.refl c s0, fun _ w hw => ⟨w, hw, rfl⟩, fun _ hg => .inl hg⟩

variable (h : Turned c k s0 s done)
include h

theorem Turned.mark (q : Nat) : Turned c k s0 s (q :: done) := by
  obtain ⟨k', hk', he, hq⟩ := h.core
  exact ⟨h.rest, h.others, ⟨k', hk', he, fun r hr => hq r fun hm => hr (List.mem_cons_of_mem _ hm)⟩, h.alike, h.warps, h.picked⟩

theorem Turned.cyc : s.cyc c = k.cyc := by
  obtain ⟨k', hk', he, -⟩ := h.core
  rw [State.cyc_eq hk', he]

theorem Turned.modQuad (q : Nat) {f : Quad → Quad} (hf : ∀ x, (f x).units = x.units) : Turned c k s0 (s.modQuad c q f) done := by
  obtain ⟨k', hk', he, hq⟩ := h.core
  refine ⟨?_, fun d hd => ?_, ⟨k'.modQuad q f, ?_, ?_, hq⟩, h.alike.modQuad q hf, fun p w hw => ?_, h.picked⟩
  · rw [State.modQuad, State.modCore, h.rest]
  · rw [State.core?_modQuad, if_neg hd, h.others d hd]
  · rw [State.core?_modQuad, if_pos rfl, hk']; rfl
  · rw [Core.modQuad, he]
  · rw [State.warp?_modQuad]; exact h.warps p w hw

theorem Turned.count (p event n : Nat) : Turned c k s0 (s.count c p event n) done := h.modQuad _ fun _ => rfl

theorem Turned.modWarp {p : Nat} (hp : quadOf p ∈ done) {f : Warp → Warp} (hf : ∀ w, Warp.Rotates w (f w)) :
    Turned c k s0 (s.modWarp c p f) done := by
  obtain ⟨k', hk', he, hq⟩ := h.core
  refine ⟨?_, fun d hd => ?_, ⟨{ k' with warps := SMap.modify p f k'.warps }, ?_, ?_, fun r hr => ?_⟩,
    h.alike.modWarp p fun w => (hf w).seen, fun r w hw => ?_, h.picked⟩
  · rw [State.modWarp, State.modCore, h.rest]
  · rw [State.core?_modWarp, if_neg hd, h.others d hd]
  · rw [State.core?_modWarp, if_pos rfl, hk']; rfl
  · rw [he]
  · have hne : quadOf p ≠ r := fun hpr => hr (hpr ▸ hp)
    have hkeep : ∀ l : SMap Warp, (SMap.modify p f l).filter (fun e => decide (quadOf e.1 = r)) = l.filter (fun e => decide (quadOf e.1 = r)) := by
      intro l
      induction l with
      | nil => rfl
      | cons e t ih =>
        simp only [SMap.modify]
        split
        · rename_i hpe
          have hn : ¬quadOf e.1 = r := by rw [← hpe]; exact hne
          rw [List.filter_cons, List.filter_cons, if_neg (by simpa using hn), if_neg (by simpa using hn)]
        · rw [List.filter_cons, List.filter_cons, ih]
    rw [← hq r hr]; exact hkeep k'.warps
  · obtain ⟨w', hw', hrot⟩ := h.warps r w hw
    rw [State.warp?_modWarp]
    split
    · rename_i hcr
      rw [hw']
      exact ⟨f w', rfl, hrot.trans (hf w')⟩
    · exact ⟨w', hw', hrot⟩

theorem Turned.select (l : List Selected) (hl : ∀ g ∈ l, k.Picks c k.cyc g) : Turned c k s0 { s with sel := s.sel ++ l } done := by
  refine ⟨?_, h.others, h.core, h.alike.agenda rfl, h.warps, fun g hg => ?_⟩
  · dsimp only; rw [h.rest]
  · rcases List.mem_append.1 hg with hg | hg
    · exact h.picked g hg
    · exact .inr (hl g hg)

/-- What a cycle counts. -/
theorem Turned.countCycle (q : Nat) : Turned c k s0 (s.countCycle c q) done := by
  have hcycle : ∀ x : Quad, (x.newCycle.countCycle).units = x.units := fun x => by
    have hfold : ∀ (l : List Nat) (y : Quad), (l.foldl (fun x slot => x.count slot 0x05 1) y).units = y.units := fun l => by
      induction l with
      | nil => exact fun y => rfl
      | cons a t ih => exact fun y => ih _
    exact hfold x.marked x.countersSet
  have hadd : ∀ {t : State} (n p event m : Nat), Turned c k s0 t done → Turned c k s0 (if n = 0 then t else t.count c p event m) done :=
    fun n p event m ht => by
      split
      · exact ht
      · exact ht.count p event m
  rw [State.countCycle]
  refine List.foldlRecOn (motive := fun t : State => Turned c k s0 t done) _ _ ?_ fun t ht o _ => ?_
  · refine List.foldlRecOn (motive := fun t : State => Turned c k s0 t done) _ _ (h.modQuad q hcycle) fun t ht e _ => ?_
    exact hadd _ _ _ _ (hadd _ _ _ _ (hadd _ _ _ _ (hadd _ _ _ _ ht)))
  · split
    · exact hadd _ _ _ _ ht
    · exact ht

/-! ## A quadrant selects -/

/-- A ready group of a quadrant's warp is ready in the state in which the cycle began, and the other way round. -/
theorem Turned.ready {e : Nat × Warp} {y : Group} : s.ready c e.1 e.2 k.cyc y = true ↔
    y.prog.stage = 0 ∧ y.held = false ∧ e.2.drain = false ∧ y.readyAt ≤ k.cyc ∧ s.holdMet c e.1 e.2 y = true ∧
      s0.blockedBy c e.1 e.2 y.mask = none := by
  simp [State.ready, State.awaits, h.alike.blockedBy, and_assoc]

/-- The quadrant has a warp with a group that nothing keeps from issuing. -/
def Core.offers (k : Core) (c q : Nat) (s0 : State) : Prop :=
  ∃ e ∈ k.warpsOf q, e.2.mayRun ∧ e.2.drain = false ∧ ∃ y ∈ e.2.groups, y.prog.stage = 0 ∧ y.held = false ∧ y.readyAt ≤ k.cyc ∧ y.hold = .none ∧
    s0.blockedBy c e.1 e.2 y.mask = none

/-- A quadrant that has not selected yet: where it has a ready group, one is selected. -/
theorem Turned.selectIn {q : Nat} (hq : q ∉ done) : Turned c k s0 (s.selectIn c q) (q :: done) ∧ (∀ g ∈ s.sel, g ∈ (s.selectIn c q).sel) ∧
    (k.offers c q s0 → ∃ g ∈ (s.selectIn c q).sel, g.core = c ∧ quadOf g.slot = q) := by
  obtain ⟨k', hk', -, hwarps⟩ := h.core
  have hmem : ∀ a, a ∈ s.candidates c q k.cyc → ∃ e ∈ k.warpsOf q, e.2.mayRun ∧ a.slot = e.1 ∧ a.masks ≠ [] ∧
      a.masks = (e.2.groups.filter (s.ready c e.1 e.2 k.cyc)).map (·.mask) := fun a ha => by
    obtain ⟨e, he, hrun, hne, rfl⟩ := (mem_candidates hk').1 ha
    rw [hwarps q hq] at he
    exact ⟨e, he, hrun, rfl, hne, rfl⟩
  have hin : ∀ e ∈ k.warpsOf q, quadOf e.1 = q := fun e he => by simpa using (List.mem_filter.1 he).2
  have hcyc := h.cyc
  by_cases hnil : s.candidates c q k.cyc = []
  · have hid : s.selectIn c q = s := by
      simp only [State.selectIn, hcyc, hnil, choose_nil]
    rw [hid]
    refine ⟨h.mark q, fun g hg => hg, fun hoff => ?_⟩
    obtain ⟨e, he, hrun, hd, y, hy, hst, hheld, hat, hhold, hbl⟩ := hoff
    have hready : s.ready c e.1 e.2 k.cyc y = true := h.ready.2 ⟨hst, hheld, hd, hat, by simp only [State.holdMet, hhold], hbl⟩
    have hcand := (mem_candidates (now := k.cyc) hk').2 ⟨e, by rw [hwarps q hq]; exact he, hrun,
      List.ne_nil_of_mem (List.mem_map_of_mem (List.mem_filter.2 ⟨hy, hready⟩)), rfl⟩
    rw [hnil] at hcand
    cases hcand
  · obtain ⟨a, ha, hchoose⟩ := choose_spec ((s.sight c q).quad.last) hnil
    obtain ⟨e, he, hrun, hslot, hne, hmasks⟩ := hmem a ha
    obtain ⟨hissue, hsub⟩ := issuing_spec s c hne
    have hpicks : ∀ g ∈ (s.issuing c a).map (fun m => ({ core := c, slot := a.slot, mask := m } : Selected)), k.Picks c k.cyc g := fun g hg => by
      obtain ⟨m, hm, rfl⟩ := List.mem_map.1 hg
      have hma := hsub m hm
      rw [hmasks] at hma
      obtain ⟨y, hy, rfl⟩ := List.mem_map.1 hma
      obtain ⟨hyg, hyr⟩ := List.mem_filter.1 hy
      obtain ⟨-, hheld, -, hat, -⟩ := h.ready.1 hyr
      exact ⟨rfl, e, List.mem_of_mem_filter he, hslot.symm, hrun, y, hyg, rfl, hheld, hat⟩
    -- the warps that were passed over, the warp that is chosen, its quadrant
    obtain ⟨u, hu, husel, heq⟩ : ∃ u, Turned c k s0 u (q :: done) ∧ u.sel = s.sel ∧ s.selectIn c q =
        { u with sel := u.sel ++ (s.issuing c a).map (fun m => { core := c, slot := a.slot, mask := m }) } := by
      simp only [State.selectIn, hcyc, hchoose]
      have hfold := List.foldlRecOn (motive := fun t : State => Turned c k s0 t (q :: done) ∧ t.sel = s.sel) (s.candidates c q k.cyc)
        (fun s b => s.modWarp c b.slot (fun w =>
          { w with lease := { w.lease with passed := if b.slot = a.slot then 0 else w.lease.passed + 1 } })) ⟨h.mark q, rfl⟩ fun t ht b hb => by
            obtain ⟨e', he', -, hb', -⟩ := hmem b hb
            exact ⟨ht.1.modWarp (by rw [hb', hin e' he']; exact List.mem_cons_self ..) fun w => rfl, ht.2⟩
      have hchosen := (hfold.1.modWarp (p := a.slot) (f := (·.rotate (s.issuing c a)))
        (by rw [hslot, hin e he]; exact List.mem_cons_self ..) fun w => rfl).modQuad q (f := fun x => { x with last := SMap.put a.prio a.age x.last })
          fun x => rfl
      split
      · exact ⟨_, hchosen.count a.slot 0x02 1, hfold.2, rfl⟩
      · exact ⟨_, hchosen, hfold.2, rfl⟩
    rw [heq]
    refine ⟨hu.select _ hpicks, fun g hg => List.mem_append_left _ (by rw [husel]; exact hg), fun _ => ?_⟩
    obtain ⟨m, t, hm⟩ := List.exists_cons_of_ne_nil hissue
    refine ⟨{ core := c, slot := a.slot, mask := m }, List.mem_append_right _ ?_, rfl, by rw [hslot]; exact hin e he⟩
    rw [hm]; exact List.mem_cons_self ..

end

end Sys2Proof.Machine

/-! # A core's cycle, and the steps of a cycle (R41 to R50, R60, R79 to R82, R188, R227, R231, R242) -/

namespace Sys2Proof.Machine

/-! ## All quadrants of a core select -/

theorem Turned.selectAll {c : Nat} {k : Core} {s0 s : State} {done : List Nat} (h : Turned c k s0 s done) (l : List Nat) (hn : l.Nodup)
    (hd : ∀ q ∈ l, q ∉ done) : ∃ done', Turned c k s0 (l.foldl (fun s q => s.selectIn c q) s) done' ∧
      (∀ g ∈ s.sel, g ∈ (l.foldl (fun s q => s.selectIn c q) s).sel) ∧
      ∀ q ∈ l, k.offers c q s0 → ∃ g ∈ (l.foldl (fun s q => s.selectIn c q) s).sel, g.core = c ∧ quadOf g.slot = q := by
  induction l generalizing s done with
  | nil => exact ⟨done, h, fun g hg => hg, fun q hq => by cases hq⟩
  | cons q t ih =>
    rw [List.nodup_cons] at hn
    obtain ⟨h1, hkeep, hpick⟩ := h.selectIn (hd q (List.mem_cons_self ..))
    obtain ⟨done', h2, hkeep', hpick'⟩ := ih h1 hn.2 fun r hr hm => by
      rcases List.mem_cons.1 hm with rfl | hm
      · exact hn.1 hr
      · exact hd r (List.mem_cons_of_mem _ hr) hm
    refine ⟨done', h2, fun g hg => hkeep' g (hkeep g hg), fun r hr hoff => ?_⟩
    rcases List.mem_cons.1 hr with rfl | hr
    · obtain ⟨g, hg, hgc⟩ := hpick hoff
      exact ⟨g, hkeep' g hg, hgc⟩
    · exact hpick' r hr hoff

/-! ## The cycle -/

theorem State.foldl_pushOnce (l : List Instr) (s : State) : ∃ p, l.foldl (fun s e => s.pushOnce e) s = { s with pending := s.pending ++ p } := by
  induction l generalizing s with
  | nil => exact ⟨[], by simp⟩
  | cons a t ih =>
    obtain ⟨p, hp⟩ := ih (s.pushOnce a)
    obtain ⟨m, hm⟩ := s.pushOnce_pending a
    refine ⟨m ++ p, ?_⟩
    rw [List.foldl_cons, hp, hm, State.pushOnce_eq, List.append_assoc]

theorem State.mem_taken_of_ne {s : State} {e f : Instr} (h : f ∈ s.pending) (hne : f ≠ e) : f ∈ (s.taken e).pending := by
  have hd : ∀ l : List Instr, f ∈ l → f ∈ dropFirst (· == e) l := by
    intro l
    induction l with
    | nil => exact id
    | cons a t ih =>
      intro hf
      rw [dropFirst]
      rcases List.mem_cons.1 hf with rfl | hf
      · rw [if_neg (by simpa using hne)]; exact List.mem_cons_self ..
      · split
        · exact hf
        · exact List.mem_cons_of_mem _ (ih hf)
  exact hd _ h

theorem State.drainQueues_none {s : State} (h : ∀ e ∈ s.tenants, e.2.fqWait = []) : s.drainQueues = s := by
  have hnone : s.tenants.filter (fun t => !t.2.fqWait.isEmpty) = [] :=
    List.filter_eq_nil_iff.2 fun e he => by rw [h e he]; simp
  rw [State.drainQueues, hnone]; rfl

/-- No group of the core that has issued waits to go on. -/
theorem State.goingOn_none {s : State} {c : Nat} {k : Core} (hk : s.core? c = some k) (h : ∀ e ∈ k.warps, ∀ y ∈ e.2.groups, y.prog.stage = 0) :
    s.goingOn c = [] := by
  rw [State.goingOn]
  split
  · rfl
  · rw [hk, Option.map_some, Option.getD_some, List.flatMap_eq_nil_iff]
    intro e he
    split
    · rw [List.map_eq_nil_iff, List.filter_eq_nil_iff]
      intro y hy
      simp [State.goesOn, h e he y hy]
    · rfl

/-- Counting selects nothing. -/
theorem State.sel_countCycle (s : State) (c q : Nat) : (s.countCycle c q).sel = s.sel := by
  have hadd : ∀ {t : State} (n p event m : Nat), t.sel = s.sel → (if n = 0 then t else t.count c p event m).sel = s.sel := fun n p event m ht => by
    split <;> exact ht
  rw [State.countCycle]
  refine List.foldlRecOn (motive := fun t : State => t.sel = s.sel) _ _ ?_ fun t ht o _ => ?_
  · refine List.foldlRecOn (motive := fun t : State => t.sel = s.sel) _ _ rfl fun t ht e _ => ?_
    exact hadd _ _ _ _ (hadd _ _ _ _ (hadd _ _ _ _ (hadd _ _ _ _ ht)))
  · split
    · exact hadd _ _ _ _ ht
    · exact ht

section
variable {s : State} {c : Nat} {k : Core} (hk : s.core? c = some k) (hstage : ∀ e ∈ k.warps, ∀ y ∈ e.2.groups, y.prog.stage = 0)
  (hwait : ∀ e ∈ s.tenants, e.2.fqWait = [])
include hk hstage hwait

/-- The cycle of a core in which nothing goes on: its clock advances, its quadrants select, and what was later or comes due is on its way. -/
theorem exec_issueCycle : ∃ (s0 u : State) (done : List Nat) (p : List Instr),
    s0 = { (s.taken (.issueCycle c)).modCore c (fun k => { k with cyc := k.cyc + 1 }) with turn := s.coreAfter c } ∧
      Turned c { k with cyc := k.cyc + 1 } s0 u done ∧
      (s.modul.stopped = true → u.sel = s.sel) ∧
      (s.modul.stopped = false → ∀ q, q < 4 → Core.offers { k with cyc := k.cyc + 1 } c q s0 → ∃ g ∈ u.sel, g.core = c ∧ quadOf g.slot = q) ∧
      exec (.issueCycle c) s = .next { u with pending := u.pending ++ u.later ++ p, later := [] } := by
  obtain ⟨s1, hs1⟩ : ∃ s1, s1 = s.taken (.issueCycle c) := ⟨_, rfl⟩
  have hk1 : s1.core? c = some k := by rw [hs1]; exact hk
  have hturn : s1.coreAfter c = s.coreAfter c := by rw [hs1]; rfl
  obtain ⟨s0, hs0⟩ : ∃ s0 : State, s0 = { s1.modCore c (fun k => { k with cyc := k.cyc + 1 }) with turn := s.coreAfter c } := ⟨_, rfl⟩
  have hk0 : s0.core? c = some { k with cyc := k.cyc + 1 } := by
    rw [hs0]
    exact (State.core?_modCore ..).trans (by rw [if_pos rfl, hk1]; rfl)
  have hmodul : s0.modul = s.modul := by rw [hs0, hs1]; rfl
  have hsel0 : s0.sel = s.sel := by rw [hs0, hs1]; rfl
  -- what is counted
  obtain ⟨s3, hs3⟩ : ∃ s3 : State, s3 = ([0, 1, 2, 3] : List Nat).foldl (fun s q => s.countCycle c q) s0 := ⟨_, rfl⟩
  have h3 : Turned c { k with cyc := k.cyc + 1 } s0 s3 [] := by
    rw [hs3]
    exact List.foldlRecOn (motive := fun t : State => Turned c { k with cyc := k.cyc + 1 } s0 t []) _ _ (Turned.refl hk0) fun t ht q _ => ht.countCycle q
  have hsel3 : s3.sel = s.sel := by
    rw [hs3, ← hsel0]
    exact List.foldlRecOn (motive := fun t : State => t.sel = s0.sel) _ _ rfl fun t ht q _ => (t.sel_countCycle c q).trans ht
  -- what is selected
  obtain ⟨done, hall, -, hpick⟩ := h3.selectAll [0, 1, 2, 3] (by decide) (by simp)
  obtain ⟨u, hu⟩ : ∃ u : State, u = if s3.modul.stopped then s3 else ([0, 1, 2, 3] : List Nat).foldl (fun s q => s.selectIn c q) s3 := ⟨_, rfl⟩
  have hstop : s3.modul = s.modul := by rw [h3.rest]; exact hmodul
  have hturned : ∃ done, Turned c { k with cyc := k.cyc + 1 } s0 u done := by
    rw [hu]
    split
    · exact ⟨[], h3⟩
    · exact ⟨done, hall⟩
  obtain ⟨done', hT⟩ := hturned
  -- what comes due
  obtain ⟨unit, hunit⟩ : ∃ unit, unit = if u.cores.head?.map Prod.fst = some c then u.unitDue ++ u.portsDue else [] := ⟨_, rfl⟩
  obtain ⟨s5, hs5⟩ : ∃ s5 : State, s5 = { u with pending := u.pending ++ u.later, later := [] } := ⟨_, rfl⟩
  have hdrain : s5.drainQueues = s5 := by
    refine State.drainQueues_none fun e he => hwait e ?_
    rw [hs5] at he
    have htn : u.tenants = s.tenants := by rw [hT.rest, hs0, hs1]; rfl
    rw [← htn]; exact he
  have hs6 : (if u.cores.head?.map Prod.fst = some c then s5.drainQueues else s5) = s5 := by rw [hdrain, ite_self]
  obtain ⟨p, hp⟩ := State.foldl_pushOnce (u.cycleDue c ++ unit) s5
  refine ⟨s0, u, done', p, by rw [hs0, hs1], hT, fun hst => ?_, fun hst q hq hoff => ?_, ?_⟩
  · rw [hu, if_pos (by rw [hstop]; exact hst), hsel3]
  · rw [hu, if_neg (by rw [hstop, hst]; exact Bool.false_ne_true)]
    exact hpick q (by simp only [List.mem_cons, List.not_mem_nil, or_false]; omega) hoff
  · have hsome : (s1.core? c).isNone = false := by rw [hk1]; rfl
    have hon : s1.goingOn c = [] := State.goingOn_none hk1 hstage
    show execIssueCycle c s = _
    simp only [execIssueCycle, ← hs1, hsome, hon, Bool.false_eq_true, if_false, List.isEmpty_nil, Bool.not_true, hturn, ← hs0, ← hs3, ← hu, ← hunit,
      ← hs5, hs6, hp]
    rw [hs5]

/-- A core's cycle counts on and selects, in each quadrant with a ready group, a ready group. -/
theorem becomes_issueCycle : Becomes (.issueCycle c) s fun t =>
    t = { s with cores := t.cores, sel := t.sel, pending := t.pending, later := [], turn := s.coreAfter c } ∧ t.cyc c = k.cyc + 1 ∧
      (∀ d, d ≠ c → t.core? d = s.core? d) ∧ (∀ e ∈ s.pending, e ≠ .issueCycle c → e ∈ t.pending) ∧ (∀ e ∈ s.later, e ∈ t.pending) ∧
      (∀ p w, s.warp? c p = some w → ∃ w', t.warp? c p = some w' ∧
        w' = { w with groups := w'.groups, lease := { w.lease with passed := w'.lease.passed } }) ∧
      (∀ g ∈ t.sel, g ∉ s.sel → s.modul.stopped = false ∧ g.core = c ∧ ∃ e ∈ k.warps, e.1 = g.slot ∧ e.2.mayRun ∧
        ∃ y ∈ e.2.groups, y.mask = g.mask ∧ y.held = false ∧ y.readyAt ≤ k.cyc + 1) ∧
      (s.modul.stopped = false → ∀ q, q < 4 →
        (∃ e ∈ k.warps, e.1 / 16 = q ∧ e.2.mayRun ∧ e.2.drain = false ∧ ∃ y ∈ e.2.groups, y.held = false ∧ y.readyAt ≤ k.cyc + 1 ∧ y.hold = .none ∧
          (s.modCore c (fun k => { k with cyc := k.cyc + 1 })).blockedBy c e.1 e.2 y.mask = none) →
        ∃ g ∈ t.sel, g.core = c ∧ g.slot / 16 = q) := by
  obtain ⟨s0, u, done, p, hs0, hT, hstopped, hpick, hex⟩ := exec_issueCycle hk hstage hwait
  have hrest := hT.rest
  have hpend : u.pending = (s.taken (.issueCycle c)).pending := by rw [hrest, hs0]; rfl
  have hlater : u.later = s.later := by rw [hrest, hs0]; rfl
  have hothers : ∀ d, d ≠ c → u.core? d = s.core? d := fun d hd => by
    rw [hT.others d hd, hs0]
    exact (State.core?_modCore ..).trans (if_neg hd)
  have hsel0 : s0.sel = s.sel := by rw [hs0]; rfl
  have hwarp0 : ∀ p, s0.warp? c p = s.warp? c p := fun p => by
    rw [hs0]
    exact ((s.taken (.issueCycle c)).warp?_modCore c c p fun _ => rfl)
  have halike : Alike c (s.modCore c (fun k => { k with cyc := k.cyc + 1 })) s0 := (Alike.refl c _).agenda (by rw [hs0]; rfl)
  refine ⟨_, hex, ?_, hT.cyc, hothers, fun e he hne => ?_, fun e he => ?_, fun r w hw => ?_, fun g hg hnew => ?_, fun hst q hq hoff => ?_⟩
  · rw [hrest, hs0]; rfl
  · rw [hpend, List.append_assoc]
    exact List.mem_append_left _ (State.mem_taken_of_ne he hne)
  · rw [hlater]
    exact List.mem_append_left _ (List.mem_append_right _ he)
  · exact hT.warps r w (by rw [hwarp0, hw])
  · have hst : s.modul.stopped = false := by
      cases hs : s.modul.stopped with
      | false => rfl
      | true => exact absurd (by rw [← hstopped hs]; exact hg) hnew
    obtain hold | ⟨hc, e, he, hslot, hrun, y, hy, hmask, hheld, hat⟩ := hT.picked g hg
    · exact absurd (by rw [← hsel0]; exact hold) hnew
    · exact ⟨hst, hc, e, he, hslot, hrun, y, hy, hmask, hheld, hat⟩
  · obtain ⟨e, he, heq, hrun, hd, y, hy, hheld, hat, hhold, hbl⟩ := hoff
    exact hpick hst q hq ⟨e, List.mem_filter.2 ⟨he, decide_eq_true (show quadOf e.1 = q from heq)⟩, hrun, hd, y, hy, hstage e he y hy, hheld, hat, hhold,
      by rw [halike.blockedBy]; exact hbl⟩

end

/-- Settles O55, step by step. -/
theorem cycleSteps : Obligations.CycleSteps := by
  unfold Obligations.CycleSteps
  intro s c k hk hquads
  have hlen : ∀ {q : Nat}, q < 4 → q < k.quads.length := fun hq => by rw [hquads]; exact hq
  refine ⟨fun hstage hwait => becomes_issueCycle hk hstage hwait,
    fun q p w hq hw hh hst ho hwait => becomes_admissionCycle hk (hlen hq) hw hh hst ho hwait,
    fun q p r w v hq htwo hwc hvs hvc hpos hbig =>
      ⟨fun hh hws ho hwait hprio hle => becomes_headQualify hk (hlen hq) htwo hwc hvs hvc hpos hbig hh hws ho hwait hprio hle,
        fun hh hwd hws hfrom => becomes_headWiden hk (hlen hq) htwo hwc hvs hvc hpos hbig hh hwd hws hfrom⟩,
    fun p w hw => ⟨becomes_leaseDecay hw, fun n hs hp hn => becomes_runonLimit hw hs hp hn⟩,
    fun q d r rest w hq hunit hdue hw hn hregs => becomes_classQResult hk (hlen hq) hunit hdue hw hn hregs,
    fun q o hq ho => ?_⟩
  intro byId gone
  refine ⟨fun n hkind hf hn hbad => becomes_matrixOperandFetched_multiply hk (hlen hq) ho hf hn hkind hbad,
    fun m n x a w la hkind hm hacc hw hfind ha hr href hp hrow hdst hlanes hf hn hbad hla =>
      becomes_matrixOperandFetched_tile hk (hlen hq) ho hf hn hkind hm hacc hw hfind ha hr href hp hrow hdst hlanes hbad hla,
    fun m n w addr hm hacc hw hf hn hbad => becomes_matrixOperandFetched_poison hk (hlen hq) ho hf hn hm hacc hw hbad,
    fun m la lb w hkind hst hf hent hch hshape hm htiles hw ha hb hla hlb hacc hA hB hahead =>
      becomes_matrixStart_int hk (hlen hq) ho hkind hst hf hent hch hshape hm htiles hw ha hb hla hlb hahead hacc hA hB,
    fun m la lb w hkind hst hf hent hch hshape hm htiles hw ha hb hla hlb hacc hA hB hbits hahead =>
      becomes_matrixStart_float hk (hlen hq) ho hkind hst hf hent hch hshape hm htiles hw ha hb hla hlb hahead hacc hA hB hbits,
    fun m st w hst hnow hm htiles hacc hw hlanes => becomes_matrixWriteback hk (hlen hq) ho hst hnow hm htiles hacc hw hlanes⟩

end Sys2Proof.Machine

/-! # Values that a format holds (R62, R63, R70) -/

namespace Sys2Proof.Machine

/-- The exponent of the smallest step of a format. -/
def Fmt.minStep (f : Fmt) : Int := 1 - f.bias - f.frac

/-- The code without its sign of m * 2^e, for an m * 2^e that stands on the grid of a format. -/
def Fmt.gridCode (f : Fmt) (m : Nat) (e : Int) : Nat := (e - f.minStep).toNat * 2 ^ f.frac + m

/-- m * 2^e stands on the grid of a format: as a subnormal, or as a normal with its leading bit. -/
def Fmt.OnGrid (f : Fmt) (m : Nat) (e : Int) : Prop :=
  e = f.minStep ∧ m < 2 ^ f.frac ∨ f.minStep ≤ e ∧ 2 ^ f.frac ≤ m ∧ m < 2 ^ (f.frac + 1)

/-- The step at which a magnitude on the grid is rounded is its own. -/
theorem Fmt.OnGrid.step_eq {f : Fmt} {m : Nat} {e : Int} (h : f.OnGrid m e) (hm : m ≠ 0) : max (magnitude m e - f.frac) f.minStep = e := by
  rw [magnitude]
  obtain ⟨he, hlt⟩ | ⟨he, hle, hlt⟩ := h
  · have hlog : m.log2 < f.frac := (Nat.log2_lt hm).2 hlt
    omega
  · have hlog : m.log2 = f.frac := (Nat.log2_eq_iff hm).2 ⟨hle, hlt⟩
    omega

/-- A magnitude on the grid that the format holds is not rounded. -/
theorem roundIeee_of_onGrid {f : Fmt} {m : Nat} {e : Int} (hm : m ≠ 0) (h : f.OnGrid m e) (hle : f.gridCode m e ≤ f.largest)
    (mode : Nat) (sat neg : Bool) : roundIeee f mode sat neg m e = { bits := f.signed neg (f.gridCode m e), flags := 0 } := by
  have hstep : max (magnitude m e - f.frac) (1 - f.bias - f.frac) = e := h.step_eq hm
  have hsteps : steps m e e = (m, .exact) := by simp [steps]
  have hcode : ¬f.largest < (e - (1 - f.bias - f.frac)).toNat * 2 ^ f.frac + m := Nat.not_lt.2 hle
  simp only [roundIeee, hstep, hsteps, roundsUp, Bool.false_eq_true, if_false, gt_iff_lt, hcode, bne_self_eq_false, Bool.and_false]
  rfl

section
variable {f : Fmt} (hk8 : f ≠ .k8) (hmx : f ≠ .mxint8)
include hk8 hmx

theorem Fmt.bits_eq : f.bits = f.frac + f.expBits + 1 := by
  revert hk8 hmx; cases f <;> decide

/-- A format with an exponent field stores sign and magnitude. -/
theorem Fmt.signed_eq (neg : Bool) (mag : Nat) : f.signed neg mag = if neg then mag + 2 ^ (f.bits - 1) else mag := by
  cases f
  case k8 => contradiction
  case mxint8 => contradiction
  all_goals rfl

theorem roundFin_eq_roundIeee {m : Nat} (hm : m ≠ 0) (mode : Nat) (sat neg : Bool) (e : Int) :
    roundFin f mode sat neg m e = roundIeee f mode sat neg m e := by
  cases f
  case k8 => contradiction
  case mxint8 => contradiction
  all_goals exact if_neg hm

/-- The fields of a code that is neither a NaN nor an infinity are at most those of the largest finite one. -/
theorem Fmt.fields_le_largest {ex fr : Nat} (hex : ex < 2 ^ f.expBits) (hfr : fr < 2 ^ f.frac)
    (hnan : ¬(f = .e4m3 ∧ ex = 2 ^ f.expBits - 1 ∧ fr = 7)) (hinf : ¬(f.hasInf ∧ ex = 2 ^ f.expBits - 1)) :
    ex * 2 ^ f.frac + fr ≤ f.largest := by
  cases f
  case k8 => contradiction
  case mxint8 => contradiction
  all_goals
    simp [Fmt.expBits, Fmt.frac, Fmt.hasInf, Fmt.largest] at hex hfr hnan hinf ⊢
    omega

/-- A code is its sign bit beside its two fields. -/
theorem Fmt.code_eq_signed {code : Nat} (hc : code < 2 ^ f.bits) :
    code = f.signed (code.testBit (f.bits - 1)) ((code >>> f.frac) % 2 ^ f.expBits * 2 ^ f.frac + code % 2 ^ f.frac) := by
  have hbits : f.bits = f.frac + f.expBits + 1 := Fmt.bits_eq hk8 hmx
  have hmag : (code >>> f.frac) % 2 ^ f.expBits * 2 ^ f.frac + code % 2 ^ f.frac = code % 2 ^ (f.frac + f.expBits) := by
    rw [Nat.shiftRight_eq_div_pow, pow_add, Nat.mod_mul, Nat.mul_comm, Nat.add_comm]
  rw [Fmt.signed_eq hk8 hmx, hmag, hbits, Nat.add_sub_cancel, Nat.testBit_eq_decide_div_mod_eq]
  rw [hbits, pow_succ] at hc
  have hdiv := Nat.div_add_mod code (2 ^ (f.frac + f.expBits))
  have hlt : code / 2 ^ (f.frac + f.expBits) < 2 := Nat.div_lt_of_lt_mul hc
  obtain h0 | h1 : code / 2 ^ (f.frac + f.expBits) = 0 ∨ code / 2 ^ (f.frac + f.expBits) = 1 :=
    Nat.le_one_iff_eq_zero_or_eq_one.1 (Nat.lt_succ_iff.1 hlt)
  · rw [h0, Nat.mul_zero] at hdiv
    simp only [h0, Nat.zero_mod, zero_ne_one, decide_false, Bool.false_eq_true, if_false]; omega
  · rw [h1, Nat.mul_one] at hdiv
    simp only [h1, Nat.one_mod, decide_true, if_true]; omega

/-- A code with a finite value is the grid's code of that value. -/
theorem Fmt.onGrid_of_value_fin {code m : Nat} {neg : Bool} {e : Int} (hc : code < 2 ^ f.bits) (h : f.value code = .fin neg m e) :
    f.OnGrid m e ∧ code = f.signed neg (f.gridCode m e) ∧ f.gridCode m e ≤ f.largest := by
  have hfr := Nat.mod_lt code (Nat.two_pow_pos f.frac)
  have hle := Fmt.fields_le_largest hk8 hmx (Nat.mod_lt (code >>> f.frac) (Nat.two_pow_pos f.expBits)) hfr
  have hcode := Fmt.code_eq_signed hk8 hmx hc
  rw [Fmt.value] at h <;> [skip; exact hk8; exact hmx]
  simp only [Nat.mod_eq_of_lt hc] at h
  generalize (code >>> f.frac) % 2 ^ f.expBits = ex, code % 2 ^ f.frac = fr at hfr hle hcode h
  split at h
  · cases h
  split at h
  · split at h <;> cases h
  rename_i hnan hinf
  have hle := hle hnan hinf
  suffices hgrid : f.OnGrid m e ∧ code.testBit (f.bits - 1) = neg ∧ f.gridCode m e = ex * 2 ^ f.frac + fr by
    obtain ⟨hon, hneg, heq⟩ := hgrid
    rw [heq, ← hneg]
    exact ⟨hon, hcode, hle⟩
  split at h
  · rename_i h0
    cases h
    have h : f.gridCode m (1 - f.bias - f.frac) = 0 * 2 ^ f.frac + m := by
      rw [Fmt.gridCode, Fmt.minStep, sub_self]; rfl
    exact ⟨.inl ⟨rfl, hfr⟩, rfl, by rw [h, h0]⟩
  · cases h
    refine ⟨.inr ⟨by rw [Fmt.minStep]; omega, by omega, by rw [pow_succ]; omega⟩, rfl, ?_⟩
    have hexp : ((ex : Int) - f.bias - f.frac - f.minStep).toNat + 1 = ex := by rw [Fmt.minStep]; omega
    rw [Fmt.gridCode]
    generalize ((ex : Int) - f.bias - f.frac - f.minStep).toNat = k at hexp ⊢
    rw [← hexp]; ring

end

/-- Settles O13: a finite value that a format holds stands on the grid that it rounds to. -/
theorem heldValuesStay : Obligations.HeldValuesStay := by
  unfold Obligations.HeldValuesStay
  intro f code mode sat neg m e hk8 hmx hc hv
  obtain ⟨hgrid, hcode, hle⟩ := Fmt.onGrid_of_value_fin hk8 hmx hc hv
  rw [hv]
  change roundFin f mode sat neg m e = _
  obtain rfl | hm := Nat.eq_zero_or_pos m
  · have he : e = f.minStep := by
      obtain ⟨he, -⟩ | ⟨-, hpos, -⟩ := hgrid
      · exact he
      · exact absurd hpos (by have := Nat.two_pow_pos f.frac; omega)
    have hzero : f.gridCode 0 e = 0 := by rw [he, Fmt.gridCode, sub_self]; simp
    rw [hcode, hzero]; rfl
  · rw [roundFin_eq_roundIeee hk8 hmx hm.ne', roundIeee_of_onGrid hm.ne' hgrid hle, ← hcode]

end Sys2Proof.Machine

/-! # Class-F instructions that raise flags (R107, R170) -/

namespace Sys2Proof.Machine

theorem Out.append_empty (o : Out) : o.append {} = o := by simp [Out.append]

theorem Out.flags_ofList_places (x : Ctx) (compute : Nat → Out) :
    (Out.ofList (x.places.map compute)).flags = x.flagsOf fun p => (compute p).flags := by
  rw [Out.flags_ofList, List.foldr_map]; rfl

/-- A class-F instruction whose result at every place is one run for its destination, with its flags. -/
theorem Computes.of_classF {i : Instr} {late : Ctx → State → Late} {lat : Nat} {compute : Ctx → Nat → Out} {n : Ctx → Nat}
    {result : Ctx → Nat → FRes} (hex : ∀ s, exec i s = issue i late (classF lat compute) s) (hi : i.isCommit = false)
    (h : ∀ x p, compute x p = (x.out p (n x) (result x p).bits).append { flags := (result x p).flags }) :
    Computes i n (fun x p => (result x p).bits) (flags := fun x p => (result x p).flags) (late := late) := by
  intro s g w hr
  have hflags : ∀ x p, (compute x p).flags = (result x p).flags := fun x p => by
    rw [h]; exact BitVec.zero_or
  refine RegisterStep.of_classF (hex s) hr.1 hr.2 hi (fun p _ => by rw [h]; exact ⟨rfl, rfl⟩) ?_
  simp only [Out.flags_ofList_places, hflags]

end Sys2Proof.Machine

/-! # CVT (R179 to R181) -/

namespace Sys2Proof.Machine

/-! ## The types that CVT names: integers, four floating-point types, else an element of FMT (R180) -/

theorem cvtBits_eq (t fmt : Nat) :
    cvtBits t fmt = if t = 8 then 32 else if t = 9 then 64 else if t = 10 ∨ t = 11 then 16 else elemBits (fmt % 16) := by
  simp only [cvtBits]; split <;> simp_all [fmtA]

theorem cvtSource_eq (t fmt bits : Nat) :
    cvtSource t fmt bits =
      if t ≤ 7 then FVal.ofInt (numInt t bits)
      else if t = 8 then Fmt.f32.value bits else if t = 9 then Fmt.f64.value bits
      else if t = 10 then Fmt.f16.value bits else if t = 11 then Fmt.bf16.value bits
      else elemValue (fmt % 16) bits := by
  simp only [cvtSource]; split
  · rfl
  · split <;> simp_all [fmtA]

theorem cvtDest_int {t : Nat} (ht : t ≤ 7) (fmt mode : Nat) (sat : Bool) (v : FVal) :
    cvtDest t fmt mode sat v =
      { bits := extendInt t (toInt (intSigned t) (intWidth t) mode sat v).bits, flags := (toInt (intSigned t) (intWidth t) mode sat v).flags } := by
  simp only [cvtDest, if_pos ht]

theorem cvtDest_float {t : Nat} (ht : ¬t ≤ 7) (fmt mode : Nat) (sat : Bool) (v : FVal) :
    cvtDest t fmt mode sat v =
      if t = 8 then convert .f32 mode sat v else if t = 9 then convert .f64 mode sat v
      else if t = 10 then convert .f16 mode sat v else if t = 11 then convert .bf16 mode sat v
      else toElem (fmt % 16) mode sat v := by
  simp only [cvtDest, if_neg ht]; split <;> simp_all [fmtA]

theorem cvtWidens_int {dst : Nat} (h : dst ≤ 7) (src fmt : Nat) : cvtWidens src dst fmt = false :=
  decide_eq_false fun ⟨_, hdst, _⟩ => absurd h (Nat.not_le.2 hdst)

/-! ## The parts of a CVT -/

/-- The types of the two sides, the source's bits, the rounding code and the saturation. -/
def Ctx.cvtDst (x : Ctx) : Nat := cvtType (x.f.mb 3 0) x.fmt
def Ctx.cvtSrc (x : Ctx) : Nat := cvtType (x.f.mb 7 4) x.fmt
def Ctx.cvtIn (x : Ctx) (p : Nat) : Nat := x.a (cvtRegs x.cvtSrc) p (cvtExt x.cvtSrc)
def Ctx.cvtRound (x : Ctx) : Nat := if x.f.mb 10 8 = 7 then modeRound x.mode (cvtModeField x.cvtDst x.fmt) else x.f.mb 10 8
def Ctx.cvtSat (x : Ctx) : Bool := if x.f.mb 10 8 = 7 then modeSat x.mode (cvtModeField x.cvtDst x.fmt) else x.f.mb 11 11 == 1

/-- The result of CVT at a place. -/
def Ctx.cvtResult (x : Ctx) (p : Nat) : FRes :=
  if x.cvtSrc ≤ 7 ∧ x.cvtDst ≤ 7 then { bits := cvtInts x.cvtSrc x.cvtDst x.cvtSat (x.cvtIn p) }
  else cvtDest x.cvtDst x.fmt x.cvtRound (x.cvtSat && !cvtWidens x.cvtSrc x.cvtDst x.fmt) (cvtSource x.cvtSrc x.fmt (x.cvtIn p))

theorem computeCvt_eq (x : Ctx) (p : Nat) :
    computeCvt x p = (x.out p (cvtRegs x.cvtDst) (x.cvtResult p).bits).append { flags := (x.cvtResult p).flags } := by
  rw [Ctx.cvtResult]
  split <;> rename_i h
  · exact (if_pos h).trans (Out.append_empty _).symm
  · exact if_neg h

/-- Settles O11: the three kinds of conversion, by which of its two sides are integers (named apart from the model's `convert`). -/
theorem Cvt.convert : Obligations.Convert := by
  unfold Obligations.Convert
  intro f side dst src width widens source field round sat value result
  have hwidens : ∀ x, widens x = cvtWidens x.cvtSrc x.cvtDst x.fmt := fun x => by
    rw [cvtWidens, cvtBits_eq, cvtBits_eq]; rfl
  have hvalue : ∀ x p, value x p = cvtSource x.cvtSrc x.fmt (x.cvtIn p) := fun x p => (cvtSource_eq ..).symm
  have hresult : result = Ctx.cvtResult := by
    funext x p
    rw [Ctx.cvtResult]
    by_cases hd : x.cvtDst ≤ 7
    · by_cases hs : x.cvtSrc ≤ 7
      · rw [if_pos ⟨hs, hd⟩]
        exact if_pos ⟨hs, hd⟩
      · rw [if_neg fun h => hs h.1, cvtDest_int hd, cvtWidens_int hd, Bool.not_false, Bool.and_true, ← hvalue]
        exact (if_neg fun h => hs h.1).trans (if_pos hd)
    · rw [if_neg fun h => hd h.2, cvtDest_float hd, ← hwidens, ← hvalue]
      exact (if_neg fun h => hd h.2).trans (if_neg hd)
  rw [hresult]
  exact Computes.of_classF (fun _ => rfl) rfl computeCvt_eq

end Sys2Proof.Machine

/-! # The encoding of instructions: the words decode to the instruction they were made of (R91, R94 to R96, R114, R115) -/

namespace Sys2Proof

/-! ## The opcode maps and the forms -/

/-- The instruction that the opcode maps give for a form; none for a step that no word encodes. -/
def Form.instr? : Form → Option Instr
  | .short op f => shortOp op f
  | .long op f => longOp op f
  | .event => none

/-- The opcode of a form fits its field: 8 bits of a short word, 9 bits of a long one (R94, R95). -/
def Form.opFits : Form → Bool
  | .short op _ => decide (op < 2 ^ 8)
  | .long op _ => decide (op < 2 ^ 9)
  | .event => true

theorem Instr.opFits_form (i : Instr) : i.form.opFits = true := by
  cases i with | _ => rfl

theorem longOp_tlbinv (f : LX) (n : Nat) : f.mb 1 0 = n → longOp 0x1C5 f = match n with
    | 0 => some (.tlbinvPage f)
    | 1 => some (.tlbinvAll f)
    | 2 => some (.tlbinvGlob f)
    | _ => none := by
  rintro rfl
  rfl

theorem longOp_cctl (f : LX) (n : Nat) : f.mb 3 0 = n → longOp 0x1CA f = match n with
    | 0 => some (.cctlIcinv f)
    | 1 => some (.cctlL1wb f)
    | 2 => some (.cctlL1inv f)
    | 3 => some (.cctlLinewb f)
    | 4 => some (.cctlEvict f)
    | _ => none := by
  rintro rfl
  rfl

/-- The opcode maps undo the forms: a constructor that shares its opcode needs the modifier that chooses it (R411). -/
theorem Instr.instr?_form (i : Instr) (h : i.splitOk = true) : i.form.instr? = if i.isEvent then none else some i := by
  cases i with
  | tlbinvPage f | tlbinvAll f | tlbinvGlob f => exact longOp_tlbinv f _ (eq_of_beq h)
  | cctlIcinv f | cctlL1wb f | cctlL1inv f | cctlLinewb f | cctlEvict f => exact longOp_cctl f _ (eq_of_beq h)
  | _ => rfl

theorem Instr.encodable_iff (i : Instr) : i.encodable = true ↔ i.form ≠ .event ∧ i.splitOk = true := by
  rw [encodable, Bool.and_eq_true, bne_iff_ne]

theorem Instr.instr?_of_encodable {i : Instr} (h : i.encodable = true) : i.form.instr? = some i := by
  obtain ⟨hform, hsplit⟩ := (encodable_iff i).1 h
  rw [instr?_form i hsplit, if_neg]
  rw [isEvent]
  split <;> simp_all

/-! ## The fields of the encoded words -/

theorem toNat_lengthCode_encodeShort (op : Nat) (f : SF) : ((encodeShort op f).extractLsb' 0 2).toNat = 0 := by
  rw [encodeShort, BitVec.extractLsb'_append_eq_of_add_le (by decide), BitVec.extractLsb'_eq_self]
  rfl

theorem toNat_opcode_encodeShort {op : Nat} (f : SF) (h : op < 2 ^ 8) : ((encodeShort op f).extractLsb' 2 8).toNat = op := by
  rw [encodeShort, BitVec.extractLsb'_append_eq_of_le (by decide)]
  simp (disch := decide) only [BitVec.extractLsb'_append_eq_of_add_le, Nat.reduceSub, BitVec.extractLsb'_eq_self]
  exact Nat.mod_eq_of_lt h

theorem sFields_encodeShort (op : Nat) (f : SF) : sFields (encodeShort op f) = f := by
  rw [sFields, encodeShort]
  congr 1
  case e_neg =>
    rw [BitVec.getLsbD_append]
    simp only [BitVec.getLsbD_append]
    simp
  all_goals
    rw [BitVec.extractLsb'_append_eq_of_le (by decide)]
    simp (disch := decide) only [BitVec.extractLsb'_append_eq_of_le, BitVec.extractLsb'_append_eq_of_add_le, Nat.reduceSub,
      BitVec.extractLsb'_eq_self]

theorem toNat_lengthCode_encodeLong0 (op : Nat) (f : LX) :
    ((encodeLong0 op f).extractLsb' 0 2).toNat = if f.lit.isSome then 2 else 1 := by
  rw [encodeLong0, BitVec.extractLsb'_append_eq_of_add_le (by decide), BitVec.extractLsb'_eq_self]
  split <;> rfl

theorem toNat_opcode_encodeLong0 {op : Nat} (f : LX) (h : op < 2 ^ 9) : ((encodeLong0 op f).extractLsb' 2 9).toNat = op := by
  rw [encodeLong0, BitVec.extractLsb'_append_eq_of_le (by decide)]
  simp (disch := decide) only [BitVec.extractLsb'_append_eq_of_add_le, Nat.reduceSub, BitVec.extractLsb'_eq_self]
  exact Nat.mod_eq_of_lt h

theorem getLsbD_encodeLong0_reserved (op : Nat) (f : LX) : (encodeLong0 op f).getLsbD 19 = false := by
  rw [encodeLong0, BitVec.getLsbD_append]
  simp only [BitVec.getLsbD_append]
  simp

/-- The modifier's two parts, which stand in different words (R95). -/
theorem modifier_eq_parts (m : BitVec 12) : m.extractLsb' 8 4 ++ m.extractLsb' 0 8 = m :=
  (BitVec.extractLsb'_append_extractLsb'_eq_extractLsb' (start₁ := 0) (len₁ := 8) rfl).trans BitVec.extractLsb'_eq_self

theorem lFields_encodeLong (op : Nat) (f : LX) : lFields (encodeLong0 op f) (encodeLong1 f) f.lit = f := by
  rw [lFields, encodeLong0, encodeLong1]
  congr 1
  case e_modi =>
    rw [BitVec.extractLsb'_append_eq_of_le (by decide), BitVec.extractLsb'_append_eq_of_le (by decide)]
    simp (disch := decide) only [BitVec.extractLsb'_append_eq_of_le, Nat.reduceSub, BitVec.extractLsb'_eq_self]
    exact modifier_eq_parts f.modi
  case e_neg =>
    rw [BitVec.getLsbD_append]
    simp only [BitVec.getLsbD_append]
    simp
  case e_srcA =>
    rw [BitVec.extractLsb'_append_eq_of_add_le (by decide), BitVec.extractLsb'_eq_self]
  all_goals
    rw [BitVec.extractLsb'_append_eq_of_le (by decide)]
    simp (disch := decide) only [BitVec.extractLsb'_append_eq_of_le, BitVec.extractLsb'_append_eq_of_add_le, Nat.reduceSub,
      BitVec.extractLsb'_eq_self]

/-! ## Decoding the words -/

theorem decodeWords_encodeShort {op : Nat} (f : SF) (h : op < 2 ^ 8) (w1 w2 : Word) :
    decodeWords (encodeShort op f) w1 w2 = shortOp op f := by
  simp only [decodeWords, toNat_lengthCode_encodeShort, toNat_opcode_encodeShort f h, sFields_encodeShort]

theorem decodeWords_encodeLong {op : Nat} (f : LX) (h : op < 2 ^ 9) (w2 : Word) (hl : ∀ l, f.lit = some l → w2 = l) :
    decodeWords (encodeLong0 op f) (encodeLong1 f) w2 = longOp op f := by
  have hf := lFields_encodeLong op f
  rw [decodeWords, toNat_lengthCode_encodeLong0, getLsbD_encodeLong0_reserved, toNat_opcode_encodeLong0 f h]
  cases hlit : f.lit with
  | none => rw [hlit] at hf; exact congrArg (longOp op) hf
  | some l => rw [hlit] at hf; rw [hl l hlit]; exact congrArg (longOp op) hf

/-- What a form's words are. -/
theorem encode_of_short {i : Instr} {op : Nat} {f : SF} (h : i.form = .short op f) : encode i = [encodeShort op f] := by
  rw [encode, h]

theorem encode_of_long {i : Instr} {op : Nat} {f : LX} (h : i.form = .long op f) :
    encode i = encodeLong0 op f :: encodeLong1 f :: f.lit.toList := by
  rw [encode, h]
  cases hl : f.lit <;> simp only [hl, Option.toList]

/-- Words that begin with those of an instruction decode to it, whatever stands behind them. -/
theorem decodeWords_of_encode {i : Instr} (h : i.encodable = true) (w : Nat → Word)
    (hw : ∀ k v, (encode i)[k]? = some v → w k = v) : decodeWords (w 0) (w 1) (w 2) = some i := by
  have hi := Instr.instr?_of_encodable h
  have hop := Instr.opFits_form i
  cases hform : i.form with
  | event => exact absurd hform ((Instr.encodable_iff i).1 h).1
  | short op f =>
    rw [hform] at hi hop
    have he := encode_of_short hform
    rw [hw 0 _ (by rw [he]; rfl), decodeWords_encodeShort f (of_decide_eq_true hop)]
    exact hi
  | long op f =>
    rw [hform] at hi hop
    have he := encode_of_long hform
    rw [hw 0 _ (by rw [he]; rfl), hw 1 _ (by rw [he]; rfl), decodeWords_encodeLong f (of_decide_eq_true hop)]
    · exact hi
    · intro l hl
      exact hw 2 l (by rw [he, hl]; rfl)

theorem lengthOf_encode {i : Instr} (h : i.encodable = true) : lengthOf ((encode i).getD 0 0) = i.length := by
  cases hform : i.form with
  | event => exact absurd hform ((Instr.encodable_iff i).1 h).1
  | short op f =>
    rw [Instr.length, encode_of_short hform]
    simp only [List.getD_cons_zero, lengthOf, toNat_lengthCode_encodeShort]
    rfl
  | long op f =>
    rw [Instr.length, encode_of_long hform]
    simp only [List.getD_cons_zero, lengthOf, toNat_lengthCode_encodeLong0]
    cases f.lit <;> rfl

/-! ## The bytes of words -/

theorem wordAt_bytesOf_append (w : Word) (rest : List Byte) : wordAt (bytesOf w.toNat 4 ++ rest) = w := by
  have hlen : (bytesOf w.toNat 4).length = 4 := length_bytesOf ..
  rw [wordAt, List.take_left' hlen, numOf_bytesOf, ← two_pow_bytes, Nat.mod_eq_of_lt w.isLt, BitVec.ofNat_toNat, BitVec.setWidth_eq]

theorem wordAt_drop_bytesOfWords (ws : List Word) (rest : List Byte) (k : Nat) (v : Word) (h : ws[k]? = some v) :
    wordAt ((bytesOfWords ws ++ rest).drop (4 * k)) = v := by
  induction ws generalizing k with
  | nil => simp at h
  | cons w t ih =>
    rw [bytesOfWords, List.append_assoc]
    cases k with
    | zero => rw [Nat.mul_zero, List.drop_zero, wordAt_bytesOf_append]; simpa using h
    | succ k =>
      have hlen : (bytesOf w.toNat 4).length = 4 := length_bytesOf ..
      rw [Nat.mul_succ, Nat.add_comm, ← List.drop_drop, List.drop_left' hlen]
      exact ih k (by simpa using h)

/-- Settles O51: the fields of the encoded words are the instruction's, and the opcode maps undo the forms. -/
theorem encodingRoundTrip : Obligations.EncodingRoundTrip := by
  unfold Obligations.EncodingRoundTrip
  have words : ∀ i : Instr, i.encodable = true → ∀ rest : List Word,
      decodeWords ((encode i ++ rest).getD 0 0) ((encode i ++ rest).getD 1 0) ((encode i ++ rest).getD 2 0) = some i :=
    fun i hi rest => decodeWords_of_encode hi (fun k => (encode i ++ rest).getD k 0) fun k v hv => by
      have hk : k < (encode i).length := (List.getElem?_eq_some_iff.1 hv).1
      simp only [List.getD_eq_getElem?_getD, List.getElem?_append_left hk, hv, Option.getD_some]
  intro i hi
  refine ⟨fun rest => ⟨words i hi rest, lengthOf_encode hi, rfl⟩, fun rest => ?_, fun j hj hij => ?_⟩
  · exact decodeWords_of_encode hi (fun k => wordAt ((encodeBytes i ++ rest).drop (4 * k))) (wordAt_drop_bytesOfWords _ _)
  · exact Option.some.inj ((words i hi []).symm.trans (hij ▸ words j hj []))

/-- Settles O54, each word by evaluation. -/
theorem decodedWords : Obligations.DecodedWords := by
  unfold Obligations.DecodedWords
  decide +kernel

end Sys2Proof

/-! # Completing an instruction from any state, and the class-Q instructions (R107, R110, R156, R186, R188) -/

namespace Sys2Proof.Machine

/-! ## A core in which an instruction completes -/

/-- The core after an instruction of the warp `w` has completed: its warp, and the counters and latches of its quadrant. -/
def Core.completed (k : Core) (x : Ctx) (w : Warp) (pc : Nat) : Core :=
  { k.modQuad (quadOf x.slot) (·.completes x) with warps := SMap.put x.slot (w.finished x pc) k.warps }

section
variable {t : State} {x : Ctx} {w : Warp} (hw : t.warp? x.core x.slot = some w) (pc : Nat)
include hw

theorem State.completeAt_of_warp : t.completeAt x pc =
    ((t.setWarp x.core x.slot (w.finished x pc)).modQuad x.core (quadOf x.slot) (·.completes x)).pushAll
      ((w.finished x pc).dueAfter x.core x.slot) := by
  simp only [State.completeAt, hw]; rfl

theorem State.core?_completeAt (c : Nat) :
    (t.completeAt x pc).core? c = if c = x.core then (t.core? c).map (·.completed x w pc) else t.core? c := by
  rw [State.completeAt_of_warp hw, State.core?_pushAll, State.core?_modQuad, State.core?_setWarp]
  by_cases hc : c = x.core
  · simp only [if_pos hc, Option.map_map]; rfl
  · simp only [if_neg hc]

theorem State.completeAt_eq : t.completeAt x pc =
    { t with cores := (t.completeAt x pc).cores, pending := (t.completeAt x pc).pending } := by
  rw [State.completeAt_of_warp hw]; rfl

end

/-! ## What completing leaves of a warp -/

theorem KeepsRegisters.finished (x : Ctx) (pc : Nat) : KeepsRegisters x (x.w.finished x pc) where
  warp := by simp only [Warp.finished, Warp.commitFlash]; split <;> rfl
  fmt k := by rw [Warp.slice_finished, Warp.slice_setPc]; split <;> rfl
  flash := by
    simp only [Warp.finished, Warp.commitFlash]
    split
    · exact .inr rfl
    · exact .inl rfl
  lease := by simp only [Warp.finished, Warp.commitFlash]; split <;> rfl

theorem GroupGoes.finished (x : Ctx) (pc : Nat) : GroupGoes x (x.w.finished x pc) pc := .of_delivered pc (.refl x.w)

theorem OnlyFlow.finished {x : Ctx} (hi : x.i.isCommit = false) (pc : Nat) : OnlyFlow x (x.w.finished x pc) where
  warp := by rw [Warp.finished_eq hi]
  fmt k := by rw [Warp.slice_finished, Warp.slice_setPc]; split <;> rfl
  flags := Warp.flagsInAll_finished ..

/-- An instruction without an effect of its own only goes on. -/
theorem Reaches.of_complete {i : Instr} {late : Ctx → State → Late} {s : State} {g : Selected} {w : Warp} (hr : Runs i s g w late)
    (hi : i.isCommit = false) (hex : exec i s = .next (s.begun.complete (s.seenBy i g w))) :
    Reaches i (s.seenBy i g w) s fun _ w' =>
      OnlyFlow (s.seenBy i g w) w' ∧ GroupGoes (s.seenBy i g w) w' (s.seenBy i g w).next ∧ w'.s = w.s := by
  obtain ⟨ho, hw'⟩ := State.completeAt_begun (x := s.seenBy i g w) (s.seenBy i g w).next hr.1.2
  exact ⟨_, _, hex, hw', ho, OnlyFlow.finished hi _, GroupGoes.finished _ _, (Warp.finished_parts w _ _).2.1⟩

/-! ## A group that is held -/

theorem State.warp?_holdAt {t : State} {x : Ctx} {w : Warp} (hw : t.warp? x.core x.slot = some w) (hi : x.i.isCommit = false)
    (h : Hold) (p : Progress) : (t.holdAt x h p).warp? x.core x.slot = some (w.modGroup x.mask (fun g => { g with hold := h, prog := p })) := by
  rw [State.holdAt, State.warp?_modWarp, if_pos ⟨rfl, rfl⟩, hi]
  split <;> simp [hw, Warp.commitFlash]

theorem Warp.hold_of_mem_modGroup {w : Warp} {m : BitVec 8} {h : Hold} {p : Progress} {y : Group}
    (hy : y ∈ (w.modGroup m (fun g => { g with hold := h, prog := p })).groups) (hm : y.mask = m) : y.hold = h := by
  obtain ⟨g, -, rfl⟩ := List.mem_map.1 hy
  by_cases hg : (g.mask == m) = true
  · rw [if_pos hg]
  · rw [if_neg hg] at hm; exact absurd (beq_iff_eq.2 hm) hg

theorem Stays.of_holdAt {i : Instr} {s : State} {g : Selected} {w : Warp} (hw : s.warp? g.core g.slot = some w) (hi : i.isCommit = false)
    {h : Hold} {p : Progress} (hex : exec i s = .next (s.begun.holdAt (s.seenBy i g w) h p)) : Stays i (s.seenBy i g w) s h :=
  ⟨_, _, hex, State.warp?_holdAt (t := s.begun) (x := s.seenBy i g w) hw hi h p, rfl, fun _ hy hm => Warp.hold_of_mem_modGroup hy hm⟩

/-- A quadrant in which an instruction of class Q completes: it writes no register, so that no matrix latch is cleared (R234). -/
theorem Quad.keeps_completes {x : Ctx} (hi : x.i.classQ = true) (q : Quad) : q.keeps (q.completes x) := by
  have hrun : x.writtenRun = (0, 0) := by
    simp only [Ctx.writtenRun, hi]
    split <;> simp
  have hlatch : ∀ r : Quad, r.registersWritten x.slot 0 0 = r := fun r => by
    simp [Quad.registersWritten, MatrixLatch.overwritten]
  rw [Quad.completes, hrun, hlatch]
  split <;> rfl

theorem Ctx.places_eq_nil (x : Ctx) : x.places = [] ↔ x.lanes = [] := by
  rw [Ctx.places]
  split
  · cases h : x.lanes <;> simp
  · rfl

/-! ## The queue of a class-Q unit (R188) -/

/-- The queue of a unit of class Q, and how many operations it holds. -/
def Quad.unit (q : Quad) (divider : Bool) : List QResult := if divider then q.divider else q.sfu
def unitEntries (divider : Bool) : Nat := if divider then dividerEntries else sfuEntries

/-- An operation joins a unit's queue. -/
def Quad.enter (q : Quad) (divider : Bool) (r : QResult) : Quad :=
  if divider then { q with divider := q.divider ++ [r] } else { q with sfu := q.sfu ++ [r] }

/-- When a unit can start the next operation: the SFU one a cycle, the divider one when the last is done. -/
def Quad.startAfter (q : Quad) (divider : Bool) (cyc : Nat) : Nat :=
  if divider then max cyc ((q.divider.getLast?.map (·.due)).getD 0) else max cyc ((q.sfu.getLast?.map (·.start + 1)).getD 0)

/-- The operation that a class-Q instruction enters. -/
def Ctx.operation (x : Ctx) (latency regs start : Nat) (result : Nat → FRes) : QResult :=
  { slot := x.slot, code := x.f.dst.toNat, regs := regs, values := x.places.map (fun p => (p, (result p).bits)),
    flags := x.flagsOf (fun p => (result p).flags), start := start, due := start + latency }

theorem Quad.unit_enter (q : Quad) (divider : Bool) (r : QResult) : (q.enter divider r).unit divider = q.unit divider ++ [r] := by
  cases divider <;> rfl

theorem Quad.le_startAfter (q : Quad) (divider : Bool) (cyc : Nat) : cyc ≤ q.startAfter divider cyc := by
  cases divider <;> exact Nat.le_max_left ..

/-- The last operation of the queue has started, or is done. -/
theorem Quad.startAfter_last {q : Quad} {divider : Bool} {e : QResult} (h : (q.unit divider).getLast? = some e) (cyc : Nat) :
    if divider then e.due ≤ q.startAfter divider cyc else e.start < q.startAfter divider cyc := by
  cases divider with
  | true =>
    have h : q.divider.getLast? = some e := h
    simp [Quad.startAfter, h]
  | false =>
    have h : q.sfu.getLast? = some e := h
    simp [Quad.startAfter, h]

theorem Ctx.foldl_flags (x : Ctx) (result : Nat → FRes) :
    (x.places.map (fun p => (p, result p))).foldl (fun a r => a ||| r.2.flags) (0 : Flags) = x.flagsOf (fun p => (result p).flags) := by
  rw [List.foldl_map, Ctx.flagsOf, ← List.foldl_map (f := fun p => (result p).flags) (g := fun a b => a ||| b),
    ← List.foldr_map (f := fun p => (result p).flags) (g := fun a b => a ||| b)]
  exact List.foldl_eq_foldr ..

theorem Quad.keeps.unit {q q' : Quad} (h : q.keeps q') (divider : Bool) : q'.unit divider = q.unit divider := by
  rw [Quad.keeps] at h; rw [h]; rfl

/-- The quadrants of a core in which an operation has entered a unit and its instruction completed. -/
theorem Core.keeps_completed_enter {k : Core} {x : Ctx} (hi : x.i.classQ = true) (w : Warp) (divider : Bool) (r : QResult) (pc j : Nat)
    (hlen : quadOf x.slot < k.quads.length) :
    Quad.keeps (if j = quadOf x.slot then (k.quad j).enter divider r else k.quad j)
      (((k.modQuad (quadOf x.slot) (·.enter divider r)).completed x w pc).quad j) := by
  change Quad.keeps _ (((k.modQuad (quadOf x.slot) (·.enter divider r)).modQuad (quadOf x.slot) (·.completes x)).quad j)
  have hlen' : quadOf x.slot < (k.modQuad (quadOf x.slot) (·.enter divider r)).quads.length := by simpa [Core.modQuad] using hlen
  rw [Core.quad_modQuad, Core.quad_modQuad]
  by_cases hj : j = quadOf x.slot
  · rw [if_pos hj, if_pos ⟨hj, hlen'⟩, if_pos ⟨hj, hlen⟩]
    exact Quad.keeps_completes hi _
  · rw [if_neg hj, if_neg fun h => hj h.1, if_neg fun h => hj h.1]
    rfl

/-- The state in which an operation has entered a unit and its instruction completed. -/
theorem State.enter_spec {s : State} {x : Ctx} {k : Core} (hk : s.core? x.core = some k) (hw : s.warp? x.core x.slot = some x.w)
    (divider : Bool) (r : QResult) (pc : Nat) :
    let t := (s.begun.modQuad x.core (quadOf x.slot) (·.enter divider r)).completeAt x pc
    t.warp? x.core x.slot = some (x.w.finished x pc) ∧
      t.core? x.core = some ((k.modQuad (quadOf x.slot) (·.enter divider r)).completed x x.w pc) ∧ OnlyCore x s t := by
  intro t
  have hw0 : (s.begun.modQuad x.core (quadOf x.slot) (·.enter divider r)).warp? x.core x.slot = some x.w := by
    rw [State.warp?_modQuad]; exact hw
  have hcore := State.core?_completeAt hw0 pc
  have hk' : t.core? x.core = some ((k.modQuad (quadOf x.slot) (·.enter divider r)).completed x x.w pc) := by
    rw [hcore, if_pos rfl, State.core?_modQuad, if_pos rfl, State.core?_begun, hk]; rfl
  refine ⟨(Rewrites.completeAt pc hw0).1, hk', State.completeAt_eq hw0 pc, fun c hc => ?_, fun k0 hk0 => ?_⟩
  · rw [hcore, if_neg hc, State.core?_modQuad, if_neg hc, State.core?_begun]
  · obtain rfl : k = k0 := Option.some.inj (hk.symm.trans hk0)
    exact ⟨_, hk', rfl, fun _ _ => rfl⟩

/-- What a class-Q instruction does, by its lanes and the room in its unit's queue. -/
theorem classQ_eq {divider : Bool} {latency regs : Nat} {compute : Ctx → Nat → FRes} {x : Ctx} {s : State} {k : Core}
    (hk : s.core? x.core = some k) : classQ divider latency regs compute x s =
      if x.lanes = [] then s.complete x
      else if unitEntries divider ≤ ((k.quad (quadOf x.slot)).unit divider).length then
        s.holdAt x (if divider then .dividerFull else .sfuFull) x.prog
      else (s.modQuad x.core (quadOf x.slot) (·.enter divider
        (x.operation latency regs ((k.quad (quadOf x.slot)).startAfter divider x.cyc) (compute x)))).complete x := by
  have hp : x.places.isEmpty = true ↔ x.lanes = [] := by rw [List.isEmpty_iff, x.places_eq_nil]
  simp only [classQ, hk, Option.map_some, Option.getD_some, hp, x.foldl_flags, List.map_map]
  cases divider <;> simp only [if_true, Bool.false_eq_true, if_false, decide_eq_true_eq] <;> rfl

/-- An instruction whose effect is that of class Q enters its unit. -/
theorem Enters.of_classQ {i : Instr} {divider : Bool} {latency n : Ctx → Nat} {result : Ctx → Nat → FRes} {eff : Ctx → State → State}
    (hex : ∀ s, exec i s = issue i noLate eff s) (hq : i.classQ = true) (hi : i.isCommit = false)
    (heff : ∀ (s : State) g w, eff (s.seenBy i g w) s.begun =
      classQ divider (latency (s.seenBy i g w)) (n (s.seenBy i g w)) result (s.seenBy i g w) s.begun) :
    Enters i divider latency n result := by
  intro s g w k hr hk hlen x queue full
  have hnext := (hex s).trans ((issue_of_clear hr.1 hr.2).trans (congrArg _ ((heff s g w).trans (classQ_eq (x := x) (s := s.begun) hk))))
  refine ⟨fun hl => ?_, fun hl hfull => ?_, fun hl hroom => ?_⟩
  · rw [if_pos hl] at hnext
    exact Reaches.of_complete hr hi hnext
  · rw [if_neg hl, if_pos (show unitEntries divider ≤ ((k.quad (quadOf x.slot)).unit divider).length from hfull)] at hnext
    exact Stays.of_holdAt hr.1.2 hi hnext
  · rw [if_neg hl, if_neg (show ¬unitEntries divider ≤ ((k.quad (quadOf x.slot)).unit divider).length from Nat.not_le.2 hroom)] at hnext
    obtain ⟨r, hr0⟩ : ∃ r, r = x.operation (latency x) (n x) ((k.quad (quadOf x.slot)).startAfter divider x.cyc) (result x) := ⟨_, rfl⟩
    rw [← hr0] at hnext
    obtain ⟨hw', hk', honly⟩ := State.enter_spec (x := x) hk hr.1.2 divider r x.next
    have hquad (j : Nat) : Quad.keeps (if j = quadOf g.slot then (k.quad j).enter divider r else k.quad j) _ :=
      Core.keeps_completed_enter (x := x) hq x.w divider r x.next j hlen
    generalize (k.modQuad (quadOf x.slot) (·.enter divider r)).completed x x.w x.next = k' at hk' hquad
    have hqueue : queue k' = queue k ++ [r] := by
      have hself := (hquad (quadOf g.slot)).unit divider
      rw [if_pos rfl, Quad.unit_enter] at hself
      exact hself
    refine ⟨_, _, k', r, hnext, hw', hk', .finished x x.next, honly, .finished x x.next, hqueue, fun j => ?_, ?_⟩
    · have hj := hquad j
      rw [hqueue]
      by_cases hjq : j = quadOf g.slot
      · rw [if_pos hjq] at hj
        rw [if_neg (not_not.2 hjq), hjq]
        rw [hjq] at hj
        cases divider <;> exact hj
      · rw [if_neg hjq] at hj
        rwa [if_pos hjq]
    · rw [hr0]
      exact ⟨rfl, rfl, rfl, rfl, rfl, rfl, Quad.le_startAfter .., fun e he => Quad.startAfter_last (q := k.quad (quadOf x.slot)) he x.cyc⟩

theorem intRegs_eq : ∀ t : Nat, intRegs t = if intWidth t = 64 then 2 else 1
  | 0 | 1 | 2 | 3 | 4 | 5 => rfl
  | _ + 6 => by simp [intRegs, intWidth]

/-- An integer division enters the divider, with the latency of its width. -/
theorem Enters.of_classQ_int {i : Instr} {fn : Nat → Nat → Nat → Nat} {eff : Ctx → State → State}
    (hex : ∀ s, exec i s = issue i noLate eff s) (hq : i.classQ = true) (hi : i.isCommit = false)
    (heff : ∀ (s : State) g w, eff (s.seenBy i g w) s.begun = classQ true (divLatency (s.seenBy i g w).ty) (intRegs (s.seenBy i g w).ty)
      (fun x p => { bits := extendInt x.ty (fn x.ty (x.rdInt x.f.srcA p) (x.rdInt x.f.srcB p)) }) (s.seenBy i g w) s.begun) :
    Enters i true (fun x => if intWidth x.ty = 64 then 36 else if intWidth x.ty = 32 then 20 else 12)
      (fun x => if intWidth x.ty = 64 then 2 else 1)
      (fun x p => { bits := extendInt x.ty (fn x.ty (x.rdInt x.f.srcA p) (x.rdInt x.f.srcB p)) }) :=
  Enters.of_classQ hex hq hi fun s g w => by rw [heff, intRegs_eq]; rfl

/-- Settles O38: each instruction's effect is that of class Q with its own function (named apart from the model's `classQ`). -/
theorem Enters.classQ : Obligations.ClassQ := by
  unfold Obligations.ClassQ
  intro f el sfu div int
  refine ⟨?_, ?_, ?_, ?_, ?_, ?_, ?_, ?_, ?_, ?_, ?_, ?_⟩
  case refine_11 => exact Enters.of_classQ_int (i := .idiv f) (fn := divInt) (fun _ => rfl) rfl rfl fun _ _ _ => rfl
  case refine_12 => exact Enters.of_classQ_int (i := .irem f) (fn := remInt) (fun _ => rfl) rfl rfl fun _ _ _ => rfl
  all_goals exact Enters.of_classQ (fun _ => rfl) rfl rfl fun _ _ _ => rfl

end Sys2Proof.Machine

/-! # TLBINV (R412) -/

namespace Sys2Proof.Machine

/-! ## How an instruction ends: completed or held, only its warp and its quadrant change -/

theorem SMap.get?_map_value {α β : Type} (f : Nat → α → β) (k : Nat) (m : SMap α) :
    SMap.get? k (m.map (fun e => (e.1, f e.1 e.2))) = (SMap.get? k m).map (f k) := by
  induction m with
  | nil => rfl
  | cons e t ih =>
    simp only [List.map_cons, SMap.get?]
    split
    case isTrue h => rw [h]; rfl
    case isFalse => exact ih

/-- `t` is `s` but for warps, quadrants and what comes due. -/
structure Ends (s t : State) : Prop where
  state   : t = { s with cores := t.cores, pending := t.pending }
  pending : ∀ e ∈ s.pending, e ∈ t.pending
  cores   : ∀ c k, s.core? c = some k → ∃ k', t.core? c = some k' ∧ k' = { k with warps := k'.warps, quads := k'.quads }

theorem Ends.complete {s : State} {x : Ctx} {w : Warp} (hw : s.warp? x.core x.slot = some w) : Ends s (s.complete x) where
  state := State.completeAt_eq hw _
  pending e he := by
    rw [State.complete, State.completeAt_of_warp hw]
    exact List.mem_append_left _ he
  cores c k hk := by
    rw [State.complete, State.core?_completeAt hw, hk]
    split
    · exact ⟨_, rfl, rfl⟩
    · exact ⟨k, rfl, rfl⟩

theorem Ends.holdAt (s : State) (x : Ctx) (h : Hold) (p : Progress) : Ends s (s.holdAt x h p) where
  state := by rw [State.holdAt]; split <;> rfl
  pending e he := by rw [State.holdAt]; split <;> exact he
  cores c k hk := by
    rw [State.holdAt, State.core?_modWarp]
    split
    · split
      · rw [State.countIssue, State.core?_modQuad, hk]
        split <;> exact ⟨_, rfl, rfl⟩
      · rw [hk]; exact ⟨_, rfl, rfl⟩
    · split
      · rw [State.countIssue, State.core?_modQuad, hk]
        split <;> exact ⟨_, rfl, rfl⟩
      · exact ⟨k, hk, rfl⟩

/-! ## Writes that are on their way to Caldera (R253, R283) -/

/-- The request is a write of which `p` holds. -/
def Request.isWrite (r : Request) (p : Prop) [Decidable p] : Bool :=
  match r.kind with
  | .write _ => decide p
  | _ => false

theorem Request.isWrite_iff (r : Request) (p : Prop) [Decidable p] : r.isWrite p = true ↔ (∃ rel, r.kind = .write rel) ∧ p := by
  rw [Request.isWrite]
  split <;> simp_all

/-- The numbers of the writes on their way of which `p` holds. -/
def State.writesOn (s : State) (p : Request → Prop) [DecidablePred p] : NSet :=
  (s.caldera.requests.filter (fun e => e.2.isWrite (p e.2))).map Prod.fst

theorem State.mem_writesOn {s : State} {p : Request → Prop} [DecidablePred p] {id : Nat} :
    id ∈ s.writesOn p ↔ ∃ r, (id, r) ∈ s.caldera.requests ∧ (∃ rel, r.kind = .write rel) ∧ p r := by
  simp only [State.writesOn, List.mem_map, List.mem_filter, Request.isWrite_iff]
  constructor
  · rintro ⟨⟨i, r⟩, ⟨hm, hr⟩, rfl⟩; exact ⟨r, hm, hr⟩
  · rintro ⟨r, hm, hr⟩; exact ⟨(id, r), ⟨hm, hr⟩, rfl⟩

theorem State.writesOn_eq_nil {s : State} {p : Request → Prop} [DecidablePred p]
    (h : ∀ e ∈ s.caldera.requests, ∀ rel, e.2.kind = .write rel → ¬p e.2) : s.writesOn p = [] := by
  refine List.eq_nil_iff_forall_not_mem.2 fun id hid => ?_
  obtain ⟨r, hm, ⟨rel, hrel⟩, hp⟩ := State.mem_writesOn.1 hid
  exact h _ hm rel hrel hp

/-- The lines of a list are written back, one after the other. -/
def State.writeBacks (s : State) (c by_ : Nat) (l : List L1Line) : State := l.foldl (fun s l => (s.writeBack c by_ l true).1) s

@[simp] theorem State.ackAll_nil (s : State) : s.ackAll [] = s := by simp [State.ackAll]

/-! ## The release steps, where nothing is to be released (R283) -/

/-- The tenant's dirty lines on a core whose domain is `d` or narrower. -/
def State.dirtyIn (s : State) (k : Core) (tenant d : Nat) : List L1Line :=
  k.l1.filter (fun l => decide (l.tenant = tenant ∧ l.dirty ≠ 0) && l.lock.isNone && domLe (s.lineDomain l) d)

theorem State.writeBackDomain_eq {s : State} {c : Nat} {k : Core} (hk : s.core? c = some k) (by_ tenant d : Nat) :
    let s1 := (s.writeBacks c by_ (s.dirtyIn k tenant d)).modL1 c (fun l => (s.dirtyIn k tenant d).contains l) L1Line.cleaned
    let ids := s1.writesOn (fun r => r.core = c ∧ r.tenant = tenant)
    s.writeBackDomain c by_ tenant d = (s1.ackAll ids, ids) := by
  simp only [State.writeBackDomain, hk]; rfl

/-- The L1 of a core without the lines that hold nothing. -/
def State.sweep (s : State) (c : Nat) : State := s.modL1 c (fun _ => false) L1Line.cleaned

theorem State.core?_sweep (s : State) (c d : Nat) : (s.sweep c).core? d =
    if d = c then (s.core? d).map (fun k => { k with
      l1 := (k.l1.map (fun l => if false then l.cleaned else l)).filter (fun l => l.lock.isSome || l.valid != 0) }) else s.core? d :=
  State.core?_modCore ..

@[simp] theorem State.warp?_sweep (s : State) (c d p : Nat) : (s.sweep c).warp? d p = s.warp? d p := by
  refine State.warp?_modCore s c d p ?_
  exact fun _ => rfl

theorem State.writeBackDomain_nothing {s : State} {x : Ctx} {k : Core} (hk : s.core? x.core = some k) (hn : x.nothingToRelease s)
    (d : Nat) : s.writeBackDomain x.core x.slot x.w.tenant d = (s.sweep x.core, []) := by
  obtain ⟨-, -, hdirty, hwrites⟩ := hn
  have hmine : s.dirtyIn k x.w.tenant d = [] := List.filter_eq_nil_iff.2 fun l hl => by
    simp +contextual [hdirty k hk l hl]
  have hids : (s.sweep x.core).writesOn (fun r => r.core = x.core ∧ r.tenant = x.w.tenant) = [] := State.writesOn_eq_nil hwrites
  have h := State.writeBackDomain_eq hk x.slot x.w.tenant d
  rw [hmine] at h
  rw [h]
  change ((s.sweep x.core).ackAll ((s.sweep x.core).writesOn (fun r => r.core = x.core ∧ r.tenant = x.w.tenant)),
    (s.sweep x.core).writesOn (fun r => r.core = x.core ∧ r.tenant = x.w.tenant)) = _
  rw [hids, State.ackAll_nil]

/-- With nothing to release, the release steps at DEVICE are done at once. -/
theorem release_nothing {s : State} {x : Ctx} (hw : s.warp? x.core x.slot = some x.w) (hn : x.nothingToRelease s) (p : Progress) :
    release x false p [domDevice] s = .done (s.sweep x.core) := by
  obtain ⟨k, hk, -⟩ := State.core?_of_warp? hw
  have hreleased : x.w.released = [] := by rw [Warp.released, hn.1]; rfl
  have hw' : (s.sweep x.core).warp? x.core x.slot = some x.w := by rw [State.warp?_sweep, hw]
  simp [release, releaseFrom, stReturns, stAcks, stCollapses, hreleased, State.writeBackDomain_nothing hk hn, hw', hn.2.1]

/-! ## What TLBINV removes, and what it waits for -/

/-- A number is decoded to what it names. -/
theorem InFlight.ofCode_access {c p : Nat} (hc : c < 2 ^ 11) (hp : p < 64) (id : Nat) :
    InFlight.ofCode (InFlight.access c p id).code = .access c p id := by
  have h1 : (4 * (id * 2 ^ 17 + c * 2 ^ 6 + p)) % 4 = 0 := by omega
  have h2 : 4 * (id * 2 ^ 17 + c * 2 ^ 6 + p) / 4 / 2 ^ 6 % 2 ^ 11 = c := by omega
  have h3 : 4 * (id * 2 ^ 17 + c * 2 ^ 6 + p) / 4 % 2 ^ 6 = p := by omega
  have h4 : 4 * (id * 2 ^ 17 + c * 2 ^ 6 + p) / 4 / 2 ^ 17 = id := by omega
  rw [InFlight.code, InFlight.ofCode, accessName, if_pos h1, h2, h3, h4]

theorem InFlight.ofCode_engine {c : Nat} (hc : c < 2 ^ 11) (id : Nat) : InFlight.ofCode (InFlight.engine c id).code = .engine c id := by
  have h1 : ¬(4 * (id * 2 ^ 11 + c) + 1) % 4 = 0 := by omega
  have h2 : (4 * (id * 2 ^ 11 + c) + 1) % 4 = 1 := by omega
  have h3 : (4 * (id * 2 ^ 11 + c) + 1) / 4 % 2 ^ 11 = c := by omega
  have h4 : (4 * (id * 2 ^ 11 + c) + 1) / 4 / 2 ^ 11 = id := by omega
  rw [InFlight.code, InFlight.ofCode, if_neg h1, if_pos h2, h3, h4]

theorem InFlight.ofCode_check (id : Nat) : InFlight.ofCode (InFlight.check id).code = .check id := by
  have h1 : ¬(4 * id + 2) % 4 = 0 := by omega
  have h2 : ¬(4 * id + 2) % 4 = 1 := by omega
  have h3 : (4 * id + 2) / 4 = id := by omega
  rw [InFlight.code, InFlight.ofCode, if_neg h1, if_neg h2, h3]

/-- A core whose TLB has lost the translations that a test picks. -/
def Core.without (k : Core) (which : TlbEntry → Bool) : Core := { k with tlb := k.tlb.filter (fun y => !which y) }

theorem State.core?_dropTranslations (s : State) (which : TlbEntry → Bool) (c : Nat) :
    (s.dropTranslations which).core? c = (s.core? c).map (·.without which) :=
  SMap.get?_map_value (fun _ k => Core.without k which) c s.cores

theorem State.warp?_dropTranslations (s : State) (which : TlbEntry → Bool) (c p : Nat) :
    (s.dropTranslations which).warp? c p = s.warp? c p := by
  rw [State.warp?, State.core?_dropTranslations, State.warp?]
  cases s.core? c <;> rfl

/-- A page that a TLBINV names, or that a cached translation covers which it removes. -/
def State.usesGone (s : State) (gone : TlbEntry → Bool) (tenant page : Nat) : Prop :=
  gone { tenant := tenant, va := page * 2 ^ 17, bits := 17, pte := 0 } = true ∨
    ∃ y : TlbEntry, gone y = true ∧ y.covers tenant (page * 2 ^ 17) = true ∧ ((∃ e ∈ s.cores, y ∈ e.2.tlb) ∨ ∃ e ∈ s.caches, y ∈ e.2)

theorem State.usesRemoved_iff (s : State) (gone : TlbEntry → Bool) (tenant page : Nat) :
    usesRemoved gone (s.cachedBy gone) tenant page = true ↔ s.usesGone gone tenant page := by
  simp only [usesRemoved, State.cachedBy, State.usesGone, Bool.or_eq_true, List.any_eq_true, List.mem_filter, List.mem_append, List.mem_flatMap]
  refine or_congr Iff.rfl (exists_congr fun y => ?_)
  constructor
  · rintro ⟨⟨hin, hg⟩, hc⟩; exact ⟨hg, hc, hin⟩
  · rintro ⟨hg, hc, hin⟩; exact ⟨⟨hin, hg⟩, hc⟩

theorem Request.kind_monitor_iff (r : Request) :
    (match r.kind with | .monitor _ _ _ => true | _ => false) = true ↔ ∃ a v n, r.kind = .monitor a v n := by
  cases r.kind <;> simp

/-- What TLBINV waits for: an access of a warp of the tenant, a request of its copy engines, or a MONW's check. -/
theorem State.mem_translated {s : State} {tenant : Nat} {used : Nat → Bool} {e : InFlight} : e ∈ s.translated tenant used ↔
    (∃ c k p v a, (c, k) ∈ s.cores ∧ (p, v) ∈ k.warps ∧ v.tenant = tenant ∧ a ∈ v.accesses ∧ (∃ q ∈ a.pages, used q = true) ∧
      a.returned = false ∧ .access c p a.id = e) ∨
    (∃ c k r v, (c, k) ∈ s.cores ∧ r ∈ k.nyrus ∧ r.engine = true ∧ (r.slot, v) ∈ k.warps ∧ v.tenant = tenant ∧
      used (r.va / 2 ^ 17) = true ∧ .engine c r.id = e) ∨
    (∃ id r, (id, r) ∈ s.caldera.requests ∧ (∃ a v n, r.kind = .monitor a v n) ∧ r.tenant = tenant ∧ used (r.va / 2 ^ 17) = true ∧
      .check id = e) := by
  simp only [State.translated, List.mem_append, List.mem_flatMap, List.mem_map, List.mem_filter, List.any_eq_true, Bool.and_eq_true,
    decide_eq_true_eq, Bool.not_eq_true', Prod.exists]
  constructor
  · rintro (⟨c, k, hk, ⟨p, v, ⟨hv, ht⟩, a, ⟨ha, hu, hr⟩, he⟩ | ⟨r, ⟨hr, ⟨hen, _, v, ⟨hv, ht⟩, rfl⟩, hu⟩, he⟩⟩ | ⟨id, r, ⟨hr, ⟨hm, ht⟩, hu⟩, he⟩)
    · exact .inl ⟨c, k, p, v, a, hk, hv, ht, ha, hu, hr, he⟩
    · exact .inr (.inl ⟨c, k, r, v, hk, hr, hen, hv, ht, hu, he⟩)
    · exact .inr (.inr ⟨id, r, hr, (Request.kind_monitor_iff r).1 hm, ht, hu, he⟩)
  · rintro (⟨c, k, p, v, a, hk, hv, ht, ha, hu, hr, he⟩ | ⟨c, k, r, v, hk, hr, hen, hv, ht, hu, he⟩ | ⟨id, r, hr, hm, ht, hu, he⟩)
    · exact .inl ⟨c, k, hk, .inl ⟨p, v, ⟨hv, ht⟩, a, ⟨ha, hu, hr⟩, he⟩⟩
    · exact .inl ⟨c, k, hk, .inr ⟨r, ⟨hr, ⟨hen, _, v, ⟨hv, ht⟩, rfl⟩, hu⟩, he⟩⟩
    · exact .inr ⟨id, r, ⟨hr, ⟨(Request.kind_monitor_iff r).2 hm, ht⟩, hu⟩, he⟩

/-- A held TLBINV's number stands for something that is not over. -/
theorem State.accessesReturned_false {s : State} {l : List InFlight} {e : InFlight} (he : e ∈ l) (hcode : InFlight.ofCode e.code = e)
    (hover : s.isOver e = false) : s.accessesReturned (l.map InFlight.code) = false := by
  refine List.all_eq_false.2 ⟨e.code, List.mem_map_of_mem he, ?_⟩
  rw [hcode, hover]; decide

theorem SMap.mem_modify {α : Type} {j : Nat} {f : α → α} {m : SMap α} {e : Nat × α} (h : e ∈ SMap.modify j f m) :
    ∃ v, (e.1, v) ∈ m ∧ (e.2 = v ∨ e.2 = f v) := by
  induction m with
  | nil => exact absurd h List.not_mem_nil
  | cons a t ih =>
    obtain ⟨k, v⟩ := a
    rw [SMap.modify] at h
    split at h
    · rcases List.mem_cons.1 h with rfl | h
      · exact ⟨v, List.mem_cons_self, .inr rfl⟩
      · exact ⟨e.2, List.mem_cons_of_mem _ h, .inl rfl⟩
    · rcases List.mem_cons.1 h with rfl | h
      · exact ⟨v, List.mem_cons_self, .inl rfl⟩
      · obtain ⟨u, hu, he⟩ := ih h
        exact ⟨u, List.mem_cons_of_mem _ hu, he⟩

theorem SMap.flatMap_modify {α β : Type} {f : α → α} {g : α → List β} (hf : ∀ v, g (f v) = g v) (j : Nat) (m : SMap α) :
    (SMap.modify j f m).flatMap (fun e => g e.2) = m.flatMap (fun e => g e.2) := by
  induction m with
  | nil => rfl
  | cons a t ih =>
    obtain ⟨k, v⟩ := a
    rw [SMap.modify]
    split
    · rw [List.flatMap_cons, List.flatMap_cons, hf]
    · rw [List.flatMap_cons, List.flatMap_cons, ih]

/-! ## The removal -/

/-- The state in which a TLBINV of the core `c` has released what there was and removed what it names. -/
def State.invalidated (s : State) (c : Nat) (gone : TlbEntry → Bool) : State := (s.begun.sweep c).dropTranslations gone

section
variable {s : State} {c : Nat} {gone : TlbEntry → Bool}

theorem State.warp?_invalidated (d p : Nat) : (s.invalidated c gone).warp? d p = s.warp? d p := by
  rw [State.invalidated, State.warp?_dropTranslations, State.warp?_sweep, State.warp?_begun]

theorem State.core?_invalidated {d : Nat} {k : Core} (hk : s.core? d = some k) : ∃ k', (s.invalidated c gone).core? d = some k' ∧
    k'.tlb = k.tlb.filter (fun y => !gone y) ∧ k' = { k with tlb := k'.tlb, l1 := k'.l1 } ∧ ∀ l ∈ k.l1, l.valid ≠ 0 → l ∈ k'.l1 := by
  rw [State.invalidated, State.core?_dropTranslations, State.core?_sweep, State.core?_begun, hk]
  split
  · exact ⟨_, rfl, rfl, rfl, fun l hl hv => List.mem_filter.2 ⟨by simpa using hl, by simpa using .inr hv⟩⟩
  · exact ⟨_, rfl, rfl, rfl, fun l hl _ => hl⟩

/-- A core of that state has the warps and the requests of one of the state before. -/
theorem State.mem_cores_invalidated {e : Nat × Core} (h : e ∈ (s.invalidated c gone).cores) :
    ∃ k, (e.1, k) ∈ s.cores ∧ e.2.warps = k.warps ∧ e.2.nyrus = k.nyrus := by
  obtain ⟨e1, h1, rfl⟩ := List.mem_map.1 h
  obtain ⟨k, hk, he⟩ := SMap.mem_modify h1
  refine ⟨k, hk, ?_⟩
  rcases he with he | he <;> rw [he] <;> exact ⟨rfl, rfl⟩

theorem State.cachedBy_sweep : (s.begun.sweep c).cachedBy gone = s.cachedBy gone := by
  have h : (s.begun.sweep c).cores.flatMap (fun e => e.2.tlb) = s.cores.flatMap (fun e => e.2.tlb) := by
    refine SMap.flatMap_modify (g := Core.tlb) ?_ c s.cores
    exact fun _ => rfl
  rw [State.cachedBy, State.cachedBy, h]; rfl

/-- What a TLBINV of a tenant's translations waits for. -/
def State.waitedFor (s : State) (c : Nat) (gone : TlbEntry → Bool) (tenant : Nat) : List InFlight :=
  (s.invalidated c gone).translated tenant (usesRemoved gone (s.cachedBy gone) tenant)

/-- Where nothing in flight has used what is removed, nothing is waited for. -/
theorem State.waitedFor_eq_nil {tenant : Nat}
    (hcores : ∀ e ∈ s.cores, (∀ v ∈ e.2.warps, v.2.tenant = tenant → ∀ a ∈ v.2.accesses,
      ¬(a.returned = false ∧ ∃ p ∈ a.pages, s.usesGone gone tenant p)) ∧ ∀ r ∈ e.2.nyrus, r.engine = true → ¬s.usesGone gone tenant (r.va / 2 ^ 17))
    (hchecks : ∀ e ∈ s.caldera.requests, ∀ a v n, e.2.kind = .monitor a v n → ¬s.usesGone gone tenant (e.2.va / 2 ^ 17)) :
    s.waitedFor c gone tenant = [] := by
  refine List.eq_nil_iff_forall_not_mem.2 fun e he => ?_
  simp only [State.waitedFor, State.mem_translated, State.usesRemoved_iff] at he
  rcases he with ⟨d, k, p, v, a, hk, hv, ht, ha, hu, hr, -⟩ | ⟨d, k, r, v, hk, hr, hen, -, -, hu, -⟩ | ⟨id, r, hr, ⟨a, v, n, hm⟩, -, hu, -⟩
  · obtain ⟨k0, hk0, hwarps, -⟩ := State.mem_cores_invalidated hk
    rw [hwarps] at hv
    exact (hcores _ hk0).1 _ hv ht a ha ⟨hr, hu⟩
  · obtain ⟨k0, hk0, -, hnyrus⟩ := State.mem_cores_invalidated hk
    rw [hnyrus] at hr
    exact (hcores _ hk0).2 r hr hen hu
  · exact hchecks _ hr a v n hm hu

/-- Something in flight has used what a TLBINV removes: an access, a request of a copy engine, or a MONW's check. -/
def State.usesInFlight (s : State) (gone : TlbEntry → Bool) (tenant : Nat) : Prop :=
  (∃ c p v a, s.warp? c p = some v ∧ c < 2 ^ 11 ∧ p < 64 ∧ v.tenant = tenant ∧ a ∈ v.accesses ∧
      (a.returned = false ∧ ∃ q ∈ a.pages, s.usesGone gone tenant q) ∧ (∀ b ∈ v.accesses, b.id = a.id → b = a)) ∨
    (∃ c k r v, s.core? c = some k ∧ c < 2 ^ 11 ∧ r ∈ k.nyrus ∧ r.engine = true ∧ s.usesGone gone tenant (r.va / 2 ^ 17) ∧
      s.warp? c r.slot = some v ∧ v.tenant = tenant) ∨
    (∃ id r a v n, SMap.get? id s.caldera.requests = some r ∧ r.kind = .monitor a v n ∧ r.tenant = tenant ∧
      s.usesGone gone tenant (r.va / 2 ^ 17))

theorem Warp.hasReturned_false {v : Warp} {a : Access} (ha : a ∈ v.accesses) (hr : a.returned = false)
    (hu : ∀ b ∈ v.accesses, b.id = a.id → b = a) : v.hasReturned a.id = false := by
  have hfind : v.access? a.id = some a := by
    cases h : v.access? a.id with
    | none => exact absurd (decide_eq_true rfl) (List.find?_eq_none.1 h a ha)
    | some b => rw [hu b (List.mem_of_find?_eq_some h) (of_decide_eq_true (List.find?_some (p := fun b : Access => decide (b.id = a.id)) h))]
  rw [Warp.hasReturned, hfind]; exact hr

/-- Where something in flight has used what is removed, it is waited for. -/
theorem State.waitedFor_not_returned {tenant : Nat} (h : s.usesInFlight gone tenant) :
    (s.invalidated c gone).accessesReturned ((s.waitedFor c gone tenant).map InFlight.code) = false := by
  have mem {e : InFlight} := State.mem_translated (s := s.invalidated c gone) (tenant := tenant)
    (used := usesRemoved gone (s.cachedBy gone) tenant) (e := e)
  simp only [State.usesRemoved_iff] at mem
  rcases h with ⟨d, p, v, a, hv, hd, hp, ht, ha, ⟨hr, hu⟩, hone⟩ | ⟨d, k, r, v, hk, hd, hr, hen, hu, hv, ht⟩ | ⟨id, r, a, v, n, hr, hm, ht, hu⟩
  · have hv' : (s.invalidated c gone).warp? d p = some v := by rw [State.warp?_invalidated, hv]
    obtain ⟨k', hk', hkv⟩ := State.core?_of_warp? hv'
    refine State.accessesReturned_false (mem.2 (.inl ⟨d, k', p, v, a, SMap.mem_of_get? hk', SMap.mem_of_get? hkv, ht, ha, hu, hr, rfl⟩))
      (InFlight.ofCode_access hd hp a.id) ?_
    rw [State.isOver, hv', Option.map_some, Option.getD_some, Warp.hasReturned_false ha hr hone]
  · obtain ⟨k', hk', -, hkeep, -⟩ := State.core?_invalidated (c := c) (gone := gone) hk
    have hr' : r ∈ k'.nyrus := by rw [hkeep]; exact hr
    have hv' : (s.invalidated c gone).warp? d r.slot = some v := by rw [State.warp?_invalidated, hv]
    obtain ⟨k1, hk1, hkv⟩ := State.core?_of_warp? hv'
    obtain rfl : k' = k1 := Option.some.inj (hk'.symm.trans hk1)
    refine State.accessesReturned_false (mem.2 (.inr (.inl ⟨d, k', r, v, SMap.mem_of_get? hk', hr', hen, SMap.mem_of_get? hkv, ht, hu, rfl⟩)))
      (InFlight.ofCode_engine hd r.id) ?_
    have hany : k'.nyrus.any (fun q => decide (q.id = r.id)) = true := List.any_eq_true.2 ⟨r, hr', decide_eq_true rfl⟩
    rw [State.isOver, hk', Option.map_some, Option.getD_some, hany]; rfl
  · refine State.accessesReturned_false (mem.2 (.inr (.inr ⟨id, r, SMap.mem_of_get? hr, ⟨a, v, n, hm⟩, ht, hu, rfl⟩))) (InFlight.ofCode_check id) ?_
    exact Option.isNone_eq_false_iff.2 (Option.isSome_iff_exists.2 ⟨r, hr⟩)

end

/-! ## An instruction that completes, or is held -/

/-- The instruction completes where `p` holds, and its group is held where it does not. -/
def State.endsBy (s : State) (x : Ctx) (p : Prop) [Decidable p] (h : Hold) (q : Progress) : State :=
  if p then s.complete x else s.holdAt x h q

theorem State.endsBy_spec {s : State} {x : Ctx} {w : Warp} (hw : s.warp? x.core x.slot = some w) (hi : x.i.isCommit = false) (p : Prop)
    [Decidable p] (h : Hold) (q : Progress) : ∃ w', (s.endsBy x p h q).warp? x.core x.slot = some w' ∧ Ends s (s.endsBy x p h q) ∧
      w'.lanes = w.lanes ∧ w'.s = w.s ∧ (p → w' = w.finished x x.next) ∧ (¬p → ∀ y ∈ w'.groups, y.mask = x.mask → y.hold = h) := by
  rw [State.endsBy]
  split
  case isTrue hp =>
    obtain ⟨hlanes, hs, -, -⟩ := Warp.finished_parts w x x.next
    exact ⟨_, (Rewrites.completeAt x.next hw).1, .complete hw, hlanes, hs, fun _ => rfl, fun hn => absurd hp hn⟩
  case isFalse hp =>
    exact ⟨_, State.warp?_holdAt hw hi h q, .holdAt .., rfl, rfl, fun hn => absurd hn hp, fun _ _ hy hm => Warp.hold_of_mem_modGroup hy hm⟩

theorem Ends.mem {s t : State} (h : Ends s t) : t.mem = s.mem := by rw [h.state]
theorem Ends.caches {s t : State} (h : Ends s t) : t.caches = s.caches := by rw [h.state]
theorem Ends.caldera {s t : State} (h : Ends s t) : t.caldera = s.caldera := by rw [h.state]

/-- An instruction that nothing stops has not been held. -/
theorem Runs.stage {i : Instr} {late : Ctx → State → Late} {s : State} {g : Selected} {w : Warp} (hr : Runs i s g w late) :
    (s.seenBy i g w).prog.stage = 0 := by
  obtain ⟨-, hc⟩ := hr
  simp only [State.clear, Bool.and_eq_true] at hc
  obtain ⟨⟨⟨⟨⟨hg, -⟩, -⟩, -⟩, -⟩, -⟩ := hc
  change (((w.group? g.mask).map (fun q : Group => q.prog)).getD {}).stage = 0
  cases hq : w.group? g.mask with
  | none => rfl
  | some q => rw [hq] at hg; exact of_decide_eq_true hg

/-! ## The effect of TLBINV -/

section
variable {i : Instr} {late : Ctx → State → Late} {s : State} {g : Selected} {w : Warp} (hr : Runs i s g w late)
  (vals : Ctx → List Nat) (ten : List Nat → Nat) (which : List Nat → TlbEntry → Bool)
include hr

theorem tlbinvEff_idle (hl : (s.seenBy i g w).lanes = []) :
    tlbinvEff vals ten which (s.seenBy i g w) s.begun = s.begun.complete (s.seenBy i g w) := by
  simp [tlbinvEff, Progress.releasing, Runs.stage hr, hl, stReturns, stAcks, stCollapses, stTlb]

theorem tlbinvEff_runs (hl : (s.seenBy i g w).lanes ≠ []) (hn : (s.seenBy i g w).nothingToRelease s) :
    let x := s.seenBy i g w
    let t := s.invalidated x.core (which (vals x))
    let codes := (s.waitedFor x.core (which (vals x)) (ten (vals x))).map InFlight.code
    tlbinvEff vals ten which x s.begun = t.endsBy x (t.accessesReturned codes = true) .settles { stage := stTlb, vals := codes } := by
  intro x t codes
  have hw : s.begun.warp? x.core x.slot = some x.w := hr.1.2
  have hstart : tlbinvEff vals ten which x s.begun =
      (release x false { vals := vals x } [domDevice] s.begun).cont x (tlbinvGo x (ten (vals x)) (which (vals x))) := by
    have hl' : x.lanes.isEmpty = false := by simpa [List.isEmpty_iff] using hl
    simp [tlbinvEff, Progress.releasing, show x.prog.stage = 0 from Runs.stage hr, hl', stReturns, stAcks, stCollapses, stTlb]
  rw [hstart, release_nothing (s := s.begun) hw hn, Release.cont, tlbinvGo, State.cachedBy_sweep]
  rfl

end

/-- What TLBINV comes to where there is nothing to release: what it removes is gone, and its warp goes on or waits. -/
structure Invalidates (x : Ctx) (s : State) (gone : TlbEntry → Bool) (tenant : Nat) (t : State) (w' : Warp) : Prop where
  warp   : t.warp? x.core x.slot = some w'
  mem    : t.mem = s.mem
  lanes  : w'.lanes = x.w.lanes
  scalar : w'.s = x.w.s
  caches : t.caches = s.caches.map (fun e => (e.1, e.2.filter (fun y => !gone y)))
  cores  : ∀ c k, s.core? c = some k → ∃ k', t.core? c = some k' ∧ k'.tlb = k.tlb.filter (fun y => !gone y) ∧
    k' = { k with tlb := k'.tlb, warps := k'.warps, quads := k'.quads, l1 := k'.l1 } ∧ ∀ l ∈ k.l1, l.valid ≠ 0 → l ∈ k'.l1
  goes   : s.waitedFor x.core gone tenant = [] → OnlyFlow x w' ∧ GroupGoes x w' x.next
  waits  : s.usesInFlight gone tenant → ∀ y ∈ w'.groups, y.mask = x.mask → y.hold = .settles

theorem Invalidates.of_endsBy {s : State} {x : Ctx} (hw : s.warp? x.core x.slot = some x.w) (hi : x.i.isCommit = false)
    (gone : TlbEntry → Bool) (tenant : Nat) :
    let t := s.invalidated x.core gone
    let codes := (s.waitedFor x.core gone tenant).map InFlight.code
    ∃ w', Invalidates x s gone tenant (t.endsBy x (t.accessesReturned codes = true) .settles { stage := stTlb, vals := codes }) w' := by
  intro t codes
  have hw : t.warp? x.core x.slot = some x.w := (State.warp?_invalidated ..).trans hw
  obtain ⟨w', hw', hends, hlanes, hs, hgoes, hwaits⟩ :=
    State.endsBy_spec hw hi (t.accessesReturned codes = true) .settles { stage := stTlb, vals := codes }
  refine ⟨w', hw', hends.mem, hlanes, hs, hends.caches, fun c k hk => ?_, fun hnone => ?_, fun h => hwaits ?_⟩
  · obtain ⟨k1, hk1, htlb, heq, hl1⟩ := State.core?_invalidated (c := x.core) (gone := gone) hk
    obtain ⟨k', hk', hkeep⟩ := hends.cores c k1 hk1
    exact ⟨k', hk', by rw [hkeep]; exact htlb, by rw [hkeep, heq], by rw [hkeep]; exact hl1⟩
  · rw [hgoes (by simp only [codes, hnone]; rfl)]
    exact ⟨.finished hi _, .finished ..⟩
  · rw [Bool.not_eq_true]
    exact State.waitedFor_not_returned h

end Sys2Proof.Machine

/-! # CCTL (R93, R411) -/

namespace Sys2Proof.Machine

/-! ## Write-backs (R253, R328) -/

/-- The request that carries a line's dirty bytes. -/
def L1Line.backRequest (l : L1Line) (c by_ : Nat) : Request :=
  { core := c, slot := by_, access := 0, kind := .write false, tenant := l.tenant, line := l.line, sector := 0, hint := l.hint,
    bytes := l.dirtyCells, ack := true, writers := l.writers, quad := l.quad }

/-- A line's dirty bytes are on their way. -/
def State.carries (s : State) (c by_ : Nat) (l : L1Line) : Prop :=
  ∃ id < s.caldera.nextRequest, SMap.get? id s.caldera.requests = some (l.backRequest c by_) ∧ .calderaRequest id ∈ s.pending

/-- `t` is `s` but for requests and what comes due. -/
structure SendsOnly (s t : State) : Prop where
  state   : t = { s with caldera := t.caldera, pending := t.pending }
  caldera : t.caldera = { s.caldera with requests := t.caldera.requests, nextRequest := t.caldera.nextRequest }

theorem SendsOnly.refl (s : State) : SendsOnly s s := ⟨rfl, rfl⟩

theorem SendsOnly.trans {s t u : State} (h : SendsOnly s t) (k : SendsOnly t u) : SendsOnly s u where
  state := by rw [k.state, h.state]
  caldera := by rw [k.caldera, h.caldera]

theorem SendsOnly.core? {s t : State} (h : SendsOnly s t) (c : Nat) : t.core? c = s.core? c := by rw [h.state]; rfl

section
variable {s : State} {c by_ : Nat} {l m : L1Line}

theorem State.writeBack_clean (h : l.dirty = 0) : (s.writeBack c by_ l true).1 = s := by rw [State.writeBack, if_pos h]

theorem State.writeBack_dirty (h : l.dirty ≠ 0) : (s.writeBack c by_ l true).1 = (s.send (l.backRequest c by_)).1 := by
  rw [State.writeBack, if_neg h]; rfl

theorem SendsOnly.writeBack : SendsOnly s (s.writeBack c by_ l true).1 := by
  by_cases h : l.dirty = 0
  · rw [State.writeBack_clean h]; exact .refl s
  · rw [State.writeBack_dirty h]; exact ⟨rfl, rfl⟩

/-- A dirty line that is written back is on its way. -/
theorem State.carries_writeBack (h : l.dirty ≠ 0) : (s.writeBack c by_ l true).1.carries c by_ l := by
  rw [State.writeBack_dirty h]
  exact ⟨_, Nat.lt_succ_self _, SMap.get?_put_same .., List.mem_append_right _ (List.mem_singleton.2 rfl)⟩

/-- A request that is on its way stays so: the next one has a number of its own. -/
theorem State.carries.writeBack (h : s.carries c by_ m) : (s.writeBack c by_ l true).1.carries c by_ m := by
  by_cases hl : l.dirty = 0
  · rwa [State.writeBack_clean hl]
  · rw [State.writeBack_dirty hl]
    obtain ⟨id, hid, hr, hp⟩ := h
    exact ⟨id, Nat.lt_succ_of_lt hid, (SMap.get?_put_other (Nat.ne_of_lt hid) ..).trans hr, List.mem_append_left _ hp⟩

theorem State.carries.writeBacks (h : s.carries c by_ m) (ls : List L1Line) : (s.writeBacks c by_ ls).carries c by_ m := by
  induction ls generalizing s with
  | nil => exact h
  | cons l ls ih => exact ih h.writeBack

theorem SendsOnly.writeBacks (s : State) (c by_ : Nat) (ls : List L1Line) : SendsOnly s (s.writeBacks c by_ ls) := by
  induction ls generalizing s with
  | nil => exact .refl s
  | cons l ls ih => exact SendsOnly.writeBack.trans (ih _)

/-- Every dirty line of a list that is written back is on its way. -/
theorem State.carries_writeBacks {ls : List L1Line} (hm : m ∈ ls) (hd : m.dirty ≠ 0) : (s.writeBacks c by_ ls).carries c by_ m := by
  induction ls generalizing s with
  | nil => exact absurd hm List.not_mem_nil
  | cons l ls ih =>
    rcases List.mem_cons.1 hm with rfl | hm
    · exact (State.carries_writeBack hd).writeBacks ls
    · exact ih hm

end

/-! ## The bytes that a write carries -/

theorem SMap.get?_map_offset {α : Type} (base b : Nat) (f : Nat → α) (l : List Nat) :
    SMap.get? (base + b) (l.map (fun i => (base + i, f i))) = if b ∈ l then some (f b) else none := by
  induction l with
  | nil => rfl
  | cons i t ih =>
    simp only [List.map_cons, SMap.get?, Nat.add_left_cancel_iff, List.mem_cons]
    by_cases h : b = i
    · rw [if_pos h, if_pos (.inl h), h]
    · rw [if_neg h, ih]; simp only [h, false_or]

/-- A line's dirty bytes are those of its dirty mask. -/
theorem L1Line.get?_dirtyCells (l : L1Line) {b : Nat} (hb : b < 128) :
    SMap.get? (128 * l.line + b) l.dirtyCells = if l.dirty.getLsbD b then some (l.data.extractLsb' (8 * b) 8) else none := by
  rw [L1Line.dirtyCells, lineCells, SMap.get?_map_offset]
  simp only [List.mem_filter, List.mem_range, hb, true_and]

/-! ## Acknowledgements -/

theorem State.request_ackAll (s : State) (ids : NSet) (id : Nat) : SMap.get? id (s.ackAll ids).caldera.requests =
    (SMap.get? id s.caldera.requests).map (fun r => if ids.contains id then { r with ack := true } else r) := by
  refine Eq.trans (congrArg (SMap.get? id) (List.map_congr_left fun e _ => ?_))
    (SMap.get?_map_value (fun id r => if ids.contains id then { r with ack := true } else r) id s.caldera.requests)
  split <;> rfl

theorem State.carries.ackAll {s : State} {c by_ : Nat} {l : L1Line} (h : s.carries c by_ l) (ids : NSet) : (s.ackAll ids).carries c by_ l := by
  obtain ⟨id, hid, hr, hp⟩ := h
  refine ⟨id, hid, ?_, hp⟩
  rw [State.request_ackAll, hr, Option.map_some]
  split <;> rfl

theorem Ends.carries {s t : State} {c by_ : Nat} {l : L1Line} (he : Ends s t) (h : s.carries c by_ l) : t.carries c by_ l := by
  obtain ⟨id, hid, hr, hp⟩ := h
  rw [State.carries, he.caldera]
  exact ⟨id, hid, hr, he.pending _ hp⟩

/-- A line that is on its way is among the writes of its core and tenant that are. -/
theorem State.carries.writesOn {s : State} {c by_ : Nat} {l : L1Line} {p : Request → Prop} [DecidablePred p] (h : s.carries c by_ l)
    (hp : p (l.backRequest c by_)) : s.writesOn p ≠ [] := by
  obtain ⟨id, -, hr, -⟩ := h
  exact List.ne_nil_of_mem (State.mem_writesOn.2 ⟨_, SMap.mem_of_get? hr, ⟨false, rfl⟩, hp⟩)

theorem State.writesOn_of_caldera {s t : State} (h : t.caldera = s.caldera) (p : Request → Prop) [DecidablePred p] :
    t.writesOn p = s.writesOn p := by rw [State.writesOn, h]; rfl

/-- An operation that waits for writes goes on where there are none, and is held where there are. -/
theorem cctlWait_eq (x : Ctx) (ids : NSet) (vals : List Nat) (go : State → State) (s : State) :
    cctlWait x ids vals (fun s => (go s).complete x) s =
      (if ids = [] then go s else s.ackAll ids).endsBy x (ids = []) .acks { stage := stCache, acks := ids, vals := vals } := by
  rw [cctlWait, State.endsBy]
  by_cases h : ids = []
  · simp only [h, List.isEmpty_nil, if_true]
  · simp only [h, List.isEmpty_iff, if_false]

/-! ## Flushing a tenant's lines -/

/-- A tenant's dirty unlocked lines. -/
def Core.dirtyLines (k : Core) (tenant : Nat) : List L1Line :=
  k.l1.filter (fun l => decide (l.tenant = tenant ∧ l.dirty ≠ 0) && l.lock.isNone)

/-- The lines of a core whose tenant's lines are flushed, and dropped where `drop` holds. -/
def Core.flushed (k : Core) (tenant : Nat) (drop : Bool) : List L1Line :=
  ((k.l1.map (fun l => if (k.dirtyLines tenant).contains l then l.cleaned else l)).filter (fun l => l.lock.isSome || l.valid != 0)).filter
    (fun l => !(drop && decide (l.tenant = tenant) && l.lock.isNone))

section
variable {k : Core} {tenant : Nat} {drop : Bool} {l : L1Line}

theorem Core.mem_dirtyLines : l ∈ k.dirtyLines tenant ↔ l ∈ k.l1 ∧ (l.tenant = tenant ∧ l.lock = none) ∧ l.dirty ≠ 0 := by
  simp only [Core.dirtyLines, List.mem_filter, Bool.and_eq_true, decide_eq_true_eq, Option.isNone_iff_eq_none]
  tauto

theorem Core.mem_flushed : l ∈ k.flushed tenant drop ↔
    (∃ m ∈ k.l1, l = if m ∈ k.dirtyLines tenant then m.cleaned else m) ∧ (l.lock ≠ none ∨ l.valid ≠ 0) ∧
      ¬(drop = true ∧ l.tenant = tenant ∧ l.lock = none) := by
  have hvalid : (l.lock.isSome || l.valid != 0) = true ↔ l.lock ≠ none ∨ l.valid ≠ 0 := by
    rw [Bool.or_eq_true, Option.isSome_iff_ne_none, bne_iff_ne]
  have hdrop : (!(drop && decide (l.tenant = tenant) && l.lock.isNone)) = true ↔ ¬(drop = true ∧ l.tenant = tenant ∧ l.lock = none) := by
    simp only [Bool.not_eq_true', ← Bool.not_eq_true, Bool.and_eq_true, decide_eq_true_eq, Option.isNone_iff_eq_none, and_assoc]
  simp only [Core.flushed, List.mem_filter, hvalid, hdrop, List.mem_map, List.contains_iff_mem, @eq_comm _ _ l, and_assoc]

/-- No unlocked line of the tenant is dirty any more, and with `drop` none is there. -/
theorem Core.flushed_clean (hl : l ∈ k.flushed tenant drop) (ht : l.tenant = tenant) (hlock : l.lock = none) : l.dirty = 0 ∧ drop = false := by
  obtain ⟨⟨m, hm, rfl⟩, -, hd⟩ := Core.mem_flushed.1 hl
  refine ⟨?_, Bool.eq_false_iff.2 fun h => hd ⟨h, ht, hlock⟩⟩
  by_cases h : m ∈ k.dirtyLines tenant
  · rw [if_pos h]; rfl
  · rw [if_neg h] at ht hlock ⊢
    exact not_not.1 fun hdirty => h (Core.mem_dirtyLines.2 ⟨hm, ⟨ht, hlock⟩, hdirty⟩)

/-- Locked lines and those of other tenants stay as they are. -/
theorem Core.flushed_other (hl : l ∈ k.l1) (h : l.lock ≠ none ∨ (l.tenant ≠ tenant ∧ l.valid ≠ 0)) : l ∈ k.flushed tenant drop := by
  have hnot : l ∉ k.dirtyLines tenant := fun hm => by
    obtain ⟨-, ⟨ht, hlock⟩, -⟩ := Core.mem_dirtyLines.1 hm
    exact h.elim (· hlock) (·.1 ht)
  refine Core.mem_flushed.2 ⟨⟨l, hl, (if_neg hnot).symm⟩, h.imp_right (·.2), fun ⟨_, ht, hlock⟩ => ?_⟩
  exact h.elim (· hlock) (·.1 ht)

/-- Without `drop`, every byte that an unlocked line of the tenant holds stays. -/
theorem Core.flushed_holds {a : Nat} (hl : l ∈ k.l1) (ht : l.tenant = tenant) (hlock : l.lock = none) (ha : l.holds a) :
    ∃ l' ∈ k.flushed tenant false, (l'.tenant = tenant ∧ l'.lock = none) ∧ l'.holds a ∧ l'.byteAt a = l.byteAt a := by
  have hvalid : l.valid ≠ 0 := fun h0 => by
    obtain ⟨-, hbit⟩ := ha
    rw [h0] at hbit; simp at hbit
  refine ⟨if l ∈ k.dirtyLines tenant then l.cleaned else l, Core.mem_flushed.2 ⟨⟨l, hl, rfl⟩, .inr ?_, fun h => absurd h.1 Bool.false_ne_true⟩, ?_⟩
  · split
    · exact hvalid
    · exact hvalid
  · split
    · exact ⟨⟨ht, hlock⟩, ha, rfl⟩
    · exact ⟨⟨ht, hlock⟩, ha, rfl⟩

end

theorem State.flushTenant_eq {s : State} {c : Nat} {k : Core} (hk : s.core? c = some k) (by_ tenant : Nat) :
    let s1 := (s.writeBacks c by_ (k.dirtyLines tenant)).modL1 c (fun l => (k.dirtyLines tenant).contains l) L1Line.cleaned
    s.flushTenant c by_ tenant = (s1, s1.writesOn (fun r => r.core = c ∧ r.tenant = tenant)) := by
  simp only [State.flushTenant, hk]; rfl

/-- The state in which a tenant's lines on a core are flushed, and dropped where `drop` holds. -/
def State.flushes (s : State) (c by_ tenant : Nat) (drop : Bool) : State :=
  if drop then (s.flushTenant c by_ tenant).1.dropTenant c tenant else (s.flushTenant c by_ tenant).1

section
variable {s : State} {c : Nat} {k : Core} (hk : s.core? c = some k) (by_ tenant : Nat) (drop : Bool)
include hk

theorem State.core?_flushes : (s.flushes c by_ tenant drop).core? c = some { k with l1 := k.flushed tenant drop } := by
  rw [State.flushes, State.flushTenant_eq hk]
  have hk1 := ((SendsOnly.writeBacks s c by_ (k.dirtyLines tenant)).core? c).trans hk
  cases drop with
  | false =>
    rw [if_neg Bool.false_ne_true, State.modL1, State.core?_modCore, if_pos rfl, hk1]
    simp [Core.flushed]
  | true =>
    rw [if_pos rfl, State.dropTenant, State.core?_modCore, if_pos rfl, State.modL1, State.core?_modCore, if_pos rfl, hk1]
    simp [Core.flushed]

/-- Beside the core's lines, flushing changes requests and what comes due. -/
theorem State.flushes_eq : s.flushes c by_ tenant drop = { s with
    cores := (s.flushes c by_ tenant drop).cores, caldera := (s.writeBacks c by_ (k.dirtyLines tenant)).caldera,
    pending := (s.writeBacks c by_ (k.dirtyLines tenant)).pending } := by
  have h : s.flushes c by_ tenant drop =
      { s.writeBacks c by_ (k.dirtyLines tenant) with cores := (s.flushes c by_ tenant drop).cores } := by
    cases drop <;> rw [State.flushes, State.flushTenant_eq hk] <;> rfl
  refine h.trans ?_
  rw [(SendsOnly.writeBacks s c by_ (k.dirtyLines tenant)).state]

theorem State.mem_flushes : (s.flushes c by_ tenant drop).mem = s.mem := by rw [State.flushes_eq hk]

/-- Where no line is dirty, flushing sends nothing. -/
theorem State.caldera_flushes (hclean : k.dirtyLines tenant = []) : (s.flushes c by_ tenant drop).caldera = s.caldera := by
  rw [State.flushes_eq hk, hclean]; rfl

theorem State.flushTenant_writes :
    (s.flushTenant c by_ tenant).2 = (s.flushes c by_ tenant drop).writesOn (fun r => r.core = c ∧ r.tenant = tenant) := by
  cases drop <;> rw [State.flushes, State.flushTenant_eq hk] <;> rfl

theorem State.carries_flushes {l : L1Line} (hl : l ∈ k.dirtyLines tenant) : (s.flushes c by_ tenant drop).carries c by_ l := by
  rw [State.flushes_eq hk]
  exact State.carries_writeBacks hl (Core.mem_dirtyLines.1 hl).2.2

end

/-- Flushing keeps every warp. -/
theorem State.warp?_flushes {s : State} {c : Nat} {k : Core} (hk : s.core? c = some k) (by_ tenant : Nat) (drop : Bool) (p : Nat) :
    (s.flushes c by_ tenant drop).warp? c p = s.warp? c p := by
  rw [State.warp?, State.core?_flushes hk, State.warp?, hk]; rfl

theorem l1Eff_runs {i : Instr} {late : Ctx → State → Late} {s : State} {g : Selected} {w : Warp} (hr : Runs i s g w late)
    (hl : (s.seenBy i g w).lanes ≠ []) (drop : Bool) :
    let x := s.seenBy i g w
    let ids := (s.begun.flushTenant x.core x.slot x.w.tenant).2
    l1Eff drop x s.begun = ((s.begun.flushes x.core x.slot x.w.tenant drop).ackAll ids).endsBy x (ids = []) .acks { stage := stCache, acks := ids } := by
  intro x ids
  have hstage : x.prog.stage = 0 := Runs.stage hr
  have hl' : x.lanes.isEmpty = false := by simpa [List.isEmpty_iff] using hl
  have hwait : l1Eff drop x s.begun = cctlWait x ids [] (fun s => (id s).complete x) (s.begun.flushes x.core x.slot x.w.tenant drop) := by
    simp [l1Eff, hstage, hl', stCache, State.flushes, ids]
  rw [hwait, cctlWait_eq]
  by_cases h : ids = []
  · rw [if_pos h, h, State.ackAll_nil]; rfl
  · rw [if_neg h]

/-- What CCTL.l1wb and, with `drop`, CCTL.l1inv come to on a core `k`. -/
structure LevelFlushed (x : Ctx) (s : State) (k : Core) (drop : Bool) (t : State) (w' : Warp) (k' : Core) : Prop where
  warp  : t.warp? x.core x.slot = some w'
  core  : t.core? x.core = some k'
  mem   : t.mem = s.mem
  lanes : w'.lanes = x.w.lanes
  scalar : w'.s = x.w.s
  sent  : ∀ l ∈ k.dirtyLines x.w.tenant, t.carries x.core x.slot l
  l1    : k'.l1 = k.flushed x.w.tenant drop
  goes  : k.dirtyLines x.w.tenant = [] → s.writesOn (fun r => r.core = x.core ∧ r.tenant = x.w.tenant) = [] → GroupGoes x w' x.next
  waits : k.dirtyLines x.w.tenant ≠ [] → ∀ y ∈ w'.groups, y.mask = x.mask → y.hold = .acks

theorem LevelFlushed.of_endsBy {s : State} {x : Ctx} {k : Core} (hk : s.core? x.core = some k) (hw : s.warp? x.core x.slot = some x.w)
    (hi : x.i.isCommit = false) (drop : Bool) :
    let ids := (s.flushTenant x.core x.slot x.w.tenant).2
    ∃ w' k', LevelFlushed x s k drop
      (((s.flushes x.core x.slot x.w.tenant drop).ackAll ids).endsBy x (ids = []) .acks { stage := stCache, acks := ids }) w' k' := by
  intro ids
  have hids := State.flushTenant_writes hk x.slot x.w.tenant drop
  have hw : ((s.flushes x.core x.slot x.w.tenant drop).ackAll ids).warp? x.core x.slot = some x.w :=
    (State.warp?_flushes hk x.slot x.w.tenant drop x.slot).trans hw
  have hcarries {l : L1Line} (h : l ∈ k.dirtyLines x.w.tenant) := State.carries_flushes hk x.slot x.w.tenant drop h
  obtain ⟨w', hw', hends, hlanes, hs, hgoes, hwaits⟩ := State.endsBy_spec hw hi (ids = []) .acks { stage := stCache, acks := ids }
  obtain ⟨k', hk', hkeep⟩ := hends.cores _ _ (State.core?_flushes hk x.slot x.w.tenant drop)
  refine ⟨w', k', hw', hk', hends.mem.trans (State.mem_flushes hk ..), hlanes, hs, fun l hl => hends.carries ((hcarries hl).ackAll ids),
    by rw [hkeep], fun hclean hnone => ?_, fun hdirty => hwaits ?_⟩
  · rw [hgoes (hids.trans ((State.writesOn_of_caldera (State.caldera_flushes hk x.slot x.w.tenant drop hclean) _).trans hnone))]
    exact .finished ..
  · obtain ⟨l, hl⟩ := List.exists_mem_of_ne_nil _ hdirty
    obtain ⟨-, ⟨ht, -⟩, -⟩ := Core.mem_dirtyLines.1 hl
    exact hids.trans_ne ((hcarries hl).writesOn ⟨rfl, ht⟩)

/-! ## What an eviction leaves of the cores: all but the collapses that warps wait for (R262, R264) -/

def Warp.uncounted (w : Warp) : Warp := { w with collapses := 0 }
def Core.uncounted (k : Core) : Core := { k with warps := k.warps.map (fun v => (v.1, v.2.uncounted)) }
/-- The cores, without the collapses that their warps wait for. -/
def State.uncounted (s : State) : SMap Core := s.cores.map (fun e => (e.1, e.2.uncounted))

theorem SMap.map_modify {α β : Type} {f : α → α} {g : α → β} (hf : ∀ v, g (f v) = g v) (j : Nat) (m : SMap α) :
    (SMap.modify j f m).map (fun e => (e.1, g e.2)) = m.map (fun e => (e.1, g e.2)) := by
  induction m with
  | nil => rfl
  | cons a t ih =>
    obtain ⟨k, v⟩ := a
    rw [SMap.modify]
    split
    · rw [List.map_cons, List.map_cons, hf]
    · rw [List.map_cons, List.map_cons, ih]

theorem uncounted_foldl {α : Type} {f : State → α → State} (hf : ∀ s a, (f s a).uncounted = s.uncounted) (l : List α) (s : State) :
    (l.foldl f s).uncounted = s.uncounted := by
  induction l generalizing s with
  | nil => rfl
  | cons a t ih => rw [List.foldl_cons, ih, hf]

section
variable (s : State)

@[simp] theorem uncounted_push (e : Instr) : (s.push e).uncounted = s.uncounted := rfl
@[simp] theorem uncounted_modBank (b : Nat) (f : Bank → Bank) : (s.modBank b f).uncounted = s.uncounted := rfl
@[simp] theorem uncounted_modDir (line : Nat) (f : DirLine → DirLine) : (s.modDir line f).uncounted = s.uncounted := rfl
@[simp] theorem uncounted_resend (l : List Nat) : (s.resend l).uncounted = s.uncounted := rfl

theorem uncounted_modWarp (c p : Nat) {f : Warp → Warp} (hf : ∀ w, (f w).uncounted = w.uncounted) : (s.modWarp c p f).uncounted = s.uncounted := by
  refine SMap.map_modify (g := Core.uncounted) ?_ c s.cores
  exact fun k => congrArg (fun l => { k with warps := l }) (SMap.map_modify hf p k.warps)

@[simp] theorem uncounted_pushOnce (e : Instr) : (s.pushOnce e).uncounted = s.uncounted := by rw [State.pushOnce_eq]; rfl

theorem uncounted_notify (line : Nat) : (s.notify line).uncounted = s.uncounted := by
  rw [State.notify]
  split
  · exact uncounted_foldl (fun s c => uncounted_push s _) _ s
  · rfl

theorem uncounted_useRemap (ch : Nat) : (s.useRemap ch).uncounted = s.uncounted := by
  rw [State.useRemap]
  generalize (s.hbm.channel ch).vote = v
  obtain ⟨c, n, bad⟩ := v
  dsimp only
  split
  · rw [uncounted_pushOnce]; split <;> rfl
  · split <;> rfl

theorem uncounted_drain (ch : Nat) : (s.drain ch).uncounted = s.uncounted := by
  simp only [State.drain]
  split
  · rfl
  · refine (uncounted_foldl (fun s e => ?_) _ _).trans (uncounted_useRemap s ch)
    split
    · rfl
    · rw [uncounted_pushOnce]; rfl

theorem uncounted_toHbm (line : Nat) (sectors : NSet) : (s.toHbm line sectors).uncounted = s.uncounted := by
  simp only [State.toHbm, uncounted_pushOnce]
  split
  · exact uncounted_drain ..
  · rfl

theorem uncounted_owe (c : Nat) (l : NSet) (n : Int) : (s.owe c l n).uncounted = s.uncounted := by
  refine uncounted_foldl (fun s m => uncounted_modWarp s c (m % 64) fun w => ?_) l s
  split <;> rfl

theorem uncounted_tellWriters (line : Nat) : (s.tellWriters line).uncounted = s.uncounted := by
  rw [State.tellWriters]
  split
  · rw [uncounted_modDir]
    exact uncounted_foldl (fun s w => uncounted_owe s ..) _ s
  · rfl

theorem uncounted_evictLine (line : Nat) : (s.evictLine line).uncounted = s.uncounted := by
  simp only [State.evictLine]
  split
  · rfl
  · rw [uncounted_resend]
    refine (uncounted_foldl (fun s g => uncounted_modBank s g _) _ _).trans ((uncounted_tellWriters ..).trans ?_)
    split
    · exact uncounted_notify ..
    · split
      · exact uncounted_notify ..
      · exact (uncounted_toHbm ..).trans (uncounted_notify ..)

end

/-- States with the same uncounted cores have the same cores but for their warps. -/
theorem State.core?_of_uncounted {s t : State} (h : t.uncounted = s.uncounted) {c : Nat} {k : Core} (hk : s.core? c = some k) :
    ∃ k', t.core? c = some k' ∧ k'.uncounted = k.uncounted := by
  have hget (u : State) : SMap.get? c u.uncounted = (u.core? c).map Core.uncounted := SMap.get?_map_value (fun _ => Core.uncounted) c u.cores
  have hc : (t.core? c).map Core.uncounted = some k.uncounted := by rw [← hget, h, hget, hk]; rfl
  exact Option.map_eq_some_iff.1 hc

/-- States with the same uncounted cores have the same warps but for the collapses that they wait for. -/
theorem State.warp?_of_uncounted {s t : State} (h : t.uncounted = s.uncounted) {c p : Nat} {w : Warp} (hw : s.warp? c p = some w) :
    ∃ n, t.warp? c p = some { w with collapses := n } := by
  obtain ⟨k, hk, hkw⟩ := State.core?_of_warp? hw
  obtain ⟨k', hk', heq⟩ := State.core?_of_uncounted h hk
  have hget (j : Core) : SMap.get? p j.uncounted.warps = (SMap.get? p j.warps).map Warp.uncounted :=
    SMap.get?_map_value (fun _ => Warp.uncounted) p j.warps
  have hv : (SMap.get? p k'.warps).map Warp.uncounted = some w.uncounted := by rw [← hget, heq, hget, hkw]; rfl
  obtain ⟨v, hv, hvw⟩ := Option.map_eq_some_iff.1 hv
  have hwarp : v = { w with collapses := v.collapses } := by
    have h1 : v = { v.uncounted with collapses := v.collapses } := rfl
    rw [hvw] at h1; exact h1
  exact ⟨v.collapses, by rw [State.warp?, hk', Option.bind_some, hv, ← hwarp]⟩

/-- A line that is evicted has no primary copy any more. -/
theorem State.dir?_evictLine (s : State) (line : Nat) : (s.evictLine line).dir? line = none := by
  rw [State.evictLine]
  split
  case h_1 h => exact h
  case h_2 => exact (SMap.get?_del line line _).trans (if_pos rfl)

/-! ## One line goes (R411) -/

/-- The lines of a core without a tenant's unlocked copies of one. -/
def Core.withoutCopy (k : Core) (tenant line : Nat) : List L1Line := k.l1.filter (fun l => !l.isCopy tenant line)

theorem Core.mem_withoutCopy {k : Core} {tenant line : Nat} {l : L1Line} :
    l ∈ k.withoutCopy tenant line ↔ l ∈ k.l1 ∧ ¬(l.line = line ∧ l.tenant = tenant ∧ l.lock = none) := by
  have hcopy : (!l.isCopy tenant line) = true ↔ ¬(l.line = line ∧ l.tenant = tenant ∧ l.lock = none) := by
    simp only [L1Line.isCopy, Bool.not_eq_true', ← Bool.not_eq_true, Bool.and_eq_true, decide_eq_true_eq, Option.isNone_iff_eq_none, and_assoc]
  rw [Core.withoutCopy, List.mem_filter, hcopy]

section
variable {s : State} {c : Nat} {k : Core} (hk : s.core? c = some k) (by_ tenant line : Nat)

theorem State.lineBack_of_some {l : L1Line} (h : s.l1Find c tenant line = some l) : (s.lineBack c by_ tenant line).1 =
    (s.writeBack c by_ l true).1.modCore c (fun k => { k with l1 := k.withoutCopy tenant line }) := by
  simp only [State.lineBack, h]; rfl

theorem State.lineBack_of_none (h : s.l1Find c tenant line = none) : (s.lineBack c by_ tenant line).1 = s := by
  simp only [State.lineBack, h]

include hk

theorem State.core?_lineBack : (s.lineBack c by_ tenant line).1.core? c = some { k with l1 := k.withoutCopy tenant line } := by
  cases h : s.l1Find c tenant line with
  | some l => rw [State.lineBack_of_some by_ tenant line h, State.core?_modCore, if_pos rfl, SendsOnly.writeBack.core?, hk]; rfl
  | none =>
    rw [State.l1Find, hk] at h
    have hall : k.withoutCopy tenant line = k.l1 := List.filter_eq_self.2 fun l hl => by
      simpa using List.find?_eq_none.1 h l hl
    rw [State.lineBack_of_none by_ tenant line (by rw [State.l1Find, hk]; exact h), hk, hall]

theorem State.warp?_lineBack (p : Nat) : (s.lineBack c by_ tenant line).1.warp? c p = s.warp? c p := by
  rw [State.warp?, State.core?_lineBack hk, State.warp?, hk]; rfl

omit hk

theorem State.mem_lineBack : (s.lineBack c by_ tenant line).1.mem = s.mem := by
  cases h : s.l1Find c tenant line with
  | some l => rw [State.lineBack_of_some by_ tenant line h, State.modCore, SendsOnly.writeBack.state]
  | none => rw [State.lineBack_of_none by_ tenant line h]

theorem State.carries_lineBack {l : L1Line} (h : s.l1Find c tenant line = some l) (hd : l.dirty ≠ 0) :
    (s.lineBack c by_ tenant line).1.carries c by_ l := by
  rw [State.lineBack_of_some by_ tenant line h]
  exact State.carries_writeBack hd

/-- A line that is clean, or not there, sends nothing. -/
theorem State.lineBack_clean (h : ∀ l, s.l1Find c tenant line = some l → l.dirty = 0) :
    Off False s (s.lineBack c by_ tenant line).1 := by
  refine ⟨?_, False.elim⟩
  cases hl : s.l1Find c tenant line with
  | some l => rw [State.lineBack_of_some by_ tenant line hl, State.writeBack_clean (h l hl)]; rfl
  | none => rw [State.lineBack_of_none by_ tenant line hl]

end

theorem Off.mayEvict {b : Prop} {s t : State} (h : Off b s t) (line : Nat) : t.mayEvict line = s.mayEvict line := by
  simp only [State.mayEvict, h.dir?, h.trackedLine, h.modul]

/-- The pages that an instruction uses leave memory as it is. -/
theorem State.mem_keepPages (s : State) (x : Ctx) (vas : List Nat) : (s.keepPages x vas).mem = s.mem :=
  mem_of_outside (outside_foldl (fun s v => outside_usePage s x.core x.w.tenant (v * 2 ^ 17)) _ s)

/-! ## The effect of CCTL.linewb and CCTL.evict -/

/-- The state in which a line has been written back and dropped, its writes awaited or, without any, the line evicted where it may be. -/
def State.lineGone (s : State) (x : Ctx) (line : Nat) (evict : Bool) : State :=
  let r := s.lineBack x.core x.slot x.w.tenant line
  if r.2 = [] then (if evict then r.1.evictIfMay line else r.1) else r.1.ackAll r.2

theorem lineEff_runs {i : Instr} {late : Ctx → State → Late} {s : State} {g : Selected} {w : Warp} (hr : Runs i s g w late)
    (hl : (s.seenBy i g w).lanes ≠ []) (evict : Bool) {pa : Nat} {pte : DWord}
    (hpa : s.begun.translate g.core w.tenant ((s.seenBy i g w).a 2 scalarLane) .read w.special.priv = .ok pa pte) :
    let x := s.seenBy i g w
    let s1 := s.begun.keepPages x [x.a 2 scalarLane]
    let ids := (s1.lineBack x.core x.slot x.w.tenant (lineOf pa)).2
    lineEff evict x s.begun = (s1.lineGone x (lineOf pa) evict).endsBy x (ids = []) .acks { stage := stCache, acks := ids, vals := [lineOf pa] } := by
  intro x s1 ids
  have hstage : x.prog.stage = 0 := Runs.stage hr
  obtain ⟨low, rest, hlow⟩ := List.exists_cons_of_ne_nil (show x.lanes ≠ [] from hl)
  have hpa : s.begun.translate x.core x.w.tenant (x.a 2 scalarLane) .read x.w.special.priv = .ok pa pte := hpa
  have hwait : lineEff evict x s.begun = cctlWait x ids [lineOf pa] (fun s => (if evict then s.evictIfMay (lineOf pa) else s).complete x)
      (s1.lineBack x.core x.slot x.w.tenant (lineOf pa)).1 := by
    simp only [lineEff, hstage, hlow, hpa]; rfl
  rw [hwait, cctlWait_eq x ids [lineOf pa] (fun s => if evict then s.evictIfMay (lineOf pa) else s)]
  rfl

section
variable {s : State} {x : Ctx} {line : Nat} {evict : Bool}

theorem State.lineGone_cases : s.lineGone x line evict = (s.lineBack x.core x.slot x.w.tenant line).1.evictLine line ∨
    s.lineGone x line evict = (s.lineBack x.core x.slot x.w.tenant line).1.ackAll (s.lineBack x.core x.slot x.w.tenant line).2 := by
  rw [State.lineGone, State.evictIfMay]
  split
  case isTrue h =>
    rw [h, State.ackAll_nil]
    split
    · split
      · exact .inl rfl
      · exact .inr rfl
    · exact .inr rfl
  case isFalse => exact .inr rfl

theorem State.mem_lineGone : (s.lineGone x line evict).mem = s.mem := by
  rcases State.lineGone_cases (s := s) (x := x) (line := line) (evict := evict) with h | h <;> rw [h]
  · exact (mem_of_outside (outside_evictLine ..)).trans (State.mem_lineBack ..)
  · exact State.mem_lineBack ..

theorem State.uncounted_lineGone : (s.lineGone x line evict).uncounted = (s.lineBack x.core x.slot x.w.tenant line).1.uncounted := by
  rcases State.lineGone_cases (s := s) (x := x) (line := line) (evict := evict) with h | h <;> rw [h]
  · exact uncounted_evictLine ..
  · rfl

theorem State.lineGone_waits (h : (s.lineBack x.core x.slot x.w.tenant line).2 ≠ []) :
    s.lineGone x line evict = (s.lineBack x.core x.slot x.w.tenant line).1.ackAll (s.lineBack x.core x.slot x.w.tenant line).2 := by
  rw [State.lineGone, if_neg h]

theorem State.lineGone_evicts (h : (s.lineBack x.core x.slot x.w.tenant line).2 = [])
    (hmay : (s.lineBack x.core x.slot x.w.tenant line).1.mayEvict line = true) :
    (s.lineGone x line true).dir? line = none := by
  rw [State.lineGone, if_pos h, if_pos rfl, State.evictIfMay, if_pos hmay, State.dir?_evictLine]

theorem State.lineGone_keeps (h : (s.lineBack x.core x.slot x.w.tenant line).2 = [])
    (hmay : evict = false ∨ (s.lineBack x.core x.slot x.w.tenant line).1.mayEvict line = false) :
    s.lineGone x line evict = (s.lineBack x.core x.slot x.w.tenant line).1 := by
  rw [State.lineGone, if_pos h, State.evictIfMay]
  rcases hmay with rfl | hmay
  · rfl
  · simp [hmay]

end

/-- The group goes on also where its warp's collapses have changed before. -/
theorem GroupGoes.finished_of_collapses (x : Ctx) (n pc : Nat) : GroupGoes x ({ x.w with collapses := n }.finished x pc) pc :=
  let h := GroupGoes.finished { x with w := { x.w with collapses := n } } pc
  ⟨h.slices, h.groups⟩

theorem State.l1Find_some {s : State} {c tenant line : Nat} {l : L1Line} (h : s.l1Find c tenant line = some l) :
    l.line = line ∧ l.tenant = tenant := by
  obtain ⟨k, -, hl⟩ := Option.bind_eq_some_iff.1 h
  have hcopy := List.find?_some (p := fun l => L1Line.isCopy l tenant line) hl
  simp only [L1Line.isCopy, Bool.and_eq_true, decide_eq_true_eq] at hcopy
  exact hcopy.1

/-- What CCTL.linewb and, with `evict`, CCTL.evict come to for a line, from the state `s` on and on its core `k`. -/
structure LineFlushed (x : Ctx) (s : State) (k : Core) (line : Nat) (evict : Bool) (t : State) (w' : Warp) (k' : Core) : Prop where
  warp   : t.warp? x.core x.slot = some w'
  core   : t.core? x.core = some k'
  mem    : t.mem = s.mem
  lanes  : w'.lanes = x.w.lanes
  scalar : w'.s = x.w.s
  l1     : k'.l1 = k.withoutCopy x.w.tenant line
  sent   : ∀ l, s.l1Find x.core x.w.tenant line = some l → l.dirty ≠ 0 →
    t.carries x.core x.slot l ∧ ∀ y ∈ w'.groups, y.mask = x.mask → y.hold = .acks
  goes   : (∀ l, s.l1Find x.core x.w.tenant line = some l → l.dirty = 0) →
    s.writesOn (fun r => r.core = x.core ∧ r.tenant = x.w.tenant ∧ r.line = line) = [] → GroupGoes x w' x.next ∧
      (evict = true → s.mayEvict line = true → t.dir? line = none) ∧
      (evict = false ∨ s.mayEvict line = false → t.caldera.lines = s.caldera.lines)

theorem LineFlushed.of_endsBy {s : State} {x : Ctx} {k : Core} (hk : s.core? x.core = some k) (hw : s.warp? x.core x.slot = some x.w)
    (hi : x.i.isCommit = false) (line : Nat) (evict : Bool) :
    let ids := (s.lineBack x.core x.slot x.w.tenant line).2
    ∃ w' k', LineFlushed x s k line evict
      ((s.lineGone x line evict).endsBy x (ids = []) .acks { stage := stCache, acks := ids, vals := [line] }) w' k' := by
  intro ids
  have hcores := State.uncounted_lineGone (s := s) (x := x) (line := line) (evict := evict)
  obtain ⟨n, hw⟩ := State.warp?_of_uncounted hcores ((State.warp?_lineBack hk x.slot x.w.tenant line x.slot).trans hw)
  obtain ⟨k2, hk2, hsame⟩ := State.core?_of_uncounted hcores (State.core?_lineBack hk x.slot x.w.tenant line)
  obtain ⟨w', hw', hends, hlanes, hs, hgoes, hwaits⟩ :=
    State.endsBy_spec hw hi (ids = []) .acks { stage := stCache, acks := ids, vals := [line] }
  obtain ⟨k', hk', hkeep⟩ := hends.cores _ _ hk2
  have hl1 : k'.l1 = k.withoutCopy x.w.tenant line := by rw [hkeep]; exact congrArg Core.l1 hsame
  refine ⟨w', k', hw', hk', hends.mem.trans State.mem_lineGone, hlanes, hs, hl1, fun l hfind hd => ?_, fun hclean hnone => ?_⟩
  · have hcarries := State.carries_lineBack x.slot x.w.tenant line hfind hd
    obtain ⟨hline, ht⟩ := State.l1Find_some hfind
    have hids : ids ≠ [] := hcarries.writesOn (p := fun r => r.core = x.core ∧ r.tenant = x.w.tenant ∧ r.line = line) ⟨rfl, ht, hline⟩
    refine ⟨hends.carries ?_, hwaits hids⟩
    rw [State.lineGone_waits hids]
    exact hcarries.ackAll ids
  · have hoff := State.lineBack_clean x.slot x.w.tenant line hclean
    have hids : ids = [] := (State.writesOn_of_caldera hoff.caldera _).trans hnone
    refine ⟨?_, ?_, fun hmay => ?_⟩
    · rw [hgoes hids]; exact .finished_of_collapses ..
    · rintro rfl hmay
      rw [State.dir?, hends.caldera]
      exact State.lineGone_evicts hids ((hoff.mayEvict line).trans hmay)
    · rw [hends.caldera, State.lineGone_keeps hids (hmay.imp_right ((hoff.mayEvict line).trans ·)), hoff.caldera]

/-! ## CCTL.icinv (R93) -/

/-- The instruction cache of a core is empty. -/
def State.icacheLost (s : State) (c : Nat) : State := s.modCore c (fun k => { k with icache := [] })

theorem State.warp?_icacheLost (s : State) (c d p : Nat) : (s.icacheLost c).warp? d p = s.warp? d p := by
  refine State.warp?_modCore s c d p ?_
  exact fun _ => rfl

theorem State.core?_icacheLost (s : State) (c d : Nat) :
    (s.icacheLost c).core? d = (s.core? d).map (fun k => { k with icache := if d = c then [] else k.icache }) := by
  rw [State.icacheLost, State.core?_modCore]
  split
  · rfl
  · simp

theorem icinvEff_eq (x : Ctx) (s : State) : icinvEff x s = (if x.lanes = [] then s else s.icacheLost x.core).complete x := by
  simp only [icinvEff, List.isEmpty_iff]
  split <;> rfl

/-- What CCTL.icinv comes to: its warp goes on, and beside warps and quadrants only its core's instruction cache changes. -/
theorem icinvEff_spec {s : State} {x : Ctx} (hw : s.warp? x.core x.slot = some x.w) :
    (icinvEff x s).warp? x.core x.slot = some (x.w.finished x x.next) ∧
      icinvEff x s = { s with cores := (icinvEff x s).cores, pending := (icinvEff x s).pending } ∧
      ∀ c k, s.core? c = some k → ∃ k', (icinvEff x s).core? c = some k' ∧ k' = { k with
        warps := k'.warps, quads := k'.quads, icache := if c = x.core ∧ x.lanes ≠ [] then [] else k.icache } := by
  rw [icinvEff_eq]
  by_cases hl : x.lanes = []
  · rw [if_pos hl]
    simp only [hl, ne_eq, not_true_eq_false, and_false, if_false]
    exact ⟨(Rewrites.completeAt x.next hw).1, (Ends.complete hw).state, (Ends.complete hw).cores⟩
  · rw [if_neg hl]
    simp only [hl, ne_eq, not_false_eq_true, and_true]
    have hw1 : (s.icacheLost x.core).warp? x.core x.slot = some x.w := (State.warp?_icacheLost ..).trans hw
    refine ⟨(Rewrites.completeAt x.next hw1).1, (Ends.complete hw1).state, fun c k hk => ?_⟩
    exact (Ends.complete hw1).cores c _ (by rw [State.core?_icacheLost, hk]; rfl)

end Sys2Proof.Machine

/-! # TLBINV and CCTL (R93, R411, R412) -/

namespace Sys2Proof

open Machine

/-- Settles O46: each effect, from the state in which it begins, does what its structure above names. -/
theorem cacheAndTlb : Obligations.CacheAndTlb := by
  unfold Obligations.CacheAndTlb
  intro f writes sent invalidates line level
  have sent_of {t : State} {c by_ : Nat} {l : L1Line} (h : t.carries c by_ l) : sent t c l := by
    obtain ⟨id, -, hr, hp⟩ := h
    exact ⟨id, _, false, hr, rfl, rfl, rfl, rfl, rfl, fun b hb => l.get?_dirtyCells hb, hp⟩
  have tlbinv {i : Instr} {late : Ctx → State → Late} {tenant : Ctx → Nat} {gone : Ctx → TlbEntry → Bool} (vals : Ctx → List Nat)
      (ten : List Nat → Nat) (which : List Nat → TlbEntry → Bool) (hex : ∀ s, exec i s = issue i late (tlbinvEff vals ten which) s)
      (hi : i.isCommit = false) (hten : ∀ x, ten (vals x) = tenant x) (hwhich : ∀ x, which (vals x) = gone x) :
      invalidates i late tenant gone := by
    intro s g w hr x used through
    have hnext := (hex s).trans (issue_of_clear hr.1 hr.2)
    refine ⟨fun hl => Reaches.of_complete hr hi (hnext.trans (congrArg _ (tlbinvEff_idle hr vals ten which hl))), fun hl hn => ?_⟩
    have hnext := hnext.trans (congrArg _ (tlbinvEff_runs hr vals ten which hl hn))
    rw [hten, hwhich] at hnext
    obtain ⟨w', h⟩ := Invalidates.of_endsBy (s := s) (x := x) hr.1.2 hi (gone x) (tenant x)
    exact ⟨_, w', hnext, h.warp, h.mem, h.lanes, h.scalar, h.caches, h.cores,
      fun hcores hchecks => h.goes (State.waitedFor_eq_nil hcores hchecks), h.waits⟩
  have cctl {i : Instr} {drop : Bool} (hex : ∀ s, exec i s = issue i noLate (l1Eff drop) s) (hi : i.isCommit = false) : level i drop := by
    intro s g w k hr hk x mine hl
    have hnext := (hex s).trans ((issue_of_clear hr.1 hr.2).trans (congrArg _ (l1Eff_runs hr hl drop)))
    obtain ⟨w', k', h⟩ := LevelFlushed.of_endsBy (s := s.begun) (x := x) hk hr.1.2 hi drop
    refine ⟨_, w', k', hnext, h.warp, h.core, h.mem, h.lanes, h.scalar, fun l hm hmine hd => sent_of (h.sent l (Core.mem_dirtyLines.2 ⟨hm, hmine, hd⟩)),
      ?_, ?_, ?_, fun hclean hnone => h.goes (List.eq_nil_iff_forall_not_mem.2 fun l hm => ?_) ?_, ?_⟩
    · rw [h.l1]; exact fun l hm hmine => Core.flushed_clean hm hmine.1 hmine.2
    · rw [h.l1]; exact fun l hm hother => Core.flushed_other hm hother
    · rw [h.l1]; rintro rfl l hm hmine a ha
      exact Core.flushed_holds hm hmine.1 hmine.2 ha
    · obtain ⟨hin, hmine, hd⟩ := Core.mem_dirtyLines.1 hm
      exact hd (hclean l hin hmine)
    · exact State.writesOn_eq_nil fun e he rel hrel hp => hnone ⟨e, he, rel, hrel, hp.1, hp.2, fun _ h => nomatch h⟩
    · rintro ⟨l, hm, hmine, hd⟩
      exact h.waits (List.ne_nil_of_mem (Core.mem_dirtyLines.2 ⟨hm, hmine, hd⟩))
  have cctlLine {i : Instr} {evict : Bool} (hex : ∀ s, exec i s = issue i noLate (lineEff evict) s) (hi : i.isCommit = false) : line i evict := by
    rintro s g w k pa pte s1 hr x hl hpa ⟨hpages, hpaged⟩ hk
    have hnext := (hex s).trans ((issue_of_clear hr.1 hr.2).trans (congrArg _ (lineEff_runs hr hl evict hpa)))
    rw [← show s1 = s.begun.keepPages (s.seenBy i g w) [(s.seenBy i g w).a 2 scalarLane] from hpages] at hnext
    obtain ⟨w', k', h⟩ := LineFlushed.of_endsBy (x := x) hk (hpaged.trans hr.1.2) hi (lineOf pa) evict
    refine ⟨_, w', k', hnext, h.warp, h.core, h.mem.trans (hpages ▸ State.mem_keepPages ..), h.lanes, h.scalar, ?_, ?_,
      fun l hfind hd => (h.sent l hfind hd).imp_left sent_of, fun hclean hnone => h.goes hclean ?_⟩
    · rw [h.l1]; exact fun l hm hline ht hlock => (Core.mem_withoutCopy.1 hm).2 ⟨hline, ht, hlock⟩
    · rw [h.l1]; exact fun l hm hline => Core.mem_withoutCopy.2 ⟨hm, fun h => hline h.1⟩
    · exact State.writesOn_eq_nil fun e he rel hrel hp => hnone ⟨e, he, rel, hrel, hp.1, hp.2.1, fun _ h => hp.2.2.trans (Option.some.inj h)⟩
  refine ⟨?_, ?_, ?_, ?_, cctl (fun _ => rfl) rfl, cctl (fun _ => rfl) rfl, cctlLine (fun _ => rfl) rfl, cctlLine (fun _ => rfl) rfl⟩
  · exact tlbinv (fun x => [x.w.tenant, x.a 2 scalarLane]) (valAt · 0) (fun v e => e.covers (valAt v 0) (valAt v 1)) (fun _ => rfl) rfl
      (fun _ => rfl) (fun _ => rfl)
  · exact tlbinv (fun x => [x.w.tenant]) (valAt · 0) (fun v e => decide (e.tenant = valAt v 0)) (fun _ => rfl) rfl (fun _ => rfl) (fun _ => rfl)
  · exact tlbinv (fun x => [x.b 1 scalarLane]) (valAt · 0) (fun v e => decide (e.tenant = valAt v 0)) (fun _ => rfl) rfl (fun _ => rfl)
      (fun _ => rfl)
  · intro s g w hr x
    obtain ⟨hw', hstate, hcores⟩ := icinvEff_spec (s := s.begun) (x := x) hr.1.2
    exact ⟨_, _, issue_of_clear hr.1 hr.2, hw', .finished rfl _, .finished .., (Warp.finished_parts ..).2.1, hstate, hcores⟩

end Sys2Proof

/-! # Results for the scalar path, and an instruction that changes its warp further (R98, R100, R102, R107 to R109) -/

namespace Sys2Proof.Machine

/-! ## What the checks of R106 have settled -/

/-- An instruction that issues raises no Illegal Operand. -/
theorem Runs.illegalOperand {i : Instr} {s : State} {g : Selected} {w : Warp} {late : Ctx → State → Late} (h : Runs i s g w late) :
    i.sig.illegalOperand i.fields = false := by
  have hc := h.2
  simp only [State.clear, Bool.and_eq_true] at hc
  obtain ⟨⟨⟨⟨-, hf⟩, -⟩, -⟩, -⟩ := hc
  rw [Option.isNone_iff_eq_none, Ctx.uniformFault] at hf
  by_contra ho
  rw [Bool.not_eq_false] at ho
  simp only [State.seenBy, ho, Bool.true_or, if_true] at hf
  split at hf <;> cases hf

/-- A destination that must not be a vector register is a scalar one, or discards (R98, R102). -/
theorem Runs.le_dst {i : Instr} {s : State} {g : Selected} {w : Warp} {late : Ctx → State → Late} (h : Runs i s g w late) {r : RegUse}
    (hd : i.sig.dst = .reg r) (hv : r.vec = false) : 192 ≤ i.fields.dst.toNat := by
  have ho := h.illegalOperand
  simp only [Sig.illegalOperand, Bool.or_eq_false_iff] at ho
  obtain ⟨⟨⟨⟨⟨-, hw⟩, -⟩, -⟩, -⟩, -⟩ := ho
  simp only [hd, Use.wrongOperand, RegUse.wrong, hv, Bool.not_false, Bool.true_or] at hw
  by_contra hlt
  rw [if_pos (by omega)] at hw
  cases hw

/-- A destination that must not be a scalar register is none (R102). -/
theorem Runs.not_scalar_dst {i : Instr} {s : State} {g : Selected} {w : Warp} {late : Ctx → State → Late} (h : Runs i s g w late) {r : RegUse}
    (hd : i.sig.dst = .reg r) (hs : r.scal = false) : ¬(192 ≤ i.fields.dst.toNat ∧ i.fields.dst.toNat < 252) := by
  have ho := h.illegalOperand
  simp only [Sig.illegalOperand, Bool.or_eq_false_iff] at ho
  obtain ⟨⟨⟨⟨⟨-, hw⟩, -⟩, -⟩, -⟩, -⟩ := ho
  simp only [hd, Use.wrongOperand, RegUse.wrong, hs, Bool.not_false, Bool.true_or] at hw
  rintro ⟨h1, h2⟩
  rw [if_neg (by omega), if_pos h2] at hw
  cases hw

/-! ## Completing, then changing the warp -/

/-- An instruction that completes and then changes its warp further. -/
theorem State.completeAt_modCtx {s : State} {x : Ctx} {w : Warp} (pc : Nat) (hw : s.warp? x.core x.slot = some w) (f : Warp → Warp) :
    OnlyWarp x s ((s.begun.completeAt x pc).modCtx x f) ∧
      ((s.begun.completeAt x pc).modCtx x f).warp? x.core x.slot = some (f (w.finished x pc)) := by
  obtain ⟨ho, hw'⟩ := State.completeAt_begun (x := x) pc hw
  exact ⟨ho.modWarp f, by rw [State.modCtx, State.warp?_modWarp, if_pos ⟨rfl, rfl⟩, hw']; rfl⟩

section
variable {i : Instr} {late : Ctx → State → Late} {eff : Ctx → State → State} {s : State} {g : Selected} {w : Warp} (hr : Runs i s g w late)
  (hex : exec i s = issue i late eff s)
include hr hex

theorem Reaches.of_completeAt {post : State → Warp → Prop} (pc : Nat)
    (heff : eff (s.seenBy i g w) s.begun = s.begun.completeAt (s.seenBy i g w) pc)
    (h : post (s.begun.completeAt (s.seenBy i g w) pc) (w.finished (s.seenBy i g w) pc)) : Reaches i (s.seenBy i g w) s post := by
  obtain ⟨ho, hw'⟩ := State.completeAt_begun (x := s.seenBy i g w) pc hr.1.2
  exact ⟨_, _, by rw [hex, issue_of_clear hr.1 hr.2, heff], hw', ho, h⟩

theorem Reaches.of_completeAt_modCtx {post : State → Warp → Prop} (pc : Nat) (f : Warp → Warp)
    (heff : eff (s.seenBy i g w) s.begun = (s.begun.completeAt (s.seenBy i g w) pc).modCtx (s.seenBy i g w) f)
    (h : post ((s.begun.completeAt (s.seenBy i g w) pc).modCtx (s.seenBy i g w) f) (f (w.finished (s.seenBy i g w) pc))) :
    Reaches i (s.seenBy i g w) s post := by
  obtain ⟨ho, hw'⟩ := State.completeAt_modCtx (x := s.seenBy i g w) pc hr.1.2 f
  exact ⟨_, _, by rw [hex, issue_of_clear hr.1 hr.2, heff], hw', ho, h⟩

theorem Reaches.of_modWarp_complete {post : State → Warp → Prop} (f : Warp → Warp)
    (heff : eff (s.seenBy i g w) s.begun = (s.begun.modWarp g.core g.slot f).complete (s.seenBy i g w))
    (h : post ((s.begun.modWarp g.core g.slot f).complete (s.seenBy i g w)) ((f w).finished (s.seenBy i g w) (s.seenBy i g w).next)) :
    Reaches i (s.seenBy i g w) s post := by
  obtain ⟨ho, hw'⟩ := State.completeAt_spec (x := s.seenBy i g w) f (s.seenBy i g w).next hr.1.2
  exact ⟨_, _, by rw [hex, issue_of_clear hr.1 hr.2, heff]; rfl, hw', ho, h⟩

end

/-! ## Results that are delivered after their instruction has completed -/

theorem OnlyResults.delivered {x : Ctx} {w1 w2 : Warp} (h : OnlyResults x w1) (hd : Delivered w1 w2) : OnlyResults x w2 := by
  refine ⟨?_, fun i => ?_, fun k => ?_⟩
  · rw [hd.warp, h.warp]
  · rw [hd.lanes i, h.lanes i]
  · rw [← h.fmt k, Warp.slice, hd.slices]; rfl

@[simp] theorem Warp.fmt_slice_finished (w : Warp) (x : Ctx) (pc k : Nat) : ((w.finished x pc).slice k).fmt = (w.slice k).fmt := by
  rw [Warp.slice_finished, Warp.slice_setPc]; split <;> rfl

theorem Warp.slice_finished_eq (w : Warp) (x : Ctx) (pc k : Nat) : (w.finished x pc).slice k = { w.slice k with
    pc := if inMask x.mask k ∧ k < w.slices.length then BitVec.ofNat 48 (pc / 4 * 4) else (w.slice k).pc } := by
  rw [Warp.slice_finished, Warp.slice_setPc]
  split <;> rfl

theorem Warp.slice_modGroup (w : Warp) (m : BitVec 8) (f : Group → Group) (k : Nat) : (w.modGroup m f).slice k = w.slice k := rfl

theorem Warp.groups_finished (w : Warp) (x : Ctx) (pc : Nat) : (w.finished x pc).groups = w.groups.map (fun g =>
    if g.mask == x.mask then { g with readyAt := x.cyc + 1 + x.f.stall.toNat, hold := .none, prog := {} } else g) := by
  simp only [Warp.finished, Warp.countIssue, Warp.commitFlash]; split <;> rfl

/-- A warp with the PCs and groups of the one that issued goes on. -/
theorem GroupGoes.of_finished {x : Ctx} {w1 : Warp} (pc : Nat) (hs : ∀ k, (w1.slice k).pc = (x.w.slice k).pc)
    (hl : w1.slices.length = x.w.slices.length) (hg : w1.groups = x.w.groups) : GroupGoes x (w1.finished x pc) pc := by
  refine ⟨fun k => ?_, by rw [Warp.groups_finished, hg]⟩
  rw [Warp.slice_finished, Warp.slice_setPc, hl]
  split
  · rfl
  · exact hs k

theorem GroupGoes.delivered {x : Ctx} {w1 w2 : Warp} {pc : Nat} (h : GroupGoes x w1 pc) (hd : Delivered w1 w2) : GroupGoes x w2 pc :=
  ⟨fun k => by rw [← h.slices k, Warp.slice, hd.slices]; rfl, hd.groups.trans h.groups⟩

/-- `w'` is `w` but for scalar registers and what is on its way; no flag is raised. -/
structure ScalarsDelivered (w w' : Warp) : Prop where
  warp  : w' = { w with
    s := w'.s, undelivered := w'.undelivered, flagsDue := w'.flagsDue, special := { w.special with fflags := w'.special.fflags } }
  flags : w'.flagsInAll = w.flagsInAll

theorem ScalarsDelivered.refl (w : Warp) : ScalarsDelivered w w := ⟨rfl, rfl⟩

theorem ScalarsDelivered.delivered {w w' : Warp} (h : ScalarsDelivered w w') : Delivered w w' := by
  rw [h.warp]; exact ⟨rfl, fun _ => rfl, rfl⟩

/-- A write of a scalar register, or one that is discarded, leaves every lane as it is. -/
theorem Warp.deliverReg_scalar_eq (w : Warp) (cyc draw due code lane : Nat) (v : Word) (hc : 192 ≤ code) :
    w.deliverReg cyc draw due code lane v = { w with
      s := (w.deliverReg cyc draw due code lane v).s, undelivered := (w.deliverReg cyc draw due code lane v).undelivered } := by
  simp only [Warp.deliverReg, Warp.setReg, if_neg (show ¬code < 192 by omega)]
  split
  · rfl
  · split
    · rfl
    · split <;> rfl

theorem Warp.deliverRun_scalar_eq (w : Warp) (cyc draw due code lane v n : Nat) (hc : 192 ≤ code) :
    w.deliverRun cyc draw due code lane v n = { w with
      s := (w.deliverRun cyc draw due code lane v n).s, undelivered := (w.deliverRun cyc draw due code lane v n).undelivered } := by
  induction n generalizing w code v with
  | zero => rfl
  | succ n ih =>
    rw [Warp.deliverRun, ih _ _ _ (by omega)]
    rw [Warp.deliverReg_scalar_eq w cyc draw due code lane (BitVec.ofNat 32 v) hc]

/-- A run that begins at code 0xFC is discarded (R98). -/
theorem Warp.deliverRun_discards (w : Warp) (cyc draw due code lane v n : Nat) (hc : 252 ≤ code) :
    w.deliverRun cyc draw due code lane v n = w := by
  induction n generalizing w code v with
  | zero => rfl
  | succ n ih => rw [Warp.deliverRun, ih _ _ _ (by omega), Warp.deliverReg, if_pos hc]

/-- The result of an instruction for the scalar path. -/
def Warp.deliverScalar (w : Warp) (x : Ctx) (n value : Nat) : Warp := w.deliver x.cyc x.draw 2 (x.out scalarLane n value)

theorem Warp.deliverScalar_eq (w : Warp) (x : Ctx) (n value : Nat) : w.deliverScalar x n value =
    (w.deliverRun x.cyc x.draw (x.cyc + 2) x.f.dst.toNat scalarLane value n).settleFlags x.cyc := rfl

theorem ScalarsDelivered.deliverScalar (w : Warp) (x : Ctx) (n value : Nat) (hd : 192 ≤ x.f.dst.toNat) :
    ScalarsDelivered w (w.deliverScalar x n value) := by
  refine ⟨?_, ?_⟩
  · rw [Warp.deliverScalar_eq, Warp.deliverRun_scalar_eq _ _ _ _ _ _ _ _ hd]; rfl
  · rw [Warp.deliverScalar, Warp.flagsInAll_deliver]; exact BitVec.or_zero

/-- What is discarded changes no register. -/
theorem Warp.s_deliverScalar (w : Warp) (x : Ctx) (n value : Nat) (hd : 252 ≤ x.f.dst.toNat) : (w.deliverScalar x n value).s = w.s := by
  rw [Warp.deliverScalar_eq, Warp.deliverRun_discards _ _ _ _ _ _ _ _ hd]; rfl

/-- The scalar run that an instruction delivers, to a warp with the registers of the one that issued it and no register on its way. -/
theorem HoldsScalars.deliverScalar {x : Ctx} {w : Warp} (n value : Nat) (hs : w.s = x.w.s)
    (hu : x.w.undelivered = [] → ∀ u ∈ w.undelivered, 252 ≤ u.code) : HoldsScalars x (w.deliverScalar x n value) n value := by
  intro hx code hc hlt
  have hreg : w.regWord code scalarLane = x.w.regWord code scalarLane := by
    simp only [Warp.regWord, if_neg (show ¬code < 192 by omega), hs]
  change (w.deliverRun x.cyc x.draw (x.cyc + 2) x.f.dst.toNat scalarLane value n).regWord code scalarLane = _
  split
  · rename_i h
    obtain ⟨k, rfl⟩ : ∃ k, code = x.f.dst.toNat + k := ⟨code - x.f.dst.toNat, by omega⟩
    rw [Nat.add_sub_cancel_left]
    refine Warp.regWord_deliverRun_same _ _ _ _ _ _ _ _ _ (by omega) hlt (.inl hc) fun u hm he => ?_
    have := hu hx u hm
    omega
  · rename_i h
    rw [← hreg]
    exact Warp.regWord_deliverRun_other _ _ _ _ _ _ _ _ _ _ hlt fun hh => h ⟨hh.1, hh.2.1⟩

theorem HoldsScalars.finish {x : Ctx} {w : Warp} {n value : Nat} (h : HoldsScalars x w n value) (pc : Nat) :
    HoldsScalars x (w.finished x pc) n value := fun hx code hc hlt => by rw [Warp.regWord_finished]; exact h hx code hc hlt

theorem OnlyFlow.scalarsDelivered {x : Ctx} {w1 w2 : Warp} (h : OnlyFlow x w1) (hd : ScalarsDelivered w1 w2) : OnlyFlow x w2 := by
  refine ⟨?_, fun k => ?_, hd.flags.trans h.flags⟩
  · rw [hd.warp, h.warp]
  · rw [← h.fmt k, Warp.slice, hd.delivered.slices]; rfl

@[simp] theorem Warp.s_finished (w : Warp) (x : Ctx) (pc : Nat) : (w.finished x pc).s = w.s := (Warp.finished_parts w x pc).2.1

@[simp] theorem Warp.lanes_finished (w : Warp) (x : Ctx) (pc : Nat) : (w.finished x pc).lanes = w.lanes := (Warp.finished_parts w x pc).1

@[simp] theorem Warp.undelivered_finished (w : Warp) (x : Ctx) (pc : Nat) : (w.finished x pc).undelivered = w.undelivered := by
  simp only [Warp.finished, Warp.commitFlash]; split <;> rfl

@[simp] theorem Warp.flagsDue_finished (w : Warp) (x : Ctx) (pc : Nat) : (w.finished x pc).flagsDue = w.flagsDue := by
  simp only [Warp.finished, Warp.commitFlash]; split <;> rfl

/-- An instruction that completes and then writes a scalar run. -/
theorem HoldsScalars.finished (x : Ctx) (pc n value : Nat) : HoldsScalars x ((x.w.finished x pc).deliverScalar x n value) n value :=
  .deliverScalar n value (Warp.s_finished ..) fun hx u hm => by rw [Warp.undelivered_finished, hx] at hm; cases hm

end Sys2Proof.Machine

/-! # FMTSET, MODESET and LEASE (R144, R146, R147) -/

namespace Sys2Proof.Machine

theorem modeMerge_lt (old v mask n : Nat) : modeMerge old v mask n < 2 ^ (4 * n) := by
  induction n with
  | zero => simp [modeMerge]
  | succ n ih =>
    rw [modeMerge, Nat.mul_succ, Nat.pow_add]
    have := Nat.mod_lt ((if mask = 0 ∨ mask.testBit n then v else old) / 2 ^ (4 * n)) (show 16 > 0 by omega)
    nlinarith

/-- Bit `b` of the merged MODE lies in field b / 4, which is new where the mask names it. -/
theorem testBit_modeMerge (old v mask : Nat) {n b : Nat} (hb : b < 4 * n) :
    (modeMerge old v mask n).testBit b = (if mask = 0 ∨ mask.testBit (b / 4) then v else old).testBit b := by
  induction n with
  | zero => omega
  | succ n ih =>
    rw [modeMerge, Nat.add_comm, Nat.testBit_two_pow_mul_add _ (modeMerge_lt old v mask n)]
    split
    · rename_i h; exact ih h
    · rename_i h
      have hn : b / 4 = n := by omega
      rw [show (16 : Nat) = 2 ^ 4 from rfl, Nat.testBit_mod_two_pow, Nat.testBit_div_two_pow, hn, Nat.sub_add_cancel (by omega)]
      simp [show b - 4 * n < 4 by omega]

/-- The mode word that MODESET writes. -/
theorem getLsbD_modeMerge (old : Word) (v mask : Nat) {b : Nat} (hb : b < 32) : (BitVec.ofNat 32 (modeMerge old.toNat v mask 8)).getLsbD b =
    if mask = 0 ∨ mask.testBit (b / 4) then v.testBit b else old.getLsbD b := by
  rw [BitVec.getLsbD_ofNat, testBit_modeMerge _ _ _ (n := 8) hb, decide_eq_true hb, Bool.true_and]
  split <;> rfl

/-- While no result of the warp is on its way, what is read is what is held. -/
theorem Warp.early_of_delivered {w : Warp} (h : w.undelivered = []) (cyc draw code lane value : Nat) :
    w.early cyc draw code lane value = value := by simp [Warp.early, h]

theorem Ctx.mode_eq {x : Ctx} (h : x.w.undelivered = []) : x.mode = x.w.mode.toNat := Warp.early_of_delivered h ..

/-- What FMTSET does. -/
theorem Reaches.of_fmtset {i : Instr} (hex : ∀ s, exec i s = issue i noLate effFmtset s) (hi : i.isCommit = false) {s : State} {g : Selected}
    {w : Warp} (hr : Runs i s g w) :
    let x := s.seenBy i g w
    Reaches i x s fun _ w' =>
      w' = { x.w with
        slices := w'.slices, groups := w'.groups, undelivered := w'.undelivered,
        lease := { x.w.lease with run := x.w.lease.run + 1 }, preempt := x.w.preempt.map (· + 1) } ∧
      GroupGoes x w' x.next ∧
      ∀ k, (w'.slice k).fmt = if inMask x.mask k ∧ k < x.w.slices.length ∧ x.lanes ≠ [] then BitVec.ofNat 12 (x.a 1 scalarLane)
        else (x.w.slice k).fmt := by
  intro x
  by_cases hl : x.lanes = []
  · refine Reaches.of_completeAt hr (hex s) x.next (by rw [effFmtset, if_pos (List.isEmpty_iff.2 hl)]; rfl)
      ⟨by rw [Warp.finished_eq hi]; rfl, .finished x _, fun k => ?_⟩
    rw [if_neg fun h => h.2.2 hl, Warp.fmt_slice_finished]; rfl
  · obtain ⟨w1, hw1⟩ : ∃ w1, w1 = w.writeFmt x.mask x.cyc (x.a 1 scalarLane % 2 ^ 12) := ⟨_, rfl⟩
    have hslice (k : Nat) : w1.slice k = (w.setFmt x.mask (BitVec.ofNat 12 (x.a 1 scalarLane))).slice k := by
      rw [hw1, show BitVec.ofNat 12 (x.a 1 scalarLane) = BitVec.ofNat 12 (x.a 1 scalarLane % 2 ^ 12) from BitVec.eq_of_toNat_eq (by simp)]
      rfl
    refine Reaches.of_modWarp_complete hr (hex s) (fun w => w.writeFmt x.mask x.cyc (x.a 1 scalarLane % 2 ^ 12))
      (by rw [effFmtset, if_neg fun h => hl (List.isEmpty_iff.1 h)]; rfl) ?_
    rw [← hw1]
    refine ⟨by rw [Warp.finished_eq hi, hw1]; rfl, .of_finished _ (fun k => ?_) (by simp [hw1, Warp.writeFmt, Warp.setFmt, x, State.seenBy]) (by rw [hw1]; rfl), fun k => ?_⟩
    · rw [hslice, Warp.slice_setFmt]; split <;> rfl
    · simp only [Warp.fmt_slice_finished, hslice, Warp.slice_setFmt, ne_eq, hl, not_false_eq_true, and_true]
      exact apply_ite Slice.fmt ..

/-- What MODESET does in a lane: the merged word becomes MODE, the old one is delivered. -/
def Warp.writeMode (w : Warp) (x : Ctx) : Warp :=
  w.writeSpecial 9 x.cyc w.mode.toNat fun w => { w with mode := BitVec.ofNat 32 (modeMerge x.w.mode.toNat (x.a 1 scalarLane) (x.f.mb 7 0) 8) }

theorem effModeset_eq {x : Ctx} (s : State) (hl : x.lanes ≠ []) : effModeset x s =
    (s.modWarp x.core x.slot fun w => (w.writeMode x).deliverScalar x 1 x.mode).complete x := by
  rw [effModeset, if_neg fun h => hl (List.isEmpty_iff.1 h)]; rfl

theorem leaseEff_eq {x : Ctx} (s : State) (hl : x.lanes ≠ []) : leaseEff x s =
    (s.complete x).modCtx x fun w => { w.deliverScalar x 1 x.w.lease.word with lease := w.lease.declare (x.a 1 scalarLane) (x.f.mb 1 0) } := by
  rw [leaseEff, if_neg fun h => hl (List.isEmpty_iff.1 h)]; rfl

/-- Settles O18: FMTSET by its effect; MODESET and LEASE write their register beside the old value that they deliver. -/
theorem modesAndLease : Obligations.ModesAndLease := by
  unfold Obligations.ModesAndLease
  intro f h fmt
  refine ⟨fun s g w hr => .of_fmtset (fun _ => rfl) rfl hr, fun s g w hr => .of_fmtset (fun _ => rfl) rfl hr, ?_, ?_⟩
  · intro s g w hr x
    have hd : 192 ≤ x.f.dst.toNat := hr.le_dst rfl rfl
    by_cases hl : x.lanes = []
    · refine Reaches.of_completeAt hr rfl x.next (by rw [effModeset, if_pos (List.isEmpty_iff.2 hl)]; rfl)
        ⟨Warp.finished_eq rfl w _, .finished x _, Warp.flagsInAll_finished .., fun b _ => ?_, fun _ => Warp.s_finished .., fun h => absurd hl h⟩
      rw [if_neg fun h => h.1 hl]; rfl
    · refine Reaches.of_modWarp_complete hr rfl _ (effModeset_eq (x := x) s.begun hl) ?_
      have hsd := ScalarsDelivered.deliverScalar (w.writeMode x) x 1 x.mode hd
      have hholds : HoldsScalars x ((w.writeMode x).deliverScalar x 1 x.mode) 1 x.mode :=
        .deliverScalar 1 x.mode rfl fun hx u hu => by
          simp only [Warp.writeMode, Warp.writeSpecial, show w.undelivered = [] from hx, List.filter_nil, List.mem_singleton] at hu
          rw [hu]; exact (by decide : 252 ≤ 512 + 9)
      generalize (w.writeMode x).deliverScalar x 1 x.mode = w1 at hsd hholds
      refine ⟨by rw [Warp.finished_eq rfl, hsd.warp]; rfl, .of_finished _ (fun k => ?_) ?_ hsd.delivered.groups,
        (Warp.flagsInAll_finished ..).trans hsd.flags, fun b hb => ?_, fun h => absurd h hl, fun _ hx => ?_⟩
      · rw [Warp.slice, hsd.delivered.slices]; rfl
      · rw [hsd.delivered.slices]; rfl
      · rw [Warp.finished_eq rfl, hsd.warp]
        simp only [ne_eq, hl, not_false_eq_true, true_and]
        exact getLsbD_modeMerge _ _ _ hb
      · rw [← Ctx.mode_eq hx]; exact hholds.finish x.next hx
  · intro s g w hr x
    have hd : 192 ≤ x.f.dst.toNat := hr.le_dst rfl rfl
    by_cases hl : x.lanes = []
    · refine Reaches.of_completeAt hr rfl x.next (by rw [leaseEff, if_pos (List.isEmpty_iff.2 hl)]; rfl)
        ⟨Warp.finished_eq rfl w _, .finished x _, Warp.flagsInAll_finished .., fun _ => ⟨Warp.s_finished .., rfl⟩, fun h => absurd hl h⟩
    · refine Reaches.of_completeAt_modCtx hr rfl x.next _ (leaseEff_eq (x := x) s.begun hl) ?_
      have hsd := ScalarsDelivered.deliverScalar (w.finished x x.next) x 1 x.w.lease.word hd
      have hholds : HoldsScalars x ((w.finished x x.next).deliverScalar x 1 x.w.lease.word) 1 x.w.lease.word :=
        HoldsScalars.finished x x.next 1 x.w.lease.word
      have hgo := (GroupGoes.finished x x.next).delivered hsd.delivered
      have hflags := hsd.flags.trans (Warp.flagsInAll_finished ..)
      have heq := hsd.warp
      generalize (w.finished x x.next).deliverScalar x 1 x.w.lease.word = w1 at hsd hholds hgo hflags heq
      exact ⟨by rw [heq, Warp.finished_eq rfl]; rfl, ⟨hgo.slices, hgo.groups⟩, hflags, fun h => absurd h hl, fun _ => ⟨hholds, rfl⟩⟩

end Sys2Proof.Machine

/-! # RDSR and WRSR (R123 to R126, R418, R419) -/

namespace Sys2Proof.Machine

/-! ## Results delivered to the completed warp -/

/-- What completing changes in a warp is neither a register nor on its way. -/
theorem Warp.finished_parts_eq {x : Ctx} (hi : x.i.isCommit = false) (w : Warp) (pc : Nat) : ∃ slices groups lease preempt,
    w.finished x pc = { w with slices := slices, groups := groups, lease := lease, preempt := preempt } :=
  ⟨_, _, _, _, Warp.finished_eq hi w pc⟩

/-- Results that are delivered once the instruction has completed. -/
theorem HoldsResults.of_deliver_finished {x : Ctx} (hi : x.i.isCommit = false) (pc : Nat) {n lat : Nat} {value : Nat → Nat}
    {preds : Nat → List (Nat × Bool)} {o : Out} (ho : o.IsResult x n value preds) (hu : x.w.undelivered = []) :
    HoldsResults x ((x.w.finished x pc).deliver x.cyc x.draw lat o) n value preds := by
  obtain ⟨slices, groups, lease, preempt, hw⟩ := Warp.finished_parts_eq hi x.w pc
  rw [hw]
  obtain ⟨hregs, hnodup, hsound, hfull⟩ := ho
  obtain ⟨hrun, hrest, hwritten, hkept⟩ := HoldsResults.of_deliver
    { x with w := { x.w with slices := slices, groups := groups, lease := lease, preempt := preempt } } n lat value preds o
    ⟨hregs, hnodup, hsound, hfull⟩ hu
  exact ⟨hrun, hrest, hwritten, hkept⟩

/-- Results that are all discarded settle the flags that have come, and nothing else. -/
theorem Warp.deliver_discards (w : Warp) (cyc draw lat : Nat) {o : Out} (hr : ∀ r ∈ o.regs, 252 ≤ r.2.1) (hp : o.preds = []) (hf : o.flags = 0) :
    w.deliver cyc draw lat o = w.settleFlags cyc := by
  have hregs : ∀ l : List (Nat × Nat × Nat × Nat), (∀ r ∈ l, 252 ≤ r.2.1) →
      l.foldl (fun w r => w.deliverRun cyc draw (cyc + lat) r.2.1 r.1 r.2.2.2 r.2.2.1) w = w := fun l hl => by
    induction l with
    | nil => rfl
    | cons r t ih =>
      rw [List.foldl_cons, Warp.deliverRun_discards _ _ _ _ _ _ _ _ (hl r (List.mem_cons_self ..)), ih fun r hr => hl r (List.mem_cons_of_mem _ hr)]
  simp only [Warp.deliver, hregs o.regs hr, hp, hf, Warp.raiseFlags, if_true, List.foldl_nil]

/-- An instruction that completes, then delivers its results. -/
theorem RegisterStep.of_complete_deliver {i : Instr} {late : Ctx → State → Late} {lat n : Nat} {eff : Ctx → State → State} {s : State}
    {g : Selected} {w : Warp} {value : Nat → Nat} {preds : Nat → List (Nat × Bool)} (o o' : Out) (hr : Runs i s g w late)
    (hex : exec i s = issue i late eff s) (hi : i.isCommit = false)
    (heff : eff (s.seenBy i g w) s.begun = (s.begun.complete (s.seenBy i g w)).modCtx (s.seenBy i g w) (·.deliver (s.cyc g.core) s.tick lat o))
    (hsame : ∀ w1 : Warp, w1.deliver (s.cyc g.core) s.tick lat o = w1.deliver (s.cyc g.core) s.tick lat o')
    (ho : o'.IsResult (s.seenBy i g w) n value preds) : RegisterStep i (s.seenBy i g w) s n value preds o'.flags := by
  obtain ⟨honly, hw'⟩ := State.completeAt_modCtx (x := s.seenBy i g w) (s.seenBy i g w).next hr.1.2 (·.deliver (s.cyc g.core) s.tick lat o)
  rw [hsame] at hw'
  have hd := Delivered.deliver (w.finished (s.seenBy i g w) (s.seenBy i g w).next) (s.cyc g.core) s.tick lat o'
  exact ⟨_, _, by rw [hex, issue_of_clear hr.1 hr.2, heff]; rfl, hw', honly, (OnlyResults.of_delivered _ hi (.refl w)).delivered hd,
    (GroupGoes.finished (s.seenBy i g w) _).delivered hd, HoldsResults.of_deliver_finished (x := s.seenBy i g w) hi _ ho,
    (Warp.flagsInAll_deliver ..).trans (congrArg (· ||| o'.flags) (Warp.flagsInAll_finished ..))⟩

/-! ## The value of a special register -/

/-- The flags that have become visible. -/
theorem Warp.fflagsAt_eq (w : Warp) (cyc : Nat) : w.fflagsAt cyc =
    ((w.flagsDue.filter (fun d => decide (d.1 ≤ cyc))).foldl (fun a d => a ||| d.2) w.special.fflags).toNat := by
  rw [foldl_or]; rfl

theorem Ctx.special_eq {x : Ctx} (h : x.w.undelivered = []) (n value : Nat) : x.special n value = value := Warp.early_of_delivered h ..

theorem Ctx.fmt_eq {x : Ctx} (h : x.w.undelivered = []) : x.fmt = (x.w.fmtOf x.mask).toNat := Warp.early_of_delivered h ..

/-- What RDSR delivers: LID in every executing lane, every other register once (R123). -/
def Ctx.readOut (x : Ctx) (s : State) : Out :=
  if x.f.mb 7 0 = 0 then Out.ofList (x.lanes.map (fun l => x.out l 1 (x.lid l)))
  else if x.lanes.isEmpty then {} else x.out scalarLane (specialRegs (x.f.mb 7 0)) (x.readSpecial s (x.f.mb 7 0))

/-- The results of RDSR, as those of the places at which it computes. -/
def Ctx.readResult (x : Ctx) (n : Nat) (value : Nat → Nat) : Out := Out.ofList (x.places.map (fun p => x.out p n (value p)))

theorem Ctx.readResult_isResult (x : Ctx) (n : Nat) (value : Nat → Nat) : (x.readResult n value).IsResult x n value noPreds :=
  .of_places fun _ _ => ⟨rfl, rfl⟩

theorem Ctx.readResult_flags (x : Ctx) (n : Nat) (value : Nat → Nat) : (x.readResult n value).flags = 0 := by
  rw [Ctx.readResult, Out.flags_ofList]
  generalize x.places = l
  induction l with
  | nil => rfl
  | cons p t ih => rw [List.map_cons, List.foldr_cons, ih]; exact BitVec.or_zero

/-- The destination of RDSR: a vector register for LID, a scalar run for every other register (R123). -/
theorem Instr.sig_dst_rdsr (f : LX) : (Instr.rdsr f).sig.dst = if f.mb 7 0 = 0 then .vdst 1 else .sdst (specialRegs (f.mb 7 0)) := rfl

theorem Ctx.scalarPath_of_reg {x : Ctx} {r : RegUse} (h : x.i.sig.dst = .reg r) :
    x.scalarPath = decide (192 ≤ x.f.dst.toNat ∧ x.f.dst.toNat < 252) := by rw [Ctx.scalarPath, Sig.scalarDst, h]

theorem Out.ofList_singleton (o : Out) : Out.ofList [o] = o := by simp [Out.ofList, Out.append]

theorem Out.noPreds_ofList_map {α : Type} {l : List α} {o : α → Out} (h : ∀ a, (o a).preds = []) : (Out.ofList (l.map o)).preds = [] := by
  rw [Out.preds_ofList, List.flatMap_eq_nil_iff]
  intro p hp
  obtain ⟨a, -, rfl⟩ := List.mem_map.1 hp
  exact h a

/-- Where dst is 0xFC, everything that RDSR would deliver is discarded. -/
theorem Ctx.deliver_discarded {x : Ctx} (hd : 252 ≤ x.f.dst.toNat) (t : State) (n : Nat) (value : Nat → Nat) (w1 : Warp) (cyc draw lat : Nat)
    (h0 : x.f.mb 7 0 ≠ 0) : w1.deliver cyc draw lat (x.readOut t) = w1.deliver cyc draw lat (x.readResult n value) := by
  rw [Warp.deliver_discards (o := x.readOut t), Warp.deliver_discards (o := x.readResult n value) _ _ _ _ ?_
    (Out.noPreds_ofList_map fun _ => rfl) (x.readResult_flags ..)]
  · intro r hm
    rw [Ctx.readResult, Out.regs_ofList, List.mem_flatMap] at hm
    obtain ⟨o, ho, hm⟩ := hm
    obtain ⟨p, -, rfl⟩ := List.mem_map.1 ho
    rw [List.mem_singleton.1 hm]; exact hd
  all_goals rw [Ctx.readOut, if_neg h0]; split
  · rintro r ⟨⟩
  · intro r hm; rw [List.mem_singleton.1 hm]; exact hd
  all_goals rfl

/-- RDSR delivers what the places of its destination hold: its run is at the lanes for LID, else at the scalar path, or discarded. -/
theorem Ctx.deliver_readOut {x : Ctx} {f : LX} (hi : x.i = .rdsr f) (hf : x.f = f)
    (hvec : f.mb 7 0 = 0 → ¬(192 ≤ f.dst.toNat ∧ f.dst.toNat < 252)) (hscal : f.mb 7 0 ≠ 0 → 192 ≤ f.dst.toNat) {t : State} {value : Nat → Nat}
    (hlid : f.mb 7 0 = 0 → ∀ l, value l = x.lid l) (hval : f.mb 7 0 ≠ 0 → value scalarLane = x.readSpecial t (f.mb 7 0))
    (w1 : Warp) (cyc draw lat : Nat) :
    w1.deliver cyc draw lat (x.readOut t) = w1.deliver cyc draw lat (x.readResult (specialRegs (f.mb 7 0)) value) := by
  have hsig : x.i.sig.dst = if f.mb 7 0 = 0 then .vdst 1 else .sdst (specialRegs (f.mb 7 0)) := by rw [hi, Instr.sig_dst_rdsr]
  by_cases h0 : f.mb 7 0 = 0
  · rw [if_pos h0] at hsig
    have hsp := (x.scalarPath_of_reg hsig).trans (decide_eq_false (by rw [hf]; exact hvec h0))
    have : x.readOut t = x.readResult (specialRegs (f.mb 7 0)) value := by
      rw [Ctx.readOut, hf, if_pos h0, Ctx.readResult, Ctx.places, hsp, h0]
      exact congrArg Out.ofList (List.map_congr_left fun l _ => by rw [hlid h0]; rfl)
    rw [this]
  · rw [if_neg h0] at hsig
    by_cases hlt : f.dst.toNat < 252
    · have hsp := (x.scalarPath_of_reg hsig).trans (decide_eq_true (by rw [hf]; exact ⟨hscal h0, hlt⟩))
      have : x.readOut t = x.readResult (specialRegs (f.mb 7 0)) value := by
        rw [Ctx.readOut, hf, if_neg h0, Ctx.readResult, Ctx.places, hsp, if_pos rfl]
        split
        · rfl
        · rw [List.map_singleton, hval h0, Out.ofList_singleton]
      rw [this]
    · exact x.deliver_discarded (by rw [hf]; omega) t _ value w1 cyc draw lat (by rw [hf]; exact h0)

/-- Settles O19: RDSR completes, then delivers what `readSpecial` gives; while nothing is on its way that is what the register holds. -/
theorem readSpecial : Obligations.ReadSpecial := by
  unfold Obligations.ReadSpecial
  intro f s g w hr hu x n
  generalize hv : (fun p => _ : Nat → Nat) = value
  have hv (p : Nat) := (congrFun hv p).symm
  rw [← x.readResult_flags (specialRegs n) value]
  refine RegisterStep.of_complete_deliver (x.readOut s.begun) (x.readResult (specialRegs n) value) hr rfl rfl rfl
    (fun w1 => Ctx.deliver_readOut rfl rfl (fun h0 => ?_) (fun h0 => ?_) (fun h0 l => ?_) (fun h0 => ?_) w1 _ _ 2) (x.readResult_isResult _ value)
  · exact hr.not_scalar_dst ((Instr.sig_dst_rdsr f).trans (if_pos h0)) rfl
  · exact hr.le_dst ((Instr.sig_dst_rdsr f).trans (if_neg h0)) rfl
  · rw [hv]; exact if_pos h0
  · have hux : x.w.undelivered = [] := hu
    have hv := hv scalarLane
    change _ = x.readSpecial s.begun n
    change n ≠ 0 at h0
    generalize value scalarLane = v at hv ⊢
    generalize n = m at hv h0 ⊢
    unfold Ctx.readSpecial
    split
    case h_7 | h_14 | h_15 | h_16 | h_17 | h_18 => exact hv.trans (Ctx.special_eq hux ..).symm
    case h_8 => exact hv.trans (Warp.fflagsAt_eq ..).symm
    case h_9 => exact hv.trans (Ctx.mode_eq hux).symm
    case h_10 => exact hv.trans (Ctx.fmt_eq hux).symm
    case h_19 _ h1 h2 h3 h4 h5 h6 h7 h8 h9 h10 h11 h12 h13 h14 h15 h16 h17 h18 =>
      rw [hv, if_neg h0, if_neg h1, if_neg h2, if_neg h3, if_neg h4, if_neg h5, if_neg h6, if_neg h7, if_neg h8, if_neg h9,
        if_neg h10, if_neg h11, if_neg h12, if_neg h13, if_neg h14, if_neg h15, if_neg h16, if_neg h17, if_neg h18]
      rfl
    all_goals exact hv

end Sys2Proof.Machine

/-! ## WRSR (R124, R125, R418, R419) -/

namespace Sys2Proof.Machine

/-- `w'` is `w` with a value written to the special register `n`, fields marked R keeping theirs. -/
structure SpecialWritten (w w' : Warp) (n v : Nat) : Prop where
  warp   : w' = { w with mode := w'.mode, special := w'.special }
  mode   : w'.mode = if n = 0x09 then BitVec.ofNat 32 v else w.mode
  priv   : w'.special.priv = w.special.priv
  schk   : w'.special.schk = if n = 0x07 then v.testBit 0 else w.special.schk
  fflags : w'.special.fflags = if n = 0x08 then BitVec.ofNat 5 v else w.special.fflags
  epc    : w'.special.epc = if n = 0x10 then BitVec.ofNat 64 v else w.special.epc
  estat  : w'.special.estat = if n = 0x11 then BitVec.ofNat 32 v &&& 0x00FFFC00#32 else w.special.estat
  ecause : w'.special.ecause = if n = 0x12 then BitVec.ofNat 32 v &&& 0xF000FFFF#32 else w.special.ecause
  eval   : w'.special.eval = if n = 0x13 then BitVec.ofNat 64 v else w.special.eval
  evec   : w'.special.evec = if n = 0x14 then BitVec.ofNat 64 v else w.special.evec

theorem specialWritable_iff {n : Nat} : specialWritable n = true ↔
    n = 0x07 ∨ n = 0x08 ∨ n = 0x09 ∨ n = 0x10 ∨ n = 0x11 ∨ n = 0x12 ∨ n = 0x13 ∨ n = 0x14 := by
  rw [specialWritable, decide_eq_true_eq]; omega

theorem SpecialWritten.setSpecial (w : Warp) {n : Nat} (v : Nat) (h : specialWritable n = true) : SpecialWritten w (w.setSpecial n v) n v := by
  obtain rfl | rfl | rfl | rfl | rfl | rfl | rfl | rfl := specialWritable_iff.1 h <;> exact ⟨rfl, rfl, rfl, rfl, rfl, rfl, rfl, rfl, rfl, rfl⟩

/-- A written flag register is the flags of the warp, where every older flag has been applied; any other write leaves the flags. -/
theorem SpecialWritten.flagsInAll {w w' : Warp} {n v : Nat} (h : SpecialWritten w w' n v) (ha : n = 0x08 → w.flagsDue = []) :
    w'.flagsInAll = if n = 0x08 then BitVec.ofNat 5 v else w.flagsInAll := by
  rw [Warp.flagsInAll, h.fflags, show w'.flagsDue = w.flagsDue by rw [h.warp]]
  split
  · rename_i h8; rw [ha h8]; rfl
  · rfl

/-- What WRSR does to its warp: the flags that have come are applied, and the register is written. -/
def Ctx.writeSpecialTo (x : Ctx) (old : Nat) (w : Warp) : Warp :=
  let n := x.f.mb 7 0
  let v := x.a (specialRegs n) scalarLane
  if n = 0x08 then (w.settleFlags x.cyc).setSpecial n v else (w.settleFlags x.cyc).writeSpecial n x.cyc old (fun w => w.setSpecial n v)

theorem wrsrEff_eq {x : Ctx} {s : State} (hl : x.lanes ≠ []) (ha : x.f.mb 7 0 = 0x08 → x.flagsApplied s = true) :
    wrsrEff x s = (s.complete x).modCtx x (x.writeSpecialTo (x.readSpecial s (x.f.mb 7 0))) := by
  simp only [wrsrEff, if_neg fun h => hl (List.isEmpty_iff.1 h)]
  rw [if_neg fun h => by simp [ha h.1] at h]
  rfl

/-- The written warp, but for what is on its way. -/
theorem Ctx.writeSpecialTo_eq (x : Ctx) (old : Nat) (w : Warp) : ∃ us, x.writeSpecialTo old w =
    { (w.settleFlags x.cyc).setSpecial (x.f.mb 7 0) (x.a (specialRegs (x.f.mb 7 0)) scalarLane) with undelivered := us } := by
  rw [Ctx.writeSpecialTo]
  split
  · exact ⟨_, rfl⟩
  · exact ⟨_, rfl⟩

theorem Warp.flagsDue_settleFlags {w : Warp} {cyc : Nat} (h : w.flagsDue.all (fun f => decide (f.1 ≤ cyc)) = true) :
    (w.settleFlags cyc).flagsDue = [] := by
  rw [Warp.settleFlags, List.filter_eq_nil_iff]
  intro f hf
  have := List.all_eq_true.1 h f hf
  simp only [decide_eq_true_eq] at this ⊢
  omega

/-- WRSR issues for a register that it may write (R123). -/
theorem Runs.specialWritable {f : LX} {s : State} {g : Selected} {w : Warp} (hr : Runs (.wrsr f) s g w) : specialWritable (f.mb 7 0) = true := by
  have ho := hr.illegalOperand
  simp only [Sig.illegalOperand, Bool.or_eq_false_iff] at ho
  obtain ⟨⟨⟨⟨⟨hb, -⟩, -⟩, -⟩, -⟩, -⟩ := ho
  simpa using (show (!Sys2Proof.specialWritable (f.mb 7 0)) = false from hb)

/-- Settles O20: WRSR completes, applies the flags that have come, and sets its register. -/
theorem writeSpecial : Obligations.WriteSpecial := by
  unfold Obligations.WriteSpecial
  intro f s g w hr x n hl ha
  refine Reaches.of_completeAt_modCtx hr rfl x.next _ (wrsrEff_eq (x := x) (s := s.begun) hl ha) ?_
  intro v
  have hn := hr.specialWritable
  have hv : v = x.a (specialRegs n) scalarLane := by
    have h6 : n ≠ 6 := fun h => by rw [show f.mb 7 0 = 6 from h] at hn; cases hn
    simp only [v, specialRegs, h6, false_or]
  have hdue : n = 0x08 → ((w.finished x x.next).settleFlags x.cyc).flagsDue = [] := fun h8 => Warp.flagsDue_settleFlags (by
    have := ha h8
    rw [Ctx.flagsApplied, Bool.and_eq_true] at this
    rw [Warp.flagsDue_finished]; exact this.1)
  have hset := SpecialWritten.setSpecial ((w.finished x x.next).settleFlags x.cyc) v hn
  have hflags := hset.flagsInAll hdue
  obtain ⟨us, heq⟩ := x.writeSpecialTo_eq (x.readSpecial s.begun n) (w.finished x x.next)
  rw [← hv] at heq
  have hgo := GroupGoes.finished x x.next
  rw [Warp.flagsInAll_settleFlags, Warp.flagsInAll_finished] at hflags
  change SpecialWritten _ (((w.finished x x.next).settleFlags x.cyc).setSpecial (x.f.mb 7 0) v) n v at hset
  change (((w.finished x x.next).settleFlags x.cyc).setSpecial (x.f.mb 7 0) v).flagsInAll = _ at hflags
  obtain ⟨hwarp, hmode, hpriv, hschk, -, hepc, hestat, hecause, heval, hevec⟩ := hset
  rw [heq]
  generalize ((w.finished x x.next).settleFlags x.cyc).setSpecial (x.f.mb 7 0) v = w2 at *
  refine ⟨?_, ⟨fun k => ?_, ?_⟩, hmode, hpriv, hschk, hflags, hepc, hestat, hecause, heval, hevec⟩
  · rw [hwarp, Warp.finished_eq rfl]; rfl
  · rw [← hgo.slices k, hwarp]; rfl
  · rw [hwarp]; exact hgo.groups

end Sys2Proof.Machine

/-! # Splitting a group: where its slices go (R23, R133) -/

namespace Sys2Proof.Machine

/-! ## The slices that an instruction meets -/

theorem Ctx.mem_slices {x : Ctx} {k : Nat} : k ∈ x.slices ↔ inMask x.mask k = true := by
  rw [Ctx.slices, List.mem_filter, List.mem_range, and_iff_right_iff_imp]
  exact BitVec.lt_of_getLsbD

theorem Ctx.sliceExecs_iff {x : Ctx} {k : Nat} : x.sliceExecs k = true ↔ x.sliceRuns k := by
  simp [Ctx.sliceExecs, Ctx.sliceRuns]

theorem Ctx.sliceActive_iff {x : Ctx} {k : Nat} : x.sliceActive k = true ↔ x.sliceLives k := by
  simp only [Ctx.sliceActive, Bool.or_eq_true, Ctx.sliceLives]
  constructor
  · rintro (((h | h) | h) | h)
    exacts [⟨0, by omega, h⟩, ⟨1, by omega, h⟩, ⟨2, by omega, h⟩, ⟨3, by omega, h⟩]
  · rintro ⟨i, hi, h⟩
    obtain rfl | rfl | rfl | rfl : i = 0 ∨ i = 1 ∨ i = 2 ∨ i = 3 := by omega
    exacts [.inl (.inl (.inl h)), .inl (.inl (.inr h)), .inl (.inr h), .inr h]

/-- An executing lane is an active one of a slice of the group. -/
theorem Ctx.sliceRuns.lives {x : Ctx} {k : Nat} (h : x.sliceRuns k) : inMask x.mask k = true ∧ x.sliceLives k := by
  obtain ⟨l, hl, rfl⟩ := h
  obtain ⟨hm, he⟩ := List.mem_filter.1 hl
  rw [Ctx.execs, Bool.and_eq_true] at he
  exact ⟨((Warp.mem_lanesByLid ..).1 hm).2, l % 4, Nat.mod_lt _ (by omega), by rw [Nat.div_add_mod]; exact he.1⟩

/-- The lowest slice of the group with an active lane. -/
structure Ctx.Leads (x : Ctx) (j : Nat) : Prop where
  mem   : inMask x.mask j = true
  lives : x.sliceLives j
  least : ∀ i, i < j → inMask x.mask i = true → ¬x.sliceLives i

theorem Ctx.Leads.unique {x : Ctx} {j k : Nat} (hj : x.Leads j) (hk : x.Leads k) : j = k := by
  rcases Nat.lt_trichotomy j k with h | h | h
  · exact absurd hj.lives (hk.least j h hj.mem)
  · exact h
  · exact absurd hk.lives (hj.least k h hk.mem)

theorem Ctx.leads_of_find {x : Ctx} {j : Nat} (h : x.slices.find? x.sliceActive = some j) : x.Leads j := by
  obtain ⟨hact, as, bs, hsplit, has⟩ := List.find?_eq_some_iff_append.1 h
  have hsorted : x.slices.Pairwise (· < ·) := List.pairwise_lt_range.filter _
  rw [hsplit, List.pairwise_append, List.pairwise_cons] at hsorted
  obtain ⟨-, ⟨hbs, -⟩, -⟩ := hsorted
  refine ⟨Ctx.mem_slices.1 (by rw [hsplit]; simp), Ctx.sliceActive_iff.1 hact, fun i hi hm hl => ?_⟩
  have hmem := Ctx.mem_slices.2 hm
  rw [hsplit, List.mem_append, List.mem_cons] at hmem
  rcases hmem with hm | rfl | hm
  · have := has i hm
    rw [Ctx.sliceActive_iff.2 hl] at this; cases this
  · exact lt_irrefl _ hi
  · exact absurd (hbs i hm) (by omega)

/-- Where a slice goes, `lead` being the lowest slice with an active lane: `own` where it executes, else `miss`; as `lead` does where it
has no active lane. -/
def Ctx.goesTo (x : Ctx) (own : Nat → Nat) (miss lead k : Nat) : Nat :=
  let goes (k : Nat) : Nat := if x.sliceExecs k then own k else miss
  if x.sliceActive k then goes k else goes lead

theorem Ctx.goesTo_of_lives {x : Ctx} {k : Nat} (h : x.sliceLives k) (own : Nat → Nat) (miss lead : Nat) :
    x.goesTo own miss lead k = if x.sliceExecs k then own k else miss := if_pos (Ctx.sliceActive_iff.2 h)

theorem Ctx.goesTo_of_dead {x : Ctx} {k : Nat} (h : ¬x.sliceLives k) (own : Nat → Nat) (miss lead : Nat) :
    x.goesTo own miss lead k = if x.sliceExecs lead then own lead else miss := if_neg fun ha => h (Ctx.sliceActive_iff.1 ha)

/-- The slices of the group with their targets. -/
def Ctx.targetsOf (x : Ctx) (goes : Nat → Nat) : List (Nat × Nat) := x.slices.map (fun k => (k, goes k))

theorem Ctx.mem_targetsOf {x : Ctx} {goes : Nat → Nat} {k t : Nat} : (k, t) ∈ x.targetsOf goes ↔ inMask x.mask k = true ∧ goes k = t := by
  simp only [Ctx.targetsOf, List.mem_map, Prod.mk.injEq, Ctx.mem_slices]
  constructor
  · rintro ⟨j, hj, rfl, rfl⟩; exact ⟨hj, rfl⟩
  · rintro ⟨hk, rfl⟩; exact ⟨k, hk, rfl, rfl⟩

theorem Ctx.sliceGoes_of_idle {x : Ctx} (h : x.idle) (own : Nat → Nat) (miss : Nat) : x.sliceGoes own miss = none := by
  rw [Ctx.sliceGoes, Option.map_eq_none_iff, List.find?_eq_none]
  intro k hk
  have hm := Ctx.mem_slices.1 hk
  rw [Ctx.sliceActive_iff]
  exact h k (BitVec.lt_of_getLsbD hm) hm

theorem Ctx.exists_leads {x : Ctx} (h : ¬x.idle) : ∃ lead, x.Leads lead ∧ ∀ own miss,
    x.sliceGoes own miss = some (x.targetsOf (x.goesTo own miss lead)) := by
  cases hf : x.slices.find? x.sliceActive with
  | some lead => exact ⟨lead, Ctx.leads_of_find hf, fun own miss => by rw [Ctx.sliceGoes, hf]; rfl⟩
  | none =>
    refine absurd (fun k _ hm hl => ?_) h
    exact List.find?_eq_none.1 hf k (Ctx.mem_slices.2 hm) (Ctx.sliceActive_iff.2 hl)

theorem Ctx.not_idle_of_lanes {x : Ctx} (h : x.lanes ≠ []) : ¬x.idle := by
  obtain ⟨l, hl⟩ := List.exists_mem_of_ne_nil _ h
  obtain ⟨hm, hlive⟩ := Ctx.sliceRuns.lives (x := x) ⟨l, hl, rfl⟩
  exact fun hi => hi _ (BitVec.lt_of_getLsbD hm) hm hlive

/-! ## The parts of a split group -/

theorem inMask_bit {k j : Nat} (hk : k < 8) : inMask (BitVec.ofNat 8 (1 <<< k)) j = true ↔ j = k := by
  rw [inMask, BitVec.getLsbD_ofNat, Nat.one_shiftLeft, Nat.testBit_two_pow, Bool.and_eq_true, decide_eq_true_eq, decide_eq_true_eq]
  omega

/-- The slices that are gathered with a target: those of a mask, and of the parts that have it. -/
theorem inMask_foldl_same (l : List (BitVec 8 × Nat)) (pc : Nat) (m : BitVec 8) (j : Nat) :
    inMask (l.foldl (fun a p => if p.2 = pc then a ||| p.1 else a) m) j = true ↔ inMask m j = true ∨ ∃ p ∈ l, p.2 = pc ∧ inMask p.1 j = true := by
  induction l generalizing m with
  | nil => simp
  | cons p t ih =>
    rw [List.foldl_cons, ih, List.exists_mem_cons_iff]
    by_cases hp : p.2 = pc
    · simp [hp, inMask_or, or_assoc]
    · simp [hp]

/-- The targets of the parts are those of the slices. -/
theorem exists_mem_gatherParts {ts : List (Nat × Nat)} {t : Nat} : (∃ p ∈ gatherParts ts, p.2 = t) ↔ ∃ k, (k, t) ∈ ts := by
  induction ts with
  | nil => simp [gatherParts]
  | cons e l ih =>
    obtain ⟨k, pc⟩ := e
    rw [gatherParts, List.exists_mem_cons_iff]
    simp only [List.mem_filter, decide_eq_true_eq, List.mem_cons, Prod.mk.injEq]
    by_cases ht : t = pc
    · exact ⟨fun _ => ⟨k, .inl ⟨rfl, ht⟩⟩, fun _ => .inl ht.symm⟩
    · have htail : (∃ p, (p ∈ gatherParts l ∧ p.2 ≠ pc) ∧ p.2 = t) ↔ ∃ p ∈ gatherParts l, p.2 = t := by
        constructor
        · rintro ⟨p, ⟨hp, -⟩, h⟩; exact ⟨p, hp, h⟩
        · rintro ⟨p, hp, rfl⟩; exact ⟨p, ⟨hp, ht⟩, rfl⟩
      rw [htail, ih]
      simp [ht, Ne.symm ht]

/-- Each part holds the slices of one target. -/
theorem inMask_of_mem_gatherParts {ts : List (Nat × Nat)} (hlt : ∀ e ∈ ts, e.1 < 8) {p : BitVec 8 × Nat} (hp : p ∈ gatherParts ts) (j : Nat) :
    inMask p.1 j = true ↔ (j, p.2) ∈ ts := by
  induction ts generalizing p with
  | nil => cases hp
  | cons e t ih =>
    obtain ⟨k, pc⟩ := e
    have ih := fun {p} hp => ih (p := p) (fun e he => hlt e (List.mem_cons_of_mem _ he)) hp
    have hk : k < 8 := hlt (k, pc) (List.mem_cons_self ..)
    rw [gatherParts, List.mem_cons] at hp
    rw [List.mem_cons, Prod.mk.injEq]
    rcases hp with rfl | hp
    · rw [inMask_foldl_same, inMask_bit hk]
      refine or_congr (by simp) ⟨?_, fun h => ?_⟩
      · rintro ⟨p, hp, rfl, hj⟩; exact (ih hp).1 hj
      · obtain ⟨p, hp, rfl⟩ := exists_mem_gatherParts.2 ⟨j, h⟩
        exact ⟨p, hp, rfl, (ih hp).2 h⟩
    · rw [List.mem_filter, decide_eq_true_eq] at hp
      rw [ih hp.1]
      exact ⟨.inr, fun h => h.resolve_left fun h => hp.2 h.2⟩

theorem nodup_targets_gatherParts (ts : List (Nat × Nat)) : ((gatherParts ts).map Prod.snd).Nodup := by
  induction ts with
  | nil => exact List.nodup_nil
  | cons e t ih =>
    rw [gatherParts, List.map_cons, List.nodup_cons]
    refine ⟨?_, (List.filter_sublist.map _).nodup ih⟩
    rintro hm
    obtain ⟨p, hp, he⟩ := List.mem_map.1 hm
    exact (by simpa using (List.mem_filter.1 hp).2 : p.2 ≠ e.2) he

section
variable {x : Ctx} {goes : Nat → Nat}

theorem Ctx.lt_of_mem_targetsOf : ∀ e ∈ x.targetsOf goes, e.1 < 8 := fun e he =>
  BitVec.lt_of_getLsbD (Ctx.mem_targetsOf.1 (show (e.1, e.2) ∈ x.targetsOf goes from he)).1

theorem Ctx.inMask_part {p : BitVec 8 × Nat} (hp : p ∈ gatherParts (x.targetsOf goes)) (j : Nat) :
    inMask p.1 j = true ↔ inMask x.mask j = true ∧ goes j = p.2 := by
  rw [inMask_of_mem_gatherParts Ctx.lt_of_mem_targetsOf hp, Ctx.mem_targetsOf]

theorem Ctx.exists_part {k : Nat} (hk : inMask x.mask k = true) : ∃ p ∈ gatherParts (x.targetsOf goes), p.2 = goes k :=
  exists_mem_gatherParts.2 ⟨k, Ctx.mem_targetsOf.2 ⟨hk, rfl⟩⟩

/-- Two slices stay in one part where they have one target. -/
theorem Ctx.same_part {j k : Nat} (hj : inMask x.mask j = true) (hk : inMask x.mask k = true) :
    (∃ m ∈ (gatherParts (x.targetsOf goes)).map Prod.fst, inMask m j = true ∧ inMask m k = true) ↔ goes j = goes k := by
  constructor
  · rintro ⟨_, hm, h1, h2⟩
    obtain ⟨p, hp, rfl⟩ := List.mem_map.1 hm
    exact ((Ctx.inMask_part hp j).1 h1).2.trans ((Ctx.inMask_part hp k).1 h2).2.symm
  · intro h
    obtain ⟨p, hp, he⟩ := Ctx.exists_part (goes := goes) hj
    exact ⟨_, List.mem_map_of_mem hp, (Ctx.inMask_part hp j).2 ⟨hj, he.symm⟩, (Ctx.inMask_part hp k).2 ⟨hk, h.symm.trans he.symm⟩⟩

end

/-! ## The warp of a split group -/

theorem Warp.foldl_setPc_eq (parts : List (BitVec 8 × Nat)) (w : Warp) :
    parts.foldl (fun w p => w.setPc p.1 p.2) w = { w with slices := (parts.foldl (fun w p => w.setPc p.1 p.2) w).slices } := by
  induction parts generalizing w with
  | nil => rfl
  | cons p t ih => rw [List.foldl_cons, ih]; rfl

theorem Warp.slice_foldl_setPc {goes : Nat → Nat} {parts : List (BitVec 8 × Nat)} (h : ∀ p ∈ parts, ∀ k, inMask p.1 k = true → p.2 = goes k)
    (w : Warp) (k : Nat) : (parts.foldl (fun w p => w.setPc p.1 p.2) w).slice k =
      if parts.any (fun p => inMask p.1 k) = true ∧ k < w.slices.length then { w.slice k with pc := BitVec.ofNat 48 (goes k / 4 * 4) } else w.slice k := by
  induction parts generalizing w with
  | nil => simp
  | cons p t ih =>
    have hlen : (w.setPc p.1 p.2).slices.length = w.slices.length := by simp [Warp.setPc]
    rw [List.foldl_cons, ih fun p hp => h p (List.mem_cons_of_mem _ hp), Warp.slice_setPc, hlen,
      List.any_cons]
    by_cases hk : k < w.slices.length
    · by_cases hp : inMask p.1 k = true
      · rw [h p (List.mem_cons_self ..) k hp]
        simp [hk, hp]
      · rw [Bool.not_eq_true] at hp
        simp only [hp, Bool.false_eq_true, false_and, if_false, Bool.false_or]
    · simp [hk]

theorem Warp.splitGroup_eq (w : Warp) (mask : BitVec 8) (parts : List (BitVec 8 × Nat)) : w.splitGroup mask parts =
    { w with slices := (w.splitGroup mask parts).slices, groups := (w.splitGroup mask parts).groups } := by
  simp only [Warp.splitGroup]
  rw [Warp.foldl_setPc_eq]

theorem Warp.groups_splitGroup (w : Warp) (mask : BitVec 8) (parts : List (BitVec 8 × Nat)) : (w.splitGroup mask parts).groups =
    w.groups.flatMap (fun g => if g.mask == mask then parts.map (fun p => { g with mask := p.1 }) else [g]) := by
  simp only [Warp.splitGroup]
  rw [Warp.foldl_setPc_eq]

theorem Warp.slice_splitGroup (w : Warp) (mask : BitVec 8) (parts : List (BitVec 8 × Nat)) (k : Nat) :
    (w.splitGroup mask parts).slice k = (parts.foldl (fun w p => w.setPc p.1 p.2) w).slice k := rfl

/-- The warp `w` with the group of `x` split: slices go to `pc` of their target. -/
def Warp.split (w : Warp) (x : Ctx) (goes pc : Nat → Nat) : Warp :=
  w.splitGroup x.mask ((gatherParts (x.targetsOf goes)).map (fun p => (p.1, pc p.2)))

section
variable {x : Ctx} {w : Warp} (goes pc : Nat → Nat)

theorem Warp.slice_split (w : Warp) (k : Nat) : (w.split x goes pc).slice k =
    if inMask x.mask k = true ∧ k < w.slices.length then { w.slice k with pc := BitVec.ofNat 48 (pc (goes k) / 4 * 4) } else w.slice k := by
  rw [Warp.split, Warp.slice_splitGroup, Warp.slice_foldl_setPc (goes := fun k => pc (goes k))]
  · have : ((gatherParts (x.targetsOf goes)).map (fun p => (p.1, pc p.2))).any (fun p => inMask p.1 k) = true ↔ inMask x.mask k = true := by
      rw [List.any_eq_true]
      constructor
      · rintro ⟨_, hm, h⟩
        obtain ⟨p, hp, rfl⟩ := List.mem_map.1 hm
        exact ((Ctx.inMask_part hp k).1 h).1
      · intro hk
        obtain ⟨p, hp, he⟩ := Ctx.exists_part (goes := goes) hk
        exact ⟨_, List.mem_map_of_mem hp, (Ctx.inMask_part hp k).2 ⟨hk, he.symm⟩⟩
    simp only [this]
  · rintro _ hm k hk
    obtain ⟨p, hp, rfl⟩ := List.mem_map.1 hm
    rw [((Ctx.inMask_part hp k).1 hk).2]

/-- The parts of the group take its place, and may issue again after its stall (R23, R107). -/
theorem Warp.groups_split_finished {w1 : Warp} {pc0 : Nat} (h : GroupGoes x w1 pc0) : (w1.split x goes pc).groups =
    x.w.groups.flatMap (fun q => if q.mask = x.mask then
      ((gatherParts (x.targetsOf goes)).map Prod.fst).map
        (fun m => { q with mask := m, readyAt := x.cyc + 1 + x.f.stall.toNat, hold := .none, prog := {} }) else [q]) := by
  rw [Warp.split, Warp.groups_splitGroup, h.groups, List.flatMap_map]
  congr 1
  funext q
  by_cases hq : q.mask = x.mask
  · simp [hq]
  · simp [hq]

theorem OnlyFlow.split {w1 : Warp} (h : OnlyFlow x w1) : OnlyFlow x (w1.split x goes pc) := by
  refine ⟨?_, fun k => ?_, ?_⟩
  · rw [Warp.split, Warp.splitGroup_eq, h.warp]
  · rw [Warp.slice_split, ← h.fmt k]; split <;> rfl
  · rw [← h.flags, Warp.split, Warp.splitGroup_eq]; rfl

theorem HoldsScalars.split {w1 : Warp} {n value : Nat} (h : HoldsScalars x w1 n value) : HoldsScalars x (w1.split x goes pc) n value := by
  intro hx code hc hlt
  rw [← h hx code hc hlt, Warp.split, Warp.splitGroup_eq]; rfl

theorem Warp.s_split (w : Warp) : (w.split x goes pc).s = w.s := by rw [Warp.split, Warp.splitGroup_eq]

end

end Sys2Proof.Machine

/-! # BRA, CALL and RET (R133, R134, R136) -/

namespace Sys2Proof.Machine

/-! ## The two parts of a branch -/

theorem mask_ext {a b : BitVec 8} (h : ∀ k, inMask a k = true ↔ inMask b k = true) : a = b :=
  BitVec.eq_of_getLsbD_eq fun k _ => Bool.eq_iff_iff.2 (h k)

theorem inMask_ofNat_maskOf (l : List Nat) (k : Nat) : inMask (BitVec.ofNat 8 (maskOf l)) k = true ↔ k < 8 ∧ k ∈ l := by
  rw [inMask, BitVec.getLsbD_ofNat, testBit_maskOf, Bool.and_eq_true, decide_eq_true_eq, decide_eq_true_eq]

theorem inMask_and_not (a b : BitVec 8) (k : Nat) : inMask (a &&& ~~~b) k = (inMask a k && !inMask b k) := by
  by_cases hk : k < 8
  · simp [inMask, hk]
  · simp [inMask, BitVec.getLsbD_of_ge a k (by omega)]

section
variable {x : Ctx}

/-- The slices of the group with a target. -/
def Ctx.maskTo (x : Ctx) (goes : Nat → Nat) (t : Nat) : BitVec 8 := BitVec.ofNat 8 (maskOf (x.slices.filter (fun k => decide (goes k = t))))

theorem Ctx.inMask_maskTo {goes : Nat → Nat} {t k : Nat} : inMask (x.maskTo goes t) k = true ↔ inMask x.mask k = true ∧ goes k = t := by
  rw [Ctx.maskTo, inMask_ofNat_maskOf, List.mem_filter, Ctx.mem_slices, decide_eq_true_eq]
  exact and_iff_right_of_imp fun h => BitVec.lt_of_getLsbD h.1

/-- The parts of a group of which the slices `taken` branch, that of the lowest slice first. -/
def Ctx.branchParts (x : Ctx) (taken : BitVec 8) : List (BitVec 8) :=
  if taken = 0 ∨ taken = x.mask then [x.mask]
  else if taken.getLsbD (lowSlice x.mask) then [taken, x.mask &&& ~~~taken] else [x.mask &&& ~~~taken, taken]

/-- The slices of a group begin with the lowest. -/
theorem Ctx.slices_eq_cons {lead : Nat} (hm : inMask x.mask lead = true) : ∃ l, x.slices = lowSlice x.mask :: l := by
  have hhead : x.slices.head? = (List.range 8).find? (inMask x.mask) := List.head?_filter
  cases hs : x.slices with
  | nil => have := Ctx.mem_slices.2 hm; rw [hs] at this; cases this
  | cons k l => rw [hs] at hhead; exact ⟨l, by rw [lowSlice, ← hhead]; rfl⟩

theorem Ctx.targets_eq_cons {lead : Nat} (hm : inMask x.mask lead = true) (goes : Nat → Nat) :
    ∃ l, (gatherParts (x.targetsOf goes)).map Prod.snd = goes (lowSlice x.mask) :: l := by
  obtain ⟨l, hl⟩ := Ctx.slices_eq_cons hm
  rw [Ctx.targetsOf, hl]
  exact ⟨_, rfl⟩

/-- A mask of the slices with one target, where the targets are two. -/
theorem Ctx.maskTo_zero {goes : Nat → Nat} (h01 : ∀ k, goes k = 0 ∨ goes k = 1) : x.maskTo goes 0 = x.mask &&& ~~~x.maskTo goes 1 :=
  mask_ext fun k => by
    rw [inMask_and_not, Bool.and_eq_true, Ctx.inMask_maskTo, Bool.not_eq_true', ← Bool.not_eq_true, Ctx.inMask_maskTo]
    rcases h01 k with h | h <;> simp [h]

/-- Where the targets are two, the parts are those of a branch. -/
theorem Ctx.masks_gatherParts {goes : Nat → Nat} (h01 : ∀ k, goes k = 0 ∨ goes k = 1) {lead : Nat} (hm : inMask x.mask lead = true) :
    (gatherParts (x.targetsOf goes)).map Prod.fst = x.branchParts (x.maskTo goes 1) := by
  have hfst : (gatherParts (x.targetsOf goes)).map Prod.fst = ((gatherParts (x.targetsOf goes)).map Prod.snd).map (x.maskTo goes) := by
    rw [List.map_map]
    exact List.map_congr_left fun p hp => mask_ext fun k => (Ctx.inMask_part hp k).trans Ctx.inMask_maskTo.symm
  have hmem (t : Nat) : t ∈ (gatherParts (x.targetsOf goes)).map Prod.snd ↔ ∃ k, inMask x.mask k = true ∧ goes k = t := by
    rw [List.mem_map, exists_mem_gatherParts]
    simp only [Ctx.mem_targetsOf]
  have hnodup := nodup_targets_gatherParts (x.targetsOf goes)
  obtain ⟨rest, hrest⟩ := Ctx.targets_eq_cons hm goes
  rw [hrest] at hfst hmem hnodup
  rw [List.nodup_cons] at hnodup
  have hlow : inMask x.mask (lowSlice x.mask) = true := Ctx.mem_slices.1 (by obtain ⟨l, hl⟩ := Ctx.slices_eq_cons hm; simp [hl])
  have hother : ∀ t ∈ rest, t = 1 - goes (lowSlice x.mask) := fun t ht => by
    have hne : t ≠ goes (lowSlice x.mask) := fun h => hnodup.1 (h ▸ ht)
    obtain ⟨k, -, hk⟩ := (hmem t).1 (List.mem_cons_of_mem _ ht)
    have := h01 k
    have := h01 (lowSlice x.mask)
    omega
  rw [hfst]
  match rest with
  | [] =>
    have hall (k : Nat) (hk : inMask x.mask k = true) : goes k = goes (lowSlice x.mask) := by
      simpa using (hmem (goes k)).2 ⟨k, hk, rfl⟩
    have hmask : x.maskTo goes (goes (lowSlice x.mask)) = x.mask :=
      mask_ext fun k => Ctx.inMask_maskTo.trans (and_iff_left_of_imp (hall k))
    rw [Ctx.branchParts, if_pos, List.map_singleton, hmask]
    rcases h01 (lowSlice x.mask) with h | h
    · left
      rw [h] at hall
      refine mask_ext fun k => ?_
      rw [Ctx.inMask_maskTo]
      exact ⟨fun hk => by rw [hall k hk.1] at hk; exact absurd hk.2 (by decide), fun hk => by simp [inMask] at hk⟩
    · right; rw [h] at hmask; exact hmask
  | [t] =>
    obtain ⟨k, hk, hgo⟩ := (hmem t).1 (by simp)
    have ht := hother t (by simp)
    have hne (j : Nat) (hj : inMask x.mask j = true) (h1 : goes j = 1) : x.maskTo goes 1 ≠ 0 := fun h => by
      have := Ctx.inMask_maskTo.2 ⟨hj, h1⟩
      rw [h] at this; simp [inMask] at this
    have hpart (j : Nat) (hj : inMask x.mask j = true) (h0 : goes j = 0) : x.maskTo goes 1 ≠ x.mask := fun h => by
      rw [← h, Ctx.inMask_maskTo, h0] at hj; exact absurd hj.2 (by decide)
    have hbit : (x.maskTo goes 1).getLsbD (lowSlice x.mask) = true ↔ goes (lowSlice x.mask) = 1 :=
      Ctx.inMask_maskTo.trans (and_iff_right hlow)
    rw [Ctx.branchParts, ← Ctx.maskTo_zero h01]
    rcases h01 (lowSlice x.mask) with h | h
    · rw [h] at ht ⊢
      rw [if_neg (not_or.2 ⟨hne k hk (hgo.trans ht), hpart _ hlow h⟩), if_neg (fun hb => by rw [hbit, h] at hb; cases hb), ht]
      rfl
    · rw [h] at ht ⊢
      rw [if_neg (not_or.2 ⟨hne _ hlow h, hpart k hk (hgo.trans ht)⟩), if_pos (hbit.2 h), ht]
      rfl
  | t :: u :: l =>
    have h1 := hother t (by simp)
    have h2 := hother u (by simp)
    exact absurd (h1.trans h2.symm) (by have := (List.nodup_cons.1 hnodup.2).1; simp at this; exact this.1)

/-- A slice takes the branch where its target is 1. -/
theorem Ctx.goesTo_branch_iff {lead k : Nat} (hlead : x.Leads lead) : x.goesTo (fun _ => 1) 0 lead k = 1 ↔ x.takes k := by
  have hgo (j : Nat) : (if x.sliceExecs j = true then 1 else 0) = 1 ↔ x.sliceRuns j := by
    rw [← Ctx.sliceExecs_iff]; split <;> simp [*]
  by_cases hk : x.sliceLives k
  · rw [Ctx.goesTo_of_lives hk, hgo]
    exact ⟨.inl, fun h => h.resolve_right fun h => h.1 hk⟩
  · rw [Ctx.goesTo_of_dead hk, hgo]
    constructor
    · exact fun h => .inr ⟨hk, lead, hlead.mem, hlead.lives, h, hlead.least⟩
    · rintro (h | ⟨-, j, hm, hl, hrun, hleast⟩)
      · exact absurd h.lives.2 hk
      · rwa [hlead.unique ⟨hm, hl, hleast⟩]

theorem Ctx.goesTo_branch (lead k : Nat) : x.goesTo (fun _ => 1) 0 lead k = 0 ∨ x.goesTo (fun _ => 1) 0 lead k = 1 := by
  simp only [Ctx.goesTo]
  split <;> split <;> simp

/-- Without an active lane no slice takes a branch. -/
theorem Ctx.idle.not_takes (h : x.idle) {k : Nat} (hk : inMask x.mask k = true) : ¬x.takes k := by
  have hno (j : Nat) (hj : inMask x.mask j = true) : ¬x.sliceLives j := h j (BitVec.lt_of_getLsbD hj) hj
  rintro (hr | ⟨-, j, hm, hl, -⟩)
  · exact hno k hk hr.lives.2
  · exact hno j hm hl

end

/-! ## The instructions -/

theorem braEff_idle {x : Ctx} (h : x.idle) (offset : Nat) (join : Option Nat) (s : State) : braEff offset join x s = s.complete x := by
  simp only [braEff, Ctx.sliceGoes_of_idle h]

/-- What a branch writes before its group parts. -/
def Ctx.writeRecord (x : Ctx) (join : Option Nat) (w : Warp) : Warp :=
  match join with
  | some j => w.deliverScalar x 2 (x.record j)
  | none => w

/-- A branch completes, writes its record, and splits its group by who takes it. -/
theorem braEff_eq {x : Ctx} {offset lead : Nat} {join : Option Nat}
    (h : x.sliceGoes (fun _ => 1) 0 = some (x.targetsOf (x.goesTo (fun _ => 1) 0 lead))) (s : State) :
    braEff offset join x s = (s.complete x).modCtx x (fun w =>
      (x.writeRecord join w).split x (x.goesTo (fun _ => 1) 0 lead) (fun t => if t = 1 then x.target offset else x.next)) := by
  simp only [braEff, h]
  cases join <;> rfl

theorem OnlyFlow.writeRecord {x : Ctx} {w1 : Warp} (h : OnlyFlow x w1) {join : Option Nat} (hd : join ≠ none → 192 ≤ x.f.dst.toNat) :
    OnlyFlow x (x.writeRecord join w1) := by
  cases join with
  | none => exact h
  | some j => exact h.scalarsDelivered (.deliverScalar w1 x 2 _ (hd nofun))

theorem GroupGoes.writeRecord {x : Ctx} {w1 : Warp} {pc : Nat} (h : GroupGoes x w1 pc) {join : Option Nat} (hd : join ≠ none → 192 ≤ x.f.dst.toNat) :
    GroupGoes x (x.writeRecord join w1) pc := by
  cases join with
  | none => exact h
  | some j => exact h.delivered (ScalarsDelivered.deliverScalar w1 x 2 _ (hd nofun)).delivered

@[simp] theorem Ctx.slices_writeRecord (x : Ctx) (join : Option Nat) (w : Warp) : (x.writeRecord join w).slices = w.slices := by
  cases join with
  | none => rfl
  | some j => exact (Delivered.deliver ..).slices

/-- What a branch to `offset` leaves: who takes it, where the slices are, the parts of the group. -/
structure Branched (x : Ctx) (w' : Warp) (offset : Nat) (taken : BitVec 8) : Prop where
  who    : ∀ k, k < 8 → (taken.getLsbD k = true ↔ inMask x.mask k = true ∧ x.takes k)
  slices : ∀ k, (w'.slice k).pc = if inMask x.mask k ∧ k < x.w.slices.length then
    BitVec.ofNat 48 ((if taken.getLsbD k then (x.pc + 4 * offset) % 2 ^ 48 else x.next) / 4 * 4) else (x.w.slice k).pc
  groups : w'.groups = x.w.groups.flatMap (fun q => if q.mask = x.mask then
    (x.branchParts taken).map (fun m => { q with mask := m, readyAt := x.cyc + 1 + x.f.stall.toNat, hold := .none, prog := {} }) else [q])

/-- Where no lane is active the branch only completes. -/
theorem Branched.of_idle {x : Ctx} (h : x.idle) (offset : Nat) : Branched x (x.w.finished x x.next) offset 0 := by
  have hgo := GroupGoes.finished x x.next
  refine ⟨fun k _ => ⟨fun hk => by simp at hk, fun hk => absurd hk.2 (h.not_takes hk.1)⟩, fun k => ?_, ?_⟩
  · rw [hgo.slices k]; simp
  · rw [hgo.groups, ← List.flatMap_pure_eq_map]
    congr 1
    funext q
    by_cases hq : q.mask = x.mask
    · simp [hq, Ctx.branchParts]
    · simp [hq]

theorem Branched.of_split {x : Ctx} {w1 : Warp} {lead : Nat} (hlead : x.Leads lead) (hgo : GroupGoes x w1 x.next)
    (hlen : w1.slices.length = x.w.slices.length) (offset : Nat) :
    Branched x (w1.split x (x.goesTo (fun _ => 1) 0 lead) (fun t => if t = 1 then x.target offset else x.next)) offset
      (x.maskTo (x.goesTo (fun _ => 1) 0 lead) 1) := by
  refine ⟨fun k _ => Ctx.inMask_maskTo.trans (and_congr_right fun _ => Ctx.goesTo_branch_iff hlead), fun k => ?_, ?_⟩
  · rw [Warp.slice_split, hlen]
    by_cases hk : inMask x.mask k = true ∧ k < x.w.slices.length
    · have htaken : (x.maskTo (x.goesTo (fun _ => 1) 0 lead) 1).getLsbD k = true ↔ x.goesTo (fun _ => 1) 0 lead k = 1 :=
        Ctx.inMask_maskTo.trans (and_iff_right hk.1)
      rw [if_pos hk, if_pos hk]
      simp only [htaken]; rfl
    · rw [if_neg hk, if_neg hk, hgo.slices k, if_neg hk]
  · rw [Warp.groups_split_finished _ _ hgo, Ctx.masks_gatherParts (Ctx.goesTo_branch lead) hlead.mem]

/-- What a branch does: it decides for each slice, splits the group, and writes the record of the group as it stood before. -/
theorem Reaches.of_branch {i : Instr} {offset : Ctx → Nat} {join : Ctx → Option Nat} {record : Ctx → Prop}
    (hex : ∀ s, exec i s = issue i noLate (fun x => braEff (offset x) (join x) x) s) (hi : i.isCommit = false)
    (hjoin : ∀ x, record x → join x = some ((x.pc + 4 * (x.f.modi.signExtend 48).toNat) % 2 ^ 48)) (hnone : ∀ x, ¬record x → join x = none)
    {s : State} {g : Selected} {w : Warp} (hr : Runs i s g w) (hdst : join (s.seenBy i g w) ≠ none → 192 ≤ i.fields.dst.toNat) :
    let x := s.seenBy i g w
    Reaches i x s fun _ w' => OnlyFlow x w' ∧ ∃ taken, Branched x w' (offset x) taken ∧
      (record x → ¬x.idle → HoldsScalars x w' 2 (x.record ((x.pc + 4 * (x.f.modi.signExtend 48).toNat) % 2 ^ 48))) ∧
      (¬record x ∨ x.idle → w'.s = x.w.s) := by
  intro x
  by_cases hidle : x.idle
  · exact Reaches.of_completeAt hr (hex s) x.next (braEff_idle hidle ..)
      ⟨.finished hi _, 0, .of_idle hidle (offset x), fun _ h => absurd hidle h, fun _ => Warp.s_finished ..⟩
  · obtain ⟨lead, hlead, hgoes⟩ := Ctx.exists_leads hidle
    have hgo : GroupGoes x (x.writeRecord (join x) (w.finished x x.next)) x.next := (GroupGoes.finished x x.next).writeRecord hdst
    have hlen : (x.writeRecord (join x) (w.finished x x.next)).slices.length = x.w.slices.length := by
      rw [Ctx.slices_writeRecord]; exact (Warp.finished_parts ..).2.2.2
    refine Reaches.of_completeAt_modCtx hr (hex s) x.next _ (braEff_eq (hgoes _ _) s.begun)
      ⟨((OnlyFlow.finished hi x.next).writeRecord hdst).split _ _, _, .of_split hlead hgo hlen (offset x), fun hrec _ => ?_, fun hno => ?_⟩
    · rw [hjoin x hrec]
      exact HoldsScalars.split _ _ (HoldsScalars.finished x x.next 2 _)
    · rw [hnone x (hno.resolve_right hidle), Warp.s_split]
      exact Warp.s_finished ..

/-- CALL in a lane goes to its target and writes its link, unless dst discards it. -/
theorem Reaches.of_call {f : LX} {s : State} {g : Selected} {w : Warp} (hr : Runs (.call f) s g w) (hl : (s.seenBy (.call f) g w).lanes ≠ []) :
    let x := s.seenBy (.call f) g w
    Reaches (.call f) x s fun _ w' => OnlyFlow x w' ∧ GroupGoes x w' (x.target x.offset) ∧
      (x.f.dst ≠ 0xFC → HoldsScalars x w' 2 x.next) ∧ (¬x.f.dst ≠ 0xFC → w'.s = x.w.s) := by
  intro x
  have hd : ScalarsDelivered (w.finished x (x.target x.offset)) ((w.finished x (x.target x.offset)).deliverScalar x 2 x.next) :=
    .deliverScalar _ _ _ _ (hr.le_dst rfl rfl)
  refine Reaches.of_completeAt_modCtx hr rfl (x.target x.offset) (·.deliverScalar x 2 x.next) (if_neg fun h => hl (List.isEmpty_iff.1 h))
    ⟨(OnlyFlow.finished rfl _).scalarsDelivered hd, (GroupGoes.finished x _).delivered hd.delivered, fun _ => HoldsScalars.finished x _ 2 x.next,
      fun h => ?_⟩
  rw [Warp.s_deliverScalar _ _ _ _ (by rw [not_not.1 h]; decide)]
  exact Warp.s_finished ..

/-- RET in a lane goes to its operand. -/
theorem Reaches.of_ret {i : Instr} (hex : ∀ s, exec i s = issue i noLate retEff s) (hi : i.isCommit = false) {s : State} {g : Selected} {w : Warp}
    (hr : Runs i s g w) (hl : (s.seenBy i g w).lanes ≠ []) :
    let x := s.seenBy i g w
    Reaches i x s fun _ w' => OnlyFlow x w' ∧ GroupGoes x w' (x.a 2 scalarLane % 2 ^ 48) ∧ w'.s = x.w.s := by
  intro x
  have hpc : bitsOf (x.a 2 scalarLane) 47 2 * 4 / 4 * 4 = x.a 2 scalarLane % 2 ^ 48 / 4 * 4 := by
    rw [bitsOf, Nat.shiftRight_eq_div_pow]; omega
  have hgo := GroupGoes.finished x (bitsOf (x.a 2 scalarLane) 47 2 * 4)
  exact Reaches.of_completeAt hr (hex s) (bitsOf (x.a 2 scalarLane) 47 2 * 4) (if_neg fun h => hl (List.isEmpty_iff.1 h))
    ⟨.finished hi _, ⟨fun k => by rw [← hpc]; exact hgo.slices k, hgo.groups⟩, Warp.s_finished ..⟩

/-- Settles O21: a branch splits the group of its completed warp by who takes it; CALL and RET complete at their target. -/
theorem branches : Obligations.Branches := by
  unfold Obligations.Branches
  intro f h branch goes
  have branch_of {i : Instr} {offset : Ctx → Nat} {record : Ctx → Prop}
      (hstep : ∀ s g w, Runs i s g w → Reaches i (s.seenBy i g w) s fun _ w' => OnlyFlow (s.seenBy i g w) w' ∧ ∃ taken,
        Branched (s.seenBy i g w) w' (offset (s.seenBy i g w)) taken ∧
        (record (s.seenBy i g w) → ¬(s.seenBy i g w).idle → HoldsScalars (s.seenBy i g w) w' 2
          ((s.seenBy i g w).record (((s.seenBy i g w).pc + 4 * ((s.seenBy i g w).f.modi.signExtend 48).toNat) % 2 ^ 48))) ∧
        (¬record (s.seenBy i g w) ∨ (s.seenBy i g w).idle → w'.s = (s.seenBy i g w).w.s)) : branch i offset record := by
    intro s g w hr x
    obtain ⟨t, w', hex, hw', honly, hflow, taken, hb, hrec, hs⟩ := hstep s g w hr
    exact ⟨t, w', hex, hw', honly, hflow, taken, hb.who, hb.slices, hb.groups, hrec, hs⟩
  have goes_of {i : Instr} {target : Ctx → Nat} {link : Ctx → Prop} (hi : i.isCommit = false)
      (hidle : ∀ s g w, Runs i s g w → (s.seenBy i g w).lanes = [] → exec i s = .next (s.begun.complete (s.seenBy i g w)))
      (hstep : ∀ s g w, Runs i s g w → (s.seenBy i g w).lanes ≠ [] → Reaches i (s.seenBy i g w) s fun _ w' => OnlyFlow (s.seenBy i g w) w' ∧
        GroupGoes (s.seenBy i g w) w' (target (s.seenBy i g w)) ∧ (link (s.seenBy i g w) → HoldsScalars (s.seenBy i g w) w' 2 (s.seenBy i g w).next) ∧
        (¬link (s.seenBy i g w) → w'.s = w.s)) : goes i target link := by
    intro s g w hr x
    by_cases hl : x.lanes = []
    · obtain ⟨t, w', hex, hw', honly, hflow, hgo, hs⟩ := Reaches.of_complete hr hi (hidle s g w hr hl)
      exact ⟨t, w', hex, hw', honly, hflow, by rwa [if_pos hl], fun h => absurd hl h.2, fun _ => hs⟩
    · obtain ⟨t, w', hex, hw', honly, hflow, hgo, hlink, hs⟩ := hstep s g w hr hl
      exact ⟨t, w', hex, hw', honly, hflow, by rwa [if_neg hl], fun h => hlink h.1, fun h => hs fun hk => h ⟨hk, hl⟩⟩
  have ret_of {i : Instr} (hex : ∀ s, exec i s = issue i noLate retEff s) (hi : i.isCommit = false) :
      goes i (fun x => x.a 2 scalarLane % 2 ^ 48) (fun _ => False) :=
    goes_of (target := fun x => x.a 2 scalarLane % 2 ^ 48) (link := fun _ => False) hi (fun s g w hr hl => (hex s).trans ((issue_of_clear hr.1 hr.2).trans (congrArg _ (if_pos (List.isEmpty_iff.2 hl))))) fun s g w hr hl => by
      obtain ⟨t, w', hex, hw', honly, hflow, hgo, hs⟩ := Reaches.of_ret hex hi hr hl
      exact ⟨t, w', hex, hw', honly, hflow, hgo, False.elim, fun _ => hs⟩
  refine ⟨branch_of (i := .bra f) (offset := Ctx.offset) (record := fun x => x.f.dst ≠ 0xFC) fun s g w hr => ?_,
    branch_of (i := .braS h) (offset := fun _ => shortOffset h) (record := fun _ => False) fun s g w hr => ?_,
    goes_of (i := .call f) (target := fun x => (x.pc + 4 * x.offset) % 2 ^ 48) (link := fun x => x.f.dst ≠ 0xFC) rfl (fun s g w hr hl => ?_)
      fun s g w hr hl => .of_call hr hl,
    ret_of (fun _ => rfl) rfl, ret_of (fun _ => rfl) rfl⟩
  · exact Reaches.of_branch (offset := Ctx.offset) (join := Ctx.join) (record := fun x => x.f.dst ≠ 0xFC) (fun _ => rfl) rfl
      (fun x hx => if_neg hx) (fun x hx => if_pos (not_not.1 hx)) hr fun _ => hr.le_dst rfl rfl
  · exact Reaches.of_branch (offset := fun _ => shortOffset h) (join := fun _ => none) (record := fun _ => False) (fun _ => rfl) rfl
      (fun _ h => h.elim) (fun _ _ => rfl) hr (absurd rfl)
  · exact (issue_of_clear hr.1 hr.2).trans (congrArg _ (if_pos (List.isEmpty_iff.2 hl)))

end Sys2Proof.Machine

/-! # BRX by the table of permitted targets (R135) -/

namespace Sys2Proof.Machine

/-! ## Reading the table -/

theorem outside_keepWord (s : State) (c tenant pa : Nat) (v : Word) : (s.keepWord c tenant pa v).outside = s.outside := by
  rw [State.keepWord]
  split
  · rfl
  · rw [outside_modCore]
    split
    · exact outside_readFor ..
    · rfl

theorem Ctx.outside_tableWord {x : Ctx} {s s1 : State} {va k : Nat} {v : Word} (h : x.tableWord s va k = .ok (v, s1)) : s1.outside = s.outside := by
  rw [Ctx.tableWord] at h
  split at h
  · cases h
    rw [outside_keepWord, outside_usePage]
  · cases h

theorem Ctx.outside_tableTargets {x : Ctx} {a : Nat} {l : List Nat} {s s2 : State} {m : SMap Nat} (h : x.tableTargets a s l = .ok (m, s2)) :
    s2.outside = s.outside := by
  induction l generalizing s m with
  | nil => cases h; rfl
  | cons i t ih =>
    rw [Ctx.tableTargets] at h
    split at h
    · cases h
    · rename_i v s1 hword
      split at h
      · cases h
      · rename_i m1 s3 htargets
        cases h
        exact (ih htargets).trans (Ctx.outside_tableWord hword)

/-! ## Where the slices go -/

theorem SMap.get?_filterMap {α : Type} (f : Nat → Option α) (ks : List Nat) (k : Nat) :
    SMap.get? k (ks.filterMap (fun j => (f j).map (fun v => (j, v)))) = if k ∈ ks then f k else none := by
  induction ks with
  | nil => rfl
  | cons j t ih =>
    rw [List.filterMap_cons]
    cases hj : f j with
    | none =>
      simp only [Option.map_none, ih, List.mem_cons]
      by_cases hk : k = j
      · subst hk; simp [hj]
      · simp [hk]
    | some v =>
      simp only [Option.map_some, SMap.get?, ih, List.mem_cons]
      by_cases hk : k = j
      · subst hk; simp [hj]
      · simp [hk]

section
variable {x : Ctx}

/-- The lowest-LID executing lane of a slice. -/
def Ctx.leadLane (x : Ctx) (k : Nat) : Option Nat := x.lanes.find? (fun l => decide (l / 4 = k))

/-- The slices that execute, with the index that the lowest-LID executing lane of each chooses. -/
def Ctx.indices (x : Ctx) : List (Nat × Nat) := x.slices.filterMap (fun k => (x.leadLane k).map (fun l => (k, x.a 1 l)))

/-- The target of a slice that executes, by the entries of the table. -/
def Ctx.entryTarget (x : Ctx) (entries : SMap Nat) (k : Nat) : Nat := SMap.get 0 (SMap.get 0 k x.indices) entries

theorem Ctx.leadLane_eq_none {k : Nat} : x.leadLane k = none ↔ x.sliceExecs k = false := by
  simp [Ctx.leadLane, Ctx.sliceExecs]

theorem Ctx.sliceExecs_of_leadLane {k l : Nat} (h : x.leadLane k = some l) : x.sliceExecs k = true := by
  rw [← Bool.not_eq_false, ← Ctx.leadLane_eq_none, h]; simp

theorem Ctx.entryTarget_eq {k l : Nat} (hk : inMask x.mask k = true) (hl : x.leadLane k = some l) (entries : SMap Nat) :
    x.entryTarget entries k = SMap.get 0 (x.a 1 l) entries := by
  have : SMap.get? k x.indices = some (x.a 1 l) := by
    have h := SMap.get?_filterMap (fun k => (x.leadLane k).map (x.a 1)) x.slices k
    simp only [Option.map_map, Function.comp_def, if_pos (Ctx.mem_slices.2 hk), hl, Option.map_some] at h
    exact h
  have hget : SMap.get 0 k x.indices = x.a 1 l := by rw [SMap.get, this]; rfl
  rw [Ctx.entryTarget, hget]

/-- The targets that the table gives: by the lead lane of a slice, the next instruction for a slice whose guard is false, and with the lowest
active slice for one without active lanes. -/
theorem Ctx.goesTo_entry {lead : Nat} (hlead : x.Leads lead) (entries : SMap Nat) :
    (∀ k l, inMask x.mask k = true → x.leadLane k = some l →
      x.goesTo (x.entryTarget entries) x.next lead k = SMap.get 0 (x.a 1 l) entries) ∧
    (∀ k, inMask x.mask k = true → x.leadLane k = none → x.sliceLives k → x.goesTo (x.entryTarget entries) x.next lead k = x.next) ∧
    ∀ k j, inMask x.mask k = true → ¬x.sliceLives k → inMask x.mask j = true → x.sliceLives j →
      (∀ i, i < j → inMask x.mask i = true → ¬x.sliceLives i) →
      x.goesTo (x.entryTarget entries) x.next lead k = x.goesTo (x.entryTarget entries) x.next lead j := by
  refine ⟨fun k l hk hl => ?_, fun k hk hn hlive => ?_, fun k j _ hdead hj hlive hleast => ?_⟩
  · have hexec := Ctx.sliceExecs_of_leadLane hl
    rw [Ctx.goesTo_of_lives (Ctx.sliceExecs_iff.1 hexec).lives.2, if_pos hexec, Ctx.entryTarget_eq hk hl]
  · rw [Ctx.goesTo_of_lives hlive, Ctx.leadLane_eq_none.1 hn]; rfl
  · obtain rfl := hlead.unique ⟨hj, hlive, hleast⟩
    rw [Ctx.goesTo_of_dead hdead, Ctx.goesTo_of_lives hlive]

end

/-! ## The instruction -/

/-- The entries of the table that BRX reads: one for each index chosen, and the join's. -/
def Ctx.needs (x : Ctx) (count : Word) : List Nat :=
  ((((List.range 8).filter (inMask x.mask)).filterMap (fun k => (x.leadLane k).map (x.a 1))).dedup ++
    (if x.f.dst = 0xFC then [] else [count.toNat - 1]))

/-- The record of BRX, where its join is the table's last entry. -/
def Ctx.tableJoin (x : Ctx) (count : Word) (entries : SMap Nat) : Option Nat :=
  if x.f.dst = 0xFC then none else some (SMap.get 0 (count.toNat - 1) entries)

theorem brxEff_eq {x : Ctx} {s s1 s2 : State} {count : Word} {entries : SMap Nat} {lead : Nat} (hl : x.lanes ≠ [])
    (ha : x.b 2 scalarLane % 4 = 0) (hcount : x.tableWord s (x.b 2 scalarLane) 0 = .ok (count, s1)) (h2 : 2 ≤ count.toNat)
    (h4096 : count.toNat ≤ 4096) (hindex : ∀ l ∈ x.lanes, x.a 1 l < count.toNat - 1)
    (htargets : x.tableTargets (x.b 2 scalarLane) s1 (x.needs count) = .ok (entries, s2))
    (hgoes : ∀ own miss, x.sliceGoes own miss = some (x.targetsOf (x.goesTo own miss lead))) :
    brxEff x s = (s2.complete x).modCtx x (fun w =>
      (x.writeRecord (x.tableJoin count entries) w).split x (x.goesTo (x.entryTarget entries) x.next lead) id) := by
  obtain ⟨low, rest, hcons⟩ := List.exists_cons_of_ne_nil hl
  have hnone : x.lanes.find? (fun l => decide (count.toNat - 1 ≤ x.a 1 l)) = none := by
    rw [List.find?_eq_none]
    intro l hm
    have := hindex l hm
    simp only [decide_eq_true_eq]; omega
  have hneed : x.needs count = ((x.slices.filterMap (fun k => (x.lanes.find? (fun l => l / 4 = k)).map (fun l => (k, x.a 1 l)))).map Prod.snd).dedup ++
      (if x.f.dst = 0xFC then [] else [count.toNat - 1]) := by
    rw [List.map_filterMap]
    simp only [Option.map_map, Function.comp_def]
    rfl
  rw [hneed] at htargets
  have hbad : ¬(count.toNat < 2 ∨ 4096 < count.toNat) := by omega
  unfold brxEff
  split
  · rename_i h; exact absurd h hl
  · simp only [ha, ne_eq, not_true_eq_false, if_false, hcount, hbad, hnone, htargets, hgoes]
    congr 1
    funext w
    simp only [Warp.split, id_eq, Prod.mk.eta, List.map_id']
    rw [Ctx.tableJoin]
    split <;> rfl

/-- Settles O22: BRX reads its table, completes, writes its record, and splits its group by the targets of its slices. -/
theorem indexedBranch : Obligations.IndexedBranch := by
  unfold Obligations.IndexedBranch
  intro f s g w hr x table lead
  refine ⟨fun hl => ?_, fun count s1 entries s2 hl ha hcount h2 h4096 hindex htargets hw2 => ?_⟩
  · refine Reaches.of_complete hr rfl ((issue_of_clear hr.1 hr.2).trans (congrArg _ ?_))
    change brxEff x s.begun = _
    unfold brxEff
    rw [hl]
  · obtain ⟨j, hlead, hgoes⟩ := Ctx.exists_leads (Ctx.not_idle_of_lanes hl)
    have hex : exec (.brx f) s = .next _ := (issue_of_clear hr.1 hr.2).trans
      (congrArg _ (brxEff_eq (x := x) hl ha hcount h2 h4096 hindex htargets hgoes))
    have hmem : s2.mem = s.begun.mem := mem_of_outside ((Ctx.outside_tableTargets htargets).trans (Ctx.outside_tableWord hcount))
    have hdst : x.tableJoin count entries ≠ none → 192 ≤ x.f.dst.toNat := fun _ => hr.le_dst rfl rfl
    have hgo : GroupGoes x (x.writeRecord (x.tableJoin count entries) (x.w.finished x x.next)) x.next :=
      (GroupGoes.finished x x.next).writeRecord hdst
    have hlen : (x.writeRecord (x.tableJoin count entries) (x.w.finished x x.next)).slices.length = x.w.slices.length := by
      rw [Ctx.slices_writeRecord]; exact (Warp.finished_parts ..).2.2.2
    obtain ⟨hown, hmiss, hdead⟩ := Ctx.goesTo_entry hlead entries
    refine ⟨_, (x.writeRecord (x.tableJoin count entries) (x.w.finished x x.next)).split x (x.goesTo (x.entryTarget entries) x.next j) id,
      hex, ?_, ?_, ((OnlyFlow.finished rfl x.next).writeRecord hdst).split _ _, x.goesTo (x.entryTarget entries) x.next j, hown, hmiss, hdead,
      fun k => ?_, ⟨(gatherParts (x.targetsOf (x.goesTo (x.entryTarget entries) x.next j))).map Prod.fst,
        fun _ _ _ _ hj hk => Ctx.same_part hj hk, Warp.groups_split_finished _ _ hgo⟩, ?_⟩
    · have hw' : (s2.complete x).warp? g.core g.slot = some (x.w.finished x x.next) := (Rewrites.completeAt (x := x) x.next hw2).1
      rw [State.modCtx, State.warp?_modWarp, if_pos ⟨rfl, rfl⟩, hw']; rfl
    · rw [State.modCtx, State.modWarp_mem, State.complete, State.completeAt_eq (x := x) hw2]; exact hmem
    · rw [Warp.slice_split, hlen]
      by_cases hk : inMask x.mask k = true ∧ k < x.w.slices.length
      · rw [if_pos hk, if_pos hk]; rfl
      · rw [if_neg hk, if_neg hk, hgo.slices k, if_neg hk]
    · rw [Ctx.tableJoin]
      split
      · rw [Warp.s_split]; exact Warp.s_finished ..
      · exact HoldsScalars.split _ _ (HoldsScalars.finished x x.next 2 _)

end Sys2Proof.Machine

/-! # REGANG (R140) -/

namespace Sys2Proof.Machine

/-! ## The groups that wait at a REGANG -/

section
variable {w : Warp} {pc : Nat}

theorem Warp.mem_regangWaiters {p : Group × BitVec 8 × Nat × Nat × BitVec 8} : p ∈ w.regangWaiters pc ↔
    p.1 ∈ w.groups ∧ p.1.hold = .regang p.2.1 p.2.2.1 p.2.2.2.1 p.2.2.2.2 ∧ w.pcOf p.1.mask = pc := by
  rw [Warp.regangWaiters, List.mem_filterMap]
  constructor
  · rintro ⟨q, hq, h⟩
    split at h
    · rename_i m t l d hh
      split at h
      · cases h; exact ⟨hq, hh, ‹_›⟩
      · cases h
    · cases h
  · rintro ⟨hq, hh, hp⟩
    exact ⟨p.1, hq, by simp only [hh, hp, if_true]⟩

/-- The slices that wait at a REGANG. -/
def Warp.waitMask (w : Warp) (pc : Nat) : BitVec 8 := (w.regangWaiters pc).foldl (fun a g => a ||| g.1.mask) 0

theorem inMask_foldl_or {α : Type} (f : α → BitVec 8) (l : List α) (a : BitVec 8) (k : Nat) :
    inMask (l.foldl (fun a p => a ||| f p) a) k = true ↔ inMask a k = true ∨ ∃ p ∈ l, inMask (f p) k = true := by
  induction l generalizing a with
  | nil => simp
  | cons p t ih => rw [List.foldl_cons, ih, List.exists_mem_cons_iff, inMask_or, Bool.or_eq_true, or_assoc]

theorem Warp.inMask_waitMask {k : Nat} : inMask (w.waitMask pc) k = true ↔
    ∃ q ∈ w.groups, (∃ m t l d, q.hold = .regang m t l d) ∧ w.pcOf q.mask = pc ∧ inMask q.mask k = true := by
  rw [Warp.waitMask, inMask_foldl_or (fun p : Group × BitVec 8 × Nat × Nat × BitVec 8 => p.1.mask)]
  constructor
  · rintro (h | ⟨p, hp, hk⟩)
    · simp [inMask] at h
    · obtain ⟨hq, hh, hpc⟩ := Warp.mem_regangWaiters.1 hp
      exact ⟨p.1, hq, ⟨_, _, _, _, hh⟩, hpc, hk⟩
  · rintro ⟨q, hq, ⟨m, t, l, d, hh⟩, hpc, hk⟩
    exact .inr ⟨(q, m, t, l, d), Warp.mem_regangWaiters.2 ⟨hq, hh, hpc⟩, hk⟩

theorem Warp.regangFull_iff {m : BitVec 8} : w.regangFull pc m = true ↔
    ∀ k, inMask m k = true → inMask (w.waitMask pc) k = true ∨ w.retired k = true := by
  simp only [Warp.regangFull, List.all_eq_true, List.mem_range, Bool.or_eq_true, Bool.not_eq_true']
  rw [← Warp.waitMask]
  constructor
  · intro h k hk
    rcases h k (BitVec.lt_of_getLsbD hk) with (h | h) | h
    · rw [hk] at h; cases h
    · exact .inl h
    · exact .inr h
  · intro h k _
    cases hk : inMask m k
    · exact .inl (.inl rfl)
    · rcases h k hk with h | h
      · exact .inl (.inr h)
      · exact .inr h

/-- The program counters of the REGANGs whose wait has ended. -/
def Warp.fullPcs (w : Warp) : List Nat := w.groups.filterMap (fun q =>
  match q.hold with
  | .regang m _ _ _ => if w.regangFull (w.pcOf q.mask) m then some (w.pcOf q.mask) else none
  | _ => none)

theorem Warp.mem_fullPcs : pc ∈ w.fullPcs ↔
    ∃ q ∈ w.groups, ∃ m t l d, q.hold = .regang m t l d ∧ w.pcOf q.mask = pc ∧ w.regangFull pc m = true := by
  rw [Warp.fullPcs, List.mem_filterMap]
  constructor
  · rintro ⟨q, hq, h⟩
    split at h
    · rename_i m t l d hh
      split at h
      · cases h; exact ⟨q, hq, m, t, l, d, hh, rfl, ‹_›⟩
      · cases h
    · cases h
  · rintro ⟨q, hq, m, t, l, d, hh, rfl, hf⟩
    exact ⟨q, hq, by simp only [hh, hf, if_true]⟩

theorem Warp.regangAll_eq (cyc draw : Nat) : w.regangAll cyc draw = w.fullPcs.dedup.foldl (fun w pc => w.regangMerge pc cyc draw) w := rfl

theorem Warp.regangAll_of_none (h : ∀ p, p ∉ w.fullPcs) (cyc draw : Nat) : w.regangAll cyc draw = w := by
  rw [Warp.regangAll_eq, List.eq_nil_iff_forall_not_mem.2 h]; rfl

theorem Warp.regangAll_of_one (hpc : pc ∈ w.fullPcs) (h : ∀ p ∈ w.fullPcs, p = pc) (cyc draw : Nat) :
    w.regangAll cyc draw = w.regangMerge pc cyc draw := by
  rw [Warp.regangAll_eq, List.eq_replicate_of_mem h, List.replicate_dedup (List.length_pos_of_mem hpc).ne']; rfl

/-! ## The merge -/

/-- The group that the waiters of a REGANG become. -/
def Warp.mergedGroup (w : Warp) (pc : Nat) : Group :=
  { mask := w.waitMask pc, readyAt := (w.regangWaiters pc).foldl (fun a g => max a g.1.readyAt) 0, held := (w.regangWaiters pc).any (fun g => g.1.held) }

/-- The warp whose waiters have become one group, before dst is delivered. -/
def Warp.gathered (w : Warp) (pc note : Nat) : Warp :=
  let w1 := (w.setPc (w.waitMask pc) ((pc + note / 4096) % 2 ^ 48)).setFmt (w.waitMask pc) (BitVec.ofNat 12 (note % 4096))
  { w1 with
    groups := w1.groups.filterMap (fun q =>
      if !(w.regangWaiters pc).any (fun p => p.1.mask == q.mask) then some q
      else if inMask q.mask (lowSlice (w.waitMask pc)) then some (w.mergedGroup pc) else none) }

/-- A merge whose waiters agree on the note and on dst. -/
theorem Warp.regangMerge_eq {note : Nat} {dst : BitVec 8} (hne : w.regangWaiters pc ≠ [])
    (hall : ∀ p ∈ w.regangWaiters pc, p.1.prog.note = note ∧ p.2.2.2.2 = dst) (cyc draw : Nat) :
    w.regangMerge pc cyc draw =
      (w.gathered pc note).deliverReg cyc draw (cyc + 2) dst.toNat scalarLane (BitVec.ofNat 32 (w.waitMask pc).toNat) := by
  obtain ⟨rfl, rfl⟩ := hall _ (List.getLast_mem hne)
  rw [Warp.regangMerge, List.getLast?_eq_getLast_of_ne_nil hne]
  rfl

theorem Warp.gathered_eq (note : Nat) :
    w.gathered pc note = { w with slices := (w.gathered pc note).slices, groups := (w.gathered pc note).groups } := rfl

theorem Warp.slice_gathered (note k : Nat) : (w.gathered pc note).slice k =
    if inMask (w.waitMask pc) k = true ∧ k < w.slices.length then
      { pc := BitVec.ofNat 48 ((pc + note / 4096) % 2 ^ 48 / 4 * 4), fmt := BitVec.ofNat 12 (note % 4096) }
    else w.slice k := by
  change ((w.setPc (w.waitMask pc) ((pc + note / 4096) % 2 ^ 48)).setFmt (w.waitMask pc) (BitVec.ofNat 12 (note % 4096))).slice k = _
  rw [Warp.slice_setFmt, Warp.slice_setPc, show (w.setPc _ _).slices.length = w.slices.length by simp [Warp.setPc]]
  split <;> rfl

end

/-! ## A group that comes to a REGANG -/

/-- The note of a waiting group: the record's FMT and the length of the instruction. -/
def Ctx.regangNote (x : Ctx) : Nat := bitsOf (x.a 2 scalarLane) 19 8 + 4096 * x.i.length

/-- The mask of the record that REGANG reads. -/
def Ctx.regangMask (x : Ctx) : BitVec 8 := BitVec.ofNat 8 (x.a 2 scalarLane)

section
variable (x : Ctx)

/-- The issuing group, which begins to wait. -/
def Ctx.waiter (q : Group) : Group := { q with
  readyAt := x.cyc + 1 + x.f.stall.toNat, hold := .regang x.regangMask x.cyc (x.b 1 scalarLane) x.f.dst, prog := { note := x.regangNote } }

/-- The warp whose issuing group waits at its REGANG. -/
def Ctx.atRegang : Warp := (x.w.finished x x.pc).modGroup x.mask (fun q =>
  { q with hold := .regang x.regangMask x.cyc (x.b 1 scalarLane) x.f.dst, prog := { note := x.regangNote } })

theorem Ctx.groups_atRegang : (x.atRegang).groups = x.w.groups.map (fun q => if q.mask = x.mask then x.waiter q else q) := by
  rw [Ctx.atRegang, Warp.modGroup, Warp.groups_finished, List.map_map]
  refine List.map_congr_left fun q _ => ?_
  by_cases hq : q.mask = x.mask
  · simp [hq, Ctx.waiter]
  · simp [hq]

theorem Ctx.mem_groups_atRegang {q : Group} : q ∈ (x.atRegang).groups ↔
    (∃ y ∈ x.w.groups, y.mask = x.mask ∧ q = x.waiter y) ∨ (q ∈ x.w.groups ∧ q.mask ≠ x.mask) := by
  rw [Ctx.groups_atRegang, List.mem_map]
  constructor
  · rintro ⟨y, hy, rfl⟩
    by_cases hm : y.mask = x.mask
    · rw [if_pos hm]; exact .inl ⟨y, hy, hm, rfl⟩
    · rw [if_neg hm]; exact .inr ⟨hy, hm⟩
  · rintro (⟨y, hy, hm, rfl⟩ | ⟨hq, hm⟩)
    · exact ⟨y, hy, if_pos hm⟩
    · exact ⟨q, hq, if_neg hm⟩

theorem Ctx.slice_atRegang (k : Nat) : (x.atRegang).slice k = { x.w.slice k with
    pc := if inMask x.mask k ∧ k < x.w.slices.length then BitVec.ofNat 48 (x.pc / 4 * 4) else (x.w.slice k).pc } := by
  rw [Ctx.atRegang, Warp.slice_modGroup, Warp.slice_finished_eq]

theorem Ctx.atRegang_eq (hi : x.i.isCommit = false) : x.atRegang = { x.w with
    slices := (x.atRegang).slices, groups := (x.atRegang).groups,
    lease := { x.w.lease with run := x.w.lease.run + 1 }, preempt := x.w.preempt.map (· + 1) } := by
  rw [Ctx.atRegang, Warp.modGroup, Warp.finished_eq hi]

theorem Ctx.retired_atRegang (k : Nat) : (x.atRegang).retired k = x.w.retired k := by
  simp only [Ctx.atRegang, Warp.modGroup, Warp.retired, Warp.lane, Warp.lanes_finished]

theorem Ctx.length_atRegang : (x.atRegang).slices.length = x.w.slices.length := (Warp.finished_parts x.w x x.pc).2.2.2

theorem Ctx.pc_lt : x.pc < 2 ^ 48 := BitVec.isLt _

/-- The waiting group stands at its REGANG. -/
theorem Ctx.pcOf_atRegang (h0 : x.mask ≠ 0) : (x.atRegang).pcOf x.mask = x.pc / 4 * 4 := by
  have hpc := x.pc_lt
  rw [Warp.pcOf, Ctx.slice_atRegang]
  by_cases hl : lowSlice x.mask < x.w.slices.length
  · simp only [inMask_lowSlice h0, hl, and_self, if_true, BitVec.toNat_ofNat]
    omega
  · have hz : x.pc = 0 := by rw [Ctx.pc, Warp.pcOf, Warp.slice, List.getD_eq_default _ _ (by omega)]; rfl
    simp only [hl, and_false, if_false]
    rw [← Warp.pcOf, ← Ctx.pc, hz]

/-- A group without a slice in common with the issuing one stays where it is. -/
theorem Ctx.pcOf_atRegang_other {q : BitVec 8} (h0 : q ≠ 0) (hdis : x.mask &&& q = 0) : (x.atRegang).pcOf q = x.w.pcOf q := by
  have hnot : ¬inMask x.mask (lowSlice q) = true := fun h => inMask_disjoint hdis _ ⟨h, inMask_lowSlice h0⟩
  rw [Warp.pcOf, Ctx.slice_atRegang]
  simp only [hnot, false_and, Bool.false_eq_true, if_false]
  rfl

end

/-! ## REGANG -/

theorem bitsOf_lt (v hi lo : Nat) : bitsOf v hi lo < 2 ^ (hi + 1 - lo) := Nat.mod_lt _ (by positivity)

theorem Ctx.regangNote_fmt (x : Ctx) : x.regangNote % 4096 = bitsOf (x.a 2 scalarLane) 19 8 := by
  have h : bitsOf (x.a 2 scalarLane) 19 8 < 4096 := bitsOf_lt ..
  rw [Ctx.regangNote]; omega

theorem Ctx.regangNote_length (x : Ctx) : x.regangNote / 4096 = x.i.length := by
  have h : bitsOf (x.a 2 scalarLane) 19 8 < 4096 := bitsOf_lt ..
  rw [Ctx.regangNote]; omega

/-- Behind the REGANG, whichever of its bits 1:0 the PC had. -/
theorem Ctx.pc_regang (x : Ctx) : (x.pc / 4 * 4 + x.i.length) % 2 ^ 48 / 4 * 4 = x.next / 4 * 4 := by
  rw [Ctx.next, Instr.length]; omega

theorem and_not_eq_zero_iff {a b : BitVec 8} : a &&& ~~~b = 0 ↔ ∀ k, inMask a k = true → inMask b k = true := by
  constructor
  · intro h k hk
    have := inMask_and_not a b k
    rw [h, hk] at this
    cases hb : inMask b k
    · rw [hb] at this; simp [inMask] at this
    · rfl
  · intro h
    refine mask_ext fun k => ?_
    rw [inMask_and_not]
    cases ha : inMask a k
    · simp [inMask]
    · rw [h k ha]; simp [inMask]

/-- The record is another join's, or a slice of the group is not in its mask. -/
def Ctx.elsewhere (x : Ctx) : Prop :=
  bitsOf x.pc 33 2 ≠ x.a 2 scalarLane / 2 ^ 32 ∨ ¬∀ k, inMask x.mask k = true → inMask x.regangMask k = true

theorem regangEff_elsewhere {x : Ctx} (h : x.elsewhere) (s : State) :
    regangEff x s = (s.complete x).modCtx x (·.deliverScalar x 1 x.mask.toNat) := by
  rw [Ctx.elsewhere, ← and_not_eq_zero_iff] at h
  rw [regangEff]; exact if_pos h

theorem regangEff_here {x : Ctx} (h : ¬x.elsewhere) (s : State) : regangEff x s =
    (s.completeAt x x.pc).modCtx x (fun w => (w.modGroup x.mask (fun q =>
      { q with hold := .regang x.regangMask x.cyc (x.b 1 scalarLane) x.f.dst, prog := { note := x.regangNote } })).regangAll x.cyc x.draw) := by
  rw [Ctx.elsewhere, ← and_not_eq_zero_iff] at h
  rw [regangEff]; exact if_neg h

/-- REGANG at the record's join: the group waits, and what is complete merges. -/
theorem Reaches.of_regang {f : LX} {s : State} {g : Selected} {w : Warp} (hr : Runs (.regang f) s g w)
    (hn : ¬(s.seenBy (.regang f) g w).elsewhere) {post : State → Warp → Prop}
    (h : ∀ t, post t ((s.seenBy (.regang f) g w).atRegang.regangAll
      (s.seenBy (.regang f) g w).cyc (s.seenBy (.regang f) g w).draw)) : Reaches (.regang f) (s.seenBy (.regang f) g w) s post :=
  Reaches.of_completeAt_modCtx hr rfl _ _ (regangEff_here hn _) (h _)

section
variable {x : Ctx}

theorem Ctx.gathered_atRegang_eq (x : Ctx) (hi : x.i.isCommit = false) (pc : Nat) : x.atRegang.gathered pc x.regangNote = { x.w with
    slices := (x.atRegang.gathered pc x.regangNote).slices, groups := (x.atRegang.gathered pc x.regangNote).groups,
    lease := { x.w.lease with run := x.w.lease.run + 1 }, preempt := x.w.preempt.map (· + 1) } := by
  rw [Warp.gathered_eq, x.atRegang_eq hi]

/-- The merge at the REGANG that the group has come to: the waiters agree on the note and on dst. -/
theorem Ctx.merge_atRegang (hi : x.i.isCommit = false) (hd : 192 ≤ x.f.dst.toNat) {M : BitVec 8}
    (hne : x.atRegang.regangWaiters (x.pc / 4 * 4) ≠ [])
    (hall : ∀ p ∈ x.atRegang.regangWaiters (x.pc / 4 * 4), p.1.prog.note = x.regangNote ∧ p.2.2.2.2 = x.f.dst)
    (hM : x.atRegang.waitMask (x.pc / 4 * 4) = M) (hsub : ∀ k, inMask x.mask k = true → inMask M k = true) :
    let w' := x.atRegang.regangMerge (x.pc / 4 * 4) x.cyc x.draw
    w' = { x.w with
      s := w'.s, slices := w'.slices, groups := w'.groups, undelivered := w'.undelivered, flagsDue := w'.flagsDue,
      special := { x.w.special with fflags := w'.special.fflags }, lease := { x.w.lease with run := x.w.lease.run + 1 },
      preempt := x.w.preempt.map (· + 1) } ∧
    (∀ k, w'.slice k = if inMask M k ∧ k < x.w.slices.length then
      { pc := BitVec.ofNat 48 (x.next / 4 * 4), fmt := BitVec.ofNat 12 (bitsOf (x.a 2 scalarLane) 19 8) } else x.w.slice k) ∧
    w'.groups = (x.atRegang.gathered (x.pc / 4 * 4) x.regangNote).groups ∧ HoldsScalars x w' 1 M.toNat := by
  intro w'
  have heq : w' = _ := Warp.regangMerge_eq hne hall x.cyc x.draw
  rw [hM] at heq
  have hvw := x.gathered_atRegang_eq hi (x.pc / 4 * 4)
  set v := x.atRegang.gathered (x.pc / 4 * 4) x.regangNote with hv
  have hdel := Warp.deliverReg_scalar_eq v x.cyc x.draw (x.cyc + 2) x.f.dst.toNat scalarLane (BitVec.ofNat 32 M.toNat) hd
  rw [← heq] at hdel
  refine ⟨by rw [hdel, hvw], fun k => ?_, by rw [hdel], ?_⟩
  · rw [show w'.slice k = v.slice k by rw [hdel]; rfl, hv, Warp.slice_gathered, hM, Ctx.regangNote_length, Ctx.regangNote_fmt, Ctx.pc_regang,
      Ctx.length_atRegang, Ctx.slice_atRegang]
    split
    · rfl
    · rename_i h
      rw [if_neg fun hk => h ⟨hsub k hk.1, hk.2⟩]
  · rw [heq]
    exact HoldsScalars.deliverScalar (w := v) 1 M.toNat (by rw [hvw]) fun hx u hu => by
      rw [show v.undelivered = x.w.undelivered by rw [hvw], hx] at hu
      cases hu

theorem Ctx.waiters_ne_nil_of_waitMask (x : Ctx) {pc : Nat} {M : BitVec 8} (h0 : M ≠ 0) (h : x.atRegang.waitMask pc = M) :
    x.atRegang.regangWaiters pc ≠ [] := fun hn => h0 (by rw [← h, Warp.waitMask, hn]; rfl)

/-- No group but the issuing one waits at a REGANG. -/
def Ctx.Alone (x : Ctx) : Prop := ∀ q ∈ x.w.groups, q.mask ≠ x.mask → ∀ m a t d, q.hold ≠ .regang m a t d

/-- Then only the issuing group waits. -/
theorem Ctx.Alone.waits (h : x.Alone) {q : Group} (hq : q ∈ x.atRegang.groups) {m d : BitVec 8} {t l : Nat} (hh : q.hold = .regang m t l d) :
    ∃ y ∈ x.w.groups, y.mask = x.mask ∧ q = x.waiter y := by
  rcases x.mem_groups_atRegang.1 hq with hy | ⟨hq, hm⟩
  · exact hy
  · exact absurd hh (h q hq hm m t l d)

theorem Ctx.Alone.sub_waitMask (h : x.Alone) {pc k : Nat} (hk : inMask (x.atRegang.waitMask pc) k = true) : inMask x.mask k = true := by
  obtain ⟨q, hq, ⟨m, t, l, d, hh⟩, -, hk⟩ := Warp.inMask_waitMask.1 hk
  obtain ⟨y, -, hm, rfl⟩ := h.waits hq hh
  rwa [← hm]

/-- A slice of the record is missing: no REGANG is full. -/
theorem Ctx.Alone.regangAll_of_missing (h : x.Alone) {k : Nat} (hk : inMask x.regangMask k = true) (hx : inMask x.mask k = false)
    (hr : x.w.retired k = false) (cyc draw : Nat) : x.atRegang.regangAll cyc draw = x.atRegang := by
  refine Warp.regangAll_of_none (fun p hp => ?_) cyc draw
  obtain ⟨q, hq, m, t, l, d, hh, -, hfull⟩ := Warp.mem_fullPcs.1 hp
  obtain ⟨y, -, -, rfl⟩ := h.waits hq hh
  cases hh
  rcases Warp.regangFull_iff.1 hfull k hk with hw | hw
  · rw [h.sub_waitMask hw] at hx; cases hx
  · rw [Ctx.retired_atRegang, hr] at hw; cases hw

/-- The issuing group alone waits at its REGANG. -/
theorem Ctx.Alone.waitMask (h : x.Alone) (h0 : x.mask ≠ 0) {q : Group} (hq : q ∈ x.w.groups) (hm : q.mask = x.mask) :
    x.atRegang.waitMask (x.pc / 4 * 4) = x.mask := by
  refine mask_ext fun k => ⟨h.sub_waitMask, fun hk => Warp.inMask_waitMask.2
    ⟨x.waiter q, x.mem_groups_atRegang.2 (.inl ⟨q, hq, hm, rfl⟩), ⟨_, _, _, _, rfl⟩, ?_, ?_⟩⟩
  · exact (congrArg x.atRegang.pcOf hm).trans (x.pcOf_atRegang h0)
  · exact (congrArg (inMask · k) hm).trans hk

/-- Every slice of the record is of the group, or retired: the group's REGANG is the one that is full. -/
theorem Ctx.Alone.regangAll_of_full (h : x.Alone) (h0 : x.mask ≠ 0) {q : Group} (hq : q ∈ x.w.groups) (hm : q.mask = x.mask)
    (hfull : ∀ k, inMask x.regangMask k = true → inMask x.mask k = true ∨ x.w.retired k = true) (cyc draw : Nat) :
    x.atRegang.regangAll cyc draw = x.atRegang.regangMerge (x.pc / 4 * 4) cyc draw := by
  have hpc {y : Group} (hy : y.mask = x.mask) : x.atRegang.pcOf (x.waiter y).mask = x.pc / 4 * 4 :=
    (congrArg x.atRegang.pcOf hy).trans (x.pcOf_atRegang h0)
  refine Warp.regangAll_of_one (Warp.mem_fullPcs.2 ⟨x.waiter q, x.mem_groups_atRegang.2 (.inl ⟨q, hq, hm, rfl⟩),
    _, _, _, _, rfl, hpc hm, Warp.regangFull_iff.2 fun k hk => ?_⟩) (fun p hp => ?_) cyc draw
  · rw [h.waitMask h0 hq hm, Ctx.retired_atRegang]
    exact hfull k hk
  · obtain ⟨y, hy, m, t, l, d, hh, rfl, -⟩ := Warp.mem_fullPcs.1 hp
    obtain ⟨z, -, hz, rfl⟩ := h.waits hy hh
    exact hpc hz

/-- The waiters of the group that waits alone agree with it. -/
theorem Ctx.Alone.waiters_agree (h : x.Alone) {pc : Nat} (p) (hp : p ∈ x.atRegang.regangWaiters pc) :
    p.1.prog.note = x.regangNote ∧ p.2.2.2.2 = x.f.dst := by
  obtain ⟨hq, hh, -⟩ := Warp.mem_regangWaiters.1 hp
  obtain ⟨y, -, -, hy⟩ := h.waits hq hh
  rw [hy] at hh ⊢
  injection hh with _ _ _ hd
  exact ⟨rfl, hd.symm⟩

theorem Warp.groups_gathered {w : Warp} {pc note : Nat} : (w.gathered pc note).groups = w.groups.filterMap (fun q =>
    if !(w.regangWaiters pc).any (fun p => p.1.mask == q.mask) then some q
    else if inMask q.mask (lowSlice (w.waitMask pc)) then some (w.mergedGroup pc) else none) := rfl

theorem Warp.any_regangWaiters {w : Warp} {pc : Nat} {m : BitVec 8} : (w.regangWaiters pc).any (fun p => p.1.mask == m) = true ↔
    ∃ q ∈ w.groups, (∃ m t l d, q.hold = .regang m t l d) ∧ w.pcOf q.mask = pc ∧ q.mask = m := by
  simp only [List.any_eq_true, beq_iff_eq]
  constructor
  · rintro ⟨p, hp, hm⟩
    obtain ⟨hq, hh, hpc⟩ := Warp.mem_regangWaiters.1 hp
    exact ⟨p.1, hq, ⟨_, _, _, _, hh⟩, hpc, hm⟩
  · rintro ⟨q, hq, ⟨m, t, l, d, hh⟩, hpc, hm⟩
    exact ⟨(q, m, t, l, d), Warp.mem_regangWaiters.2 ⟨hq, hh, hpc⟩, hm⟩

/-- The group that merged with none but itself stands in its place. -/
theorem Ctx.Alone.groups_gathered (h : x.Alone) (h0 : x.mask ≠ 0) {q : Group} (hq : q ∈ x.w.groups) (hm : q.mask = x.mask) (note : Nat) :
    (x.atRegang.gathered (x.pc / 4 * 4) note).groups =
      x.w.groups.map (fun y => if y.mask = x.mask then x.atRegang.mergedGroup (x.pc / 4 * 4) else y) := by
  have hany (m : BitVec 8) : (x.atRegang.regangWaiters (x.pc / 4 * 4)).any (fun p => p.1.mask == m) = decide (m = x.mask) := by
    rw [Bool.eq_iff_iff, Warp.any_regangWaiters, decide_eq_true_eq]
    constructor
    · rintro ⟨y, hy, ⟨_, _, _, _, hh⟩, -, rfl⟩
      obtain ⟨z, -, hz, rfl⟩ := h.waits hy hh
      exact hz
    · rintro rfl
      exact ⟨x.waiter q, x.mem_groups_atRegang.2 (.inl ⟨q, hq, hm, rfl⟩), ⟨_, _, _, _, rfl⟩,
        (congrArg x.atRegang.pcOf hm).trans (x.pcOf_atRegang h0), hm⟩
  rw [Warp.groups_gathered, x.groups_atRegang, List.filterMap_map, ← List.filterMap_eq_map]
  refine List.filterMap_congr fun y _ => ?_
  simp only [Function.comp_apply, hany, h.waitMask h0 hq hm]
  by_cases hy : y.mask = x.mask
  · have hw : (x.waiter y).mask = x.mask := hy
    simp [hy, hw, inMask_lowSlice h0]
  · simp [hy]

/-! ## Two groups that meet at a REGANG -/

/-- The issuing group comes to the REGANG at which the other group of a warp of two waits for it. -/
structure Ctx.Meets (x : Ctx) (own q : Group) (ta tq : Nat) : Prop where
  groups   : x.w.groups = [own, q] ∨ x.w.groups = [q, own]
  own      : own.mask = x.mask
  issuing  : x.mask ≠ 0
  waiting  : q.mask ≠ 0
  disjoint : x.mask &&& q.mask = 0
  hold     : q.hold = .regang x.regangMask ta tq x.f.dst
  note     : q.prog.note = x.regangNote
  pc       : x.w.pcOf q.mask = x.pc
  aligned  : x.pc % 4 = 0

section
variable {own q : Group} {ta tq : Nat} (h : x.Meets own q ta tq)
include h

theorem Ctx.Meets.ne : q.mask ≠ x.mask := fun he =>
  inMask_disjoint h.disjoint (lowSlice x.mask) ⟨inMask_lowSlice h.issuing, by rw [he]; exact inMask_lowSlice h.issuing⟩

theorem Ctx.Meets.groups_atRegang : x.atRegang.groups = [x.waiter own, q] ∨ x.atRegang.groups = [q, x.waiter own] := by
  rw [x.groups_atRegang]
  refine h.groups.imp (fun hg => ?_) fun hg => ?_
  · simp [hg, h.own, h.ne]
  · simp [hg, h.own, h.ne]

theorem Ctx.Meets.mem_groups {y : Group} : y ∈ x.atRegang.groups ↔ y = x.waiter own ∨ y = q := by
  rcases h.groups_atRegang with hg | hg
  · simp [hg]
  · simp [hg, or_comm]

/-- Both wait there, with one record and one dst. -/
theorem Ctx.Meets.waits {y : Group} (hy : y ∈ x.atRegang.groups) :
    (∃ t l, y.hold = .regang x.regangMask t l x.f.dst) ∧ y.prog.note = x.regangNote ∧ x.atRegang.pcOf y.mask = x.pc / 4 * 4 := by
  rcases h.mem_groups.1 hy with rfl | rfl
  · exact ⟨⟨_, _, rfl⟩, rfl, (congrArg x.atRegang.pcOf h.own).trans (x.pcOf_atRegang h.issuing)⟩
  · refine ⟨⟨_, _, h.hold⟩, h.note, ?_⟩
    have := h.aligned
    rw [x.pcOf_atRegang_other h.waiting h.disjoint, h.pc]
    omega

theorem Ctx.Meets.waitMask : x.atRegang.waitMask (x.pc / 4 * 4) = x.mask ||| q.mask := by
  refine mask_ext fun k => ?_
  rw [Warp.inMask_waitMask, inMask_or, Bool.or_eq_true]
  constructor
  · rintro ⟨y, hy, -, -, hk⟩
    rcases h.mem_groups.1 hy with rfl | rfl
    · exact .inl (h.own ▸ hk)
    · exact .inr hk
  · have hwaits {y : Group} (hy : y ∈ x.atRegang.groups) (hk : inMask y.mask k = true) : ∃ q ∈ x.atRegang.groups,
        (∃ m t l d, q.hold = .regang m t l d) ∧ x.atRegang.pcOf q.mask = x.pc / 4 * 4 ∧ inMask q.mask k = true := by
      obtain ⟨⟨t, l, hh⟩, -, hpc⟩ := h.waits hy
      exact ⟨y, hy, ⟨_, _, _, _, hh⟩, hpc, hk⟩
    rintro (hk | hk)
    · exact hwaits (h.mem_groups.2 (.inl rfl)) (by rw [← h.own] at hk; exact hk)
    · exact hwaits (h.mem_groups.2 (.inr rfl)) hk

theorem Ctx.Meets.waiters_agree (p) (hp : p ∈ x.atRegang.regangWaiters (x.pc / 4 * 4)) :
    p.1.prog.note = x.regangNote ∧ p.2.2.2.2 = x.f.dst := by
  obtain ⟨hq, hh, -⟩ := Warp.mem_regangWaiters.1 hp
  obtain ⟨⟨t, l, hh'⟩, hn, -⟩ := h.waits hq
  rw [hh'] at hh
  injection hh with _ _ _ hd
  exact ⟨hn, hd.symm⟩

theorem Ctx.Meets.regangAll (hfull : ∀ k, inMask x.regangMask k = true → inMask (x.mask ||| q.mask) k = true ∨ x.w.retired k = true)
    (cyc draw : Nat) : x.atRegang.regangAll cyc draw = x.atRegang.regangMerge (x.pc / 4 * 4) cyc draw := by
  refine Warp.regangAll_of_one (Warp.mem_fullPcs.2 ?_) (fun p hp => ?_) cyc draw
  · have hq := h.mem_groups.2 (.inr rfl)
    refine ⟨q, hq, _, _, _, _, h.hold, (h.waits hq).2.2, Warp.regangFull_iff.2 fun k hk => ?_⟩
    rw [h.waitMask, x.retired_atRegang]
    exact hfull k hk
  · obtain ⟨y, hy, _, _, _, _, -, rfl, -⟩ := Warp.mem_fullPcs.1 hp
    exact (h.waits hy).2.2

theorem Ctx.Meets.union_ne_zero : x.mask ||| q.mask ≠ 0 := fun h0 => by
  have := inMask_or x.mask q.mask (lowSlice x.mask)
  rw [h0, inMask_lowSlice h.issuing] at this
  simp [inMask] at this

/-- The lowest slice of both groups is in one of them. -/
theorem Ctx.Meets.lowSlice_mem :
    (inMask (x.waiter own).mask (lowSlice (x.mask ||| q.mask)) = true ∧ inMask q.mask (lowSlice (x.mask ||| q.mask)) = false) ∨
      (inMask (x.waiter own).mask (lowSlice (x.mask ||| q.mask)) = false ∧ inMask q.mask (lowSlice (x.mask ||| q.mask)) = true) := by
  have hlow := inMask_lowSlice h.union_ne_zero
  have hone := inMask_disjoint h.disjoint (lowSlice (x.mask ||| q.mask))
  rw [inMask_or, Bool.or_eq_true] at hlow
  rw [show (x.waiter own).mask = x.mask from h.own]
  rcases hlow with hl | hl
  · exact .inl ⟨hl, Bool.eq_false_iff.2 fun hq => hone ⟨hl, hq⟩⟩
  · exact .inr ⟨Bool.eq_false_iff.2 fun hx => hone ⟨hx, hl⟩, hl⟩

/-- One group, in the place of both. -/
theorem Ctx.Meets.groups_gathered (note : Nat) :
    (x.atRegang.gathered (x.pc / 4 * 4) note).groups = [x.atRegang.mergedGroup (x.pc / 4 * 4)] := by
  have hany (y) (hy : y ∈ x.atRegang.groups) : (x.atRegang.regangWaiters (x.pc / 4 * 4)).any (fun p => p.1.mask == y.mask) = true := by
    obtain ⟨⟨t, l, hh⟩, -, hpc⟩ := h.waits hy
    exact Warp.any_regangWaiters.2 ⟨y, hy, ⟨_, _, _, _, hh⟩, hpc, rfl⟩
  have hmember : (x.atRegang.gathered (x.pc / 4 * 4) note).groups = x.atRegang.groups.filterMap (fun y =>
      if inMask y.mask (lowSlice (x.mask ||| q.mask)) then some (x.atRegang.mergedGroup (x.pc / 4 * 4)) else none) := by
    rw [Warp.groups_gathered]
    exact List.filterMap_congr fun y hy => by
      rw [hany y hy, h.waitMask, if_neg (by decide)]
  rw [hmember]
  rcases h.groups_atRegang with hg | hg
  · rcases h.lowSlice_mem with ⟨ha, hb⟩ | ⟨ha, hb⟩
    · simp [hg, ha, hb]
    · simp [hg, ha, hb]
  · rcases h.lowSlice_mem with ⟨ha, hb⟩ | ⟨ha, hb⟩
    · simp [hg, ha, hb]
    · simp [hg, ha, hb]

end

end

/-- Settles O24: by what of the record's mask waits at the REGANG once the group has come to it. -/
theorem regang : Obligations.Regang := by
  unfold Obligations.Regang
  intro f s g w hr x record mask
  have hd : 192 ≤ x.f.dst.toNat := hr.le_dst rfl rfl
  refine ⟨fun hn => ?_, fun hj hsub hall halone hone h0 => ?_, fun hj hsub hmiss halone => ?_,
    fun a b q ta tq hj hal hsub hg hab h0 hdis hhold hnote hpc hq0 hall => ?_⟩
  · refine Reaches.of_completeAt_modCtx hr rfl x.next _ (regangEff_elsewhere (x := x) hn s.begun) ?_
    have hsd := ScalarsDelivered.deliverScalar (w.finished x x.next) x 1 x.mask.toNat hd
    exact ⟨(OnlyFlow.finished rfl x.next).scalarsDelivered hsd, (GroupGoes.finished x x.next).delivered hsd.delivered,
      HoldsScalars.finished x x.next 1 x.mask.toNat⟩
  · have hx : x.Alone := halone
    obtain ⟨q, hqs⟩ := List.length_eq_one_iff.1 hone
    obtain ⟨hq, hm⟩ := List.mem_filter.1 (hqs ▸ List.mem_singleton_self q : q ∈ x.w.groups.filter (fun q => q.mask = x.mask))
    have hm : q.mask = x.mask := of_decide_eq_true hm
    have hM := hx.waitMask h0 hq hm
    obtain ⟨hwarp, hslices, hgroups, hholds⟩ := x.merge_atRegang rfl hd (x.waiters_ne_nil_of_waitMask h0 hM) hx.waiters_agree hM fun _ h => h
    rw [hx.groups_gathered h0 hq hm] at hgroups
    refine Reaches.of_regang hr (fun h => h.elim (· hj) (· hsub)) fun t => ?_
    rw [hx.regangAll_of_full h0 hq hm (fun k hk => hall k (BitVec.lt_of_getLsbD hk) hk)]
    generalize x.atRegang.regangMerge (x.pc / 4 * 4) x.cyc x.draw = w' at hwarp hslices hgroups hholds
    have hmask : (x.atRegang.mergedGroup (x.pc / 4 * 4)).mask = x.mask := hM
    refine ⟨hwarp, hslices, ?_, fun y hy hym => ?_, hholds⟩
    · rw [hgroups, List.map_map]
      refine List.map_congr_left fun y _ => ?_
      by_cases hy : y.mask = x.mask
      · simp [hy, hmask]
      · simp [hy]
    · rw [hgroups, List.mem_map] at hy
      obtain ⟨z, -, rfl⟩ := hy
      split at hym
      · rw [if_pos ‹_›]; rfl
      · exact absurd hym ‹_›
  · have hx : x.Alone := halone
    obtain ⟨k, -, hk, hout, hret⟩ := hmiss
    refine Reaches.of_regang hr (fun h => h.elim (· hj) (· hsub)) fun t => ?_
    rw [hx.regangAll_of_missing hk hout hret]
    refine ⟨x.atRegang_eq rfl, x.slice_atRegang, ?_, fun q hq hne => x.mem_groups_atRegang.2 (.inr ⟨hq, hne⟩), fun q hq hqm => ?_⟩
    · rw [x.groups_atRegang, List.map_map]
      refine List.map_congr_left fun y _ => ?_
      by_cases hy : y.mask = x.mask
      · simp [hy, Ctx.waiter]
      · simp [hy]
    · rcases x.mem_groups_atRegang.1 hq with ⟨y, -, -, rfl⟩ | ⟨-, hne⟩
      · rfl
      · exact absurd hqm hne
  · obtain ⟨own, hmeets⟩ : ∃ own, x.Meets own q ta tq := by
      rcases hab with ⟨hm, rfl⟩ | ⟨hm, rfl⟩
      · exact ⟨a, .inl hg, hm, h0, hq0, hdis, hhold, hnote, hpc, hal⟩
      · exact ⟨b, .inr hg, hm, h0, hq0, hdis, hhold, hnote, hpc, hal⟩
    have hM := hmeets.waitMask
    have hor : x.mask ||| q.mask ≠ 0 := hmeets.union_ne_zero
    obtain ⟨hwarp, hslices, hgroups, hholds⟩ := x.merge_atRegang rfl hd (x.waiters_ne_nil_of_waitMask hor hM) hmeets.waiters_agree hM
      fun k hk => by rw [inMask_or, hk, Bool.true_or]
    rw [hmeets.groups_gathered] at hgroups
    refine Reaches.of_regang hr (fun h => h.elim (· hj) (· hsub)) fun t => ?_
    rw [hmeets.regangAll fun k hk => by
      rw [inMask_or, Bool.or_eq_true, or_assoc]; exact hall k (BitVec.lt_of_getLsbD hk) hk]
    generalize x.atRegang.regangMerge (x.pc / 4 * 4) x.cyc x.draw = w' at hwarp hslices hgroups hholds
    refine ⟨hwarp, hslices, by rw [hgroups, ← hM]; rfl, fun y hy => ?_, hholds⟩
    rw [hgroups, List.mem_singleton] at hy
    rw [hy]; rfl

end Sys2Proof.Machine

/-! # EXIT, YIELD, NOP and WAITC (R142, R143, R297, R440) -/

namespace Sys2Proof.Machine

/-! ## EXIT (R142) -/

/-- The warp whose lanes of a list are marked exited. -/
def Warp.exitLanes (w : Warp) (l : List Nat) : Warp := l.foldl (fun w i => w.modLane i (fun q => { q with exited := true })) w

theorem Warp.exitLanes_eq (w : Warp) (l : List Nat) : w.exitLanes l = { w with lanes := (w.exitLanes l).lanes } :=
  Warp.foldl_modLane_eq (fun _ q => { q with exited := true }) l w

theorem Warp.lane_exitLanes (w : Warp) {l : List Nat} (hl : l.Nodup) (j : Nat) : (w.exitLanes l).lane j =
    { w.lane j with exited := (w.lane j).exited || decide (j ∈ l ∧ j < w.lanes.length) } := by
  rw [Warp.exitLanes, Warp.lane_foldl_modLane (fun _ q => { q with exited := true }) l hl]
  split
  · rename_i h; simp [h]
  · rename_i h; simp [h]

/-- The slices of a group that stay in it: those that are not retired. -/
def Warp.staying (w : Warp) (m : BitVec 8) : BitVec 8 := BitVec.ofNat 8 (maskOf ((List.range 8).filter (fun k => inMask m k && !w.retired k)))

theorem Warp.inMask_staying {w : Warp} {m : BitVec 8} {k : Nat} :
    inMask (w.staying m) k = true ↔ inMask m k = true ∧ w.retired k = false := by
  rw [Warp.staying, inMask_ofNat_maskOf, List.mem_filter, List.mem_range, Bool.and_eq_true, Bool.not_eq_true']
  exact ⟨fun h => h.2.2, fun h => ⟨BitVec.lt_of_getLsbD h.1, BitVec.lt_of_getLsbD h.1, h⟩⟩

theorem Warp.mem_retireSlices {w : Warp} {q : Group} :
    q ∈ w.retireSlices.groups ↔ ∃ y ∈ w.groups, q.mask ≠ 0 ∧ q = { y with mask := w.staying y.mask } := by
  simp only [Warp.retireSlices, List.mem_filter, List.mem_map, bne_iff_ne]
  constructor
  · rintro ⟨⟨y, hy, rfl⟩, h⟩; exact ⟨y, hy, h, rfl⟩
  · rintro ⟨y, hy, h, rfl⟩; exact ⟨⟨y, hy, rfl⟩, h⟩

/-- No group of the warp waits at a REGANG. -/
def Warp.NoRegang (w : Warp) : Prop := ∀ q ∈ w.groups, ∀ m a t d, q.hold ≠ .regang m a t d

theorem Warp.NoRegang.regangAll {w : Warp} (h : w.NoRegang) (cyc draw : Nat) : w.regangAll cyc draw = w :=
  Warp.regangAll_of_none (fun _ hp => by
    obtain ⟨q, hq, m, t, l, d, hh, -⟩ := Warp.mem_fullPcs.1 hp
    exact h q hq m t l d hh) cyc draw

theorem Warp.NoRegang.finished {w : Warp} (h : w.NoRegang) (x : Ctx) (pc : Nat) : (w.finished x pc).NoRegang := by
  intro q hq m a t d
  rw [Warp.groups_finished, List.mem_map] at hq
  obtain ⟨y, hy, rfl⟩ := hq
  split
  · exact Hold.noConfusion
  · exact h y hy m a t d

theorem Warp.NoRegang.retireSlices {w : Warp} (h : w.NoRegang) : w.retireSlices.NoRegang := by
  intro q hq m a t d
  obtain ⟨y, hy, -, rfl⟩ := Warp.mem_retireSlices.1 hq
  exact h y hy m a t d

theorem Warp.retireSlices_eq (w : Warp) : w.retireSlices = { w with groups := w.retireSlices.groups } := rfl

theorem OnlyWarp.checkEnd {x : Ctx} {s t : State} (h : OnlyWarp x s t) (c p : Nat) : OnlyWarp x s (t.checkEnd c p) := by
  rw [State.checkEnd]
  split
  · split
    · exact h.pushOnce _
    · exact h
  · exact h

/-- The warp that an EXIT leaves. -/
def Warp.afterExit (w : Warp) (x : Ctx) : Warp := ((w.finished x x.next).exitLanes x.lanes).retireSlices

theorem Warp.groups_exitLanes (w : Warp) (l : List Nat) : (w.exitLanes l).groups = w.groups := by rw [Warp.exitLanes_eq]

theorem Warp.NoRegang.afterExit {w : Warp} (h : w.NoRegang) (x : Ctx) : (w.afterExit x).NoRegang :=
  Warp.NoRegang.retireSlices fun q hq => h.finished x x.next q (by rwa [Warp.groups_exitLanes] at hq)

theorem Warp.afterExit_eq {w : Warp} {x : Ctx} (hi : x.i.isCommit = false) : w.afterExit x = { w with
    lanes := (w.afterExit x).lanes, slices := (w.afterExit x).slices, groups := (w.afterExit x).groups,
    lease := { w.lease with run := w.lease.run + 1 }, preempt := w.preempt.map (· + 1) } := by
  rw [Warp.afterExit, Warp.retireSlices_eq, Warp.exitLanes_eq, Warp.finished_eq hi]

theorem Warp.slice_afterExit (w : Warp) (x : Ctx) (k : Nat) : (w.afterExit x).slice k = (w.finished x x.next).slice k := by
  rw [Warp.afterExit, Warp.retireSlices_eq, Warp.exitLanes_eq]; rfl

theorem Warp.lane_afterExit (w : Warp) (x : Ctx) (l : Nat) : (w.afterExit x).lane l =
    { w.lane l with exited := (w.lane l).exited || decide (l ∈ x.lanes ∧ l < w.lanes.length) } := by
  have h := Warp.lane_exitLanes (w.finished x x.next) x.lanes_nodup l
  rw [Warp.lane_finished, Warp.lanes_finished] at h
  exact h

/-- A warp at its end, after an EXIT. -/
theorem Warp.atEnd_of_groups {w : Warp} (hg : w.groups = []) (hp : w.paths.allZero = true) : w.atEnd = true := by
  simp [Warp.atEnd, Warp.over, hg, hp]

/-- What EXIT reaches, and the end of a warp that has no group left. -/
theorem Reaches.of_exit {i : Instr} (hex : ∀ s, exec i s = issue i noLate exitEff s) {s : State} {g : Selected} {w : Warp}
    (hr : Runs i s g w) (hno : w.NoRegang) {post : State → Warp → Prop}
    (h : ∀ t, ((w.afterExit (s.seenBy i g w)).atEnd = true → .warpEnd g.core g.slot ∈ t.pending) → post t (w.afterExit (s.seenBy i g w))) :
    Reaches i (s.seenBy i g w) s post := by
  obtain ⟨ho, hw⟩ := State.completeAt_modCtx (x := s.seenBy i g w) (s.seenBy i g w).next hr.1.2
    fun v => ((v.exitLanes (s.seenBy i g w).lanes).retireSlices).regangAll (s.seenBy i g w).cyc (s.seenBy i g w).draw
  have hall := (hno.afterExit (s.seenBy i g w)).regangAll (s.seenBy i g w).cyc (s.seenBy i g w).draw
  rw [Warp.afterExit] at hall
  rw [hall] at hw
  refine ⟨_, _, by rw [hex, issue_of_clear hr.1 hr.2]; rfl, (State.warp?_checkEnd ..).trans hw, ho.checkEnd _ _, h _ fun he => ?_⟩
  exact (congrArg (fun t => Instr.warpEnd g.core g.slot ∈ t.pending) ((State.checkEnd_eq hw).trans (if_pos he))).mpr (State.mem_pushOnce ..)

/-- What EXIT and EXIT.S do. -/
theorem Reaches.exits {i : Instr} (hex : ∀ s, exec i s = issue i noLate exitEff s) (hi : i.isCommit = false) {s : State} {g : Selected}
    {w : Warp} (hr : Runs i s g w) (hno : w.NoRegang) :
    let x := s.seenBy i g w
    Reaches i x s fun t w' =>
      w' = { x.w with
        lanes := w'.lanes, slices := w'.slices, groups := w'.groups, lease := { x.w.lease with run := x.w.lease.run + 1 },
        preempt := x.w.preempt.map (· + 1) } ∧
      (∀ l, w'.lane l = { x.w.lane l with exited := (x.w.lane l).exited || decide (l ∈ x.lanes ∧ l < x.w.lanes.length) }) ∧
      (∀ k, w'.slice k = { x.w.slice k with
        pc := if inMask x.mask k ∧ k < x.w.slices.length then BitVec.ofNat 48 (x.next / 4 * 4) else (x.w.slice k).pc }) ∧
      (∀ q ∈ w'.groups, ∀ k, inMask q.mask k = true → w'.retired k = false) ∧
      (∀ q ∈ x.w.groups, (∃ k, k < 8 ∧ inMask q.mask k = true ∧ w'.retired k = false) → ∃ q' ∈ w'.groups,
        (∀ k, k < 8 → (inMask q'.mask k = true ↔ inMask q.mask k = true ∧ w'.retired k = false)) ∧
        q' = if q.mask = x.mask then
          { q with mask := q'.mask, readyAt := x.cyc + 1 + x.f.stall.toNat, hold := .none, prog := {} } else { q with mask := q'.mask }) ∧
      (w'.groups = [] → w'.paths.allZero = true → .warpEnd g.core g.slot ∈ t.pending) := by
  intro x
  refine Reaches.of_exit hex hr hno fun t hend => ⟨?_, Warp.lane_afterExit w x, fun k => ?_, fun q hq k hk => ?_, fun q hq hlive => ?_,
    fun hg hp => hend (Warp.atEnd_of_groups hg hp)⟩
  · exact Warp.afterExit_eq (x := x) hi
  · rw [Warp.slice_afterExit, Warp.slice_finished_eq]; rfl
  · obtain ⟨y, -, -, rfl⟩ := Warp.mem_retireSlices.1 hq
    exact (Warp.inMask_staying.1 hk).2
  · obtain ⟨k, -, hk, hret⟩ := hlive
    obtain ⟨y, hy, hmask, hyq⟩ : ∃ y ∈ ((w.finished x x.next).exitLanes x.lanes).groups, y.mask = q.mask ∧ y = if q.mask = x.mask then
        { q with readyAt := x.cyc + 1 + x.f.stall.toNat, hold := .none, prog := {} } else q := by
      rw [Warp.groups_exitLanes, Warp.groups_finished]
      refine ⟨_, List.mem_map_of_mem hq, ?_, by simp only [beq_iff_eq]⟩
      split <;> rfl
    have hstay (j : Nat) : inMask (((w.finished x x.next).exitLanes x.lanes).staying y.mask) j = true ↔
        inMask q.mask j = true ∧ (w.afterExit x).retired j = false := by rw [Warp.inMask_staying, hmask]; rfl
    refine ⟨{ y with mask := _ }, Warp.mem_retireSlices.2 ⟨y, hy, fun h0 => ?_, rfl⟩, fun j _ => hstay j, ?_⟩
    · have := (hstay k).2 ⟨hk, hret⟩
      rw [show ((w.finished x x.next).exitLanes x.lanes).staying y.mask = 0 from h0] at this
      simp [inMask] at this
    · rw [hyq]; split <;> rfl

/-! ## YIELD and NOP (R143, R440) -/

theorem OnlyFlow.modGroup {x : Ctx} {w1 : Warp} (h : OnlyFlow x w1) (m : BitVec 8) (f : Group → Group) : OnlyFlow x (w1.modGroup m f) :=
  ⟨by rw [Warp.modGroup, h.warp], h.fmt, h.flags⟩

/-- The groups behind a YIELD, which waits for 32 cycles after its stall. -/
theorem Warp.groups_yielded (x : Ctx) :
    ((x.w.finished x x.next).modGroup x.mask (fun q => { q with readyAt := q.readyAt + 32 })).groups = x.w.groups.map (fun q =>
      if q.mask = x.mask then { q with readyAt := x.cyc + 1 + x.f.stall.toNat + 32, hold := .none, prog := {} } else q) := by
  rw [Warp.modGroup, Warp.groups_finished, List.map_map]
  refine List.map_congr_left fun q _ => ?_
  by_cases hq : q.mask = x.mask
  · simp [hq]
  · simp [hq]

/-- What YIELD and YIELD.S do. -/
theorem Reaches.yields {i : Instr} (hex : ∀ s, exec i s = issue i noLate yieldEff s) (hi : i.isCommit = false) {s : State} {g : Selected}
    {w : Warp} (hr : Runs i s g w) :
    let x := s.seenBy i g w
    Reaches i x s fun _ w' => OnlyFlow x w' ∧ w'.s = x.w.s ∧
      (∀ k, (w'.slice k).pc = if inMask x.mask k ∧ k < x.w.slices.length then BitVec.ofNat 48 (x.next / 4 * 4) else (x.w.slice k).pc) ∧
      w'.groups = x.w.groups.map (fun q => if q.mask = x.mask then
        { q with readyAt := x.cyc + 1 + x.f.stall.toNat + (if x.lanes = [] then 0 else 32), hold := .none, prog := {} } else q) := by
  intro x
  have hflow : OnlyFlow x (x.w.finished x x.next) := .finished hi _
  have hs := Warp.s_finished x.w x x.next
  have hgo := GroupGoes.finished x x.next
  by_cases hl : x.lanes = []
  · refine Reaches.of_completeAt hr (hex s) x.next (by rw [yieldEff, if_pos (List.isEmpty_iff.2 hl)]; rfl)
      ⟨hflow, hs, hgo.slices, ?_⟩
    rw [if_pos hl, Nat.add_zero]
    exact hgo.groups.trans (List.map_congr_left fun q _ => by simp only [beq_iff_eq])
  · refine Reaches.of_completeAt_modCtx hr (hex s) x.next _ (by rw [yieldEff, if_neg fun h => hl (List.isEmpty_iff.1 h)]; rfl)
      ⟨hflow.modGroup .., hs, fun k => by rw [Warp.slice_modGroup]; exact hgo.slices k, ?_⟩
    rw [if_neg hl]
    exact Warp.groups_yielded x

/-- What NOP and NOP.S do. -/
theorem Reaches.passes {i : Instr} (hex : ∀ s, exec i s = issue i noLate nopEff s) (hi : i.isCommit = false) {s : State} {g : Selected}
    {w : Warp} (hr : Runs i s g w) :
    let x := s.seenBy i g w
    Reaches i x s fun _ w' => OnlyFlow x w' ∧ w'.s = x.w.s ∧ GroupGoes x w' x.next :=
  Reaches.of_completeAt hr (hex s) _ rfl ⟨OnlyFlow.finished hi _, Warp.s_finished .., GroupGoes.finished _ _⟩

/-! ## WAITC (R297) -/

/-- An instruction that issues has not been held. -/
theorem Runs.stage_eq_zero {i : Instr} {s : State} {g : Selected} {w : Warp} {late : Ctx → State → Late} (h : Runs i s g w late) :
    (s.seenBy i g w).prog.stage = 0 := by
  have hc := h.2
  simp only [State.clear, Bool.and_eq_true] at hc
  obtain ⟨⟨⟨⟨⟨hq, -⟩, -⟩, -⟩, -⟩, -⟩ := hc
  rw [Ctx.prog]
  change ((w.group? g.mask).map (fun q : Group => q.prog) |>.getD {}).stage = 0
  cases hf : w.group? g.mask with
  | none => rfl
  | some q => rw [hf] at hq; simpa using hq

/-- The writes of a path that have returned are covered. -/
def Warp.cover (w : Warp) (p : Path) : Warp := { w with uncovered := w.uncovered.filter (fun u => !(u.path == p && u.returned)) }

theorem waitcEff_eq {x : Ctx} {s : State} {p : Path} (hp : pathOfNum x.f.dst.toNat = p) (hl : x.lanes ≠ []) (h0 : x.prog.stage = 0)
    (hc : x.w.paths.get p + s.mateRaises x p ≤ x.a 1 scalarLane) (hd : ∀ d ∈ x.w.deferred, d.path ≠ p) :
    waitcEff x s = (s.complete x).modCtx x (·.cover p) := by
  have hnone : x.w.deferred.find? (fun d => d.path == p && (x.w.access? d.access).isNone) = none :=
    List.find?_eq_none.2 fun d hm h => hd d hm (eq_of_beq (Bool.and_eq_true_iff.1 h).1)
  rw [waitcEff, if_neg fun h => hl (List.isEmpty_iff.1 h)]
  simp only [hp, h0, if_true, if_pos hc, waitcDone, hnone]
  rfl

/-- What WAITC does where it need not wait. -/
theorem Reaches.waitc {h : SF} {s : State} {g : Selected} {w : Warp} (hr : Runs (.waitc h) s g w) :
    let x := s.seenBy (.waitc h) g w
    let path := pathOfNum h.dst.toNat
    (x.lanes = [] ∨ (x.w.paths.get path + s.begun.mateRaises x path ≤ x.a 1 scalarLane ∧ ∀ d ∈ x.w.deferred, d.path ≠ path)) →
    Reaches (.waitc h) x s fun _ w' =>
      w' = { x.w with
        slices := w'.slices, groups := w'.groups, uncovered := w'.uncovered, lease := { x.w.lease with run := x.w.lease.run + 1 },
        preempt := x.w.preempt.map (· + 1) } ∧
      GroupGoes x w' x.next ∧ (∀ k, (w'.slice k).fmt = (x.w.slice k).fmt) ∧ ∀ u ∈ w'.uncovered, u ∈ x.w.uncovered := by
  intro x path hgoes
  have hfin := Warp.finished_eq (x := x) rfl w x.next
  have hgo := GroupGoes.finished x x.next
  by_cases hl : x.lanes = []
  · refine Reaches.of_completeAt hr rfl x.next (by rw [waitcEff, if_pos (List.isEmpty_iff.2 hl)]; rfl)
      ⟨by rw [hfin]; rfl, hgo, fun k => Warp.fmt_slice_finished .., fun u hu => ?_⟩
    rwa [hfin] at hu
  · obtain ⟨hc, hd⟩ := hgoes.resolve_left hl
    refine Reaches.of_completeAt_modCtx hr rfl x.next _ (waitcEff_eq rfl hl hr.stage_eq_zero hc hd)
      ⟨by rw [hfin]; rfl, ⟨hgo.slices, hgo.groups⟩, fun k => Warp.fmt_slice_finished .., fun u hu => ?_⟩
    rw [hfin] at hu
    exact List.mem_of_mem_filter hu

/-- Settles O25: each form by its effect. -/
theorem exitYieldNopWait : Obligations.ExitYieldNopWait := by
  unfold Obligations.ExitYieldNopWait
  intro f h exits yields passes
  exact ⟨fun s g w hr hno => .exits (fun _ => rfl) rfl hr hno, fun s g w hr hno => .exits (fun _ => rfl) rfl hr hno,
    fun s g w hr => .yields (fun _ => rfl) rfl hr, fun s g w hr => .yields (fun _ => rfl) rfl hr,
    fun s g w hr _ => .passes (fun _ => rfl) rfl hr, fun s g w hr _ => .passes (fun _ => rfl) rfl hr,
    fun s g w hr => .waitc hr⟩

end Sys2Proof.Machine

/-! # Instructions that write predicates, beside their registers or alone (R151, R152) -/

namespace Sys2Proof.Machine

/-! ## The places, and the lanes of which each is the place -/

/-- A lane that computes for itself. -/
theorem Ctx.carryLanes_of_mem_lanes {x : Ctx} {l : Nat} (h : l ∈ x.lanes) : x.carryLanes l = [l] := if_neg (Ctx.lt_of_mem_lanes h).ne

/-- The lanes for which the places compute are the executing lanes. -/
theorem Ctx.flatMap_carryLanes (x : Ctx) : x.places.flatMap x.carryLanes = x.lanes := by
  by_cases hs : x.scalarPath = true
  · by_cases hl : x.lanes = []
    · simp [Ctx.places, hs, hl]
    · simp [Ctx.places, hs, hl, Ctx.carryLanes]
  · have hp : x.places = x.lanes := if_neg hs
    rw [hp, List.flatMap_congr fun l => Ctx.carryLanes_of_mem_lanes, List.flatMap_singleton']

/-- A lane's place is the one that computes for it. -/
theorem Ctx.placeFor_of_mem_carryLanes {x : Ctx} {p l : Nat} (hp : p ∈ x.places) (hl : l ∈ x.carryLanes p) : x.placeFor l = p := by
  by_cases hs : x.scalarPath = true
  · have hps : p = scalarLane := by
      rw [Ctx.places, if_pos hs] at hp
      split at hp
      · cases hp
      · exact List.mem_singleton.1 hp
    rw [Ctx.placeFor, if_pos hs, hps]
  · rw [Ctx.places, if_neg hs] at hp
    rw [Ctx.carryLanes_of_mem_lanes hp] at hl
    rw [Ctx.placeFor, if_neg hs, List.mem_singleton.1 hl]

/-! ## The results of all places together -/

/-- Predicates `made` for each lane, at the lane's place, are those of `preds` but for p0, whose writes are discarded (R117). -/
theorem Out.IsResult.of_lanes {x : Ctx} {n : Nat} {value : Nat → Nat} {made preds : Nat → List (Nat × Bool)} {compute : Nat → Out}
    (hregs : (∀ p ∈ x.places, (compute p).regs = [(p, x.f.dst.toNat, n, value p)]) ∨ (n = 0 ∧ ∀ p ∈ x.places, (compute p).regs = []))
    (hpreds : ∀ p ∈ x.places, (compute p).preds = (x.carryLanes p).flatMap fun l => (made l).map (Prod.mk l))
    (hnodup : ∀ l ∈ x.lanes, ((made l).map Prod.fst).Nodup) (hsound : ∀ l ∈ x.lanes, ∀ e ∈ made l, e ∈ preds l)
    (hfull : ∀ l ∈ x.lanes, ∀ e ∈ preds l, 0 < e.1 → e ∈ made l) :
    (Out.ofList (x.places.map compute)).IsResult x n value preds := by
  have hp : (Out.ofList (x.places.map compute)).preds = x.lanes.flatMap fun l => (made l).map (Prod.mk l) := by
    rw [Out.preds_ofList, List.flatMap_map, List.flatMap_congr hpreds, ← List.flatMap_assoc, x.flatMap_carryLanes]
  have hmem : ∀ l e, (l, e) ∈ (Out.ofList (x.places.map compute)).preds ↔ l ∈ x.lanes ∧ e ∈ made l := fun l e => by
    rw [hp, List.mem_flatMap]
    constructor
    · rintro ⟨m, hm, h⟩
      obtain ⟨e', he, h⟩ := List.mem_map.1 h
      cases h
      exact ⟨hm, he⟩
    · exact fun ⟨hl, he⟩ => ⟨l, hl, List.mem_map_of_mem he⟩
  refine ⟨?_, ?_, fun l k b h => ?_, fun l hl e he h0 _ => (hmem l e).2 ⟨hl, hfull l hl e he h0⟩⟩
  · rw [Out.regs_ofList, List.flatMap_map]
    rcases hregs with h | ⟨hn, h⟩
    · left; rw [List.flatMap_congr h, List.map_eq_flatMap]
    · right; exact ⟨hn, List.flatMap_eq_nil_iff.2 h⟩
  · rw [hp, List.map_flatMap, List.nodup_flatMap]
    refine ⟨fun l hl => ?_, x.lanes_nodup.imp fun {l m} hlm => ?_⟩
    · have hinj := List.Nodup.map (f := Prod.mk l) (fun a b h => (Prod.mk.inj h).2) (hnodup l hl)
      rwa [List.map_map] at hinj ⊢
    · simp only [Function.onFun, List.disjoint_left, List.mem_map]
      rintro _ ⟨_, ⟨e, -, rfl⟩, rfl⟩ ⟨_, ⟨e', -, rfl⟩, h⟩
      exact hlm (Prod.mk.inj h).1.symm
  · obtain ⟨hl, he⟩ := (hmem l (k, b)).1 h
    exact ⟨hl, hsound l hl _ he⟩

/-! ## What a class-F instruction computes -/

/-- Another form of the results: it need hold only where nothing stops the instruction and no result of its warp is on its way. -/
theorem Computes.congr {i : Instr} {n : Ctx → Nat} {value value' : Ctx → Nat → Nat} {preds : Ctx → Nat → List (Nat × Bool)}
    {flags : Ctx → Nat → Flags} {late : Ctx → State → Late} (h : Computes i n value preds flags late)
    (heq : ∀ s g w, Runs i s g w late → w.undelivered = [] → ∀ p, value (s.seenBy i g w) p = value' (s.seenBy i g w) p) :
    Computes i n value' preds flags late := by
  intro s g w hr
  obtain ⟨t, w', hex, hw, honly, hres, hgo, hholds, hflags⟩ := h s g w hr
  exact ⟨t, w', hex, hw, honly, hres, hgo, fun hu => funext (heq s g w hr hu) ▸ hholds hu, hflags⟩

section
variable {i : Instr} {lat : Nat} {compute : Ctx → Nat → Out} (hex : ∀ s, exec i s = issue i noLate (classF lat compute) s)
  (hi : i.isCommit = false)
include hex hi

/-- A class-F instruction that writes one run of registers at every place, and nothing else. -/
theorem Computes.of_out {n : Ctx → Nat} {value : Ctx → Nat → Nat} (h : ∀ x p, compute x p = x.out p (n x) (value x p)) :
    Computes i n value :=
  Computes.of_classF (result := fun x p => { bits := value x p }) hex hi fun x p => (h x p).trans (Out.append_empty _).symm

/-- A class-F instruction that runs per lane and writes predicates alone. -/
theorem Computes.of_lanePreds {preds : Ctx → Nat → List (Nat × Bool)} {flags : Ctx → Nat → Flags} (hs : ∀ f, i.sig.scalarDst f = false)
    (hn : ∀ x l, ((preds x l).map Prod.fst).Nodup)
    (h : ∀ x l, compute x l = { preds := (preds x l).map (Prod.mk l), flags := flags x l }) :
    Computes i (fun _ => 0) (fun _ _ => 0) preds flags := by
  intro s g w hr
  generalize hx : s.seenBy i g w = x
  have hs : ¬x.scalarPath = true := by subst hx; exact Bool.eq_false_iff.1 (hs _)
  have hplaces : x.places = x.lanes := if_neg hs
  have ho : (Out.ofList (x.places.map (compute x))).IsResult x 0 (fun _ => 0) (preds x) := by
    refine .of_lanes (.inr ⟨rfl, fun p _ => by rw [h]⟩) (made := preds x) (fun p hp => ?_) (fun l _ => hn x l) (fun _ _ _ => id)
      fun _ _ _ he _ => he
    rw [hplaces] at hp
    rw [h, Ctx.carryLanes_of_mem_lanes hp, List.flatMap_singleton]
  subst hx
  refine RegisterStep.of_deliver _ (hex s) hr.1 hr.2 hi rfl ho ?_
  simp only [Out.flags_ofList_places, h]

end

end Sys2Proof.Machine

/-! # Numbers of the integer types (R149), sums and comparisons (R153, R157) -/

namespace Sys2Proof.Machine

/-! ## Bits of a type's width, and the numbers that they are -/

theorem Ctx.rdInt_lt (x : Ctx) (code : BitVec 8) (p : Nat) : x.rdInt code p < 2 ^ intWidth x.ty := Nat.mod_lt _ (Nat.two_pow_pos _)

theorem intWidth_pos (t : Nat) : 0 < intWidth t := by
  unfold intWidth; split <;> decide

theorem wrapInt_natCast (w n : Nat) : wrapInt w n = n % 2 ^ w := by
  rw [wrapInt, ← Int.natCast_mod, Int.toNat_natCast]

theorem wrapInt_congr {w : Nat} {i j : Int} (h : i ≡ j [ZMOD (2 ^ w : Nat)]) : wrapInt w i = wrapInt w j := congrArg Int.toNat h

/-- Bits stand for a number that they equal modulo the width. -/
theorem numInt_modEq (t n : Nat) : numInt t n ≡ n [ZMOD (2 ^ intWidth t : Nat)] := by
  have hmod : ((n % 2 ^ intWidth t : Nat) : Int) ≡ n [ZMOD (2 ^ intWidth t : Nat)] := by
    rw [Int.natCast_mod]; exact Int.mod_modEq _ _
  simp only [numInt, intOf]
  split
  · exact Int.ModEq.trans (by simp) hmod
  · exact hmod

theorem extendInt_mod (t n : Nat) : extendInt t (n % 2 ^ intWidth t) = extendInt t n := by
  simp only [extendInt, Nat.mod_mod]

/-- A result is that of any number that it equals modulo the width. -/
theorem extendInt_eq_wrapInt {t n : Nat} {i : Int} (h : (n : Int) ≡ i [ZMOD (2 ^ intWidth t : Nat)]) :
    extendInt t n = extendInt t (wrapInt (intWidth t) i) := by
  rw [← wrapInt_congr h, wrapInt_natCast, extendInt_mod]

/-- The complement of `w` bits. -/
theorem natCast_complement {n w : Nat} (h : n < 2 ^ w) : ((2 ^ w - 1 - n : Nat) : Int) = (2 ^ w : Nat) - 1 - n := by
  omega

/-! ## Addition and subtraction with carry (R153) -/

/-- The bits that IADD, ISUB and IADDC return. -/
def addResult (x : Ctx) (p : Nat) (invert : Bool) (cin : Nat) (sat : Bool) : Nat :=
  let a := x.rdInt x.f.srcA p
  let b := x.rdInt x.f.srcB p
  if sat then wrapInt (intWidth x.ty) (clampInt x.ty (if invert then numInt x.ty a - numInt x.ty b else numInt x.ty a + numInt x.ty b))
  else a + (if invert then 2 ^ intWidth x.ty - 1 - b else b) + cin

/-- Their carry out of bit w - 1. -/
def addCarries (x : Ctx) (p : Nat) (invert : Bool) (cin : Nat) : Bool :=
  let b := x.rdInt x.f.srcB p
  decide (2 ^ intWidth x.ty ≤ x.rdInt x.f.srcA p + (if invert then 2 ^ intWidth x.ty - 1 - b else b) + cin)

theorem addCarry_eq (x : Ctx) (p : Nat) (invert : Bool) (cin : Nat) (sat : Bool) :
    addCarry x p invert cin sat =
      (x.outInt p (addResult x p invert cin sat)).append
        { preds := if x.f.mb 7 5 = 0 then [] else (x.carryLanes p).map fun l => (l, x.f.mb 7 5, addCarries x p invert cin) } := by
  cases sat
  · simp only [addCarry, addResult, Bool.false_eq_true, if_false, Ctx.outInt, extendInt_mod, addCarries]
  · rfl

/-- Without .sat the result is any number that the exact sum or difference equals modulo the width. -/
theorem extendInt_addResult_false {x : Ctx} {p : Nat} {invert : Bool} {cin : Nat} {i : Int}
    (h : (if invert then (x.rdInt x.f.srcA p : Int) - x.rdInt x.f.srcB p - (1 - cin) else x.rdInt x.f.srcA p + x.rdInt x.f.srcB p + cin) ≡ i
      [ZMOD (2 ^ intWidth x.ty : Nat)]) :
    extendInt x.ty (addResult x p invert cin false) = extendInt x.ty (wrapInt (intWidth x.ty) i) := by
  refine extendInt_eq_wrapInt (Int.ModEq.trans ?_ h)
  have hb := x.rdInt_lt x.f.srcB p
  cases invert
  · simp only [addResult, Bool.false_eq_true, if_false]; push_cast; rfl
  · simp only [addResult, Bool.false_eq_true, if_false, if_true, Nat.cast_add, natCast_complement hb]
    refine Int.modEq_iff_dvd.2 ⟨-1, ?_⟩
    ring

/-- The sum of IADD and the difference of ISUB, saturating or not: the exact one, clamped to the type under .sat. -/
theorem extendInt_addResult (x : Ctx) (p : Nat) (invert sat : Bool) :
    extendInt x.ty (addResult x p invert (if invert then 1 else 0) sat) = extendInt x.ty (wrapInt (intWidth x.ty)
      (let e := if invert then numInt x.ty (x.rdInt x.f.srcA p) - numInt x.ty (x.rdInt x.f.srcB p)
          else numInt x.ty (x.rdInt x.f.srcA p) + numInt x.ty (x.rdInt x.f.srcB p)
        if sat then max (intMin x.ty) (min (intMax x.ty) e) else e)) := by
  have ha := numInt_modEq x.ty (x.rdInt x.f.srcA p)
  have hb := numInt_modEq x.ty (x.rdInt x.f.srcB p)
  cases sat
  · refine extendInt_addResult_false ?_
    cases invert
    · simpa using (ha.add hb).symm
    · simpa using (ha.sub hb).symm
  · rfl

section
variable {i : Instr} {lat : Nat} {invert sat : Ctx → Bool} {cin : Ctx → Nat → Nat} {value : Ctx → Nat → Nat}

/-- An instruction that adds with carry writes its sum, and its carry-out in every executing lane (R151). -/
theorem Computes.of_addCarry (carry : Ctx → Nat → Bool)
    (hex : ∀ s, exec i s = issue i noLate (classF lat fun x p => addCarry x p (invert x) (cin x p) (sat x)) s) (hi : i.isCommit = false)
    (hvalue : ∀ x p, extendInt x.ty (addResult x p (invert x) (cin x p) (sat x)) = value x p)
    (hcarry : ∀ x p, addCarries x p (invert x) (cin x p) = carry x p) :
    Computes i (fun x => intRegs x.ty) value fun x l => [(x.f.mb 7 5, carry x (x.placeFor l))] := by
  intro s g w hr
  generalize hx : s.seenBy i g w = x
  have ho : (Out.ofList (x.places.map fun p => addCarry x p (invert x) (cin x p) (sat x))).IsResult x (intRegs x.ty) (value x)
      fun l => [(x.f.mb 7 5, carry x (x.placeFor l))] := by
    refine .of_lanes (.inl fun p _ => by rw [addCarry_eq, ← hvalue]; rfl)
      (made := fun l => if x.f.mb 7 5 = 0 then [] else [(x.f.mb 7 5, carry x (x.placeFor l))]) (fun p hp => ?_) (fun l _ => ?_)
      (fun l _ e he => ?_) fun l _ e he h0 => ?_
    · have hlane : ∀ l ∈ x.carryLanes p, x.placeFor l = p := fun l => Ctx.placeFor_of_mem_carryLanes hp
      rw [addCarry_eq, hcarry]
      simp only [Out.append, Ctx.outInt, Ctx.out, List.nil_append]
      split
      · simp
      · rw [List.map_eq_flatMap]
        exact List.flatMap_congr fun l hl => by rw [hlane l hl]; rfl
    · split <;> simp
    · split at he
      · cases he
      · exact he
    · have hco : e.1 = x.f.mb 7 5 := by rw [List.mem_singleton.1 he]
      rwa [if_neg (by omega)]
  subst hx
  refine RegisterStep.of_deliver _ (hex s) hr.1 hr.2 hi rfl ho ?_
  simp only [Out.flags_ofList_places, addCarry_eq, Out.append, Ctx.outInt, Ctx.out, BitVec.or_self]

end

/-- `a - b` with a carry-in: the sum with the complement of `b` carries where nothing is borrowed. -/
theorem complement_carries {w a b c : Nat} (hb : b < 2 ^ w) (hc : c ≤ 1) : 2 ^ w ≤ a + (2 ^ w - 1 - b) + c ↔ b + (1 - c) ≤ a := by omega

/-- Settles O1: each form is a sum with carry. -/
theorem addAndSubtract : Obligations.AddAndSubtract := by
  unfold Obligations.AddAndSubtract
  intro f h a b cin add sub carry noBorrow result
  have hcin : ∀ x p, cin x p ≤ 1 := fun x p => by simp only [cin]; split <;> decide
  have hadd : ∀ x p, extendInt x.ty (addResult x p false 0 (x.f.mb 4 4 == 1)) = result add x p := fun x p => by
    simpa [result, add] using extendInt_addResult x p false (x.f.mb 4 4 == 1)
  have hsub : ∀ x p, extendInt x.ty (addResult x p true 1 (x.f.mb 4 4 == 1)) = result sub x p := fun x p => by
    simpa [result, sub] using extendInt_addResult x p true (x.f.mb 4 4 == 1)
  have hcarry : ∀ x p, addCarries x p false 0 = decide (2 ^ intWidth x.ty ≤ a x p + b x p) := fun x p => rfl
  have hnoBorrow : ∀ x p, addCarries x p true 1 = decide (b x p ≤ a x p) := fun x p =>
    decide_eq_decide.2 (complement_carries (x.rdInt_lt x.f.srcB p) le_rfl)
  refine ⟨.of_addCarry (invert := fun _ => false) _ (fun _ => rfl) rfl hadd hcarry,
    .of_addCarry (invert := fun _ => false) _ (fun _ => rfl) rfl hadd hcarry,
    .of_addCarry (invert := fun _ => true) _ (fun _ => rfl) rfl hsub hnoBorrow,
    .of_addCarry (invert := fun _ => true) _ (fun _ => rfl) rfl hsub hnoBorrow,
    .of_addCarry (invert := fun x => x.f.mb 4 4 == 1) (fun x p => if x.f.mb 4 4 = 1 then decide (b x p + (1 - cin x p) ≤ a x p)
      else decide (2 ^ intWidth x.ty ≤ a x p + b x p + cin x p)) (fun _ => rfl) rfl (fun x p => ?_) fun x p => ?_⟩
  · refine extendInt_addResult_false ?_
    simp only [beq_iff_eq]
    rfl
  · by_cases h : x.f.mb 4 4 = 1
    · rw [if_pos h, h]
      exact decide_eq_decide.2 (complement_carries (x.rdInt_lt x.f.srcB p) (hcin x p))
    · rw [if_neg h, addCarries, beq_eq_false_iff_ne.2 h]
      rfl

end Sys2Proof.Machine

/-! # Products, and the smaller and larger of two numbers (R154, R155, R157) -/

namespace Sys2Proof.Machine

/-- Settles O2: low halves are products modulo the width; the other results are exact numbers. -/
theorem multiply : Obligations.Multiply := by
  unfold Obligations.Multiply
  intro f a b c result byteA byteB
  have ha : ∀ x p, a x p ≡ x.rdInt x.f.srcA p [ZMOD (2 ^ intWidth x.ty : Nat)] := fun x p => numInt_modEq _ _
  have hb : ∀ x p, b x p ≡ x.rdInt x.f.srcB p [ZMOD (2 ^ intWidth x.ty : Nat)] := fun x p => numInt_modEq _ _
  have hc : ∀ x p, c x p ≡ x.rdInt x.f.srcC p [ZMOD (2 ^ intWidth x.ty : Nat)] := fun x p => numInt_modEq _ _
  refine ⟨.of_out (fun _ => rfl) rfl fun x p => ?_, .of_out (fun _ => rfl) rfl fun x p => ?_,
    .of_out (fun _ => rfl) rfl fun x p => ?_, .of_out (fun _ => rfl) rfl fun x p => rfl, .of_out (fun _ => rfl) rfl fun x p => ?_⟩
  · refine congrArg (x.out p _) (extendInt_eq_wrapInt (i := a x p * b x p) ?_)
    push_cast
    exact ((ha x p).mul (hb x p)).symm
  · rw [computeImulh, Ctx.outInt]
    push_cast
    rfl
  · refine congrArg (x.out p _) (extendInt_eq_wrapInt (i := a x p * b x p + c x p) ?_)
    push_cast
    exact (((ha x p).mul (hb x p)).add (hc x p)).symm
  · have hbyte : ∀ v k signed, intOf signed 8 (v / 2 ^ (8 * k)) = intOf signed 8 (v / 256 ^ k) := fun v k signed => by
      rw [pow_mul]; rfl
    have hsum : ((List.range 4).map fun k => byteA x p k * byteB x p k).sum =
        byteA x p 0 * byteB x p 0 + byteA x p 1 * byteB x p 1 + byteA x p 2 * byteB x p 2 + byteA x p 3 * byteB x p 3 := by
      simp [List.range_succ, add_assoc]
    simp only [computeIdot4, hbyte, hsum, ← add_assoc]
    rfl

/-- The operand that IMIN takes stands for the smaller number. -/
theorem ite_modEq_min (t m n : Nat) :
    ((if numInt t n < numInt t m then n else m : Nat) : Int) ≡ min (numInt t m) (numInt t n) [ZMOD (2 ^ intWidth t : Nat)] := by
  split <;> rename_i h
  · rw [min_eq_right h.le]; exact (numInt_modEq t n).symm
  · rw [min_eq_left (not_lt.1 h)]; exact (numInt_modEq t m).symm

/-- The operand that IMAX takes stands for the larger number. -/
theorem ite_modEq_max (t m n : Nat) :
    ((if numInt t m < numInt t n then n else m : Nat) : Int) ≡ max (numInt t m) (numInt t n) [ZMOD (2 ^ intWidth t : Nat)] := by
  split <;> rename_i h
  · rw [max_eq_right h.le]; exact (numInt_modEq t n).symm
  · rw [max_eq_left (not_lt.1 h)]; exact (numInt_modEq t m).symm

/-- Settles O3: each result is a number of the type, whose bits stand for it modulo the width. -/
theorem minMaxAbsNeg : Obligations.MinMaxAbsNeg := by
  unfold Obligations.MinMaxAbsNeg
  intro f h a b result
  have ha : ∀ x p, a x p ≡ x.rdInt x.f.srcA p [ZMOD (2 ^ intWidth x.ty : Nat)] := fun x p => numInt_modEq _ _
  have hneg : ∀ x p, computeIneg x p = x.out p (intRegs x.ty) (result (fun x p => -a x p) x p) := fun x p => by
    refine congrArg (x.out p _) (extendInt_eq_wrapInt ?_)
    rw [Nat.cast_sub (x.rdInt_lt x.f.srcA p).le]
    exact Int.ModEq.trans (Int.modEq_iff_dvd.2 ⟨-1, by ring⟩) (ha x p).neg.symm
  refine ⟨.of_out (fun _ => rfl) rfl fun x p => congrArg (x.out p _) (extendInt_eq_wrapInt ?_),
    .of_out (fun _ => rfl) rfl fun x p => congrArg (x.out p _) (extendInt_eq_wrapInt ?_),
    .of_out (fun _ => rfl) rfl fun x p => congrArg (x.out p _) (extendInt_eq_wrapInt ?_),
    .of_out (fun _ => rfl) rfl hneg, .of_out (fun _ => rfl) rfl hneg⟩
  · exact ite_modEq_min _ _ _
  · exact ite_modEq_max _ _ _
  · rw [Int.natCast_natAbs]

end Sys2Proof.Machine

/-! # Results given bit by bit (R158, R159, R160, R161) -/

namespace Sys2Proof.Machine

/-! ## The number with given bits -/

/-- The number of `w` bits whose bit `i` is `b i`. -/
def bitSum (w : Nat) (b : Nat → Bool) : Nat := ∑ i ∈ Finset.range w, if b i then 2 ^ i else 0

theorem bitSum_succ (w : Nat) (b : Nat → Bool) : bitSum (w + 1) b = bitSum w b + if b w then 2 ^ w else 0 := Finset.sum_range_succ ..

theorem bitSum_congr {w : Nat} {b c : Nat → Bool} (h : ∀ i < w, b i = c i) : bitSum w b = bitSum w c :=
  Finset.sum_congr rfl fun i hi => by rw [h i (Finset.mem_range.1 hi)]

theorem bitSum_lt (w : Nat) (b : Nat → Bool) : bitSum w b < 2 ^ w := by
  induction w with
  | zero => exact Nat.one_pos
  | succ w ih => rw [bitSum_succ, pow_succ]; split <;> omega

@[simp] theorem testBit_bitSum (w : Nat) (b : Nat → Bool) (j : Nat) : (bitSum w b).testBit j = (decide (j < w) && b j) := by
  induction w with
  | zero => simp [bitSum]
  | succ w ih =>
    have hstep : bitSum (w + 1) b = 2 ^ w * (b w).toNat + bitSum w b := by
      rw [bitSum_succ, Nat.add_comm]; cases b w <;> simp
    rw [hstep, Nat.testBit_two_pow_mul_add _ (bitSum_lt w b), ih]
    obtain h | rfl | h := lt_trichotomy j w
    · simp [h, Nat.lt_succ_of_lt h]
    · cases b j <;> simp
    · have hone : (b w).toNat < 2 ^ (j - w) := (Bool.toNat_lt _).trans_le (Nat.le_self_pow (Nat.sub_ne_zero_of_lt h) 2)
      rw [if_neg h.not_gt, Nat.testBit_lt_two_pow hone]
      simp [show ¬j < w + 1 by omega]

/-- The low bits of a number. -/
theorem mod_eq_bitSum {w n : Nat} {b : Nat → Bool} (h : ∀ i < w, n.testBit i = b i) : n % 2 ^ w = bitSum w b :=
  Nat.eq_of_testBit_eq fun i => by
    rw [Nat.testBit_mod_two_pow, testBit_bitSum]
    by_cases hi : i < w
    · rw [h i hi]
    · simp [hi]

/-- A number of `w` bits. -/
theorem eq_bitSum {w n : Nat} {b : Nat → Bool} (hn : n < 2 ^ w) (h : ∀ i < w, n.testBit i = b i) : n = bitSum w b := by
  rw [← mod_eq_bitSum h, Nat.mod_eq_of_lt hn]

/-- Numbers without a common bit have the bits of both in their sum. -/
theorem bitSum_add {w : Nat} {b c : Nat → Bool} (h : ∀ i < w, (b i && c i) = false) :
    bitSum w b + bitSum w c = bitSum w fun i => b i || c i := by
  rw [bitSum, bitSum, ← Finset.sum_add_distrib]
  refine Finset.sum_congr rfl fun i hi => ?_
  have := h i (Finset.mem_range.1 hi)
  cases hb : b i <;> cases hc : c i <;> simp_all

/-- A result is the number with its bits over the type's width. -/
theorem extendInt_eq_bitSum {t n : Nat} {b : Nat → Bool} (h : ∀ i < intWidth t, n.testBit i = b i) :
    extendInt t n = extendInt t (bitSum (intWidth t) b) := by
  rw [← extendInt_mod, mod_eq_bitSum h]

/-- The complement of `w` bits, bit by bit. -/
theorem testBit_complement {n w i : Nat} (hn : n < 2 ^ w) (hi : i < w) : (2 ^ w - 1 - n).testBit i = !n.testBit i := by
  rw [Nat.sub_sub, Nat.add_comm 1, Nat.testBit_two_pow_sub_succ hn, decide_eq_true hi, Bool.true_and]

/-! ## Logic (R158) -/

theorem lop3Bits_eq_bitSum (tt a b c n : Nat) :
    lop3Bits tt a b c n = bitSum n fun i => tableBit tt (a.testBit i) (b.testBit i) (c.testBit i) := by
  induction n with
  | zero => rfl
  | succ n ih => rw [lop3Bits, ih, bitSum_succ]

/-- The index of a truth table's bit. -/
theorem tableBit_eq (tt : Nat) (a b c : Bool) :
    tableBit tt a b c = tt.testBit ((if a then 1 else 0) + 2 * (if b then 1 else 0) + 4 * (if c then 1 else 0)) := by
  cases a <;> cases b <;> cases c <;> rfl

/-- Settles O4: each operation acts on its operands bit by bit. -/
theorem bitwiseLogic : Obligations.BitwiseLogic := by
  unfold Obligations.BitwiseLogic
  intro f h bit n
  have hand : ∀ x p, computeAnd x p = x.out p (n x) (bit (fun _ a b _ => a && b) x p) := fun x p =>
    congrArg (x.out p _) (extendInt_eq_bitSum fun i _ => Nat.testBit_and ..)
  have hor : ∀ x p, computeOr x p = x.out p (n x) (bit (fun _ a b _ => a || b) x p) := fun x p =>
    congrArg (x.out p _) (extendInt_eq_bitSum fun i _ => Nat.testBit_or ..)
  have hxor : ∀ x p, computeXor x p = x.out p (n x) (bit (fun _ a b _ => a != b) x p) := fun x p =>
    congrArg (x.out p _) (extendInt_eq_bitSum fun i _ => Nat.testBit_xor ..)
  have handn : ∀ x p, computeAndn x p = x.out p (n x) (bit (fun _ a b _ => a && !b) x p) := fun x p =>
    congrArg (x.out p _) (extendInt_eq_bitSum fun i hi => by rw [Nat.testBit_and, testBit_complement (x.rdInt_lt _ p) hi])
  have hnot : ∀ x p, computeNot x p = x.out p (n x) (bit (fun _ a _ _ => !a) x p) := fun x p =>
    congrArg (x.out p _) (extendInt_eq_bitSum fun i hi => testBit_complement (x.rdInt_lt _ p) hi)
  exact ⟨.of_out (fun _ => rfl) rfl hand, .of_out (fun _ => rfl) rfl hand, .of_out (fun _ => rfl) rfl hor,
    .of_out (fun _ => rfl) rfl hor, .of_out (fun _ => rfl) rfl hxor, .of_out (fun _ => rfl) rfl hxor,
    .of_out (fun _ => rfl) rfl handn, .of_out (fun _ => rfl) rfl hnot, .of_out (fun _ => rfl) rfl hnot,
    .of_out (fun _ => rfl) rfl fun x p => by simp only [computeLop3, lop3Bits_eq_bitSum, tableBit_eq]; rfl⟩

/-! ## Shifts, rotates and funnel shifts (R159) -/

/-- An instruction that issues has a legal modifier. -/
theorem Runs.modOk {i : Instr} {s : State} {g : Selected} {w : Warp} {late : Ctx → State → Late} (h : Runs i s g w late) :
    i.sig.modOk = true := by
  have hc := h.2
  simp only [State.clear, Bool.and_eq_true] at hc
  obtain ⟨⟨⟨⟨-, hf⟩, -⟩, -⟩, -⟩ := hc
  by_contra hm
  rw [Bool.not_eq_true] at hm
  simp [Ctx.uniformFault, State.seenBy, Sig.illegalInstr, hm] at hf

/-- A rotation: what leaves above the width comes in below. -/
theorem rotate_eq {w n a : Nat} (hn : n < w) (ha : a < 2 ^ w) :
    a * 2 ^ n % 2 ^ w + a / 2 ^ (w - n) = (a * 2 ^ n ||| a / 2 ^ (w - n)) % 2 ^ w := by
  have hpow : 2 ^ w = 2 ^ n * 2 ^ (w - n) := by rw [← pow_add, Nat.add_sub_cancel' hn.le]
  have hlow : a / 2 ^ (w - n) < 2 ^ n := Nat.div_lt_of_lt_mul (by rwa [Nat.mul_comm, ← hpow])
  have hhigh : a * 2 ^ n % 2 ^ w = 2 ^ n * (a % 2 ^ (w - n)) := by rw [hpow, Nat.mul_comm a, Nat.mul_mod_mul_left]
  rw [Nat.or_mod_two_pow, Nat.mod_eq_of_lt (hlow.trans (Nat.pow_lt_pow_right one_lt_two hn)), hhigh, Nat.two_pow_add_eq_or_of_lt hlow]

/-- A result of an .n type of at least 32 bits is not extended. -/
theorem extendInt_of_wide {t : Nat} (h : t = 0 ∨ t = 2) (n : Nat) : extendInt t n = n % 2 ^ intWidth t := by
  obtain rfl | rfl := h <;> rfl

/-- Settles O5: the amount is below the width, so that each result is one shift of the operand or of the pair. -/
theorem shifts : Obligations.Shifts := by
  unfold Obligations.Shifts
  intro f h a n shl shr
  have hshl : ∀ x p, computeShl x p = x.out p (intRegs x.ty) (shl x p) := fun x p => congrArg (x.out p _) (extendInt_mod ..).symm
  have hshr : ∀ x p, computeShr x p = x.out p (intRegs x.ty) (shr x p) := fun x p => by
    have hfloor := Rat.floor_intCast_div_natCast (numInt x.ty (a x p)) (2 ^ n x p)
    push_cast at hfloor
    simp only [shr, hfloor, computeShr]
    push_cast
    rfl
  refine ⟨.of_out (fun _ => rfl) rfl hshl, .of_out (fun _ => rfl) rfl hshl, .of_out (fun _ => rfl) rfl hshr,
    .of_out (fun _ => rfl) rfl hshr, .of_out (fun _ => rfl) rfl fun x p => ?_,
    .congr (.of_out (fun _ => rfl) rfl fun x p => rfl) fun s g w hr _ p => ?_⟩
  · rw [← rotate_eq (Nat.mod_lt _ (intWidth_pos _)) (x.rdInt_lt _ p)]
    rfl
  · have hty : f.mb 3 0 = 0 ∨ f.mb 3 0 = 2 := by
      simpa using (Bool.and_eq_true_iff.1 hr.modOk).1
    exact extendInt_of_wide hty _

end Sys2Proof.Machine

/-! # Bit fields, counts, reversal and byte permutation (R160 to R162) -/

namespace Sys2Proof.Machine

/-! ## Bit fields (R160) -/

/-- The uppermost of `n` bits. -/
theorem two_pow_le_iff_testBit {f n : Nat} (hn : 0 < n) (hf : f < 2 ^ n) : 2 ^ (n - 1) ≤ f ↔ f.testBit (n - 1) = true :=
  ⟨fun h => Nat.testBit_of_two_pow_le_and_two_pow_add_one_gt h (by rwa [Nat.sub_add_cancel hn]), Nat.ge_two_pow_of_testBit⟩

/-- `n` bits, filled with ones above them. -/
theorem testBit_fill {f n m i : Nat} (hf : f < 2 ^ n) (hm : n ≤ m) (hi : i < m) :
    (f + 2 ^ m - 2 ^ n).testBit i = if i < n then f.testBit i else true := by
  have hpow : 2 ^ m = 2 ^ n * 2 ^ (m - n) := by rw [← pow_add, Nat.add_sub_cancel' hm]
  have hfill : f + 2 ^ m - 2 ^ n = 2 ^ n * (2 ^ (m - n) - 1) + f := by
    rw [hpow, Nat.mul_sub, mul_one, Nat.add_comm, Nat.sub_add_comm (Nat.le_mul_of_pos_right _ (Nat.two_pow_pos _))]
  rw [hfill, Nat.testBit_two_pow_mul_add _ hf]
  split
  · rfl
  · rw [Nat.testBit_two_pow_sub_one, decide_eq_true (by omega)]

/-- `n` bits, extended with copies of their sign bit where they are signed. -/
theorem testBit_signExtended {f n m i : Nat} (signed : Bool) (hf : f < 2 ^ n) (hm : n ≤ m) (hi : i < m) :
    (if signed = true ∧ 0 < n ∧ 2 ^ (n - 1) ≤ f then f + 2 ^ m - 2 ^ n else f).testBit i =
      if i < n then f.testBit i else signed && decide (0 < n) && f.testBit (n - 1) := by
  by_cases hn : 0 < n
  · simp only [two_pow_le_iff_testBit hn hf, hn, true_and, decide_true, Bool.and_true]
    by_cases hs : signed = true ∧ f.testBit (n - 1) = true
    · rw [if_pos hs, testBit_fill hf hm hi, hs.1, hs.2]; rfl
    · rw [if_neg hs, Bool.eq_false_iff.2 (mt Bool.and_eq_true_iff.1 hs)]
      split
      · rfl
      · exact Nat.testBit_lt_two_pow (hf.trans_le (Nat.pow_le_pow_right Nat.two_pos (by omega)))
  · obtain rfl : n = 0 := by omega
    obtain rfl : f = 0 := by omega
    simp

/-- A bit of BFX: of the field, in the operand extended above its width by the type, else a copy of the field's sign bit. -/
theorem testBit_bfxValue {t a p n i : Nat} (ha : a < 2 ^ intWidth t) (hp : p < 256) (hi : i < intWidth t) :
    let w := intWidth t
    let ext (i : Nat) : Bool := if i < w then a.testBit i else intSigned t && a.testBit (w - 1)
    (bfxValue t a p n).testBit i =
      if i < min n w then ext (p + i) else intSigned t && decide (0 < min n w) && ext (p + min n w - 1) := by
  intro w ext
  have hw : 0 < w := intWidth_pos t
  have hn : min n w ≤ w := Nat.min_le_right n w
  generalize hx : (if intSigned t = true ∧ 2 ^ (w - 1) ≤ a then a + 2 ^ (w + 512) - 2 ^ w else a) = x
  have hext : ∀ j, j < w + 512 → x.testBit j = ext j := fun j hj => by
    have h := testBit_signExtended (n := w) (intSigned t) ha (Nat.le_add_right w 512) hj
    simp only [hw, true_and, decide_true, Bool.and_true] at h
    rw [← hx]; exact h
  have hf := Nat.mod_lt (x / 2 ^ p) (Nat.two_pow_pos (min n w))
  have hfield : ∀ j, j < min n w → (x / 2 ^ p % 2 ^ min n w).testBit j = ext (p + j) := fun j hj => by
    rw [Nat.testBit_mod_two_pow, decide_eq_true hj, Bool.true_and, Nat.testBit_div_two_pow, Nat.add_comm j]
    exact hext _ (by omega)
  have hval : bfxValue t a p n =
      if intSigned t = true ∧ 0 < min n w ∧ 2 ^ (min n w - 1) ≤ x / 2 ^ p % 2 ^ min n w then x / 2 ^ p % 2 ^ min n w + 2 ^ w - 2 ^ min n w
      else x / 2 ^ p % 2 ^ min n w := by rw [← hx]; rfl
  rw [hval, testBit_signExtended (intSigned t) hf hn hi]
  split
  · exact hfield i ‹_›
  · by_cases h0 : 0 < min n w
    · rw [hfield _ (by omega), Nat.add_sub_assoc h0]
    · simp [h0]

/-- The bits of a field of `n` bits at `p`. -/
def inField (p n i : Nat) : Bool := decide (p ≤ i ∧ i < p + n)

theorem testBit_fieldMask (w p n i : Nat) : ((2 ^ n - 1) * 2 ^ p % 2 ^ w).testBit i = (decide (i < w) && inField p n i) := by
  rw [Nat.testBit_mod_two_pow, Nat.testBit_mul_two_pow, Nat.testBit_two_pow_sub_one, ← Bool.decide_and, inField]
  exact congrArg _ (decide_eq_decide.2 (by omega))

/-- A bit of BFI: of the field where it is placed, else of the operand. -/
theorem testBit_bfiValue {w a b p n i : Nat} (hi : i < w) :
    (bfiValue w a b p n).testBit i = if p ≤ i ∧ i < p + min n w then b.testBit (i - p) else a.testBit i := by
  have hmask := testBit_fieldMask w p (min n w)
  have hlt := Nat.mod_lt ((2 ^ min n w - 1) * 2 ^ p) (Nat.two_pow_pos w)
  rw [bfiValue]
  generalize (2 ^ min n w - 1) * 2 ^ p % 2 ^ w = m at hmask hlt
  have hkept : a &&& (2 ^ w - 1 - m) = bitSum w fun j => a.testBit j && !inField p (min n w) j := by
    refine eq_bitSum (Nat.and_lt_two_pow _ (by omega)) fun j hj => ?_
    rw [Nat.testBit_and, testBit_complement hlt hj, hmask, decide_eq_true hj, Bool.true_and]
  have hplaced : b * 2 ^ p &&& m = bitSum w fun j => inField p (min n w) j && b.testBit (j - p) := by
    refine eq_bitSum (Nat.and_lt_two_pow _ hlt) fun j hj => ?_
    rw [Nat.testBit_and, hmask, decide_eq_true hj, Bool.true_and, Nat.testBit_mul_two_pow]
    by_cases h : inField p (min n w) j = true
    · have hpj := (of_decide_eq_true h).1
      simp [hpj, h]
    · simp [h]
  rw [hkept, hplaced, bitSum_add fun j _ => by cases inField p (min n w) j <;> simp, testBit_bitSum, decide_eq_true hi, Bool.true_and]
  by_cases h : p ≤ i ∧ i < p + min n w
  · rw [if_pos h, inField, decide_eq_true h]; simp
  · rw [if_neg h, inField, decide_eq_false h]; simp

/-! ## Counts and reversal (R161) -/

theorem popCount_eq_card (a n : Nat) : popCount a n = ((Finset.range n).filter fun i => a.testBit i).card := by
  induction n with
  | zero => rfl
  | succ n ih => rw [popCount, ih, Finset.card_filter, Finset.card_filter, Finset.sum_range_succ]

theorem trailZeros_eq_find (a n k : Nat) : trailZeros a k n = ((List.range n).find? fun i => a.testBit (k + i)).getD n := by
  induction n generalizing k with
  | zero => rfl
  | succ n ih =>
    rw [trailZeros, ih, List.range_succ_eq_map, List.find?_cons, List.find?_map]
    cases a.testBit k
    · have hshift : ((fun i => a.testBit (k + i)) ∘ Nat.succ) = fun i => a.testBit (k + 1 + i) := by
        funext i; simp only [Function.comp, Nat.succ_eq_add_one]; congr 1; omega
      rw [hshift]
      cases (List.range n).find? fun i => a.testBit (k + 1 + i) <;> simp [Nat.add_comm]
    · simp

theorem reverseBits_eq_bitSum (a n : Nat) : reverseBits a n = bitSum n fun i => a.testBit (n - 1 - i) := by
  induction n generalizing a with
  | zero => rfl
  | succ n ih =>
    rw [reverseBits, ih, bitSum_succ, Nat.add_sub_cancel, Nat.sub_self]
    congr 1
    refine bitSum_congr fun i hi => ?_
    rw [Nat.testBit_div_two]
    congr 1; omega

/-- The zeros above the highest bit of a number of `w` bits. -/
theorem trailZeros_reverseBits {a w : Nat} (ha : a < 2 ^ w) :
    trailZeros (reverseBits a w) 0 w = if a = 0 then w else w - 1 - Nat.log2 a := by
  rw [trailZeros_eq_find, reverseBits_eq_bitSum]
  split <;> rename_i h
  · rw [List.find?_range_eq_none.2]
    · rfl
    · intro i _; simp [h]
  · have hlog := (Nat.log2_lt h).2 ha
    have hfind : ((List.range w).find? fun i => (bitSum w fun i => a.testBit (w - 1 - i)).testBit (0 + i)) = some (w - 1 - Nat.log2 a) := by
      refine List.find?_range_eq_some.2 ⟨?_, List.mem_range.2 (by omega), fun j hj => ?_⟩
      · rw [Nat.zero_add, testBit_bitSum, decide_eq_true (by omega), Bool.true_and, show w - 1 - (w - 1 - Nat.log2 a) = Nat.log2 a by omega]
        exact Nat.testBit_log2 h
      · have hhigh : a < 2 ^ (w - 1 - j) := (Nat.log2_lt h).1 (by omega)
        rw [Nat.zero_add, testBit_bitSum, Nat.testBit_lt_two_pow hhigh, Bool.and_false]; rfl
    rw [hfind]; rfl

/-! ## Byte permutation (R162) -/

theorem permByte_eq {a : Nat} (b s : Nat) (ha : a < 2 ^ 32) :
    permByte (b * 2 ^ 32 + a) s =
      let y := (if s % 8 < 4 then a / 256 ^ (s % 8) else b / 256 ^ (s % 8 - 4)) % 256
      if 8 ≤ s then (if 128 ≤ y then 0xFF else 0) else y := by
  have hbyte : (b * 2 ^ 32 + a) / 2 ^ (8 * (s % 8)) % 256 = (if s % 8 < 4 then a / 256 ^ (s % 8) else b / 256 ^ (s % 8 - 4)) % 256 := by
    have h8 := Nat.mod_lt s (show 0 < 8 by decide)
    generalize s % 8 = k at h8
    interval_cases k <;> simp <;> omega
  rw [permByte, hbyte]

/-- An operand of one register of a warp whose results are all delivered is a word. -/
theorem Ctx.rd_one_lt {x : Ctx} (hu : x.w.undelivered = []) (code : BitVec 8) (p : Nat) (ext : LitExt) : x.rd code 1 p ext < 2 ^ 32 := by
  have hreg : ∀ c l, x.reg c l < 2 ^ 32 := fun c l => by
    simp only [Ctx.reg, Warp.early, hu, List.find?_nil]
    split <;> exact BitVec.isLt _
  simp only [Ctx.rd, Ctx.run, litValue, le_refl, if_true, mul_zero, add_zero]
  split
  · exact hreg _ _
  · split
    · exact BitVec.isLt _
    · decide

/-- Settles O6: each result is found bit by bit, or byte by byte. -/
theorem fieldsAndCounts : Obligations.FieldsAndCounts := by
  unfold Obligations.FieldsAndCounts
  intro f a w sum ones ext
  have hlt : ∀ x p, a x p < 2 ^ w x := fun x p => x.rdInt_lt _ p
  refine ⟨.of_out (fun _ => rfl) rfl fun x p => congrArg (x.out p _) (extendInt_eq_bitSum fun i hi => ?_),
    .of_out (fun _ => rfl) rfl fun x p => congrArg (x.out p _) (extendInt_eq_bitSum fun i hi => testBit_bfiValue hi),
    .of_out (fun _ => rfl) rfl fun x p => congrArg (x.out p 1) (popCount_eq_card _ _),
    .of_out (fun _ => rfl) rfl fun x p => congrArg (x.out p 1) (trailZeros_reverseBits (hlt x p)),
    .of_out (fun _ => rfl) rfl fun x p => ?_,
    .of_out (fun _ => rfl) rfl fun x p => congrArg (x.outInt p) (reverseBits_eq_bitSum _ _),
    .congr (.of_out (fun _ => rfl) rfl fun x p => rfl) fun s g w hr hu p => ?_⟩
  · exact testBit_bfxValue (hlt x p) (Nat.mod_lt _ (by decide)) hi
  · simp only [computeCtz, trailZeros_eq_find, Nat.zero_add]; rfl
  · have hword := Ctx.rd_one_lt (x := s.seenBy (.perm f) g w) hu f.srcA p .zero
    refine Eq.trans ?_ (Finset.sum_congr rfl fun k _ => congrArg (2 ^ (8 * k) * ·) (permByte_eq _ _ hword))
    simp only [Finset.sum_range_succ, Finset.sum_range_zero, Nat.zero_add, mul_zero, pow_zero, Nat.div_one, Nat.one_mul]
    rfl

end Sys2Proof.Machine

/-! # Moves, selection, addresses and predicates (R163 to R167, R174) -/

namespace Sys2Proof.Machine

/-! ## Moves (R163, R164, R167) -/

/-- The packed predicates. -/
theorem maskOf_filter_range (n : Nat) (b : Nat → Bool) : maskOf ((List.range n).filter b) = bitSum n b :=
  Nat.eq_of_testBit_eq fun i => by
    rw [testBit_maskOf, testBit_bitSum]
    by_cases hi : i < n <;> simp [List.mem_filter, hi]

/-- A bit that another one inverts. -/
theorem bne_beq_one (c : Bool) (m : Nat) : (c != (m == 1)) = if m = 1 then !c else c := by
  by_cases h : m = 1
  · rw [if_pos h, h]; exact Bool.xor_true c
  · rw [if_neg h, beq_eq_false_iff_ne.2 h]; exact Bool.xor_false c

/-- Settles O7: each value is what its instruction computes, PPACK's bit by bit. -/
theorem moves : Obligations.Moves := by
  unfold Obligations.Moves
  intro f h mov
  refine ⟨.of_out (fun _ => rfl) rfl fun x p => rfl, .of_out (fun _ => rfl) rfl fun x p => rfl, .of_out (fun _ => rfl) rfl fun x p => rfl,
    .of_out (fun _ => rfl) rfl fun x p => ?_, .of_out (fun _ => rfl) rfl fun x p => ?_,
    .of_out (fun _ => rfl) rfl fun x p => congrArg (x.out p 1) (maskOf_filter_range 8 fun k => x.pdAt p k)⟩
  · simp only [computeSel, bne_beq_one]; rfl
  · simp only [computeLea]
    push_cast
    rfl

/-! ## Comparison and predicate logic (R165, R166, R167, R174) -/

/-- A second predicate, inverted or not, combines with the outcome. -/
theorem combine_eq (f : LX) (c q : Bool) :
    combine f c q =
      (let q := if f.mb 9 9 = 1 then !q else q
       if f.mb 8 7 = 0 then c else if f.mb 8 7 = 1 then c && q else if f.mb 8 7 = 2 then c || q else c != q) := by
  simp only [combine, bne_beq_one]
  split <;> simp_all

theorem intCond_eq (n : Nat) (a b : Int) :
    intCond n a b =
      if n = 0 then decide (a = b) else if n = 1 then decide (a ≠ b) else if n = 2 then decide (a < b)
      else if n = 3 then decide (a ≤ b) else if n = 4 then decide (a > b) else decide (a ≥ b) := by
  simp only [intCond]
  split <;> simp_all [bne, beq_eq_decide]

theorem floatCond_eq (n : Nat) (a b : FVal) :
    floatCond n a b =
      (let o := cmpVal a b
       if n = 0 then o == some .eq else if n = 1 then !(o == some .eq) else if n = 2 then o == some .lt
       else if n = 3 then o == some .lt || o == some .eq else if n = 4 then o == some .gt
       else if n = 5 then o == some .gt || o == some .eq else if n = 6 then o == none else !(o == none)) := by
  simp only [floatCond]
  split <;> simp_all [bne]

/-- Settles O8: each instruction's predicates, lane by lane. -/
theorem predicateWriters : Obligations.PredicateWriters := by
  unfold Obligations.PredicateWriters
  intro f combined icond fa fb fcond
  have hcombined : ∀ x l c, combine x.f c (x.pd l (x.f.srcC.toNat % 8)) = combined x l c := fun x l c => combine_eq ..
  refine ⟨.of_lanePreds (fun _ => rfl) rfl (fun _ => rfl) (fun x l => List.nodup_singleton _) fun x l => ?_,
    .of_lanePreds (fun _ => rfl) rfl (fun _ => rfl) (fun x l => List.nodup_singleton _) fun x l => ?_,
    .of_lanePreds (fun _ => rfl) rfl (fun _ => rfl) (fun x l => ?_) fun x l => ?_,
    .of_lanePreds (fun _ => rfl) rfl (fun _ => rfl) (fun x l => List.nodup_singleton _) fun x l => ?_⟩
  · simp only [computeIcmp, intCond_eq, hcombined]; rfl
  · simp only [computePlop, tableBit_eq]; rfl
  · rw [List.map_map]
    exact (List.nodup_range.filter _).map fun a b h => h
  · simp only [computePunpk, List.map_map, ← Nat.one_le_iff_ne_zero]; rfl
  · simp only [computeFcmp, floatCond_eq, hcombined, Bool.or_eq_true, Bool.and_eq_true, beq_iff_eq, Option.isNone_iff_eq_none, or_assoc]
    rfl

end Sys2Proof.Machine
